-- ==== Sys2Proof/Word.lean ====
section
/-! DEFINITION. The word types of the PV8 and their plainest arithmetic: a 64-bit word, a byte, and the readings of
a natural number as an n-bit field (sext and zext of the manual's pseudocode, R46/R47 and R100). -/

namespace Sys2Proof

/-- A 64-bit value of a scalar register (R22). -/
abbrev Word := BitVec 64

/-- A byte of memory (R7). -/
abbrev Byte := BitVec 8

/-- A 40-bit code address (R12). -/
abbrev Addr40 := BitVec 40

/-- The low `n` bits of `x`, as a natural number (`zext`). -/
def lowBits (n x : Nat) : Nat := x % 2 ^ n

/-- The low `n` bits of `x` read as two's complement (`sext`). -/
def signedBits (n x : Nat) : Int :=
  let y := x % 2 ^ n
  if 2 * y < 2 ^ n then (y : Int) else (y : Int) - 2 ^ n

/-- An exact integer reduced modulo 2^n (R52's wrap). -/
def wrapBits (n : Nat) (x : Int) : Nat := (x % 2 ^ n).toNat

/-- Bits [hi:lo] of a natural number. -/
def bitsOf (x hi lo : Nat) : Nat := x / 2 ^ lo % 2 ^ (hi + 1 - lo)

/-- Bit `i` of a natural number, as a Bool. -/
def bitAt (x i : Nat) : Bool := x / 2 ^ i % 2 == 1

/-- A Bool as a bit. -/
def bitOf (b : Bool) : Nat := if b then 1 else 0

/-- Floor division by a power of two, the manual's `>>` on an integer (R46). -/
def shiftFloor (x : Int) (n : Nat) : Int := x / 2 ^ n

/-- The number of bits of `x`: 0 for 0, else ⌊log2 x⌋ + 1. -/
def bitLength (x : Nat) : Nat := if x = 0 then 0 else Nat.log2 x + 1

end Sys2Proof
end

