-- ==== Sys2Proof/Syntax.lean ====
section
/-! DEFINITION. The instruction set of the PV8 as data: formats, register names, operand forms, modifiers, and `Instr`,
one constructor for every row of spec/opcode_table.json. The 189 rows with an encoding carry their decoded operands;
the 96 rows that are events of the device carry which unit, strand, register or input they concern. -/

namespace Sys2Proof

/-- The format tags of R28, in code order; `raw` is also n64. -/
inductive Fmt where
  | raw | s8 | s16 | s32 | s64 | n8 | n16 | n32 | f32 | bf16 | f16 | e4m3 | e5m2 | h4 | q4 | x96
  deriving DecidableEq, Repr

/-- The 16 special scalar registers, numbers 32-47 of R22. -/
inductive Sp where
  | idCell | idSlot | idRank | idLin | idGen | coord | tag | src | now | vl
  | faultCause | faultPc | faultAddr | wdogLeft | retStatus | popId
  deriving DecidableEq, Repr

/-- A scalar register: g0-g31, a special register, or a queue register q0-q15 (R22). -/
inductive SReg where
  | g (n : Fin 32)
  | sp (r : Sp)
  | q (n : Fin 16)
  deriving DecidableEq, Repr

/-- A kind-tagged operand (R36): kind 00 a vector register, 01 a scalar register, 10 a constant-bank entry,
11 an inline literal. -/
inductive Opnd where
  | vec (n : Fin 32)
  | reg (r : SReg)
  | const (n : Fin 256)
  | lit (v : Int)
  deriving DecidableEq, Repr

/-- A memory base in field a: a scalar register, or `pc` (kind 11, R80). -/
inductive Base where
  | reg (r : SReg)
  | pc
  deriving DecidableEq, Repr

/-- The rounding key (R37, R85). -/
inductive Rnd where
  | dyn | rne | rtz | rdn | rup
  deriving DecidableEq, Repr

/-- The scope key (R37, R85); `dflt` is scope code 0. -/
inductive Scope where
  | dflt | strand | cell | cluster | die | device | domain
  deriving DecidableEq, Repr

/-- The grouping override of `pfx.v` (R88). -/
inductive LMul where
  | cfg | x1 | x2 | x4 | x8
  deriving DecidableEq, Repr

/-- The keys that `pfx.v` sets (R88): mask, mpol (zero?), tpol (zero?), lmul, sat. -/
structure Keys where
  mask : Fin 8
  mz : Bool
  tz : Bool
  lmul : LMul
  sat : Bool
  deriving DecidableEq, Repr

/-- The default of every `pfx.v` key (R37). -/
def Keys.dflt : Keys := ⟨0, false, false, .cfg, false⟩

/-- The conditions of `bc` (R116). -/
inductive BCond where
  | eq | ne | lt | ge | ltn | gen
  deriving DecidableEq, Repr

/-- The variants of `bm` (R119). -/
inductive BmVar where
  | any | none | all
  deriving DecidableEq, Repr

/-- The variants of `fcmp` and `vfcmp` (R96, R113). -/
inductive FCond where
  | eq | lt | le | un | ne
  deriving DecidableEq, Repr

/-- The variants of `vcmp` (R96, R138). -/
inductive VCond where
  | eq | ne | lt | ge
  deriving DecidableEq, Repr

/-- The control selectors 0-3 of `sget` and `sset` (R25). -/
inductive Sel where
  | trapv | wdog | rmode | uab
  deriving DecidableEq, Repr

/-- The groupings of `vsetvli` (R96): one, two, four or eight registers. -/
inductive Grp where
  | g1 | g2 | g4 | g8
  deriving DecidableEq, Repr

/-- The B operand of layout T (R85): as A, e4m3, e5m2 or q4. -/
inductive TileB where
  | asA | e4m3 | e5m2 | q4
  deriving DecidableEq, Repr

/-- The recipes of `tgate` (R96, R169). -/
inductive Gate where
  | sigb | tanh | glu | mix | expsp | bias
  deriving DecidableEq, Repr

/-- The variants of `cpy` and `cpyb` (R96); `q4g` is for `cpyb` only. -/
inductive CpyVar where
  | plain | dec | enc | q4g
  deriving DecidableEq, Repr

/-- The kinds of `fence` (R95, R181). -/
inductive FenceKind where
  | rel | acq | full
  deriving DecidableEq, Repr

/-- The arrays that carry an error log and an injection register (R314, R315): a cell's SRAM, a cluster's B-store,
a cluster's tile store, and an HBM slice (2 per die). -/
inductive ArrayId where
  | sram (cell : Nat)
  | bstore (cluster : Nat)
  | tiles (cluster : Nat)
  | hbm (slice : Nat)
  /-- The ldc cache and fetch path of a cell, and the ldc cache of a cluster: parity only, with no log of their own (R313). -/
  | cellCache (cell : Nat)
  | clusterCache (cluster : Nat)
  deriving DecidableEq, Repr

/-- The queues of a virtual function (R349). -/
inductive HostQueue where
  | launch | message | result
  deriving DecidableEq, Repr

/-- The registers that REGISTER_WRITE (R9) writes: those with no step of their own in the table. -/
inductive CtlReg where
  /-- lq.base, mq.base, rq.base of partition `p` (R349). -/
  | queueBase (p : Nat) (q : HostQueue)
  /-- hasid of partition `p` (R349). -/
  | hasid (p : Nat)
  /-- Word `w` (0-31) of partition descriptor `p` (R356), other than a write that sets live. -/
  | descriptor (p w : Nat)
  /-- Word `w` of the descriptor of partition `p` in the control space of another device of the domain (R356). -/
  | peer (p dev w : Nat)
  /-- An entry of the hypervisor's ASID table (R330). -/
  | asidEntry (asid : Nat)
  /-- Word `w` (0-3) of breakpoint register `n` of partition `p` (R340). -/
  | breakpoint (p n w : Nat)
  /-- w1 (frame) of the debug command block of partition `p` (R342). -/
  | debugFrame (p : Nat)
  /-- w0 of the debug command block of partition `p` (R342): starts the command that it names. -/
  | debugCommand (p : Nat)
  /-- An error log's head register (R314): `lost`, bits [31:4], is its writable field. -/
  | errLost (a : ArrayId)
  /-- The undeliverable count of a cell (R345). -/
  | undeliverable (cell : Nat)
  /-- `lost` (w4) of the trace ring of partition `p` on die `d` (R335). -/
  | ringLost (p d : Nat)
  /-- The order log's control block of partition `p` (R346): 0 base, 1 segment size, 2-9 windows. -/
  | orderLog (p w : Nat)
  /-- w0 of the dump buffer's header (R324): a program writes 0 to free it. -/
  | dumpState (p : Nat)
  /-- The module limit in watts that the hypervisor sets (R367). -/
  | powerLimit
  deriving DecidableEq, Repr

/-- The answers a translation fault record accepts (R321, R322). -/
inductive MissAnswer where
  | retry | deny
  deriving DecidableEq, Repr

/-- Every step of the part: the 189 encoded instructions, then the 96 events of spec/opcode_table.json. A `uid` names
a strand by the number it received when it started (the model's own name for it). -/
inductive Instr where
  -- page 0: scalar and control (R104)
  | nop
  | done
  | yield
  | jr (b : SReg)
  | add (f : Fmt) (d : SReg) (a b : Opnd)
  | sub (f : Fmt) (d : SReg) (a b : Opnd)
  | mul (f : Fmt) (d : SReg) (a b : Opnd)
  | and (d : SReg) (a b : Opnd)
  | or (d : SReg) (a b : Opnd)
  | xor (d : SReg) (a b : Opnd)
  | shl (f : Fmt) (d : SReg) (a b : Opnd)
  | shr (f : Fmt) (d : SReg) (a b : Opnd)
  | sra (f : Fmt) (d : SReg) (a b : Opnd)
  | slt (f : Fmt) (d : SReg) (a b : Opnd)
  | sltn (f : Fmt) (d : SReg) (a b : Opnd)
  | seq (f : Fmt) (d : SReg) (a b : Opnd)
  | min (f : Fmt) (d : SReg) (a b : Opnd)
  | max (f : Fmt) (d : SReg) (a b : Opnd)
  | sel (f : Fmt) (d : SReg) (a b : Opnd)
  | mov (d : SReg) (b : Opnd)
  | li (d : SReg) (e : Int)
  | lea (d : SReg) (base : Base) (e : Int)
  | b (off : Int)
  | bc (c : BCond) (a b : Opnd) (off : Int)
  | loop (c : SReg) (off : Int)
  | jal (d : SReg) (off : Int)
  | bm (v : BmVar) (m : Fin 8) (off : Int)
  | andn (d : SReg) (a b : Opnd)
  | rotl (f : Fmt) (d : SReg) (a b : Opnd)
  -- page 1: scalar and scalar FP
  | mulh (f : Fmt) (d : SReg) (a b : Opnd)
  | mulhn (f : Fmt) (d : SReg) (a b : Opnd)
  | div (f : Fmt) (d : SReg) (a b : Opnd)
  | divn (f : Fmt) (d : SReg) (a b : Opnd)
  | rem (f : Fmt) (d : SReg) (a b : Opnd)
  | remn (f : Fmt) (d : SReg) (a b : Opnd)
  | minn (f : Fmt) (d : SReg) (a b : Opnd)
  | maxn (f : Fmt) (d : SReg) (a b : Opnd)
  | clz (d : SReg) (b : Opnd)
  | ctz (d : SReg) (b : Opnd)
  | popc (d : SReg) (b : Opnd)
  | bext (d : SReg) (a b : Opnd)
  | bins (d : SReg) (a b : Opnd)
  | fadd (f : Fmt) (r : Rnd) (d : SReg) (a b : Opnd)
  | fsub (f : Fmt) (r : Rnd) (d : SReg) (a b : Opnd)
  | fmul (f : Fmt) (r : Rnd) (d : SReg) (a b : Opnd)
  | fma (f : Fmt) (r : Rnd) (d : SReg) (a b : Opnd)
  | fdiv (f : Fmt) (r : Rnd) (d : SReg) (a b : Opnd)
  | fsqrt (f : Fmt) (r : Rnd) (d : SReg) (b : Opnd)
  | fmin (f : Fmt) (d : SReg) (a b : Opnd)
  | fmax (f : Fmt) (d : SReg) (a b : Opnd)
  | fcmp (f : Fmt) (c : FCond) (d : SReg) (a b : Opnd)
  | fcvt (f : Fmt) (r : Rnd) (sat : Bool) (d : SReg) (b : Opnd)
  | fclass (f : Fmt) (d : SReg) (b : Opnd)
  | sget (d : SReg) (sel : Sel)
  | sset (sel : Sel) (a : Opnd)
  -- page 2: vector integer (R132)
  | vsetvl (d : SReg) (a b : Opnd)
  | vsetvli (f : Fmt) (grp : Grp) (d : SReg) (b : Opnd)
  | vadd (f : Fmt) (k : Keys) (d a : Fin 32) (b : Opnd)
  | vsub (f : Fmt) (k : Keys) (d a : Fin 32) (b : Opnd)
  | vmul (f : Fmt) (k : Keys) (d a : Fin 32) (b : Opnd)
  | vmulh (f : Fmt) (k : Keys) (d a : Fin 32) (b : Opnd)
  | vmacc (f : Fmt) (k : Keys) (d a : Fin 32) (b : Opnd)
  | vand (f : Fmt) (k : Keys) (d a : Fin 32) (b : Opnd)
  | vor (f : Fmt) (k : Keys) (d a : Fin 32) (b : Opnd)
  | vxor (f : Fmt) (k : Keys) (d a : Fin 32) (b : Opnd)
  | vshl (f : Fmt) (k : Keys) (d a : Fin 32) (b : Opnd)
  | vshr (f : Fmt) (k : Keys) (d a : Fin 32) (b : Opnd)
  | vsra (f : Fmt) (k : Keys) (d a : Fin 32) (b : Opnd)
  | vmin (f : Fmt) (k : Keys) (d a : Fin 32) (b : Opnd)
  | vmax (f : Fmt) (k : Keys) (d a : Fin 32) (b : Opnd)
  | vminn (f : Fmt) (k : Keys) (d a : Fin 32) (b : Opnd)
  | vmaxn (f : Fmt) (k : Keys) (d a : Fin 32) (b : Opnd)
  | vabs (f : Fmt) (k : Keys) (d b : Fin 32)
  | vnarrow (f : Fmt) (k : Keys) (d a : Fin 32) (b : Opnd)
  | vwiden (f : Fmt) (k : Keys) (d b : Fin 32)
  -- page 3: vector floating point, compares, permutes, reductions, masks
  | vfadd (f : Fmt) (r : Rnd) (k : Keys) (d a : Fin 32) (b : Opnd)
  | vfsub (f : Fmt) (r : Rnd) (k : Keys) (d a : Fin 32) (b : Opnd)
  | vfmul (f : Fmt) (r : Rnd) (k : Keys) (d a : Fin 32) (b : Opnd)
  | vfma (f : Fmt) (r : Rnd) (k : Keys) (d a : Fin 32) (b : Opnd)
  | vfdiv (f : Fmt) (r : Rnd) (k : Keys) (d a : Fin 32) (b : Opnd)
  | vfmin (f : Fmt) (k : Keys) (d a : Fin 32) (b : Opnd)
  | vfmax (f : Fmt) (k : Keys) (d a : Fin 32) (b : Opnd)
  | vcmp (f : Fmt) (c : VCond) (k : Keys) (d : Fin 8) (a : Fin 32) (b : Opnd)
  | vfcmp (f : Fmt) (c : FCond) (k : Keys) (d : Fin 8) (a : Fin 32) (b : Opnd)
  | vsel (f : Fmt) (k : Keys) (d a : Fin 32) (b : Opnd)
  | vmv (f : Fmt) (k : Keys) (d : Fin 32) (b : Opnd)
  | vslide (f : Fmt) (down : Bool) (k : Keys) (d a : Fin 32) (b : Opnd)
  | vperm (f : Fmt) (k : Keys) (d a b : Fin 32)
  | vcompress (f : Fmt) (k : Keys) (d b : Fin 32)
  | vredsum (f : Fmt) (r : Rnd) (k : Keys) (d : SReg) (a : Fin 32) (b : Opnd)
  | vredmax (f : Fmt) (k : Keys) (d : SReg) (a : Fin 32) (b : Opnd)
  | vredmin (f : Fmt) (k : Keys) (d : SReg) (a : Fin 32) (b : Opnd)
  | vdotx (f : Fmt) (r : Rnd) (k : Keys) (d : SReg) (a b : Fin 32)
  | vdeq (f : Fmt) (r : Rnd) (k : Keys) (d a : Fin 32) (b : Opnd)
  | vprune4 (f : Fmt) (k : Keys) (d a b : Fin 32)
  | mand (k : Keys) (d a b : Fin 8)
  | mor (k : Keys) (d a b : Fin 8)
  | mxor (k : Keys) (d a b : Fin 8)
  | mset (d : Fin 8) (b : Opnd)
  | vexp2 (k : Keys) (d b : Fin 32)
  | vlog2 (k : Keys) (d b : Fin 32)
  | vrcp (k : Keys) (d b : Fin 32)
  | vrsq (k : Keys) (d b : Fin 32)
  | vsigm (k : Keys) (d b : Fin 32)
  | vtanh (k : Keys) (d b : Fin 32)
  | vcvt (f : Fmt) (r : Rnd) (k : Keys) (d b : Fin 32)
  | mnot (k : Keys) (d b : Fin 8)
  | mpop (d : SReg) (m : Fin 8)
  | mfirst (d : SReg) (m : Fin 8)
  /-- `k1` is k - 1, 0-14. -/
  | vrep (k1 : Fin 15) (c : SReg)
  -- page 4: vector memory and tiles
  | vld (f : Fmt) (k : Keys) (d : Fin 32) (base : Base) (e : Int)
  | vlds (f : Fmt) (k : Keys) (d : Fin 32) (base : Base) (b : Opnd)
  | vldx (f : Fmt) (k : Keys) (d : Fin 32) (base : Base) (b : Fin 32)
  | vldff (f : Fmt) (k : Keys) (d : Fin 32) (base : Base) (e : Int)
  | vst (f : Fmt) (k : Keys) (d : Fin 32) (base : Base) (e : Int)
  | vsts (f : Fmt) (k : Keys) (d : Fin 32) (base : Base) (b : Opnd)
  | vstx (f : Fmt) (k : Keys) (d : Fin 32) (base : Base) (b : Fin 32)
  | mma (f : Fmt) (tb : TileB) (g4 : Bool) (d : Fin 8) (a : SReg) (b : Opnd)
  | mmas (f : Fmt) (tb : TileB) (g4 : Bool) (d : Fin 8) (a : SReg) (b : SReg)
  | mmac (f : Fmt) (tb : TileB) (g4 : Bool) (d : Fin 8) (a : SReg) (b : Opnd)
  | trd (f : Fmt) (d : Fin 32) (a : Fin 8) (b : Opnd)
  | twr (f : Fmt) (d : Fin 8) (a : Fin 32) (b : Opnd)
  | tgate (v : Gate) (d a : Fin 8) (b : Opnd)
  | tscan (pair : Bool) (m : Fin 8) (d a : Fin 8) (b : Fin 32)
  | tcvt (f : Fmt) (r : Rnd) (sat : Bool) (d a : Fin 8) (b : Opnd)
  | tst (d : Fin 8) (base : Base) (e : Int)
  | tld (d : Fin 8) (base : Base) (e : Int)
  | tzero (a : Fin 8)
  | twait (n : Fin 64)
  -- page 5: memory, atomics, synchronisation, engines
  | ld (f : Fmt) (d : SReg) (base : Base) (e : Int)
  | st (f : Fmt) (d : SReg) (base : Base) (e : Int)
  | ldc (f : Fmt) (d : SReg) (base : Base) (e : Int)
  | aadd (f : Fmt) (d : SReg) (base : Base) (b : Opnd)
  | aand (f : Fmt) (d : SReg) (base : Base) (b : Opnd)
  | aor (f : Fmt) (d : SReg) (base : Base) (b : Opnd)
  | axor (f : Fmt) (d : SReg) (base : Base) (b : Opnd)
  | amin (f : Fmt) (d : SReg) (base : Base) (b : Opnd)
  | amax (f : Fmt) (d : SReg) (base : Base) (b : Opnd)
  | axchg (f : Fmt) (d : SReg) (base : Base) (b : Opnd)
  | acas (f : Fmt) (d : SReg) (base : Base) (b : Opnd)
  | incw (f : Fmt) (d : SReg) (base : Base) (b : Opnd)
  | bfadd (f : Fmt) (d : SReg) (base : Base) (b : Opnd)
  | xred (f : Fmt) (base : Base) (b : Opnd)
  | xrd (f : Fmt) (r : Rnd) (d : SReg) (base : Base) (e : Int)
  | enq (d : SReg) (base : Base) (b : Opnd)
  | deq (d : SReg) (base : Base)
  | barm (base : Base) (b : Opnd)
  | bput (base : Base)
  | btake (base : Base) (b : Opnd)
  | cpy (v : CpyVar) (base : Base)
  | cpyb (v : CpyVar) (base : Base)
  | gath (base : Base)
  | route (base : Base)
  | inv (sc : Scope) (b : SReg)
  | fence (kind : FenceKind) (sc : Scope)
  -- page 6: messages, strands, tasks, system
  | send (rel : Bool) (base : Base)
  | sendn (rel : Bool) (base : Base)
  | mcast (rel : Bool) (base : Base) (b : Opnd)
  | spawn (base : Base)
  | migrate (b : Opnd)
  | sleep (b : Opnd)
  | tsub (base : Base)
  | evsig (a b : Opnd)
  | evwait (a b : Opnd)
  | launch (base : Base)
  | rand (d : SReg) (b : Opnd)
  | claim (a b : Opnd)
  | tlbinv (a b : Opnd)
  | tmark (a b : Opnd)
  | wdog (d : SReg)
  | trap (n : Int)
  | sysc (n : Int)
  | eret
  | bkpt
  -- page 7: laws, knots, populations
  | swld (d : SReg) (base : Base) (e : Int)
  | swst (d : SReg) (base : Base) (e : Int)
  | swadd (d : SReg) (base : Base) (b : Opnd)
  | swlaw (d : SReg) (base : Base) (b : Opnd)
  | step (d : SReg) (a b : Opnd)
  | swsweep (b : Opnd)
  | knew (d : SReg) (b : Opnd)
  | kenrol (d : SReg) (base : Base) (b : Opnd)
  | kfree (b : Opnd)
  | kread (d : SReg) (b : Opnd)
  | ksettle (d : SReg) (b : Opnd)
  | kmove (a b : Opnd)
  | pjoin (a : Opnd) (b : SReg)
  | resample (d a : SReg)
  -- events (no encoding): network and homes
  | messageDeparture (cell : Nat)
  | messageArrival (n : Nat)
  | activationStart (cell : Nat)
  | handler0Delivery (cell : Nat)
  | accessPerform (n : Nat)
  | accessReply (n : Nat)
  | closeNotice (p : Nat)
  | rollupIncrement (p n : Nat)
  | strandWake (uid : Nat)
  | sleepTimeout (uid : Nat)
  | syscReply (uid : Nat)
  | tlbinvComplete (n : Nat)
  -- events: engines
  | engineAcceptCommand (uid : Nat)
  | copyPlain (cluster : Nat)
  | copyEncode (cluster : Nat)
  | copyDecode (cluster : Nat)
  | q4gUnpack (cluster : Nat)
  | gather (stack : Nat)
  | routeAssign (die : Nat)
  | engineCredit (n : Nat)
  | completionEntryPush (n : Nat)
  | tileCommandExecute (uid : Nat)
  -- events: tasks
  | taskReady (p n : Nat)
  | taskDispatch (cluster : Nat)
  | stealAttempt (cluster : Nat)
  -- events: launches and strands
  | launchAccept (p : Nat)
  | launchPlacement (p : Nat)
  | placementStep (p : Nat)
  | wakeMessage (p l cell : Nat)
  | residentStrandStart (cell : Nat)
  | strandSpill (uid : Nat)
  | contextRestore (uid : Nat)
  | launchRestore (p l : Nat)
  | launchEnd (p l : Nat)
  | migrateArrival (uid : Nat)
  | sidingForward (n : Nat)
  | resampleCollective (p pop : Nat)
  | clonePlacement (p : Nat)
  | sweepPass (p region : Nat)
  | sweepEvolution (p : Nat)
  | strandWatchdogExpiry (uid : Nat)
  | partitionWatchdogExpiry (p : Nat)
  -- events: translation, faults, reset
  | translationMiss (n : Nat)
  | translationFaultAnswer (p rec : Nat) (ans : MissAnswer)
  | fatalFaultStop (p : Nat)
  | dumpWrite (p : Nat)
  | teardownPoint (p : Nat)
  | domainRelease (p : Nat)
  | partitionReset (p : Nat)
  -- events: host
  | hostLaunchEntry (p : Nat)
  | hostMessageEntry (p : Nat)
  -- events: boot, identity, power
  | clusterUngate (cluster : Nat)
  -- events: trace and debug
  | stopComplete (p : Nat)
  | replayDivergence (p point : Nat)
  -- events: what a strand or its units meet
  | sequencerExecute (cell : Nat)
  | translationWalk (n : Nat)
  -- events that only the agenda names: inputs from outside, and choices that the fixed order never makes
  | hostBar2Access (p : Nat) (write : Bool) (off size : Nat) (data : Word)
  | launchQueueDoorbell (p : Nat) (tail : BitVec 32)
  | messageQueueDoorbell (p : Nat) (tail : BitVec 32)
  | resultQueueHeadWrite (p : Nat) (head : BitVec 32)
  | queueSizeWrite (p : Nat) (q : HostQueue) (size : Word)
  | ipendClear (p : Nat) (bits : BitVec 6)
  | imaskWrite (p : Nat) (bits : BitVec 6)
  | qerrClear (p : Nat)
  | rstreq (p : Nat)
  | partitionLive (p : Nat) (w0 : Word)
  | powerOn
  | bootFailedStart (reason : BitVec 8)
  | bootRestart
  | identityChallenge (nonce : BitVec 256)
  | powerSample (rail : Fin 18) (mA : BitVec 32) (mV : BitVec 16)
  | powerManagerUpdate (mW : Vector Nat 18)
  | clusterThermalThrottle (cluster : Nat) (celsius : Int)
  | thermalShutdown (die : Nat) (celsius : Int)
  | patrolScrub (a : ArrayId) (word : Nat)
  | errorLogEntryClear (a : ArrayId) (n : Fin 16)
  | injectionRegisterWrite (a : ArrayId) (w : Fin 4) (value : Word)
  | traceRingControlWrite (p d : Nat) (w : Fin 2) (value : Word)
  | traceRingRdAdvance (p d : Nat) (rd : BitVec 48)
  | debugControlWrite (p : Nat) (value : BitVec 4)
  | debugStopCell (p cell : Nat)
  | debugStopPartition (p : Nat)
  | debugHardenStop (p cell : Nat)
  | debugResumeCell (p cell : Nat)
  | debugResumePartition (p : Nat)
  | debugStep (p cell slot : Nat)
  | debugContextSave (p cell slot : Nat)
  | debugContextLoad (p cell slot : Nat)
  | registerWrite (r : CtlReg) (value : Word)
  | ldcLineEviction (cell : Nat) (cluster : Bool) (line : Nat)
  | softError (a : ArrayId) (word : Nat) (dmask : BitVec 64) (cmask : BitVec 8)
  | partitionEvent (dev : Nat)
  | planeChange (planes : BitVec 32)
  | flitResend (port : Nat)
  | macroOpStep (uid : Nat)
  | illegalEncoding (cause : BitVec 16) (addr : Word)
  -- page 7's group (the last constructor: Lean's compiler numbers at most 244 constructors with fields)
  | pleave
  deriving DecidableEq, Repr

end Sys2Proof
end

