-- ==== Sys2Proof/WellFormed.lean ====
section
/-! DEFINITION. Which decoded instructions the encoding admits: the formats, operand kinds, register classes and
immediate values that the entries of R101, R104, R132, R155, R175, R208 and R228 list. How many prefix words a term
needs is `encodable`, beside the encoder in Sys2Proof/Decode.lean. -/

namespace Sys2Proof

namespace Fmt

/-- The signed integer formats s8-s64. -/
def isS : Fmt → Bool
  | .s8 | .s16 | .s32 | .s64 => true
  | _ => false

/-- The unsigned integer formats n8-n64; n64 shares code 0 with raw (R28). -/
def isN : Fmt → Bool
  | .raw | .n8 | .n16 | .n32 => true
  | _ => false

/-- An integer format. -/
def isInt (f : Fmt) : Bool := f.isS || f.isN

/-- f32, bf16, f16. -/
def isFp : Fmt → Bool
  | .f32 | .bf16 | .f16 => true
  | _ => false

/-- e4m3, e5m2. -/
def isF8 : Fmt → Bool
  | .e4m3 | .e5m2 => true
  | _ => false

/-- Every format a vector register can carry (R124). -/
def isVec : Fmt → Bool
  | .q4 | .x96 => false
  | _ => true

/-- The formats of `sel`, `ld`, `st` and `ldc`: integers and the five floating formats. -/
def isScalar (f : Fmt) : Bool := f.isInt || f.isFp || f.isF8

/-- The formats of `trd`, `twr` and `tcvt` (R155). -/
def isTileMove : Fmt → Bool
  | .f32 | .bf16 | .f16 | .e4m3 | .e5m2 | .s8 | .s16 | .s32 => true
  | _ => false

/-- n32, n64 (R175). -/
def isN3264 : Fmt → Bool
  | .raw | .n32 => true
  | _ => false

/-- s32, s64, n32, n64 (R175). -/
def isI3264 : Fmt → Bool
  | .raw | .n32 | .s32 | .s64 => true
  | _ => false

end Fmt

/-- A scalar destination: never a special register (R22, R79). -/
def SReg.isDst : SReg → Bool
  | .sp _ => false
  | _ => true

namespace Opnd

/-- A kind 00 operand. -/
def isVec : Opnd → Bool
  | .vec _ => true
  | _ => false

/-- A scalar in field a, kinds 01, 10 and 11: constants c0-c63 and the bare literals 0-7 (R80, R81). -/
def okA : Opnd → Bool
  | .vec _ => false
  | .reg _ => true
  | .const n => n.val < 64
  | .lit v => decide (0 ≤ v ∧ v ≤ 7)

/-- Field a of kinds 01 and 10 (R101). -/
def okA2 : Opnd → Bool
  | .reg _ => true
  | .const n => n.val < 64
  | _ => false

/-- A scalar in field b, kinds 01, 10 and 11. -/
def okB : Opnd → Bool
  | .vec _ => false
  | _ => true

/-- Field b of kinds 01 and 10. -/
def okB2 : Opnd → Bool
  | .reg _ => true
  | .const _ => true
  | _ => false

/-- Field b of `bc`: kinds 01 and 10, constants c0-c63, since `pfx.i` carries the offset (R84, R94). -/
def okBc : Opnd → Bool
  | .reg _ => true
  | .const n => n.val < 64
  | _ => false

end Opnd

/-- The keys of `pfx.v` that an instruction may set: mask, mpol, tpol, lmul, sat (R88, R89). -/
structure KeySet where
  k : Bool
  p : Bool
  t : Bool
  l : Bool
  s : Bool
  deriving DecidableEq, Repr

/-- Keys with no non-default value outside the set that the instruction possesses (R89). -/
def Keys.within (x : Keys) (ks : KeySet) : Bool :=
  (ks.k || x.mask.val == 0) && (ks.p || !x.mz) && (ks.t || !x.tz) && (ks.l || x.lmul == .cfg) && (ks.s || !x.sat)

/-- s k p t l. -/
def kAll : KeySet := ⟨true, true, true, true, true⟩
/-- k p t l. -/
def kMask : KeySet := ⟨true, true, true, true, false⟩
/-- k t l. -/
def kSel : KeySet := ⟨true, false, true, true, false⟩
/-- k l. -/
def kRed : KeySet := ⟨true, false, false, true, false⟩
/-- t l. -/
def kPrune : KeySet := ⟨false, false, true, true, false⟩
/-- t. -/
def kTail : KeySet := ⟨false, false, true, false, false⟩

/-- The operand pairs of R62 that `mma`, `mmas` and `mmac` take. -/
def tilePairOk (f : Fmt) : TileB → Bool
  | .asA => f == .bf16 || f == .f16 || f.isF8 || f == .s8 || f == .h4
  | .e4m3 | .e5m2 => f.isF8
  | .q4 => f.isF8 || f == .s8 || f == .h4

/-- The x operand that each recipe of `tgate` takes (R169). -/
def gateOperandOk (v : Gate) (b : Opnd) : Bool :=
  match v, b with
  | .sigb, .lit _ | .bias, .lit _ => false
  | .sigb, _ | .bias, _ => true
  | .tanh, .lit x | .expsp, .lit x => x == 0
  | .glu, .lit x | .mix, .lit x => decide (0 ≤ x ∧ x ≤ 7)
  | _, _ => false

namespace Instr

/-- Is the decoded instruction one that the encoding admits? Operand kinds, formats and keys only; the number of
prefix words is `encodable`. An event has no encoding and none of these limits. -/
def wf : Instr → Bool
  | .add f d a y | .sub f d a y | .mul f d a y | .shl f d a y | .shr f d a y | .sra f d a y | .rotl f d a y
  | .seq f d a y => f.isInt && d.isDst && a.okA && y.okB
  | .and d a y | .or d a y | .xor d a y | .andn d a y | .bext d a y | .bins d a y => d.isDst && a.okA && y.okB
  | .slt f d a y | .min f d a y | .max f d a y | .mulh f d a y | .div f d a y | .rem f d a y =>
    f.isS && d.isDst && a.okA && y.okB
  | .sltn f d a y | .mulhn f d a y | .divn f d a y | .remn f d a y | .minn f d a y | .maxn f d a y =>
    f.isN && d.isDst && a.okA && y.okB
  | .sel f d a y => f.isScalar && d.isDst && a.okA && y.okB
  | .mov d y | .clz d y | .ctz d y | .popc d y => d.isDst && y.okB
  | .li d _ | .lea d _ _ | .jal d _ | .sget d _ | .mpop d _ | .mfirst d _ | .deq d _ | .wdog d | .swld d _ _ =>
    d.isDst
  | .bc _ a y _ => a.okA && y.okBc
  | .loop c _ => c.isDst
  | .fadd f _ d a y | .fsub f _ d a y | .fmul f _ d a y | .fma f _ d a y | .fdiv f _ d a y | .fmin f d a y
  | .fmax f d a y | .fcmp f _ d a y => f.isFp && d.isDst && a.okA2 && y.okB2
  | .fsqrt f _ d y => f.isFp && d.isDst && y.okB2
  | .fcvt f _ _ d y => f.isVec && d.isDst && y.okB2
  | .fclass f d y => (f.isFp || f.isF8) && d.isDst && y.okB2
  | .sset _ a => a.okA2
  | .vsetvl d a y => d.isDst && a.okA && y.okB
  | .vsetvli f _ d y => f.isVec && d.isDst && y.okB
  | .vadd f k _ _ _ | .vsub f k _ _ _ | .vmul f k _ _ _ | .vmacc f k _ _ _ => f.isInt && k.within kAll
  | .vmulh f k _ _ _ | .vand f k _ _ _ | .vor f k _ _ _ | .vxor f k _ _ _ | .vshl f k _ _ _ | .vshr f k _ _ _
  | .vsra f k _ _ _ | .vcmp f _ k _ _ _ => f.isInt && k.within kMask
  | .vmin f k _ _ _ | .vmax f k _ _ _ => f.isS && k.within kMask
  | .vminn f k _ _ _ | .vmaxn f k _ _ _ => f.isN && k.within kMask
  | .vabs f k _ _ => f.isS && k.within kAll
  | .vnarrow f k _ _ _ => f.isInt && f != .s64 && f != .raw && k.within kAll
  | .vwiden f k _ _ => f.isInt && f != .s8 && f != .n8 && k.within kMask
  | .vfadd f _ k _ _ _ | .vfsub f _ k _ _ _ | .vfmul f _ k _ _ _ | .vfma f _ k _ _ _ | .vfdiv f _ k _ _ _ =>
    f.isFp && k.within kAll
  | .vfmin f k _ _ _ | .vfmax f k _ _ _ | .vfcmp f _ k _ _ _ => f.isFp && k.within kMask
  | .vsel f k _ _ _ => f.isVec && k.within kSel
  | .vmv f k _ _ => f.isVec && k.within kMask
  | .vslide f _ k _ _ y => f.isVec && k.within kMask && y.okB
  | .vperm f k _ _ _ => f.isVec && k.within kMask
  | .vcompress f k _ _ => f.isVec && k.within kSel
  | .vredsum f _ k d _ y => (f.isInt || f.isFp) && k.within kRed && d.isDst && y.okB
  | .vredmax f k d _ y | .vredmin f k d _ y => (f.isInt || f.isFp) && k.within kRed && d.isDst && y.okB
  | .vdotx f _ k d _ _ => (f.isScalar && f != .s64 && f != .raw) && k.within kRed && d.isDst
  | .vdeq f _ k _ _ y => f.isFp && k.within kMask && y.okB2
  | .vprune4 f k _ _ _ => (f == .s8 || f == .s16 || f == .s32 || f.isFp || f.isF8) && k.within kPrune
  | .mand k _ _ _ | .mor k _ _ _ | .mxor k _ _ _ | .mnot k _ _ => k.within kTail
  | .mset _ y => y.okB
  | .vexp2 k _ _ | .vlog2 k _ _ | .vrcp k _ _ | .vrsq k _ _ | .vsigm k _ _ | .vtanh k _ _ => k.within kMask
  | .vcvt f _ k _ _ => f.isVec && k.within kAll
  | .vld f k _ _ _ | .vldff f k _ _ _ | .vldx f k _ _ _ => f.isVec && k.within kMask
  | .vlds f k _ _ y => f.isVec && k.within kMask && y.okB
  | .vst f k _ _ _ | .vstx f k _ _ _ => f.isVec && k.within kRed
  | .vsts f k _ _ y => f.isVec && k.within kRed && y.okB
  | .mma f tb _ _ _ y => tilePairOk f tb && y.okB2
  | .mmas f tb _ _ _ _ => tilePairOk f tb && f != .h4
  | .mmac f tb _ _ _ y => tilePairOk f tb && f != .h4 && tb != .q4 && y.okB2
  | .trd f _ _ y | .twr f _ _ y => f.isTileMove && y.okB
  | .tgate v _ _ y => gateOperandOk v y
  | .tcvt f _ _ _ _ _ => f.isTileMove
  | .ld f d _ _ | .ldc f d _ _ => f.isScalar && d.isDst
  | .st f _ _ _ => f.isScalar
  | .aadd f d _ y | .amin f d _ y | .amax f d _ y => f.isI3264 && d.isDst && y.okB
  | .aand f d _ y | .aor f d _ y | .axor f d _ y | .axchg f d _ y | .acas f d _ y | .incw f d _ y
  | .bfadd f d _ y => f.isN3264 && d.isDst && y.okB
  | .xred f _ y => (f.isInt || f == .f32 || f == .bf16) && y.okB
  | .xrd f _ d _ _ => (f.isI3264 || f.isFp) && d.isDst
  | .enq d _ y | .swadd d _ y | .swlaw d _ y | .kenrol d _ y => d.isDst && y.okB
  | .barm _ y | .btake _ y | .mcast _ _ y | .migrate y | .sleep y | .swsweep y | .kfree y => y.okB
  | .cpy v _ => v != .q4g
  | .evsig a y | .evwait a y | .claim a y | .tlbinv a y | .tmark a y | .kmove a y => a.okA && y.okB
  | .rand d y | .knew d y | .kread d y | .ksettle d y => d.isDst && y.okB
  | .trap n | .sysc n => decide (0 ≤ n ∧ n ≤ 32767)
  | .step d a y => d.isDst && a.okA && y.okB
  | .pjoin a _ => a.okA
  | .resample _ a => a.isDst
  | _ => true

end Instr

end Sys2Proof
end

