-- ==== Sys2Proof/Decode.lean ====
section
/-! DEFINITION. Instruction words (R76-R99): the prefix chain of R90, the opcode map of R94 and R95 with the fields of
each entry, the encoding faults of R97 in the order of R98 with the word that R371 names, and the encoder (R40-R42,
R78-R88). Decoding is total: a list of words is an instruction, a named rejection, or too short. -/

namespace Sys2Proof

/-- The conditions of R97, by name. -/
inductive EncFault where
  | reservedOp | reservedPage | fifthPrefix | repeatedPrefix | prefixNotAccepted | badModifier | badRegister
  | badKind | unusedBits | missingPrefix | badTag | badSelector
  deriving DecidableEq, Repr

/-- The cause code of R97. -/
def EncFault.cause : EncFault → Nat
  | .reservedOp => 0x0101
  | .reservedPage => 0x0102
  | .fifthPrefix => 0x0103
  | .repeatedPrefix => 0x0104
  | .prefixNotAccepted => 0x0105
  | .badModifier => 0x0106
  | .badRegister => 0x0107
  | .badKind => 0x0108
  | .unusedBits => 0x0109
  | .missingPrefix => 0x010A
  | .badTag => 0x010B
  | .badSelector => 0x010C

/-! ### Codes of names -/

/-- The tag code of a format (R28). -/
def Fmt.code : Fmt → Nat
  | .raw => 0 | .s8 => 1 | .s16 => 2 | .s32 => 3 | .s64 => 4 | .n8 => 5 | .n16 => 6 | .n32 => 7
  | .f32 => 8 | .bf16 => 9 | .f16 => 10 | .e4m3 => 11 | .e5m2 => 12 | .h4 => 13 | .q4 => 14 | .x96 => 15

/-- The format with a code (R28); codes above 15 do not occur in a 4-bit field. -/
def Fmt.ofCode : Nat → Fmt
  | 1 => .s8 | 2 => .s16 | 3 => .s32 | 4 => .s64 | 5 => .n8 | 6 => .n16 | 7 => .n32
  | 8 => .f32 | 9 => .bf16 | 10 => .f16 | 11 => .e4m3 | 12 => .e5m2 | 13 => .h4 | 14 => .q4 | 15 => .x96
  | _ => .raw

/-- The number of a special register (R22). -/
def Sp.num : Sp → Nat
  | .idCell => 32 | .idSlot => 33 | .idRank => 34 | .idLin => 35 | .idGen => 36 | .coord => 37 | .tag => 38
  | .src => 39 | .now => 40 | .vl => 41 | .faultCause => 42 | .faultPc => 43 | .faultAddr => 44 | .wdogLeft => 45
  | .retStatus => 46 | .popId => 47

/-- The special register with a number 32-47 (R22). -/
def Sp.ofNum : Nat → Sp
  | 33 => .idSlot | 34 => .idRank | 35 => .idLin | 36 => .idGen | 37 => .coord | 38 => .tag
  | 39 => .src | 40 => .now | 41 => .vl | 42 => .faultCause | 43 => .faultPc | 44 => .faultAddr | 45 => .wdogLeft
  | 46 => .retStatus | 47 => .popId | _ => .idCell

/-- The number of a scalar register (R22). -/
def SReg.num : SReg → Nat
  | .g n => n.val
  | .sp r => r.num
  | .q n => 48 + n.val

/-- The scalar register with a number 0-63 (R22). -/
def SReg.ofNum (n : Nat) : SReg :=
  if n < 32 then .g (Fin.ofNat 32 n) else if n < 48 then .sp (Sp.ofNum n) else .q (Fin.ofNat 16 (n - 48))

/-- The rounding code of layout F (R85). -/
def Rnd.code : Rnd → Nat
  | .dyn => 0 | .rne => 1 | .rtz => 2 | .rdn => 3 | .rup => 4

def Rnd.ofCode : Nat → Rnd
  | 1 => .rne | 2 => .rtz | 3 => .rdn | 4 => .rup | _ => .dyn

/-- The scope code of layout M (R85). -/
def Scope.code : Scope → Nat
  | .dflt => 0 | .strand => 1 | .cell => 2 | .cluster => 3 | .die => 4 | .device => 5 | .domain => 6

def Scope.ofCode : Nat → Scope
  | 1 => .strand | 2 => .cell | 3 => .cluster | 4 => .die | 5 => .device | 6 => .domain | _ => .dflt

/-- The lmul code of `pfx.v` (R88). -/
def LMul.code : LMul → Nat
  | .cfg => 0 | .x1 => 1 | .x2 => 2 | .x4 => 3 | .x8 => 4

def LMul.ofCode : Nat → LMul
  | 1 => .x1 | 2 => .x2 | 3 => .x4 | 4 => .x8 | _ => .cfg

/-- The condition field of `bc` (R94, R116). -/
def BCond.code : BCond → Nat
  | .eq => 0 | .ne => 1 | .lt => 2 | .ge => 3 | .ltn => 4 | .gen => 5

def BCond.ofCode : Nat → BCond
  | 1 => .ne | 2 => .lt | 3 => .ge | 4 => .ltn | 5 => .gen | _ => .eq

/-- Variant codes of R96. -/
def BmVar.code : BmVar → Nat
  | .any => 0 | .none => 1 | .all => 2

def BmVar.ofCode : Nat → BmVar
  | 1 => .none | 2 => .all | _ => .any

def FCond.code : FCond → Nat
  | .eq => 0 | .lt => 1 | .le => 2 | .un => 3 | .ne => 4

def FCond.ofCode : Nat → FCond
  | 1 => .lt | 2 => .le | 3 => .un | 4 => .ne | _ => .eq

def VCond.code : VCond → Nat
  | .eq => 0 | .ne => 1 | .lt => 2 | .ge => 3

def VCond.ofCode : Nat → VCond
  | 1 => .ne | 2 => .lt | 3 => .ge | _ => .eq

def Grp.code : Grp → Nat
  | .g1 => 0 | .g2 => 1 | .g4 => 2 | .g8 => 3

def Grp.ofCode : Nat → Grp
  | 1 => .g2 | 2 => .g4 | 3 => .g8 | _ => .g1

/-- The B operand code of layout T (R85). -/
def TileB.code : TileB → Nat
  | .asA => 0 | .e4m3 => 1 | .e5m2 => 2 | .q4 => 3

def TileB.ofCode : Nat → TileB
  | 1 => .e4m3 | 2 => .e5m2 | 3 => .q4 | _ => .asA

def Gate.code : Gate → Nat
  | .sigb => 0 | .tanh => 1 | .glu => 2 | .mix => 3 | .expsp => 4 | .bias => 5

def Gate.ofCode : Nat → Gate
  | 1 => .tanh | 2 => .glu | 3 => .mix | 4 => .expsp | 5 => .bias | _ => .sigb

def CpyVar.code : CpyVar → Nat
  | .plain => 0 | .dec => 1 | .enc => 2 | .q4g => 3

def CpyVar.ofCode : Nat → CpyVar
  | 1 => .dec | 2 => .enc | 3 => .q4g | _ => .plain

/-- The kind field of `fence` (R95). -/
def FenceKind.code : FenceKind → Nat
  | .rel => 1 | .acq => 2 | .full => 3

def FenceKind.ofCode : Nat → FenceKind
  | 2 => .acq | 3 => .full | _ => .rel

/-- The control selectors of R25. -/
def Sel.code : Sel → Nat
  | .trapv => 0 | .wdog => 1 | .rmode => 2 | .uab => 3

def Sel.ofCode : Nat → Sel
  | 1 => .wdog | 2 => .rmode | 3 => .uab | _ => .trapv

/-! ### The fields of an instruction -/

/-- The word formats of R77. -/
inductive WordFmt where
  | r | i | b | s
  deriving DecidableEq, Repr

/-- The modifier layouts of R85. -/
inductive Layout where
  | n | f | m | v | t
  deriving DecidableEq, Repr

/-- What a register field holds (R78-R81): nothing, a scalar source or destination, a vector register, a mask or
tile, a plain number within a range, an operand of one of the listed kinds, or a memory base. -/
inductive Role where
  | zero
  | src
  | dst
  | vec
  | small
  | num (lo hi : Nat)
  | opnd (kinds : List Nat)
  | base
  deriving DecidableEq, Repr

/-- What the immediate of the word is (R84). -/
inductive ImmRole where
  | none | imm5 | selector | offset8 | bcOffset
  deriving DecidableEq, Repr

/-- The fields of one instruction after the prefix chain has been joined to its base word: the format code, the low
bits of the modifier (all of it in layout V), the keys, register numbers with their kinds, and the extended value. -/
structure Enc where
  fmt : Nat
  low : Nat
  mask : Nat
  mz : Bool
  tz : Bool
  lmul : Nat
  sat : Bool
  d : Nat
  a : Nat
  b : Nat
  ka : Nat
  kb : Nat
  imm : Int
  deriving DecidableEq, Repr

/-- All fields zero, field a of kind 01. -/
def Enc.zero : Enc := ⟨0, 0, 0, false, false, 0, false, 0, 0, 0, 1, 0, 0⟩

namespace Enc

def f (e : Enc) : Fmt := Fmt.ofCode e.fmt
def rnd (e : Enc) : Rnd := Rnd.ofCode e.low
def keys (e : Enc) : Keys := ⟨Fin.ofNat 8 e.mask, e.mz, e.tz, LMul.ofCode e.lmul, e.sat⟩
def dS (e : Enc) : SReg := SReg.ofNum e.d
def aS (e : Enc) : SReg := SReg.ofNum e.a
def bS (e : Enc) : SReg := SReg.ofNum e.b
def dV (e : Enc) : Fin 32 := Fin.ofNat 32 e.d
def aV (e : Enc) : Fin 32 := Fin.ofNat 32 e.a
def bV (e : Enc) : Fin 32 := Fin.ofNat 32 e.b
def dM (e : Enc) : Fin 8 := Fin.ofNat 8 e.d
def aM (e : Enc) : Fin 8 := Fin.ofNat 8 e.a
def bM (e : Enc) : Fin 8 := Fin.ofNat 8 e.b
/-- Field a as an operand of its kind (R80). -/
def aO (e : Enc) : Opnd :=
  match e.ka with
  | 0 => .vec e.aV
  | 1 => .reg e.aS
  | 2 => .const (Fin.ofNat 256 e.a)
  | _ => .lit e.a
/-- Field b as an operand of its kind (R80, R81). -/
def bO (e : Enc) : Opnd :=
  match e.kb with
  | 0 => .vec e.bV
  | 1 => .reg e.bS
  | 2 => .const (Fin.ofNat 256 e.b)
  | _ => .lit e.imm
/-- Field a as a memory base (R80). -/
def base (e : Enc) : Base := if e.ka = 3 then .pc else .reg e.aS
def scope (e : Enc) : Scope := Scope.ofCode e.low

end Enc

/-- One entry of the opcode map: word format, layout, formats (`none`: the format code must be 0), number of variants,
keys of `pfx.v`, possession of `scope`, the roles of d, a and b, and what the immediate is. -/
structure Desc where
  word : WordFmt
  lay : Layout
  fmts : Option (Fmt → Bool)
  nvar : Nat
  keys : KeySet
  hasScope : Bool
  d : Role
  a : Role
  b : Role
  imm : ImmRole
  /-- Values that the entry limits beyond its fields (R62, R169, R220). -/
  ok : Enc → Bool

/-- No key of `pfx.v`. -/
def kNone : KeySet := ⟨false, false, false, false, false⟩
/-- Only the mask (R155, `tscan`). -/
def kContinue : KeySet := ⟨true, false, false, false, false⟩
/-- Only `.sat` (R115, R155). -/
def kSat : KeySet := ⟨false, false, false, false, true⟩

def k123 : Role := .opnd [1, 2, 3]
def k12 : Role := .opnd [1, 2]
def k0123 : Role := .opnd [0, 1, 2, 3]

/-- An R-format entry. -/
def dR (lay : Layout) (fmts : Option (Fmt → Bool)) (nvar : Nat) (keys : KeySet) (d a b : Role) : Desc :=
  ⟨.r, lay, fmts, nvar, keys, false, d, a, b, .none, fun _ => true⟩

/-- An I-format entry. -/
def dI (lay : Layout) (fmts : Option (Fmt → Bool)) (keys : KeySet) (d a : Role) (imm : ImmRole) : Desc :=
  ⟨.i, lay, fmts, 1, keys, false, d, a, .zero, imm, fun _ => true⟩

/-- A B-format entry. -/
def dB (nvar : Nat) (d : Role) : Desc :=
  ⟨.b, .n, none, nvar, kNone, false, d, .zero, .zero, .offset8, fun _ => true⟩

/-- An S-format entry. -/
def dS (lay : Layout) (fmts : Option (Fmt → Bool)) (keys : KeySet) (a b : Role) : Desc :=
  ⟨.s, lay, fmts, 1, keys, false, .zero, a, b, .none, fun _ => true⟩

/-- A scalar integer arithmetic entry: gD, a, b. -/
def dArith (fmts : Option (Fmt → Bool)) : Desc := dR .n fmts 1 kNone .dst k123 k123
/-- A memory atomic: gD, [gA], b. -/
def dAtomic (fmts : Option (Fmt → Bool)) : Desc := dR .m fmts 1 kNone .dst .base k123
/-- An element-wise vector entry: vd, va, b. -/
def dElem (lay : Layout) (fmts : Fmt → Bool) (nvar : Nat) (keys : KeySet) : Desc :=
  dR lay (some fmts) nvar keys .vec .vec k0123

/-- The opcode key of (page, op, sub-op). -/
def opKey (page op sub : Nat) : Nat := page * 1024 + op * 32 + sub

/-- The S-format groups of R95, by (page, op). -/
def isGroup (page op : Nat) : Bool :=
  (page == 0 && op == 0) || (page == 3 && op == 24) || (page == 4 && op == 17) || (page == 5 && op == 24)
    || (page == 6 && op == 17) || (page == 7 && op == 14)

/-- One row of the opcode map: its key, its fields, the instruction it stands for. -/
structure Row where
  key : Nat
  desc : Desc
  build : Enc → Instr

/-- Page 0 (R94, R95, R104). -/
def rows0 : List Row := [
  ⟨opKey 0 0 1, dS .n none kNone .zero .zero, fun _ => .nop⟩,
  ⟨opKey 0 0 2, dS .n none kNone .zero .zero, fun _ => .done⟩,
  ⟨opKey 0 0 3, dS .n none kNone .zero .zero, fun _ => .yield⟩,
  ⟨opKey 0 0 4, dS .n none kNone .zero .src, fun e => .jr e.bS⟩,
  ⟨opKey 0 1 0, dArith (some Fmt.isInt), fun e => .add e.f e.dS e.aO e.bO⟩,
  ⟨opKey 0 2 0, dArith (some Fmt.isInt), fun e => .sub e.f e.dS e.aO e.bO⟩,
  ⟨opKey 0 3 0, dArith (some Fmt.isInt), fun e => .mul e.f e.dS e.aO e.bO⟩,
  ⟨opKey 0 4 0, dArith none, fun e => .and e.dS e.aO e.bO⟩,
  ⟨opKey 0 5 0, dArith none, fun e => .or e.dS e.aO e.bO⟩,
  ⟨opKey 0 6 0, dArith none, fun e => .xor e.dS e.aO e.bO⟩,
  ⟨opKey 0 7 0, dArith (some Fmt.isInt), fun e => .shl e.f e.dS e.aO e.bO⟩,
  ⟨opKey 0 8 0, dArith (some Fmt.isInt), fun e => .shr e.f e.dS e.aO e.bO⟩,
  ⟨opKey 0 9 0, dArith (some Fmt.isInt), fun e => .sra e.f e.dS e.aO e.bO⟩,
  ⟨opKey 0 10 0, dArith (some Fmt.isS), fun e => .slt e.f e.dS e.aO e.bO⟩,
  ⟨opKey 0 11 0, dArith (some Fmt.isN), fun e => .sltn e.f e.dS e.aO e.bO⟩,
  ⟨opKey 0 12 0, dArith (some Fmt.isInt), fun e => .seq e.f e.dS e.aO e.bO⟩,
  ⟨opKey 0 13 0, dArith (some Fmt.isS), fun e => .min e.f e.dS e.aO e.bO⟩,
  ⟨opKey 0 14 0, dArith (some Fmt.isS), fun e => .max e.f e.dS e.aO e.bO⟩,
  ⟨opKey 0 15 0, dArith (some Fmt.isScalar), fun e => .sel e.f e.dS e.aO e.bO⟩,
  ⟨opKey 0 16 0, dR .n none 1 kNone .dst .zero k123, fun e => .mov e.dS e.bO⟩,
  ⟨opKey 0 17 0, dI .n none kNone .dst .zero .imm5, fun e => .li e.dS e.imm⟩,
  ⟨opKey 0 18 0, dI .n none kNone .dst .base .imm5, fun e => .lea e.dS e.base e.imm⟩,
  ⟨opKey 0 19 0, dB 1 .zero, fun e => .b e.imm⟩,
  ⟨opKey 0 20 0, { dR .n none 1 kNone (.num 0 5) k123 k12 with imm := .bcOffset }, fun e => .bc (BCond.ofCode e.d) e.aO e.bO e.imm⟩,
  ⟨opKey 0 21 0, dB 1 .dst, fun e => .loop e.dS e.imm⟩,
  ⟨opKey 0 22 0, dB 1 .dst, fun e => .jal e.dS e.imm⟩,
  ⟨opKey 0 23 0, dB 3 .small, fun e => .bm (BmVar.ofCode e.low) e.dM e.imm⟩,
  ⟨opKey 0 24 0, dArith none, fun e => .andn e.dS e.aO e.bO⟩,
  ⟨opKey 0 25 0, dArith (some Fmt.isInt), fun e => .rotl e.f e.dS e.aO e.bO⟩
]

/-- Page 1 (R104). -/
def rows1 : List Row := [
  ⟨opKey 1 0 0, dArith (some Fmt.isS), fun e => .mulh e.f e.dS e.aO e.bO⟩,
  ⟨opKey 1 1 0, dArith (some Fmt.isN), fun e => .mulhn e.f e.dS e.aO e.bO⟩,
  ⟨opKey 1 2 0, dArith (some Fmt.isS), fun e => .div e.f e.dS e.aO e.bO⟩,
  ⟨opKey 1 3 0, dArith (some Fmt.isN), fun e => .divn e.f e.dS e.aO e.bO⟩,
  ⟨opKey 1 4 0, dArith (some Fmt.isS), fun e => .rem e.f e.dS e.aO e.bO⟩,
  ⟨opKey 1 5 0, dArith (some Fmt.isN), fun e => .remn e.f e.dS e.aO e.bO⟩,
  ⟨opKey 1 6 0, dArith (some Fmt.isN), fun e => .minn e.f e.dS e.aO e.bO⟩,
  ⟨opKey 1 7 0, dArith (some Fmt.isN), fun e => .maxn e.f e.dS e.aO e.bO⟩,
  ⟨opKey 1 8 0, dR .n none 1 kNone .dst .zero k123, fun e => .clz e.dS e.bO⟩,
  ⟨opKey 1 9 0, dR .n none 1 kNone .dst .zero k123, fun e => .ctz e.dS e.bO⟩,
  ⟨opKey 1 10 0, dR .n none 1 kNone .dst .zero k123, fun e => .popc e.dS e.bO⟩,
  ⟨opKey 1 11 0, dArith none, fun e => .bext e.dS e.aO e.bO⟩,
  ⟨opKey 1 12 0, dArith none, fun e => .bins e.dS e.aO e.bO⟩,
  ⟨opKey 1 13 0, dR .f (some Fmt.isFp) 1 kNone .dst k12 k12, fun e => .fadd e.f e.rnd e.dS e.aO e.bO⟩,
  ⟨opKey 1 14 0, dR .f (some Fmt.isFp) 1 kNone .dst k12 k12, fun e => .fsub e.f e.rnd e.dS e.aO e.bO⟩,
  ⟨opKey 1 15 0, dR .f (some Fmt.isFp) 1 kNone .dst k12 k12, fun e => .fmul e.f e.rnd e.dS e.aO e.bO⟩,
  ⟨opKey 1 16 0, dR .f (some Fmt.isFp) 1 kNone .dst k12 k12, fun e => .fma e.f e.rnd e.dS e.aO e.bO⟩,
  ⟨opKey 1 17 0, dR .f (some Fmt.isFp) 1 kNone .dst k12 k12, fun e => .fdiv e.f e.rnd e.dS e.aO e.bO⟩,
  ⟨opKey 1 18 0, dR .f (some Fmt.isFp) 1 kNone .dst .zero k12, fun e => .fsqrt e.f e.rnd e.dS e.bO⟩,
  ⟨opKey 1 19 0, dR .n (some Fmt.isFp) 1 kNone .dst k12 k12, fun e => .fmin e.f e.dS e.aO e.bO⟩,
  ⟨opKey 1 20 0, dR .n (some Fmt.isFp) 1 kNone .dst k12 k12, fun e => .fmax e.f e.dS e.aO e.bO⟩,
  ⟨opKey 1 21 0, dR .n (some Fmt.isFp) 5 kNone .dst k12 k12, fun e => .fcmp e.f (FCond.ofCode e.low) e.dS e.aO e.bO⟩,
  ⟨opKey 1 22 0, dR .f (some Fmt.isVec) 1 kSat .dst .zero k12, fun e => .fcvt e.f e.rnd e.sat e.dS e.bO⟩,
  ⟨opKey 1 23 0, dR .n (some fun f => f.isFp || f.isF8) 1 kNone .dst .zero k12, fun e => .fclass e.f e.dS e.bO⟩,
  ⟨opKey 1 24 0, dI .n none kNone .dst .zero .selector, fun e => .sget e.dS (Sel.ofCode e.imm.toNat)⟩,
  ⟨opKey 1 25 0, dI .n none kNone .zero k12 .selector, fun e => .sset (Sel.ofCode e.imm.toNat) e.aO⟩
]

/-- Page 2 (R132). -/
def rows2 : List Row := [
  ⟨opKey 2 0 0, dR .n none 1 kNone .dst k123 k123, fun e => .vsetvl e.dS e.aO e.bO⟩,
  ⟨opKey 2 1 0, dR .n (some Fmt.isVec) 4 kNone .dst .zero k123, fun e => .vsetvli e.f (Grp.ofCode e.low) e.dS e.bO⟩,
  ⟨opKey 2 2 0, dElem .n Fmt.isInt 1 kAll, fun e => .vadd e.f e.keys e.dV e.aV e.bO⟩,
  ⟨opKey 2 3 0, dElem .n Fmt.isInt 1 kAll, fun e => .vsub e.f e.keys e.dV e.aV e.bO⟩,
  ⟨opKey 2 4 0, dElem .n Fmt.isInt 1 kAll, fun e => .vmul e.f e.keys e.dV e.aV e.bO⟩,
  ⟨opKey 2 5 0, dElem .n Fmt.isInt 1 kMask, fun e => .vmulh e.f e.keys e.dV e.aV e.bO⟩,
  ⟨opKey 2 6 0, dElem .n Fmt.isInt 1 kAll, fun e => .vmacc e.f e.keys e.dV e.aV e.bO⟩,
  ⟨opKey 2 7 0, dElem .n Fmt.isInt 1 kMask, fun e => .vand e.f e.keys e.dV e.aV e.bO⟩,
  ⟨opKey 2 8 0, dElem .n Fmt.isInt 1 kMask, fun e => .vor e.f e.keys e.dV e.aV e.bO⟩,
  ⟨opKey 2 9 0, dElem .n Fmt.isInt 1 kMask, fun e => .vxor e.f e.keys e.dV e.aV e.bO⟩,
  ⟨opKey 2 10 0, dElem .n Fmt.isInt 1 kMask, fun e => .vshl e.f e.keys e.dV e.aV e.bO⟩,
  ⟨opKey 2 11 0, dElem .n Fmt.isInt 1 kMask, fun e => .vshr e.f e.keys e.dV e.aV e.bO⟩,
  ⟨opKey 2 12 0, dElem .n Fmt.isInt 1 kMask, fun e => .vsra e.f e.keys e.dV e.aV e.bO⟩,
  ⟨opKey 2 13 0, dElem .n Fmt.isS 1 kMask, fun e => .vmin e.f e.keys e.dV e.aV e.bO⟩,
  ⟨opKey 2 14 0, dElem .n Fmt.isS 1 kMask, fun e => .vmax e.f e.keys e.dV e.aV e.bO⟩,
  ⟨opKey 2 15 0, dElem .n Fmt.isN 1 kMask, fun e => .vminn e.f e.keys e.dV e.aV e.bO⟩,
  ⟨opKey 2 16 0, dElem .n Fmt.isN 1 kMask, fun e => .vmaxn e.f e.keys e.dV e.aV e.bO⟩,
  ⟨opKey 2 17 0, dR .n (some Fmt.isS) 1 kAll .vec .zero .vec, fun e => .vabs e.f e.keys e.dV e.bV⟩,
  ⟨opKey 2 18 0, dElem .n (fun f => f.isInt && f != .s64 && f != .raw) 1 kAll, fun e => .vnarrow e.f e.keys e.dV e.aV e.bO⟩,
  ⟨opKey 2 19 0, dR .n (some fun f => f.isInt && f != .s8 && f != .n8) 1 kMask .vec .zero .vec, fun e => .vwiden e.f e.keys e.dV e.bV⟩
]

/-- Page 3 (R95, R132). -/
def rows3 : List Row := [
  ⟨opKey 3 0 0, dElem .f Fmt.isFp 1 kAll, fun e => .vfadd e.f e.rnd e.keys e.dV e.aV e.bO⟩,
  ⟨opKey 3 1 0, dElem .f Fmt.isFp 1 kAll, fun e => .vfsub e.f e.rnd e.keys e.dV e.aV e.bO⟩,
  ⟨opKey 3 2 0, dElem .f Fmt.isFp 1 kAll, fun e => .vfmul e.f e.rnd e.keys e.dV e.aV e.bO⟩,
  ⟨opKey 3 3 0, dElem .f Fmt.isFp 1 kAll, fun e => .vfma e.f e.rnd e.keys e.dV e.aV e.bO⟩,
  ⟨opKey 3 4 0, dElem .f Fmt.isFp 1 kAll, fun e => .vfdiv e.f e.rnd e.keys e.dV e.aV e.bO⟩,
  ⟨opKey 3 5 0, dElem .n Fmt.isFp 1 kMask, fun e => .vfmin e.f e.keys e.dV e.aV e.bO⟩,
  ⟨opKey 3 6 0, dElem .n Fmt.isFp 1 kMask, fun e => .vfmax e.f e.keys e.dV e.aV e.bO⟩,
  ⟨opKey 3 7 0, dR .n (some Fmt.isInt) 4 kMask .small .vec k0123, fun e => .vcmp e.f (VCond.ofCode e.low) e.keys e.dM e.aV e.bO⟩,
  ⟨opKey 3 8 0, dR .n (some Fmt.isFp) 5 kMask .small .vec k0123, fun e => .vfcmp e.f (FCond.ofCode e.low) e.keys e.dM e.aV e.bO⟩,
  ⟨opKey 3 9 0, dElem .n Fmt.isVec 1 kSel, fun e => .vsel e.f e.keys e.dV e.aV e.bO⟩,
  ⟨opKey 3 10 0, dR .n (some Fmt.isVec) 1 kMask .vec .zero k0123, fun e => .vmv e.f e.keys e.dV e.bO⟩,
  ⟨opKey 3 11 0, dR .n (some Fmt.isVec) 2 kMask .vec .vec k123, fun e => .vslide e.f (e.low == 1) e.keys e.dV e.aV e.bO⟩,
  ⟨opKey 3 12 0, dR .n (some Fmt.isVec) 1 kMask .vec .vec .vec, fun e => .vperm e.f e.keys e.dV e.aV e.bV⟩,
  ⟨opKey 3 13 0, dR .n (some Fmt.isVec) 1 kSel .vec .zero .vec, fun e => .vcompress e.f e.keys e.dV e.bV⟩,
  ⟨opKey 3 14 0, dR .f (some fun f => f.isInt || f.isFp) 1 kRed .dst .vec k123, fun e => .vredsum e.f e.rnd e.keys e.dS e.aV e.bO⟩,
  ⟨opKey 3 15 0, dR .n (some fun f => f.isInt || f.isFp) 1 kRed .dst .vec k123, fun e => .vredmax e.f e.keys e.dS e.aV e.bO⟩,
  ⟨opKey 3 16 0, dR .n (some fun f => f.isInt || f.isFp) 1 kRed .dst .vec k123, fun e => .vredmin e.f e.keys e.dS e.aV e.bO⟩,
  ⟨opKey 3 17 0, dR .f (some fun f => f.isScalar && f != .s64 && f != .raw) 1 kRed .dst .vec .vec, fun e => .vdotx e.f e.rnd e.keys e.dS e.aV e.bV⟩,
  ⟨opKey 3 18 0, dR .f (some Fmt.isFp) 1 kMask .vec .vec k12, fun e => .vdeq e.f e.rnd e.keys e.dV e.aV e.bO⟩,
  ⟨opKey 3 19 0, dR .n (some fun f => f == .s8 || f == .s16 || f == .s32 || f.isFp || f.isF8) 1 kPrune .vec .vec .vec, fun e => .vprune4 e.f e.keys e.dV e.aV e.bV⟩,
  ⟨opKey 3 20 0, dR .n none 1 kTail .small .small .small, fun e => .mand e.keys e.dM e.aM e.bM⟩,
  ⟨opKey 3 21 0, dR .n none 1 kTail .small .small .small, fun e => .mor e.keys e.dM e.aM e.bM⟩,
  ⟨opKey 3 22 0, dR .n none 1 kTail .small .small .small, fun e => .mxor e.keys e.dM e.aM e.bM⟩,
  ⟨opKey 3 23 0, dR .n none 1 kNone .small .zero k123, fun e => .mset e.dM e.bO⟩,
  ⟨opKey 3 24 0, dS .n (some (· == .f32)) kMask .vec .vec, fun e => .vexp2 e.keys e.aV e.bV⟩,
  ⟨opKey 3 24 1, dS .n (some (· == .f32)) kMask .vec .vec, fun e => .vlog2 e.keys e.aV e.bV⟩,
  ⟨opKey 3 24 2, dS .n (some (· == .f32)) kMask .vec .vec, fun e => .vrcp e.keys e.aV e.bV⟩,
  ⟨opKey 3 24 3, dS .n (some (· == .f32)) kMask .vec .vec, fun e => .vrsq e.keys e.aV e.bV⟩,
  ⟨opKey 3 24 4, dS .n (some (· == .f32)) kMask .vec .vec, fun e => .vsigm e.keys e.aV e.bV⟩,
  ⟨opKey 3 24 5, dS .n (some (· == .f32)) kMask .vec .vec, fun e => .vtanh e.keys e.aV e.bV⟩,
  ⟨opKey 3 24 6, dS .f (some Fmt.isVec) kAll .vec .vec, fun e => .vcvt e.f e.rnd e.keys e.aV e.bV⟩,
  ⟨opKey 3 24 7, dS .n none kTail .small .small, fun e => .mnot e.keys e.aM e.bM⟩,
  ⟨opKey 3 24 8, dS .n none kNone .dst .small, fun e => .mpop e.aS e.bM⟩,
  ⟨opKey 3 24 9, dS .n none kNone .dst .small, fun e => .mfirst e.aS e.bM⟩,
  ⟨opKey 3 24 10, dS .n none kNone (.num 0 14) .src, fun e => .vrep (Fin.ofNat 15 e.a) e.bS⟩
]

/-- Page 4 (R132, R155). -/
def rows4 : List Row := [
  ⟨opKey 4 0 0, dI .n (some Fmt.isVec) kMask .vec .base .imm5, fun e => .vld e.f e.keys e.dV e.base e.imm⟩,
  ⟨opKey 4 1 0, dR .n (some Fmt.isVec) 1 kMask .vec .base k123, fun e => .vlds e.f e.keys e.dV e.base e.bO⟩,
  ⟨opKey 4 2 0, dR .n (some Fmt.isVec) 1 kMask .vec .base .vec, fun e => .vldx e.f e.keys e.dV e.base e.bV⟩,
  ⟨opKey 4 3 0, dI .n (some Fmt.isVec) kMask .vec .base .imm5, fun e => .vldff e.f e.keys e.dV e.base e.imm⟩,
  ⟨opKey 4 4 0, dI .n (some Fmt.isVec) kRed .vec .base .imm5, fun e => .vst e.f e.keys e.dV e.base e.imm⟩,
  ⟨opKey 4 5 0, dR .n (some Fmt.isVec) 1 kRed .vec .base k123, fun e => .vsts e.f e.keys e.dV e.base e.bO⟩,
  ⟨opKey 4 6 0, dR .n (some Fmt.isVec) 1 kRed .vec .base .vec, fun e => .vstx e.f e.keys e.dV e.base e.bV⟩,
  ⟨opKey 4 7 0, { dR .t (some fun f => f == .bf16 || f == .f16 || f.isF8 || f == .s8 || f == .h4) 8 kNone .small (.opnd [1]) k12 with
      ok := fun e => tilePairOk e.f (TileB.ofCode (e.low / 2)) }, fun e => .mma e.f (TileB.ofCode (e.low / 2)) (e.low % 2 == 1) e.dM e.aS e.bO⟩,
  ⟨opKey 4 8 0, { dR .t (some fun f => f == .bf16 || f == .f16 || f.isF8 || f == .s8) 8 kNone .small (.opnd [1]) (.opnd [1]) with
      ok := fun e => tilePairOk e.f (TileB.ofCode (e.low / 2)) }, fun e => .mmas e.f (TileB.ofCode (e.low / 2)) (e.low % 2 == 1) e.dM e.aS e.bS⟩,
  ⟨opKey 4 9 0, { dR .t (some fun f => f == .bf16 || f == .f16 || f.isF8 || f == .s8) 8 kNone .small (.opnd [1]) k12 with
      ok := fun e => tilePairOk e.f (TileB.ofCode (e.low / 2)) && e.low / 2 != 3 }, fun e => .mmac e.f (TileB.ofCode (e.low / 2)) (e.low % 2 == 1) e.dM e.aS e.bO⟩,
  ⟨opKey 4 10 0, dR .n (some Fmt.isTileMove) 1 kNone .vec .small k123, fun e => .trd e.f e.dV e.aM e.bO⟩,
  ⟨opKey 4 11 0, dR .n (some Fmt.isTileMove) 1 kNone .small .vec k123, fun e => .twr e.f e.dM e.aV e.bO⟩,
  ⟨opKey 4 12 0, { dR .v none 6 kNone .small .small k0123 with ok := fun e => gateOperandOk (Gate.ofCode e.low) e.bO }, fun e => .tgate (Gate.ofCode e.low) e.dM e.aM e.bO⟩,
  ⟨opKey 4 13 0, dR .v none 2 kContinue .small .small .vec, fun e => .tscan (e.low == 1) (Fin.ofNat 8 e.mask) e.dM e.aM e.bV⟩,
  ⟨opKey 4 14 0, dR .f (some Fmt.isTileMove) 1 kSat .small .small k0123, fun e => .tcvt e.f e.rnd e.sat e.dM e.aM e.bO⟩,
  ⟨opKey 4 15 0, dR .n none 1 kNone .small .base (.opnd [3]), fun e => .tst e.dM e.base e.imm⟩,
  ⟨opKey 4 16 0, dR .n none 1 kNone .small .base (.opnd [3]), fun e => .tld e.dM e.base e.imm⟩,
  ⟨opKey 4 17 0, dS .n none kNone .small .zero, fun e => .tzero e.aM⟩,
  ⟨opKey 4 17 1, dS .n none kNone .zero (.num 0 63), fun e => .twait (Fin.ofNat 64 e.b)⟩
]

/-- Page 5 (R95, R175). -/
def rows5 : List Row := [
  ⟨opKey 5 0 0, dI .m (some Fmt.isScalar) kNone .dst .base .imm5, fun e => .ld e.f e.dS e.base e.imm⟩,
  ⟨opKey 5 2 0, dI .m (some Fmt.isScalar) kNone .dst .base .imm5, fun e => .ldc e.f e.dS e.base e.imm⟩,
  ⟨opKey 5 1 0, dI .m (some Fmt.isScalar) kNone .src .base .imm5, fun e => .st e.f e.dS e.base e.imm⟩,
  ⟨opKey 5 3 0, dAtomic (some Fmt.isI3264), fun e => .aadd e.f e.dS e.base e.bO⟩,
  ⟨opKey 5 4 0, dAtomic (some Fmt.isN3264), fun e => .aand e.f e.dS e.base e.bO⟩,
  ⟨opKey 5 5 0, dAtomic (some Fmt.isN3264), fun e => .aor e.f e.dS e.base e.bO⟩,
  ⟨opKey 5 6 0, dAtomic (some Fmt.isN3264), fun e => .axor e.f e.dS e.base e.bO⟩,
  ⟨opKey 5 7 0, dAtomic (some Fmt.isI3264), fun e => .amin e.f e.dS e.base e.bO⟩,
  ⟨opKey 5 8 0, dAtomic (some Fmt.isI3264), fun e => .amax e.f e.dS e.base e.bO⟩,
  ⟨opKey 5 9 0, dAtomic (some Fmt.isN3264), fun e => .axchg e.f e.dS e.base e.bO⟩,
  ⟨opKey 5 10 0, dAtomic (some Fmt.isN3264), fun e => .acas e.f e.dS e.base e.bO⟩,
  ⟨opKey 5 11 0, dAtomic (some Fmt.isN3264), fun e => .incw e.f e.dS e.base e.bO⟩,
  ⟨opKey 5 12 0, dAtomic (some Fmt.isN3264), fun e => .bfadd e.f e.dS e.base e.bO⟩,
  ⟨opKey 5 13 0, dR .m (some fun f => f.isInt || f == .f32 || f == .bf16) 1 kNone .zero .base k123, fun e => .xred e.f e.base e.bO⟩,
  ⟨opKey 5 14 0, dI .f (some fun f => f.isI3264 || f.isFp) kNone .dst .base .imm5, fun e => .xrd e.f e.rnd e.dS e.base e.imm⟩,
  ⟨opKey 5 15 0, dR .n none 1 kNone .dst .base k123, fun e => .enq e.dS e.base e.bO⟩,
  ⟨opKey 5 16 0, dR .n none 1 kNone .dst .base .zero, fun e => .deq e.dS e.base⟩,
  ⟨opKey 5 17 0, dR .n none 1 kNone .zero .base k123, fun e => .barm e.base e.bO⟩,
  ⟨opKey 5 18 0, dR .n none 1 kNone .zero .base .zero, fun e => .bput e.base⟩,
  ⟨opKey 5 19 0, dR .n none 1 kNone .zero .base k123, fun e => .btake e.base e.bO⟩,
  ⟨opKey 5 20 0, dR .v none 3 kNone .zero .base .zero, fun e => .cpy (CpyVar.ofCode e.low) e.base⟩,
  ⟨opKey 5 21 0, dR .v none 4 kNone .zero .base .zero, fun e => .cpyb (CpyVar.ofCode e.low) e.base⟩,
  ⟨opKey 5 22 0, dR .n none 1 kNone .zero .base .zero, fun e => .gath e.base⟩,
  ⟨opKey 5 23 0, dR .n none 1 kNone .zero .base .zero, fun e => .route e.base⟩,
  ⟨opKey 5 24 0, { dS .m none kNone .zero .src with hasScope := true }, fun e => .inv e.scope e.bS⟩,
  ⟨opKey 5 24 1, { dS .m none kNone (.num 1 3) .zero with hasScope := true }, fun e => .fence (FenceKind.ofCode e.a) e.scope⟩
]

/-- Page 6 (R95, R208). -/
def rows6 : List Row := [
  ⟨opKey 6 0 0, dR .v none 2 kNone .zero .base .zero, fun e => .send (e.low == 1) e.base⟩,
  ⟨opKey 6 1 0, dR .v none 2 kNone .zero .base .zero, fun e => .sendn (e.low == 1) e.base⟩,
  ⟨opKey 6 2 0, dR .v none 2 kNone .zero .base k123, fun e => .mcast (e.low == 1) e.base e.bO⟩,
  ⟨opKey 6 3 0, dR .n none 1 kNone .zero .base .zero, fun e => .spawn e.base⟩,
  ⟨opKey 6 4 0, dR .n none 1 kNone .zero .zero k123, fun e => .migrate e.bO⟩,
  ⟨opKey 6 5 0, dR .n none 1 kNone .zero .zero k123, fun e => .sleep e.bO⟩,
  ⟨opKey 6 6 0, dR .n none 1 kNone .zero .base .zero, fun e => .tsub e.base⟩,
  ⟨opKey 6 7 0, dR .n none 1 kNone .zero k123 k123, fun e => .evsig e.aO e.bO⟩,
  ⟨opKey 6 8 0, dR .n none 1 kNone .zero k123 k123, fun e => .evwait e.aO e.bO⟩,
  ⟨opKey 6 9 0, dR .n none 1 kNone .zero .base .zero, fun e => .launch e.base⟩,
  ⟨opKey 6 10 0, dR .n none 1 kNone .dst .zero k123, fun e => .rand e.dS e.bO⟩,
  ⟨opKey 6 11 0, dR .n none 1 kNone .zero k123 k123, fun e => .claim e.aO e.bO⟩,
  ⟨opKey 6 12 0, dR .n none 1 kNone .zero k123 k123, fun e => .tlbinv e.aO e.bO⟩,
  ⟨opKey 6 13 0, dR .n none 1 kNone .zero k123 k123, fun e => .tmark e.aO e.bO⟩,
  ⟨opKey 6 14 0, dR .n none 1 kNone .dst .zero .zero, fun e => .wdog e.dS⟩,
  ⟨opKey 6 15 0, { dI .n none kNone .zero .zero .imm5 with ok := fun e => decide (0 ≤ e.imm ∧ e.imm ≤ 32767) }, fun e => .trap e.imm⟩,
  ⟨opKey 6 16 0, { dI .n none kNone .zero .zero .imm5 with ok := fun e => decide (0 ≤ e.imm ∧ e.imm ≤ 32767) }, fun e => .sysc e.imm⟩,
  ⟨opKey 6 17 0, dS .n none kNone .zero .zero, fun _ => .eret⟩,
  ⟨opKey 6 17 1, dS .n none kNone .zero .zero, fun _ => .bkpt⟩
]

/-- Page 7 (R95, R228). -/
def rows7 : List Row := [
  ⟨opKey 7 0 0, dI .n none kNone .dst .base .imm5, fun e => .swld e.dS e.base e.imm⟩,
  ⟨opKey 7 1 0, dI .n none kNone .src .base .imm5, fun e => .swst e.dS e.base e.imm⟩,
  ⟨opKey 7 2 0, dR .n none 1 kNone .dst .base k123, fun e => .swadd e.dS e.base e.bO⟩,
  ⟨opKey 7 3 0, dR .n none 1 kNone .dst .base k123, fun e => .swlaw e.dS e.base e.bO⟩,
  ⟨opKey 7 4 0, dR .n none 1 kNone .dst k123 k123, fun e => .step e.dS e.aO e.bO⟩,
  ⟨opKey 7 5 0, dR .n none 1 kNone .zero .zero k123, fun e => .swsweep e.bO⟩,
  ⟨opKey 7 6 0, dR .n none 1 kNone .dst .zero k123, fun e => .knew e.dS e.bO⟩,
  ⟨opKey 7 7 0, dR .n none 1 kNone .dst .base k123, fun e => .kenrol e.dS e.base e.bO⟩,
  ⟨opKey 7 8 0, dR .n none 1 kNone .zero .zero k123, fun e => .kfree e.bO⟩,
  ⟨opKey 7 9 0, dR .n none 1 kNone .dst .zero k123, fun e => .kread e.dS e.bO⟩,
  ⟨opKey 7 10 0, dR .n none 1 kNone .dst .zero k123, fun e => .ksettle e.dS e.bO⟩,
  ⟨opKey 7 11 0, dR .n none 1 kNone .zero k123 k123, fun e => .kmove e.aO e.bO⟩,
  ⟨opKey 7 12 0, dR .n none 1 kNone .zero k123 (.opnd [1]), fun e => .pjoin e.aO e.bS⟩,
  ⟨opKey 7 13 0, dR .n none 1 kNone .src .dst .zero, fun e => .resample e.dS e.aS⟩,
  ⟨opKey 7 14 0, dS .n none kNone .zero .zero, fun _ => .pleave⟩
]

/-- The rows of a page (R94). -/
def pageRows : Nat → List Row
  | 0 => rows0
  | 1 => rows1
  | 2 => rows2
  | 3 => rows3
  | 4 => rows4
  | 5 => rows5
  | 6 => rows6
  | 7 => rows7
  | _ => []

/-- The row with an opcode key: the sub-op counts only in the S-format groups (R95). -/
def findRow (page op sub : Nat) : Option Row :=
  let key := opKey page op (if isGroup page op then sub else 0)
  (pageRows page).find? fun r => r.key == key

/-- The modifier of a page-0 word without `pfx.p` (R87): s64 for the twelve that take it, else 0. -/
def impliedModifier (key : Nat) : Nat :=
  if key ∈ [opKey 0 1 0, opKey 0 2 0, opKey 0 3 0, opKey 0 7 0, opKey 0 8 0, opKey 0 9 0, opKey 0 25 0, opKey 0 13 0,
    opKey 0 14 0, opKey 0 10 0, opKey 0 12 0, opKey 0 15 0] then 0x20 else 0

/-! ### The prefix chain (R76, R90) -/

/-- The prefixes read so far: the `pfx.i` payloads in stream order with the index of the first, and `pfx.r`, `pfx.p`
and `pfx.v` payloads with their index among the instruction's words. -/
structure Chain where
  imm : List Nat
  immAt : Nat
  r : Option (Nat × Nat)
  p : Option (Nat × Nat)
  v : Option (Nat × Nat)
  lastImm : Bool
  count : Nat
  deriving DecidableEq, Repr

def Chain.empty : Chain := ⟨[], 0, none, none, none, false, 0⟩

/-- A word whose bits [15:11] are 28-31 is a prefix on every page (R76). -/
def isPrefixWord (w : Nat) : Bool := decide (28 ≤ w / 2048 % 32)

/-- Is the prefix kind already in the chain, other than a `pfx.i` directly after a `pfx.i`? -/
def Chain.repeats (c : Chain) (kind : Nat) : Bool :=
  match kind with
  | 28 => !c.imm.isEmpty && !c.lastImm
  | 29 => c.r.isSome
  | 30 => c.p.isSome
  | _ => c.v.isSome

/-- One prefix word appended under the table of R90. -/
def Chain.push (c : Chain) (w : Nat) : Except EncFault Chain :=
  let kind := w / 2048 % 32
  let x := w % 2048
  if c.repeats kind then .error .repeatedPrefix
  else if c.count ≥ 4 then .error .fifthPrefix
  else .ok <| match kind with
    | 28 => { c with imm := c.imm ++ [x], immAt := if c.imm.isEmpty then c.count else c.immAt, lastImm := true,
                     count := c.count + 1 }
    | 29 => { c with r := some (x, c.count), lastImm := false, count := c.count + 1 }
    | 30 => { c with p := some (x, c.count), lastImm := false, count := c.count + 1 }
    | _ => { c with v := some (x, c.count), lastImm := false, count := c.count + 1 }

/-! ### Joining the chain to its base word -/

/-- The value of an extensible field of width `w` with base bits `f` (R83). -/
def extValue (w f : Nat) (ps : List Nat) : Int :=
  signedBits (w + 11 * ps.length) (ps.foldl (fun acc p => acc * 2048 + p) 0 * 2 ^ w + f)

/-- The default kind of field a (R80). -/
def Desc.defaultA (x : Desc) : Nat :=
  match x.a with
  | .vec => 0
  | _ => 1

/-- The kinds that field a may have in an R-, I- or B-format word (R80). -/
def Desc.kindsA (x : Desc) : List Nat :=
  match x.a with
  | .vec => [0]
  | .opnd ks => ks
  | .base => [1, 3]
  | _ => [1]

/-- The kinds that field b may have in an R-format word. -/
def Desc.kindsB (x : Desc) : List Nat :=
  match x.b with
  | .vec | .small => [0]
  | .opnd ks => ks
  | _ => [1]

/-- The raw fields: the description, the chain, the base word, and the joined fields. -/
structure Joined where
  key : Nat
  desc : Desc
  chain : Chain
  w : Nat
  mod : Nat
  rx : Nat
  vx : Nat
  e : Enc

/-- Joins a chain and a base word under an entry of the opcode map (R77-R88). -/
def join (row : Row) (c : Chain) (w : Nat) : Joined :=
  let x := row.desc
  let mod := match c.p with
    | some (p, _) => p % 128
    | none => impliedModifier row.key
  let rx := match c.r with
    | some (r, _) => r
    | none => 0
  let vx := match c.v with
    | some (v, _) => v
    | none => 0
  let dh := rx / 64 % 8
  let ah := rx / 8 % 8
  let bh := rx % 8
  let ka := match x.word with
    | .s => 1
    | _ => if c.r.isSome then rx / 512 % 4 else x.defaultA
  let kb := match x.word with
    | .r => w / 8 % 4
    | _ => 0
  let d := match x.word with
    | .s => 0
    | _ => dh * 8 + w / 256 % 8
  let a := match x.word with
    | .s => ah * 8 + w / 8 % 8
    | .b => 0
    | _ => ah * 8 + w / 32 % 8
  let b := match x.word with
    | .r | .s => bh * 8 + w % 8
    | _ => 0
  let b := if x.word = .r ∧ kb = 2 ∧ x.imm = .none then (c.imm.headD 0 % 4) * 64 + b else b
  let k := c.imm.length
  let imm : Int := match x.imm with
    | .imm5 => extValue 5 (w % 32) c.imm
    | .selector => (w % 32 : Nat)
    | .offset8 => extValue 8 (w % 256) c.imm
    | .bcOffset => extValue 0 0 c.imm
    | .none =>
      if x.word = .r ∧ kb = 3 then (if k = 0 then ((w % 8 : Nat) : Int) else extValue 3 (w % 8) c.imm) else 0
  let b := if x.word = .r ∧ kb = 3 then 0 else b
  let fmt := if x.lay = .v then 0 else mod / 8
  let low := if x.lay = .v then mod else mod % 8
  ⟨row.key, x, c, w, mod, rx, vx,
    ⟨fmt, low, vx / 256 % 8, bitAt vx 7, bitAt vx 6, vx / 8 % 8, bitAt vx 2, d, a, b, ka, kb, imm⟩⟩

namespace Joined

/-- Index of the base word. -/
def baseAt (j : Joined) : Nat := j.chain.count
/-- Index of a prefix word, or of the base word where the instruction does not carry it (R371). -/
def at? (j : Joined) (p : Option (Nat × Nat)) : Nat :=
  match p with
  | some (_, i) => i
  | none => j.baseAt
def rAt (j : Joined) : Nat := j.at? j.chain.r
def pAt (j : Joined) : Nat := j.at? j.chain.p
def vAt (j : Joined) : Nat := j.at? j.chain.v

/-- A prefix that the instruction does not accept (0x0105: R81, R83, R84). Log entry 101: a word without a b operand
accepts no `pfx.i` whatever its kb; a kb of 10 or 11 takes its `pfx.i` here even where the entry lists no such kind,
which `check108` then reports. -/
def check105 (j : Joined) : Option Nat :=
  match j.chain.imm with
  | [] => none
  | p :: ps =>
    match j.desc.imm with
    | .imm5 | .offset8 | .bcOffset => none
    | .selector => some j.chain.immAt
    | .none =>
      if j.desc.word = .r ∧ j.desc.b ≠ .zero then
        match j.e.kb with
        | 3 => none
        | 2 => if p / 4 ≠ 0 then some j.chain.immAt else if ps ≠ [] then some (j.chain.immAt + 1) else none
        | _ => some j.chain.immAt
      else some j.chain.immAt

/-- `bc` without `pfx.i` (0x010A). -/
def check10A (j : Joined) : Option Nat :=
  if j.desc.imm = .bcOffset ∧ j.chain.imm = [] then some j.baseAt else none

/-- A format code 14 or 15 (0x010B: R85, R98); the B operand of layout T has its own field. -/
def check10B (j : Joined) : Option Nat :=
  if j.desc.lay ≠ .v ∧ 14 ≤ j.e.fmt then some j.pAt else none

/-- Is the format one that the entry lists (R85)? -/
def formatOk (j : Joined) : Bool :=
  match j.desc.fmts with
  | none => j.e.fmt == 0
  | some p => p j.e.f

/-- Are the low modifier bits valid in the entry's layout (R85, R96)? -/
def lowOk (j : Joined) : Bool :=
  match j.desc.lay with
  | .n => decide (j.e.low < j.desc.nvar)
  | .v => decide (j.e.low < j.desc.nvar)
  | .f => decide (j.e.low ≤ 4)
  | .m => decide (j.e.low ≤ 6) && (j.desc.hasScope || j.e.low == 0)
  | .t => j.desc.ok j.e

/-- Are the keys of `pfx.v` valid (R88, R89)? -/
def keysOk (j : Joined) : Bool := decide (j.e.lmul ≤ 4) && j.e.keys.within j.desc.keys

/-- Is a plain number within the range that its entry gives (R94, R95)? -/
def numOk (r : Role) (n : Nat) : Bool :=
  match r with
  | .num lo hi => decide (lo ≤ n ∧ n ≤ hi)
  | _ => true

/-- A value that is not valid (0x0106). The condition of `bc` is the 3-bit base field; its high bits are unused. Of two
such values the one in `pfx.p` is named first, then `pfx.v`, then the base word, also for a `fence` kind or `vrep` k
that the a high bits of `pfx.r` made too large (log entry 101). -/
def check106 (j : Joined) : Option Nat :=
  if !j.formatOk || !j.lowOk then some j.pAt
  else if !j.keysOk then some j.vAt
  else if !numOk j.desc.d (j.e.d % 8) || !numOk j.desc.a j.e.a || !numOk j.desc.b j.e.b || !j.desc.ok j.e then
    some j.baseAt
  else none

/-- Where a value splits over the high bits of `pfx.r` and the base word, the words that hold a set bit. -/
def setBits (j : Joined) (high low : Nat) : List Nat :=
  (if high ≠ 0 then [j.rAt] else []) ++ (if low ≠ 0 then [j.baseAt] else [])

/-- The words that hold a set bit that must be zero (0x0109: R78, R80, R81, R88, R95). The high bits of a field whose
kind is 11 must be zero in every instruction, whether its entry permits that kind or not: R98 reports 0x0109 before
0x0108 (log entry 101). -/
def unused (j : Joined) : List Nat :=
  let x := j.desc
  let dh := j.rx / 64 % 8
  let ah := j.rx / 8 % 8
  let bh := j.rx % 8
  (if j.vx % 4 ≠ 0 then [j.vAt] else [])
  ++ (match x.word with
    | .s => j.setBits (j.rx / 64) 0
    | _ => match x.d with
      | .zero => j.setBits dh (j.w / 256 % 8)
      | .num _ _ => j.setBits dh 0
      | _ => [])
  ++ (match x.word with
    | .b => j.setBits ah 0
    | .s => match x.a with
      | .zero => j.setBits ah (j.w / 8 % 8)
      | _ => []
    | _ => match x.a with
      | .zero => j.setBits ah (j.w / 32 % 8)
      | .base => if j.e.ka = 3 then j.setBits ah (j.w / 32 % 8) else []
      | _ => if j.e.ka = 3 then j.setBits ah 0 else [])
  ++ (match x.word with
    | .r => match x.b with
      | .zero => j.setBits bh (j.w % 32)
      | _ => if j.e.kb = 3 then j.setBits bh 0 else []
    | .s => match x.b with
      | .zero => j.setBits bh (j.w % 8)
      | _ => []
    | _ => j.setBits bh 0)

def check109 (j : Joined) : Option Nat := j.unused.min?

/-- A kind that is not permitted (0x0108): also kind bits of `pfx.r` other than the default on a B-format word, for
which R80 names no cause. The kind of a is named before the kind of b (log entry 101). -/
def check108 (j : Joined) : Option Nat :=
  if j.desc.word ≠ .s ∧ j.e.ka ∉ j.desc.kindsA then some j.rAt
  else if j.desc.word = .r ∧ j.desc.b ≠ .zero ∧ j.e.kb ∉ j.desc.kindsB then some j.baseAt
  else none

/-- Is a register number in its class (R79)? A special register is no destination (R22). -/
def regOk (r : Role) (kind n : Nat) : Bool :=
  match r with
  | .vec => decide (n < 32)
  | .small => decide (n < 8)
  | .dst => decide (n < 32 ∨ 48 ≤ n)
  | .opnd _ => kind != 0 || decide (n < 32)
  | _ => true

/-- A register number out of range (0x0107); R371 names `pfx.r` when the number takes nonzero high bits from it. Of
several such operands d is named first, then a, then b (log entry 101). -/
def check107 (j : Joined) : Option Nat :=
  if !regOk j.desc.d 1 j.e.d then some (if j.rx / 64 % 8 ≠ 0 then j.rAt else j.baseAt)
  else if !regOk j.desc.a j.e.ka j.e.a then some (if j.rx / 8 % 8 ≠ 0 then j.rAt else j.baseAt)
  else if !regOk j.desc.b j.e.kb j.e.b then some (if j.rx % 8 ≠ 0 then j.rAt else j.baseAt)
  else none

/-- A reserved control selector (0x010C). -/
def check10C (j : Joined) : Option Nat :=
  if j.desc.imm = .selector ∧ 4 ≤ j.e.imm then some j.baseAt else none

/-- Item 5 of R98: the first condition that holds, with the index of the word that R371 names. -/
def fault? (j : Joined) : Option (EncFault × Nat) :=
  (j.check105.map fun i => (.prefixNotAccepted, i))
  <|> (j.check10A.map fun i => (.missingPrefix, i))
  <|> (j.check10B.map fun i => (.badTag, i))
  <|> (j.check106.map fun i => (.badModifier, i))
  <|> (j.check109.map fun i => (.unusedBits, i))
  <|> (j.check108.map fun i => (.badKind, i))
  <|> (j.check107.map fun i => (.badRegister, i))
  <|> (j.check10C.map fun i => (.badSelector, i))

end Joined

/-! ### Decoding -/

/-- What a list of words is: an instruction of `len` words, a rejection with the index of the word that R371 names,
or the beginning of an instruction whose base word is missing. -/
inductive Decoded where
  | ok (i : Instr) (len : Nat)
  | bad (f : EncFault) (word : Nat)
  | short
  deriving DecidableEq, Repr

/-- A complete chain and its base word (R94-R98). -/
def decodeBase (c : Chain) (w : Nat) : Decoded :=
  let page := match c.p with
    | some (p, _) => p / 128 % 16
    | none => 0
  if 8 ≤ page then
    .bad .reservedPage (match c.p with
      | some (_, i) => i
      | none => c.count)
  else
    match findRow page (w / 2048 % 32) (w / 64 % 32) with
    | none => .bad .reservedOp c.count
    | some row =>
      let j := join row c w
      match j.fault? with
      | some (f, i) => .bad f i
      | none => .ok (row.build j.e) (c.count + 1)

/-- Reads words in order until a base word (R90). -/
def decodeFrom (c : Chain) : List Nat → Decoded
  | [] => .short
  | w :: ws =>
    if isPrefixWord w then
      match c.push w with
      | .error f => .bad f c.count
      | .ok c' => decodeFrom c' ws
    else decodeBase c w

/-- The instruction at the head of a list of 16-bit words. -/
def decodeWords (ws : List Nat) : Decoded := decodeFrom .empty ws

/-- Little-endian words of a list of bytes (R7, R76). -/
def wordsOfBytes : List Byte → List Nat
  | lo :: hi :: rest => (lo.toNat + 256 * hi.toNat) :: wordsOfBytes rest
  | _ => []

/-- Decoding, total on any bytes. -/
def decode (bs : List Byte) : Decoded := decodeWords (wordsOfBytes bs)

/-! ### Encoding -/

namespace Enc

def wDst (e : Enc) (r : SReg) : Enc := { e with d := r.num }
def wA (e : Enc) : Opnd → Enc
  | .vec n => { e with ka := 0, a := n.val }
  | .reg r => { e with ka := 1, a := r.num }
  | .const n => { e with ka := 2, a := n.val }
  | .lit v => { e with ka := 3, a := v.toNat }
def wB (e : Enc) : Opnd → Enc
  | .vec n => { e with kb := 0, b := n.val }
  | .reg r => { e with kb := 1, b := r.num }
  | .const n => { e with kb := 2, b := n.val }
  | .lit v => { e with kb := 3, imm := v }
def wBase (e : Enc) : Base → Enc
  | .reg r => { e with ka := 1, a := r.num }
  | .pc => { e with ka := 3, a := 0 }
def wKeys (e : Enc) (k : Keys) : Enc :=
  { e with mask := k.mask.val, mz := k.mz, tz := k.tz, lmul := k.lmul.code, sat := k.sat }

/-- gD, a, b with a format. -/
def arith (f : Fmt) (d : SReg) (x y : Opnd) : Enc := (({ zero with fmt := f.code }.wDst d).wA x).wB y
/-- gD, [base], b. -/
def mem (f : Fmt) (d : SReg) (m : Base) (y : Opnd) : Enc := (({ zero with fmt := f.code }.wDst d).wBase m).wB y
/-- gD, [base ± e]. -/
def memI (f : Fmt) (d : SReg) (m : Base) (e : Int) : Enc := ({ zero with fmt := f.code, imm := e }.wDst d).wBase m
/-- vd, va, b. -/
def elem (f : Fmt) (low : Nat) (k : Keys) (d a : Nat) (y : Opnd) : Enc :=
  (({ zero with fmt := f.code, low := low, d := d }.wKeys k).wA (.vec (Fin.ofNat 32 a))).wB y
/-- vd, vs in fields d and b. -/
def elemB (f : Fmt) (k : Keys) (d b : Nat) : Enc := { zero with fmt := f.code, d := d, b := b }.wKeys k
/-- An S-format vector word: vd in a, vs in b. -/
def short (f : Fmt) (low : Nat) (k : Keys) (a b : Nat) : Enc :=
  { zero with fmt := f.code, low := low, a := a, b := b }.wKeys k
/-- vd, [base], b. -/
def vmem (f : Fmt) (k : Keys) (d : Nat) (m : Base) (y : Opnd) : Enc :=
  (({ zero with fmt := f.code, d := d }.wKeys k).wBase m).wB y
/-- vd, [base ± e]. -/
def vmemI (f : Fmt) (k : Keys) (d : Nat) (m : Base) (e : Int) : Enc :=
  ({ zero with fmt := f.code, d := d, imm := e }.wKeys k).wBase m
/-- A product: layout T. -/
def prod (f : Fmt) (tb : TileB) (g4 : Bool) (d : Nat) (a : SReg) (y : Opnd) : Enc :=
  (({ zero with fmt := f.code, low := tb.code * 2 + bitOf g4, d := d }).wA (.reg a)).wB y

end Enc

/-- The opcode key and the fields of an encoded instruction; `none` for an event. -/
def toEnc : Instr → Option (Nat × Enc)
  | .nop => some (opKey 0 0 1, .zero)
  | .done => some (opKey 0 0 2, .zero)
  | .yield => some (opKey 0 0 3, .zero)
  | .jr x => some (opKey 0 0 4, { Enc.zero with b := x.num })
  | .add f d x y => some (opKey 0 1 0, .arith f d x y)
  | .sub f d x y => some (opKey 0 2 0, .arith f d x y)
  | .mul f d x y => some (opKey 0 3 0, .arith f d x y)
  | .and d x y => some (opKey 0 4 0, .arith .raw d x y)
  | .or d x y => some (opKey 0 5 0, .arith .raw d x y)
  | .xor d x y => some (opKey 0 6 0, .arith .raw d x y)
  | .shl f d x y => some (opKey 0 7 0, .arith f d x y)
  | .shr f d x y => some (opKey 0 8 0, .arith f d x y)
  | .sra f d x y => some (opKey 0 9 0, .arith f d x y)
  | .slt f d x y => some (opKey 0 10 0, .arith f d x y)
  | .sltn f d x y => some (opKey 0 11 0, .arith f d x y)
  | .seq f d x y => some (opKey 0 12 0, .arith f d x y)
  | .min f d x y => some (opKey 0 13 0, .arith f d x y)
  | .max f d x y => some (opKey 0 14 0, .arith f d x y)
  | .sel f d x y => some (opKey 0 15 0, .arith f d x y)
  | .mov d y => some (opKey 0 16 0, (Enc.zero.wDst d).wB y)
  | .li d e => some (opKey 0 17 0, { Enc.zero with imm := e }.wDst d)
  | .lea d m e => some (opKey 0 18 0, .memI .raw d m e)
  | .b off => some (opKey 0 19 0, { Enc.zero with imm := off })
  | .bc c x y off => some (opKey 0 20 0, { ({ Enc.zero with d := c.code }.wA x).wB y with imm := off })
  | .loop c off => some (opKey 0 21 0, { Enc.zero with d := c.num, imm := off })
  | .jal d off => some (opKey 0 22 0, { Enc.zero with d := d.num, imm := off })
  | .bm v m off => some (opKey 0 23 0, { Enc.zero with low := v.code, d := m.val, imm := off })
  | .andn d x y => some (opKey 0 24 0, .arith .raw d x y)
  | .rotl f d x y => some (opKey 0 25 0, .arith f d x y)
  | .mulh f d x y => some (opKey 1 0 0, .arith f d x y)
  | .mulhn f d x y => some (opKey 1 1 0, .arith f d x y)
  | .div f d x y => some (opKey 1 2 0, .arith f d x y)
  | .divn f d x y => some (opKey 1 3 0, .arith f d x y)
  | .rem f d x y => some (opKey 1 4 0, .arith f d x y)
  | .remn f d x y => some (opKey 1 5 0, .arith f d x y)
  | .minn f d x y => some (opKey 1 6 0, .arith f d x y)
  | .maxn f d x y => some (opKey 1 7 0, .arith f d x y)
  | .clz d y => some (opKey 1 8 0, (Enc.zero.wDst d).wB y)
  | .ctz d y => some (opKey 1 9 0, (Enc.zero.wDst d).wB y)
  | .popc d y => some (opKey 1 10 0, (Enc.zero.wDst d).wB y)
  | .bext d x y => some (opKey 1 11 0, .arith .raw d x y)
  | .bins d x y => some (opKey 1 12 0, .arith .raw d x y)
  | .fadd f r d x y => some (opKey 1 13 0, { Enc.arith f d x y with low := r.code })
  | .fsub f r d x y => some (opKey 1 14 0, { Enc.arith f d x y with low := r.code })
  | .fmul f r d x y => some (opKey 1 15 0, { Enc.arith f d x y with low := r.code })
  | .fma f r d x y => some (opKey 1 16 0, { Enc.arith f d x y with low := r.code })
  | .fdiv f r d x y => some (opKey 1 17 0, { Enc.arith f d x y with low := r.code })
  | .fsqrt f r d y => some (opKey 1 18 0, { (Enc.zero.wDst d).wB y with fmt := f.code, low := r.code })
  | .fmin f d x y => some (opKey 1 19 0, .arith f d x y)
  | .fmax f d x y => some (opKey 1 20 0, .arith f d x y)
  | .fcmp f c d x y => some (opKey 1 21 0, { Enc.arith f d x y with low := c.code })
  | .fcvt f r sat d y => some (opKey 1 22 0, { (Enc.zero.wDst d).wB y with fmt := f.code, low := r.code, sat := sat })
  | .fclass f d y => some (opKey 1 23 0, { (Enc.zero.wDst d).wB y with fmt := f.code })
  | .sget d s => some (opKey 1 24 0, { Enc.zero with d := d.num, imm := s.code })
  | .sset s x => some (opKey 1 25 0, { Enc.zero with imm := s.code }.wA x)
  | .vsetvl d x y => some (opKey 2 0 0, .arith .raw d x y)
  | .vsetvli f g d y => some (opKey 2 1 0, { (Enc.zero.wDst d).wB y with fmt := f.code, low := g.code })
  | .vadd f k d x y => some (opKey 2 2 0, .elem f 0 k d.val x.val y)
  | .vsub f k d x y => some (opKey 2 3 0, .elem f 0 k d.val x.val y)
  | .vmul f k d x y => some (opKey 2 4 0, .elem f 0 k d.val x.val y)
  | .vmulh f k d x y => some (opKey 2 5 0, .elem f 0 k d.val x.val y)
  | .vmacc f k d x y => some (opKey 2 6 0, .elem f 0 k d.val x.val y)
  | .vand f k d x y => some (opKey 2 7 0, .elem f 0 k d.val x.val y)
  | .vor f k d x y => some (opKey 2 8 0, .elem f 0 k d.val x.val y)
  | .vxor f k d x y => some (opKey 2 9 0, .elem f 0 k d.val x.val y)
  | .vshl f k d x y => some (opKey 2 10 0, .elem f 0 k d.val x.val y)
  | .vshr f k d x y => some (opKey 2 11 0, .elem f 0 k d.val x.val y)
  | .vsra f k d x y => some (opKey 2 12 0, .elem f 0 k d.val x.val y)
  | .vmin f k d x y => some (opKey 2 13 0, .elem f 0 k d.val x.val y)
  | .vmax f k d x y => some (opKey 2 14 0, .elem f 0 k d.val x.val y)
  | .vminn f k d x y => some (opKey 2 15 0, .elem f 0 k d.val x.val y)
  | .vmaxn f k d x y => some (opKey 2 16 0, .elem f 0 k d.val x.val y)
  | .vabs f k d y => some (opKey 2 17 0, .elemB f k d.val y.val)
  | .vnarrow f k d x y => some (opKey 2 18 0, .elem f 0 k d.val x.val y)
  | .vwiden f k d y => some (opKey 2 19 0, .elemB f k d.val y.val)
  | .vfadd f r k d x y => some (opKey 3 0 0, .elem f r.code k d.val x.val y)
  | .vfsub f r k d x y => some (opKey 3 1 0, .elem f r.code k d.val x.val y)
  | .vfmul f r k d x y => some (opKey 3 2 0, .elem f r.code k d.val x.val y)
  | .vfma f r k d x y => some (opKey 3 3 0, .elem f r.code k d.val x.val y)
  | .vfdiv f r k d x y => some (opKey 3 4 0, .elem f r.code k d.val x.val y)
  | .vfmin f k d x y => some (opKey 3 5 0, .elem f 0 k d.val x.val y)
  | .vfmax f k d x y => some (opKey 3 6 0, .elem f 0 k d.val x.val y)
  | .vcmp f c k d x y => some (opKey 3 7 0, .elem f c.code k d.val x.val y)
  | .vfcmp f c k d x y => some (opKey 3 8 0, .elem f c.code k d.val x.val y)
  | .vsel f k d x y => some (opKey 3 9 0, .elem f 0 k d.val x.val y)
  | .vmv f k d y => some (opKey 3 10 0, ({ Enc.zero with fmt := f.code, d := d.val }.wKeys k).wB y)
  | .vslide f dn k d x y => some (opKey 3 11 0, .elem f (bitOf dn) k d.val x.val y)
  | .vperm f k d x y => some (opKey 3 12 0, .elem f 0 k d.val x.val (.vec y))
  | .vcompress f k d y => some (opKey 3 13 0, .elemB f k d.val y.val)
  | .vredsum f r k d x y => some (opKey 3 14 0, .elem f r.code k d.num x.val y)
  | .vredmax f k d x y => some (opKey 3 15 0, .elem f 0 k d.num x.val y)
  | .vredmin f k d x y => some (opKey 3 16 0, .elem f 0 k d.num x.val y)
  | .vdotx f r k d x y => some (opKey 3 17 0, .elem f r.code k d.num x.val (.vec y))
  | .vdeq f r k d x y => some (opKey 3 18 0, .elem f r.code k d.val x.val y)
  | .vprune4 f k d x y => some (opKey 3 19 0, .elem f 0 k d.val x.val (.vec y))
  | .mand k d x y => some (opKey 3 20 0, { Enc.zero with d := d.val, a := x.val, b := y.val }.wKeys k)
  | .mor k d x y => some (opKey 3 21 0, { Enc.zero with d := d.val, a := x.val, b := y.val }.wKeys k)
  | .mxor k d x y => some (opKey 3 22 0, { Enc.zero with d := d.val, a := x.val, b := y.val }.wKeys k)
  | .mset d y => some (opKey 3 23 0, { Enc.zero with d := d.val }.wB y)
  | .vexp2 k d y => some (opKey 3 24 0, .short .f32 0 k d.val y.val)
  | .vlog2 k d y => some (opKey 3 24 1, .short .f32 0 k d.val y.val)
  | .vrcp k d y => some (opKey 3 24 2, .short .f32 0 k d.val y.val)
  | .vrsq k d y => some (opKey 3 24 3, .short .f32 0 k d.val y.val)
  | .vsigm k d y => some (opKey 3 24 4, .short .f32 0 k d.val y.val)
  | .vtanh k d y => some (opKey 3 24 5, .short .f32 0 k d.val y.val)
  | .vcvt f r k d y => some (opKey 3 24 6, .short f r.code k d.val y.val)
  | .mnot k d y => some (opKey 3 24 7, .short .raw 0 k d.val y.val)
  | .mpop d m => some (opKey 3 24 8, { Enc.zero with a := d.num, b := m.val })
  | .mfirst d m => some (opKey 3 24 9, { Enc.zero with a := d.num, b := m.val })
  | .vrep k1 c => some (opKey 3 24 10, { Enc.zero with a := k1.val, b := c.num })
  | .vld f k d m e => some (opKey 4 0 0, .vmemI f k d.val m e)
  | .vldff f k d m e => some (opKey 4 3 0, .vmemI f k d.val m e)
  | .vst f k d m e => some (opKey 4 4 0, .vmemI f k d.val m e)
  | .vlds f k d m y => some (opKey 4 1 0, .vmem f k d.val m y)
  | .vsts f k d m y => some (opKey 4 5 0, .vmem f k d.val m y)
  | .vldx f k d m y => some (opKey 4 2 0, .vmem f k d.val m (.vec y))
  | .vstx f k d m y => some (opKey 4 6 0, .vmem f k d.val m (.vec y))
  | .mma f tb g4 d x y => some (opKey 4 7 0, .prod f tb g4 d.val x y)
  | .mmas f tb g4 d x y => some (opKey 4 8 0, .prod f tb g4 d.val x (.reg y))
  | .mmac f tb g4 d x y => some (opKey 4 9 0, .prod f tb g4 d.val x y)
  | .trd f d x y => some (opKey 4 10 0, { Enc.zero with fmt := f.code, d := d.val, a := x.val }.wB y)
  | .twr f d x y => some (opKey 4 11 0, ({ Enc.zero with fmt := f.code, d := d.val }.wA (.vec x)).wB y)
  | .tgate v d x y => some (opKey 4 12 0, { Enc.zero with low := v.code, d := d.val, a := x.val }.wB y)
  | .tscan pair m d x y => some (opKey 4 13 0, { Enc.zero with low := bitOf pair, mask := m.val, d := d.val, a := x.val, b := y.val })
  | .tcvt f r sat d x y => some (opKey 4 14 0, { Enc.zero with fmt := f.code, low := r.code, sat := sat, d := d.val, a := x.val }.wB y)
  | .tst d m e => some (opKey 4 15 0, (({ Enc.zero with d := d.val }).wBase m).wB (.lit e))
  | .tld d m e => some (opKey 4 16 0, (({ Enc.zero with d := d.val }).wBase m).wB (.lit e))
  | .tzero x => some (opKey 4 17 0, { Enc.zero with a := x.val })
  | .twait n => some (opKey 4 17 1, { Enc.zero with b := n.val })
  | .ld f d m e => some (opKey 5 0 0, .memI f d m e)
  | .st f d m e => some (opKey 5 1 0, .memI f d m e)
  | .ldc f d m e => some (opKey 5 2 0, .memI f d m e)
  | .aadd f d m y => some (opKey 5 3 0, .mem f d m y)
  | .aand f d m y => some (opKey 5 4 0, .mem f d m y)
  | .aor f d m y => some (opKey 5 5 0, .mem f d m y)
  | .axor f d m y => some (opKey 5 6 0, .mem f d m y)
  | .amin f d m y => some (opKey 5 7 0, .mem f d m y)
  | .amax f d m y => some (opKey 5 8 0, .mem f d m y)
  | .axchg f d m y => some (opKey 5 9 0, .mem f d m y)
  | .acas f d m y => some (opKey 5 10 0, .mem f d m y)
  | .incw f d m y => some (opKey 5 11 0, .mem f d m y)
  | .bfadd f d m y => some (opKey 5 12 0, .mem f d m y)
  | .xred f m y => some (opKey 5 13 0, .mem f (.g 0) m y)
  | .xrd f r d m e => some (opKey 5 14 0, { Enc.memI f d m e with low := r.code })
  | .enq d m y => some (opKey 5 15 0, .mem .raw d m y)
  | .deq d m => some (opKey 5 16 0, (Enc.zero.wDst d).wBase m)
  | .barm m y => some (opKey 5 17 0, .mem .raw (.g 0) m y)
  | .btake m y => some (opKey 5 19 0, .mem .raw (.g 0) m y)
  | .bput m => some (opKey 5 18 0, Enc.zero.wBase m)
  | .cpy v m => some (opKey 5 20 0, { Enc.zero with low := v.code }.wBase m)
  | .cpyb v m => some (opKey 5 21 0, { Enc.zero with low := v.code }.wBase m)
  | .gath m => some (opKey 5 22 0, Enc.zero.wBase m)
  | .route m => some (opKey 5 23 0, Enc.zero.wBase m)
  | .inv s x => some (opKey 5 24 0, { Enc.zero with low := s.code, b := x.num })
  | .fence k s => some (opKey 5 24 1, { Enc.zero with low := s.code, a := k.code })
  | .send rel m => some (opKey 6 0 0, { Enc.zero with low := bitOf rel }.wBase m)
  | .sendn rel m => some (opKey 6 1 0, { Enc.zero with low := bitOf rel }.wBase m)
  | .mcast rel m y => some (opKey 6 2 0, ({ Enc.zero with low := bitOf rel }.wBase m).wB y)
  | .spawn m => some (opKey 6 3 0, Enc.zero.wBase m)
  | .migrate y => some (opKey 6 4 0, Enc.zero.wB y)
  | .sleep y => some (opKey 6 5 0, Enc.zero.wB y)
  | .tsub m => some (opKey 6 6 0, Enc.zero.wBase m)
  | .evsig x y => some (opKey 6 7 0, (Enc.zero.wA x).wB y)
  | .evwait x y => some (opKey 6 8 0, (Enc.zero.wA x).wB y)
  | .launch m => some (opKey 6 9 0, Enc.zero.wBase m)
  | .rand d y => some (opKey 6 10 0, (Enc.zero.wDst d).wB y)
  | .claim x y => some (opKey 6 11 0, (Enc.zero.wA x).wB y)
  | .tlbinv x y => some (opKey 6 12 0, (Enc.zero.wA x).wB y)
  | .tmark x y => some (opKey 6 13 0, (Enc.zero.wA x).wB y)
  | .wdog d => some (opKey 6 14 0, Enc.zero.wDst d)
  | .trap e => some (opKey 6 15 0, { Enc.zero with imm := e })
  | .sysc e => some (opKey 6 16 0, { Enc.zero with imm := e })
  | .eret => some (opKey 6 17 0, .zero)
  | .bkpt => some (opKey 6 17 1, .zero)
  | .swld d m e => some (opKey 7 0 0, .memI .raw d m e)
  | .swst d m e => some (opKey 7 1 0, .memI .raw d m e)
  | .swadd d m y => some (opKey 7 2 0, .mem .raw d m y)
  | .swlaw d m y => some (opKey 7 3 0, .mem .raw d m y)
  | .step d x y => some (opKey 7 4 0, .arith .raw d x y)
  | .swsweep y => some (opKey 7 5 0, Enc.zero.wB y)
  | .knew d y => some (opKey 7 6 0, (Enc.zero.wDst d).wB y)
  | .kenrol d m y => some (opKey 7 7 0, .mem .raw d m y)
  | .kfree y => some (opKey 7 8 0, Enc.zero.wB y)
  | .kread d y => some (opKey 7 9 0, (Enc.zero.wDst d).wB y)
  | .ksettle d y => some (opKey 7 10 0, (Enc.zero.wDst d).wB y)
  | .kmove x y => some (opKey 7 11 0, (Enc.zero.wA x).wB y)
  | .pjoin x y => some (opKey 7 12 0, (Enc.zero.wA x).wB (.reg y))
  | .resample d x => some (opKey 7 13 0, { Enc.zero with d := d.num, a := x.num })
  | .pleave => some (opKey 7 14 0, .zero)
  | .messageDeparture _ | .messageArrival _ | .activationStart _ | .handler0Delivery _
  | .accessPerform _ | .accessReply _ | .closeNotice _ | .rollupIncrement _ _
  | .strandWake _ | .sleepTimeout _ | .syscReply _ | .tlbinvComplete _
  | .engineAcceptCommand _ | .copyPlain _ | .copyEncode _ | .copyDecode _
  | .q4gUnpack _ | .gather _ | .routeAssign _ | .engineCredit _
  | .completionEntryPush _ | .macroOpStep _ | .tileCommandExecute _ | .taskReady _ _
  | .taskDispatch _ | .stealAttempt _ | .launchAccept _ | .launchPlacement _
  | .placementStep _ | .wakeMessage _ _ _ | .residentStrandStart _ | .strandSpill _
  | .contextRestore _ | .launchRestore _ _ | .launchEnd _ _ | .migrateArrival _
  | .sidingForward _ | .resampleCollective _ _ | .clonePlacement _ | .sweepPass _ _
  | .sweepEvolution _ | .strandWatchdogExpiry _ | .partitionWatchdogExpiry _ | .translationMiss _
  | .translationFaultAnswer _ _ _ | .fatalFaultStop _ | .dumpWrite _ | .teardownPoint _
  | .domainRelease _ | .partitionReset _ | .partitionEvent _ | .planeChange _
  | .flitResend _ | .hostBar2Access _ _ _ _ _ | .launchQueueDoorbell _ _ | .messageQueueDoorbell _ _
  | .resultQueueHeadWrite _ _ | .queueSizeWrite _ _ _ | .ipendClear _ _ | .imaskWrite _ _
  | .qerrClear _ | .rstreq _ | .hostLaunchEntry _ | .hostMessageEntry _
  | .partitionLive _ _ | .powerOn | .bootFailedStart _ | .bootRestart
  | .identityChallenge _ | .powerSample _ _ _ | .powerManagerUpdate _ | .clusterUngate _
  | .clusterThermalThrottle _ _ | .thermalShutdown _ _ | .patrolScrub _ _ | .errorLogEntryClear _ _
  | .injectionRegisterWrite _ _ _ | .traceRingControlWrite _ _ _ _ | .traceRingRdAdvance _ _ _ | .debugControlWrite _ _
  | .debugStopCell _ _ | .debugStopPartition _ | .debugHardenStop _ _ | .debugResumeCell _ _
  | .debugResumePartition _ | .debugStep _ _ _ | .debugContextSave _ _ _ | .debugContextLoad _ _ _
  | .stopComplete _ | .replayDivergence _ _ | .registerWrite _ _ | .illegalEncoding _ _
  | .sequencerExecute _ | .translationWalk _ | .ldcLineEviction _ _ _ | .softError _ _ _ _ => none

/-- The smallest number of `pfx.i` words for a value in a field of width `w` (R42); 5 where none fits. -/
def extCount (x : Desc) (e : Enc) : Nat :=
  let w := match x.imm with
    | .imm5 => 5
    | .offset8 => 8
    | _ => match x.imm with
      | .bcOffset => 0
      | _ => 3
  let fits (k : Nat) : Bool :=
    let n := w + 11 * k
    decide (-(2 ^ n : Int) ≤ 2 * e.imm ∧ 2 * e.imm < 2 ^ n)
  let pos : Nat := if fits 1 then 1 else if fits 2 then 2 else if fits 3 then 3 else if fits 4 then 4 else 5
  match x.imm with
  | .imm5 | .offset8 => if fits 0 then 0 else pos
  | .bcOffset => pos
  | .selector => 0
  | .none =>
    if x.word = .r then
      match e.kb with
      | 3 => if 0 ≤ e.imm ∧ e.imm ≤ 7 then 0 else pos
      | 2 => if 64 ≤ e.b then 1 else 0
      | _ => 0
    else 0

/-- The payloads of `k` `pfx.i` words above a field of width `w`, in stream order (R83). -/
def payloads (raw w : Nat) : Nat → List Nat
  | 0 => []
  | k + 1 => raw / 2 ^ (w + 11 * k) % 2048 :: payloads raw w k

/-- The words of an instruction with the fields `e` under the row `row`, prefixes in the canonical order of R41. -/
def encodeFields (row : Row) (e : Enc) : List Nat :=
  let x := row.desc
  let page := row.key / 1024
  let op := row.key / 32 % 32
  let sub := row.key % 32
  let k := extCount x e
  let w := match x.imm with
    | .imm5 => 5
    | .offset8 => 8
    | .bcOffset => 0
    | _ => 3
  let raw := wrapBits (w + 11 * k) e.imm
  let isLit : Bool := decide (x.word = .r ∧ e.kb = 3 ∧ x.imm = .none)
  let isConst : Bool := decide (x.word = .r ∧ e.kb = 2)
  let pi := if isConst ∧ x.imm = .none then (if 64 ≤ e.b then [e.b / 64] else [])
    else if x.imm = .selector then [] else payloads raw w k
  let bNum := if isLit then raw % 8 else e.b % 64
  let dh := e.d / 8
  let ah := e.a / 8
  let bh := if isLit then 0 else bNum / 8
  let r := match x.word with
    | .s => ah * 8 + bh
    | .b => 512 + dh * 64
    | _ => e.ka * 512 + dh * 64 + ah * 8 + bh
  let rDefault := match x.word with
    | .s => 0
    | .b => 512
    | _ => x.defaultA * 512
  let mod := if x.lay = .v then e.low else e.fmt * 8 + e.low
  let v := e.mask * 256 + bitOf e.mz * 128 + bitOf e.tz * 64 + e.lmul * 8 + bitOf e.sat * 4
  let base := op * 2048 + match x.word with
    | .r => e.d % 8 * 256 + e.a % 8 * 32 + e.kb * 8 + bNum % 8
    | .i => e.d % 8 * 256 + e.a % 8 * 32 + (if x.imm = .selector then e.imm.toNat % 32 else raw % 32)
    | .b => e.d % 8 * 256 + raw % 256
    | .s => sub * 64 + e.a % 8 * 8 + e.b % 8
  pi.map (0xE000 + ·)
    ++ (if r ≠ rDefault then [0xE800 + r] else [])
    ++ (if page ≠ 0 ∨ mod ≠ impliedModifier row.key then [0xF000 + page * 128 + mod] else [])
    ++ (if v ≠ 0 then [0xF800 + v] else [])
    ++ [base]

/-- The words of an instruction; empty for an event, which has no encoding. -/
def encode (i : Instr) : List Nat :=
  match toEnc i with
  | none => []
  | some (key, e) =>
    match findRow (key / 1024) (key / 32 % 32) (key % 32) with
    | none => []
    | some row => encodeFields row e

/-- Does the instruction have an encoding within four prefix words (R76, R84)? -/
def encodable (i : Instr) : Bool := decide (1 ≤ (encode i).length ∧ (encode i).length ≤ 5)

/-- The instruction as the assembler spells it: a scope suffix that names the default scope leaves the scope at its
default (R40, R85). -/
def Instr.spelled : Instr → Instr
  | .fence k .device => .fence k .dflt
  | .inv .cluster x => .inv .dflt x
  | i => i

/-- The words that the assembler emits (R40). `encode` is the inverse of the decoder and keeps an explicit scope code,
which a word may hold (R85); the assembler never emits one that names the default scope. An instruction that would
need more than four prefix words is an error, `none`: nothing is emitted for it (R41). -/
def assemble (i : Instr) : Option (List Nat) :=
  if encodable i.spelled then some (encode i.spelled) else none

/-- The bytes of a list of words as memory holds them: each word little-endian, the first word lowest (R76). -/
def bytesOfWords : List Nat → List Byte
  | [] => []
  | w :: ws => BitVec.ofNat 8 (w % 256) :: BitVec.ofNat 8 (w / 256 % 256) :: bytesOfWords ws

/-- The stream words of a row of spec/opcode_table.json. The table writes a two-word row as one 32-bit number whose
HIGH half is the first word of the stream (the prefix) and whose low half is the base word (log entry 3). A number
whose low half is a prefix word can only be the other order, the first word lowest: it is taken as such. -/
def tableWords (nbits w : Nat) : List Nat :=
  let lo := w % 65536
  let hi := w / 65536 % 65536
  if nbits ≤ 16 then [lo] else if isPrefixWord lo then [lo, hi] else [hi, lo]

/-- The instruction that the decoder reads from the bits of an opcode-table row. -/
def decodeTableWord (nbits w : Nat) : Option Instr :=
  match decode (bytesOfWords (tableWords nbits w)) with
  | .ok i _ => some i
  | _ => none

end Sys2Proof
end

