-- ==== Sys2Proof/Machine/Num.lean ====
section
/-! DEFINITION. Number formats (R48-R57, R61) and the arithmetic of R69-R73: floating-point values as exact dyadic
numbers, one rounding function for every mode and format, conversions, and the correctly rounded special functions.
Everything is computed exactly on natural numbers and integers and narrowed once at the end. -/

namespace Sys2Proof

/-- The four rounding modes of R50, coded as rmode (R25). -/
inductive RMode where
  | rne | rtz | rdn | rup
  deriving DecidableEq, Repr

/-- The mode with an rmode code (R25). -/
def RMode.ofCode (n : Nat) : RMode :=
  match n % 4 with
  | 0 => .rne
  | 1 => .rtz
  | 2 => .rdn
  | _ => .rup

def RMode.code : RMode → Nat
  | .rne => 0 | .rtz => 1 | .rdn => 2 | .rup => 3

/-- The mode that a `rnd` key names, with `dyn` the strand's rmode (R50, R111). -/
def Rnd.mode (r : Rnd) (dyn : RMode) : RMode :=
  match r with
  | .dyn => dyn
  | .rne => .rne
  | .rtz => .rtz
  | .rdn => .rdn
  | .rup => .rup

namespace Fmt

/-- The width in bits of a code of a format (R28, R124); raw is n64. -/
def bits : Fmt → Nat
  | .s8 | .n8 | .e4m3 | .e5m2 => 8
  | .s16 | .n16 | .bf16 | .f16 => 16
  | .s32 | .n32 | .f32 => 32
  | .raw | .s64 => 64
  | .h4 | .q4 => 4
  | .x96 => 96

/-- The size in bytes of a memory access of a format (R177). -/
def size (f : Fmt) : Nat := f.bits / 8

/-- Is it one of the five floating-point formats of R48? -/
def isFloat (f : Fmt) : Bool := f.isFp || f.isF8

/-- Mantissa bits (R48). -/
def manBits : Fmt → Nat
  | .bf16 => 7
  | .f16 => 10
  | .e4m3 => 3
  | .e5m2 => 2
  | _ => 23

/-- Exponent bits (R48). -/
def expBits : Fmt → Nat
  | .f16 | .e5m2 => 5
  | .e4m3 => 4
  | _ => 8

/-- Exponent bias (R48). -/
def bias (f : Fmt) : Nat := 2 ^ (f.expBits - 1) - 1

/-- The exponent of the least unit: of a subnormal, and of the smallest normal binade. -/
def minExp (f : Fmt) : Int := 1 - (f.bias : Int) - f.manBits

/-- The largest exponent code of a finite number: E4M3 uses code 15 for numbers too (R48). -/
def maxExpCode (f : Fmt) : Nat := if f = .e4m3 then 15 else 2 ^ f.expBits - 2

/-- The largest finite code without its sign (R48). -/
def maxCode (f : Fmt) : Nat := if f = .e4m3 then 0x7E else f.maxExpCode * 2 ^ f.manBits + (2 ^ f.manBits - 1)

/-- The code of +∞, for the formats that have one (R48). -/
def infCode (f : Fmt) : Nat := (2 ^ f.expBits - 1) * 2 ^ f.manBits

/-- The canonical NaN (R49). -/
def nanCode (f : Fmt) : Nat := if f = .e4m3 then 0x7F else f.infCode + 2 ^ (f.manBits - 1)

/-- The weight of the sign bit. -/
def signBit (f : Fmt) : Nat := 2 ^ (f.bits - 1)

end Fmt

/-! ### Values -/

/-- A floating-point value: NaN, an infinity, or (-1)^neg × m × 2^e; m = 0 is a signed zero. -/
inductive FVal where
  | nan
  | inf (neg : Bool)
  | fin (neg : Bool) (m : Nat) (e : Int)
  deriving DecidableEq, Repr

/-- The value of a code of a floating-point format (R48). -/
def fdecode (f : Fmt) (x : Nat) : FVal :=
  let mb := f.manBits
  let neg := bitAt x (f.bits - 1)
  let ex := x / 2 ^ mb % 2 ^ f.expBits
  let m := x % 2 ^ mb
  if f = .e4m3 ∧ ex = 15 ∧ m = 7 then .nan
  else if f ≠ .e4m3 ∧ ex = 2 ^ f.expBits - 1 then (if m = 0 then .inf neg else .nan)
  else if ex = 0 then .fin neg m f.minExp
  else .fin neg (2 ^ mb + m) (f.minExp + ((ex : Int) - 1))

/-- An infinite value in a result format (R51): E4M3 has none and takes ±448. -/
def infResult (f : Fmt) (neg : Bool) : Nat :=
  bitOf neg * f.signBit + (if f = .e4m3 then f.maxCode else f.infCode)

/-- An overflowing result (R51). -/
def overflowResult (f : Fmt) (mode : RMode) (sat neg : Bool) : Nat :=
  let toMax : Bool := sat || f == .e4m3 || match mode with
    | .rne => false
    | .rtz => true
    | .rdn => !neg
    | .rup => neg
  bitOf neg * f.signBit + (if toMax then f.maxCode else f.infCode)

/-- Does a mode round a magnitude `hi` units and a remainder `lo` of 2^sh (plus something below, if `sticky`) up? -/
def roundsUp (mode : RMode) (neg sticky : Bool) (hi lo sh : Nat) : Bool :=
  let inexact : Bool := lo != 0 || sticky
  match mode with
  | .rne => decide (2 * lo > 2 ^ sh) || (decide (2 * lo = 2 ^ sh) && (sticky || hi % 2 == 1))
  | .rtz => false
  | .rdn => neg && inexact
  | .rup => !neg && inexact

/-- The one rounding (R50, R51): the magnitude m × 2^e, or when `sticky` a value strictly between it and
(m + 1) × 2^e, in the format f. With `sticky`, m must have more than manBits + 2 bits. -/
def roundMag (f : Fmt) (mode : RMode) (sat neg : Bool) (m : Nat) (sticky : Bool) (e : Int) : Nat :=
  if m = 0 ∧ sticky = false then bitOf neg * f.signBit
  else
    let p := f.manBits + 1
    let q := max (e + bitLength m - p) f.minExp
    let (r, q) :=
      if q ≤ e then (m * 2 ^ (e - q).toNat, q)
      else
        let sh := (q - e).toNat
        let hi := m / 2 ^ sh
        let r := hi + bitOf (roundsUp mode neg sticky hi (m % 2 ^ sh) sh)
        if r = 2 ^ p then (r / 2, q + 1) else (r, q)
    let field := (q - f.minExp).toNat * 2 ^ f.manBits + r
    if f.maxCode < field then overflowResult f mode sat neg else bitOf neg * f.signBit + field

/-- A value written in a format: rounded once, NaN canonical (R49-R51). -/
def FVal.toCode (f : Fmt) (mode : RMode) (sat : Bool) : FVal → Nat
  | .nan => f.nanCode
  | .inf neg => infResult f neg
  | .fin neg m e => roundMag f mode sat neg m false e

namespace FVal

/-- The exact value of an integer. -/
def ofInt (x : Int) : FVal := .fin (decide (x < 0)) x.natAbs 0

def neg : FVal → FVal
  | .nan => .nan
  | .inf n => .inf (!n)
  | .fin n m e => .fin (!n) m e

def abs : FVal → FVal
  | .nan => .nan
  | .inf _ => .inf false
  | .fin _ m e => .fin false m e

def isZero : FVal → Bool
  | .fin _ m _ => m == 0
  | _ => false

def isNan : FVal → Bool
  | .nan => true
  | _ => false

def isNeg : FVal → Bool
  | .nan => false
  | .inf n => n
  | .fin n _ _ => n

/-- A finite value as an integer at exponent `e`, which must not be above its own. -/
def scaled (neg : Bool) (m : Nat) (x e : Int) : Int :=
  let y : Int := m * 2 ^ (x - e).toNat
  if neg then -y else y

/-- The exact product (R69): 0 × ∞ is NaN. -/
def mul (x y : FVal) : FVal :=
  match x, y with
  | .nan, _ => .nan
  | _, .nan => .nan
  | .inf a, .inf b => .inf (a != b)
  | .inf a, .fin b m _ => if m = 0 then .nan else .inf (a != b)
  | .fin a m _, .inf b => if m = 0 then .nan else .inf (a != b)
  | .fin a m e, .fin b n k => .fin (a != b) (m * n) (e + k)

/-- The exact sum (R69): an exact zero of unlike terms is +0, or -0 under rdn. -/
def add (mode : RMode) (x y : FVal) : FVal :=
  match x, y with
  | .nan, _ => .nan
  | _, .nan => .nan
  | .inf a, .inf b => if a = b then .inf a else .nan
  | .inf a, .fin _ _ _ => .inf a
  | .fin _ _ _, .inf b => .inf b
  | .fin a m e, .fin b n k =>
    let e' := min e k
    let s := scaled a m e e' + scaled b n k e'
    if s = 0 then .fin (if m = 0 ∧ n = 0 ∧ a = b then a else decide (mode = .rdn)) 0 0
    else .fin (decide (s < 0)) s.natAbs e'

def sub (mode : RMode) (x y : FVal) : FVal := add mode x y.neg

/-- The order of two values that are not NaN: -1, 0 or 1; +0 = -0. -/
def cmp (x y : FVal) : Int :=
  match x, y with
  | .inf a, .inf b => bitOf b - bitOf a
  | .inf a, _ => if a then -1 else 1
  | _, .inf b => if b then 1 else -1
  | .fin a m e, .fin b n k =>
    let e' := min e k
    let d := scaled a m e e' - scaled b n k e'
    if d < 0 then -1 else if d = 0 then 0 else 1
  | _, _ => 0

end FVal

/-- x / y rounded once (R112). -/
def fdivCode (f : Fmt) (mode : RMode) (sat : Bool) (x y : FVal) : Nat :=
  match x, y with
  | .nan, _ => f.nanCode
  | _, .nan => f.nanCode
  | .inf _, .inf _ => f.nanCode
  | .inf a, .fin b _ _ => infResult f (a != b)
  | .fin a _ _, .inf b => bitOf (a != b) * f.signBit
  | .fin a m e, .fin b n k =>
    if n = 0 then (if m = 0 then f.nanCode else infResult f (a != b))
    else if m = 0 then bitOf (a != b) * f.signBit
    else
      let sh := f.manBits + 6 + bitLength n - bitLength m
      let num := m * 2 ^ sh
      roundMag f mode sat (a != b) (num / n) (num % n != 0) (e - k - sh)

/-- The integer square root, bit by bit from bit k - 1. -/
def isqrtFrom (n r : Nat) : Nat → Nat
  | 0 => r
  | k + 1 => if (r + 2 ^ k) * (r + 2 ^ k) ≤ n then isqrtFrom n (r + 2 ^ k) k else isqrtFrom n r k

/-- ⌊√n⌋. -/
def isqrt (n : Nat) : Nat := isqrtFrom n 0 (bitLength n / 2 + 1)

/-- √x rounded once (R112). -/
def fsqrtCode (f : Fmt) (mode : RMode) : FVal → Nat
  | .nan => f.nanCode
  | .inf neg => if neg then f.nanCode else infResult f false
  | .fin neg m e =>
    if m = 0 then bitOf neg * f.signBit
    else if neg then f.nanCode
    else
      let sh := 2 * (f.manBits + 5) + (if e % 2 = 0 then 0 else 1)
      let n := m * 2 ^ sh
      let r := isqrt n
      roundMag f mode false false r (r * r != n) ((e - sh) / 2)

/-- Rounds m × 2^e with a sign to an integer under a mode. -/
def roundToInt (mode : RMode) (neg : Bool) (m : Nat) (e : Int) : Int :=
  let r : Nat :=
    if 0 ≤ e then m * 2 ^ e.toNat
    else
      let sh := (-e).toNat
      let hi := m / 2 ^ sh
      hi + bitOf (roundsUp mode neg false hi (m % 2 ^ sh) sh)
  if neg then -(r : Int) else r

/-! ### Integers (R52, R100) -/

namespace Fmt

/-- The least value of an integer format. -/
def minInt (f : Fmt) : Int := if f.isS then -2 ^ (f.bits - 1) else 0

/-- The greatest value of an integer format. -/
def maxInt (f : Fmt) : Int := if f.isS then 2 ^ (f.bits - 1) - 1 else 2 ^ f.bits - 1

/-- `val(x, F)` of R100 for an integer format: the low n bits, sign- or zero-extended. -/
def intVal (f : Fmt) (x : Nat) : Int := if f.isS then signedBits f.bits x else (lowBits f.bits x : Int)

/-- An exact integer clamped to the format's range (R52, `.sat`). -/
def clamp (f : Fmt) (x : Int) : Int := max f.minInt (min f.maxInt x)

/-- An exact integer written at the format's width: wrapped, or clamped under `.sat` (R52). -/
def narrow (f : Fmt) (sat : Bool) (x : Int) : Nat := wrapBits f.bits (if sat then f.clamp x else x)

/-- A field of the format's width extended to 64 bits: sign for an s format, zero for an n format (R100). -/
def extend (f : Fmt) (x : Nat) : Nat := if f.isS then wrapBits 64 (signedBits f.bits x) else lowBits f.bits x

/-- The exact result reduced modulo 2^n and extended to 64 bits (R100). -/
def put (f : Fmt) (x : Int) : Nat := f.extend (wrapBits f.bits x)

end Fmt

/-- The shifts of R107 on an n-bit field: the field shifted left. -/
def shlField (n x c : Nat) : Nat := if c < n then lowBits n (x * 2 ^ c) else 0

/-- The field shifted right with zeros. -/
def shrField (n x c : Nat) : Nat := if c < n then lowBits n x / 2 ^ c else 0

/-- The field shifted right with copies of its top bit. -/
def sraField (n x c : Nat) : Nat := wrapBits n (shiftFloor (signedBits n x) (min c n))

/-- The field rotated left by c mod n. -/
def rotlField (n x c : Nat) : Nat :=
  let y := lowBits n x
  let k := c % n
  lowBits n (y * 2 ^ k) + y / 2 ^ (n - k) % 2 ^ n

/-! ### Conversions (R56) -/

/-- The H4 level of a code, n + 1/2 (R53). -/
def h4Val (c : Nat) : FVal :=
  let x : Int := 2 * signedBits 4 c + 1
  .fin (decide (x < 0)) x.natAbs (-1)

/-- The Q4 level L(c) × 256 (R54). -/
def q4Level (c : Nat) : Int :=
  match c % 16 with
  | 0 => -256 | 1 => -181 | 2 => -139 | 3 => -107 | 4 => -80 | 5 => -55 | 6 => -33 | 7 => -11
  | 8 => 11 | 9 => 33 | 10 => 55 | 11 => 80 | 12 => 107 | 13 => 139 | 14 => 181 | _ => 256

/-- The exact value of a code in any scalar or vector format. -/
def valueOf (f : Fmt) (x : Nat) : FVal :=
  match f with
  | .h4 => h4Val x
  | .f32 | .bf16 | .f16 | .e4m3 | .e5m2 => fdecode f x
  | _ => .ofInt (f.intVal x)

/-- A value rounded to an integer and clamped to a range; NaN gives `nan` (R56). -/
def toIntClamped (mode : RMode) (lo hi : Int) (onNan : Int) : FVal → Int
  | .nan => onNan
  | .inf neg => if neg then lo else hi
  | .fin neg m e => max lo (min hi (roundToInt mode neg m e))

/-- The code of a value in H4: x - 1/2 rounded and clamped to -8..7 (R56). -/
def toH4 (mode : RMode) (x : FVal) : Nat :=
  match x with
  | .nan => 0
  | _ => wrapBits 4 (toIntClamped mode (-8) 7 0 (x.add .rne (.fin true 1 (-1))))

/-- A conversion from format p to format q (R56): the code of the result at the width of q. R56 calls h4 to a floating format
exact; of the levels that e5m2 cannot hold the code is rounded under `mode`. From h4 to h4, a row that R56 lacks, the code stays
(log entry 111). -/
def convert (p q : Fmt) (mode : RMode) (sat : Bool) (x : Nat) : Nat :=
  if q.isFloat then (valueOf p x).toCode q mode sat
  else if q = .h4 then toH4 mode (valueOf p x)
  else if p.isInt then q.narrow sat (p.intVal x)
  else wrapBits q.bits (toIntClamped mode q.minInt q.maxInt 0 (valueOf p x))

/-! ### Element-wise floating point (R69, R112-R114) -/

def faddCode (f : Fmt) (mode : RMode) (sat : Bool) (x y : Nat) : Nat :=
  ((fdecode f x).add mode (fdecode f y)).toCode f mode sat

def fsubCode (f : Fmt) (mode : RMode) (sat : Bool) (x y : Nat) : Nat :=
  ((fdecode f x).sub mode (fdecode f y)).toCode f mode sat

def fmulCode (f : Fmt) (mode : RMode) (sat : Bool) (x y : Nat) : Nat :=
  ((fdecode f x).mul (fdecode f y)).toCode f mode sat

/-- round(x × y + z), one rounding. -/
def fmaCode (f : Fmt) (mode : RMode) (sat : Bool) (x y z : Nat) : Nat :=
  (((fdecode f x).mul (fdecode f y)).add mode (fdecode f z)).toCode f mode sat

/-- The lesser member of {x, y}: NaN if either is NaN, -0 below +0 (R113). -/
def fminCode (f : Fmt) (x y : Nat) : Nat :=
  let a := fdecode f x
  let b := fdecode f y
  if a.isNan || b.isNan then f.nanCode
  else
    let c := a.cmp b
    if c < 0 ∨ (c = 0 ∧ a.isNeg) then lowBits f.bits x else lowBits f.bits y

/-- The greater member of {x, y} (R113). -/
def fmaxCode (f : Fmt) (x y : Nat) : Nat :=
  let a := fdecode f x
  let b := fdecode f y
  if a.isNan || b.isNan then f.nanCode
  else
    let c := a.cmp b
    if c > 0 ∨ (c = 0 ∧ b.isNeg) then lowBits f.bits x else lowBits f.bits y

/-- The conditions of `fcmp` (R113). -/
def fcmpHolds (f : Fmt) (c : FCond) (x y : Nat) : Bool :=
  let a := fdecode f x
  let b := fdecode f y
  let un := a.isNan || b.isNan
  let o := a.cmp b
  match c with
  | .eq => !un && decide (o = 0)
  | .lt => !un && decide (o < 0)
  | .le => !un && decide (o ≤ 0)
  | .un => un
  | .ne => un || decide (o ≠ 0)

/-- The class bit of `fclass` (R114). -/
def fclassBits (f : Fmt) (x : Nat) : Nat :=
  match fdecode f x with
  | .nan => 2 ^ 8
  | .inf neg => if neg then 2 ^ 0 else 2 ^ 7
  | .fin neg m _ =>
    if m = 0 then (if neg then 2 ^ 3 else 2 ^ 4)
    else if m < 2 ^ f.manBits then (if neg then 2 ^ 2 else 2 ^ 5)
    else (if neg then 2 ^ 1 else 2 ^ 6)

/-! ### Exact sums with special terms (R64, R70) -/

/-- The sum of a list of terms, exact: NaN if any is NaN or both infinities occur, an infinity if one occurs; an exact
zero is -0 only if every term is -0; an empty sum is +0 (R64 steps 1-4, R70). -/
def sumExact (ts : List FVal) : FVal :=
  if ts.any (·.isNan) then .nan
  else
    let pinf := ts.any (· == .inf false)
    let ninf := ts.any (· == .inf true)
    if pinf && ninf then .nan
    else if pinf then .inf false
    else if ninf then .inf true
    else
      let s := ts.foldl (FVal.add .rne) (.fin false 0 0)
      match s with
      | .fin _ 0 _ => .fin (!ts.isEmpty && ts.all fun t => t.isNeg && t.isZero) 0 0
      | _ => s

/-! ### Special functions (R71-R73) -/

/-- Fractional bits of the fixed-point evaluations: far beyond the worst case of a 24-bit rounding. -/
def fixBits : Nat := 192

/-- z - z^3/3 … of atanh, all positive: `pow` holds z^(2k+1), `n` is 2k+1, for `fuel` terms. -/
def atanhTerms (z2 : Nat) : Nat → Nat → Nat → Nat
  | 0, _, _ => 0
  | k + 1, pow, n => pow / n + atanhTerms z2 k (pow * z2 / 2 ^ fixBits) (n + 2)

/-- ln(m) for m = num/den with 1 ≤ m ≤ 2, as 2 atanh((m - 1)/(m + 1)) in fixed point. -/
def lnFix (num den : Nat) : Nat :=
  let z := (num - den) * 2 ^ fixBits / (num + den)
  2 * atanhTerms (z * z / 2 ^ fixBits) 70 z 1

/-- ln 2 in fixed point. -/
def ln2Fix : Nat := lnFix 2 1

/-- The terms t^k/k! of e^t in fixed point. -/
def expTerms (t : Nat) : Nat → Nat → Nat → Nat
  | 0, _, _ => 0
  | k + 1, term, n => term + expTerms t k (term * t / 2 ^ fixBits / (n + 1)) (n + 1)

/-- 2^x for an FP32 value, rounded rne (R71). -/
def exp2Val : FVal → Nat
  | .nan => Fmt.nanCode .f32
  | .inf neg => if neg then 0 else Fmt.infCode .f32
  | .fin neg m e =>
    if m = 0 then 0x3F800000
    else if 9 ≤ e + bitLength m - 1 then (if neg then 0 else Fmt.infCode .f32)
    else
      let x : Int := if 0 ≤ e then (m * 2 ^ e.toNat : Nat) * 2 ^ fixBits else (m * 2 ^ fixBits / 2 ^ (-e).toNat : Nat)
      let x := if neg then -x else x
      let exact : Bool := decide (0 ≤ e) || m % 2 ^ (-e).toNat == 0
      let i := x / 2 ^ fixBits
      let frac := (x % 2 ^ fixBits).toNat
      if exact then roundMag .f32 .rne false false 1 false i
      else roundMag .f32 .rne false false (expTerms (frac * ln2Fix / 2 ^ fixBits) 60 (2 ^ fixBits) 0) true (i - fixBits)

/-- `vexp2` on an FP32 code. -/
def exp2Code (x : Nat) : Nat := exp2Val (fdecode .f32 x)

/-- `vlog2` on an FP32 code, rounded rne (R71). -/
def log2Code (x : Nat) : Nat :=
  match fdecode .f32 x with
  | .nan => Fmt.nanCode .f32
  | .inf neg => if neg then Fmt.nanCode .f32 else Fmt.infCode .f32
  | .fin neg m e =>
    if m = 0 then Fmt.signBit .f32 + Fmt.infCode .f32
    else if neg then Fmt.nanCode .f32
    else
      let l := bitLength m - 1
      let i : Int := e + l
      if m = 2 ^ l then (FVal.ofInt i).toCode .f32 .rne false
      else
        let y : Int := i * 2 ^ fixBits + (lnFix m (2 ^ l) * 2 ^ fixBits / ln2Fix : Nat)
        roundMag .f32 .rne false (decide (y < 0)) y.natAbs true (-(fixBits : Int))

/-- `vrcp` on an FP32 code (R71). -/
def rcpCode (x : Nat) : Nat := fdivCode .f32 .rne false (.fin false 1 0) (fdecode .f32 x)

/-- `vrsq` on an FP32 code (R71): -0 gives -∞. -/
def rsqCode (x : Nat) : Nat :=
  match fdecode .f32 x with
  | .nan => Fmt.nanCode .f32
  | .inf neg => if neg then Fmt.nanCode .f32 else 0
  | .fin neg m e =>
    if m = 0 then infResult .f32 neg
    else if neg then Fmt.nanCode .f32
    else
      -- 1/√(m × 2^e): with e made even, ⌊√(2^2k / m)⌋ units of 2^(-k - e/2)
      let m' := if e % 2 = 0 then m else 2 * m
      let e' := if e % 2 = 0 then e else e - 1
      let k := 32 + bitLength m'
      let r := isqrt (2 ^ (2 * k) / m')
      roundMag .f32 .rne false false r (r * r * m' != 2 ^ (2 * k)) (-(k : Int) - e' / 2)

/-- rne(x + y) on FP32 codes. -/
def radd (x y : Nat) : Nat := faddCode .f32 .rne false x y
/-- rne(x × y) on FP32 codes. -/
def rmul (x y : Nat) : Nat := fmulCode .f32 .rne false x y
/-- The FP32 code with its sign changed: exact negation (R72); a NaN stays canonical. -/
def rneg (x : Nat) : Nat := (fdecode .f32 x).neg.toCode .f32 .rne false

/-- `vsigm` on an FP32 code (R72). -/
def sigmCode (x : Nat) : Nat :=
  let t1 := rmul x 0x3FB8AA3B
  let t2 := exp2Code (rneg t1)
  let t3 := radd 0x3F800000 t2
  rcpCode t3

/-- `vtanh` on an FP32 code (R73). -/
def tanhCode (x : Nat) : Nat :=
  match fdecode .f32 x with
  | .nan => Fmt.nanCode .f32
  | v =>
    let s := bitOf v.isNeg * Fmt.signBit .f32
    let a := x % Fmt.signBit .f32
    if a < 0x39800000 then s + a
    else
      let t1 := rmul a 0x4038AA3B
      let e := exp2Code (rneg t1)
      let n := fsubCode .f32 .rne false 0x3F800000 e
      let d := radd 0x3F800000 e
      s + fdivCode .f32 .rne false (fdecode .f32 n) (fdecode .f32 d)

/-- exp2(-softplus(x)) as `tgate.expsp` composes it (R169). -/
def expspCode (x : Nat) : Nat :=
  let t1 := rmul x 0x3FB8AA3B
  let t2 := exp2Code t1
  let t3 := radd 0x3F800000 t2
  let t4 := log2Code t3
  let sp := rmul t4 0x3F317218
  exp2Code (rneg sp)

end Sys2Proof
end

