-- ==== Sys2Proof/Config.lean ====
section
/-! DEFINITION. What an implementation fixes, and the free values: values that the manual leaves open. A free value is an
opaque constant with no body, so that a claim about the machine holds whatever it is. -/

namespace Sys2Proof.Config

/-- The data bits that an uncorrectable word returns (R313 states that the word is poisoned, not what it reads as); the
argument is State.free (log entry 20). -/
opaque poisonData : Nat → BitVec 64

/-- What a unit of this device reads in another device's memory (R274): the argument is State.free (log entry 9). -/
opaque remoteData : Nat → BitVec 64

/-- The syndrome that an error log records (R314 gives the field, no code); the arguments are the inverted data and
check bits (log entry 21). -/
opaque syndrome : BitVec 64 → BitVec 8 → BitVec 8

/-- Byte `i` of the SHAKE256 digest of the identity public key (R361 service 6, R365): the key comes from a physically
unclonable function (log entry 22). -/
opaque identityDigest : Nat → BitVec 8

/-- Byte `i` (0-63) of the public key at 0x100-0x13F of physical function 0 (R365; log entry 22). -/
opaque publicKey : Nat → BitVec 8

/-- The signature of a challenge (R365), given by bytes: a function of the bytes that it signs, the nonce followed by the
SHAKE256 digest of the signed configuration record (log entry 22). -/
opaque signature : List (BitVec 8) → Nat → BitVec 8

/-- Byte `i` (0-31) of the SHAKE256 digest of a signed configuration record (R365): the record's layout in bytes and its
signature are not given; the arguments are the device number, the domain identifier, the planes present and the maximum power
limit that it holds (log entry 22). -/
opaque recordDigest : BitVec 8 → Nat → BitVec 32 → Nat → Nat → BitVec 8

/-- Whether byte `i` of an overlapping copy ends holding the original value of its source byte, or a byte that the
command wrote (R197 leaves it open); the first argument is State.free (log entry 23). -/
opaque overlapOriginal : Nat → Nat → Bool

/-- The current in mA and the voltage in mV of a rail at a multiple of 1,000 ns (R338 gives the record, no value): the first
argument is the multiple's number (log entry 24). -/
opaque railSample : Nat → Fin 18 → BitVec 32 × BitVec 16

/-- The core voltage in millivolts, less 550 and modulo 251, at which the power manager runs a clock for which R366 gives none
(log entry 25). -/
opaque coreVoltage : Nat → Nat

/-- The clock of a cluster after power-on in units of 100 MHz: 1.1 GHz nominal (R4, R366). -/
def nominalClock : Nat := 11

end Sys2Proof.Config
end

