-- ==== Sys2Proof/Machine/State.lean ====
section
/-! DEFINITION. The state of the PV8 as plain data: strands, cells, clusters, dies, partitions, memory, the units and
their queues, the host interface, boot and power. One device (number `device`) with the memory of its domain. Names
follow the manual's registers and fields. -/

namespace Sys2Proof.Machine

/-- Sparse data by number; an absent key stands for the default that the reader of the table names. -/
abbrev Tab (α : Type) := List (Nat × α)

/-! ### Strands -/

/-- An entry of a queue register q0-q7: a value with its tag (R23, R268), and its poison mark (R174). -/
structure QVal where
  val : Word
  tag : Fmt
  bad : Bool
  deriving DecidableEq, Repr

/-- An entry of q15: eight words (R24); `seq` is its arrival number at the strand (the model's own). -/
structure Q15 where
  seq : Nat
  words : List Word
  deriving DecidableEq, Repr

/-- Why a strand is blocked (R13). `issue`: its instruction could not issue or complete yet and is taken from its start
again when it wakes (R23, R102, R103, R130, R153, R181, R194, R210). -/
inductive Wait where
  | issue
  /-- `sleep` with its deadline, if it has one (R213). -/
  | sleep (deadline : Option Nat)
  /-- `btake`: a waiter at the barrier object's home (R192). -/
  | token (pa : Nat)
  /-- `evwait`: a waiter of an event (R214). -/
  | event (e : Nat)
  /-- A waiter that its home has served; the wake is on its way (R192, R214). -/
  | served
  /-- `sysc n`: the reply of the system image (R220). -/
  | sysc (n : Nat)
  /-- `resample`: the collective of a population (R252). -/
  | collective (pop : Nat)
  /-- A translation stall (R321): the walk or record that it waits for, and the 72-bit address that missed. -/
  | walk (id va : Nat)
  deriving DecidableEq, Repr

/-- The states of a slot (R13). `moving` is a context between two cells (R212) or waiting for a slot (R14); `stopped` one whose
slot a fatal fault or the stop of its domain has freed, kept for the dump (R323, R325). -/
inductive Status where
  | free | ready | running
  | blocked (w : Wait)
  | spilled (halted : Bool)
  | halted
  | moving
  | stopped
  deriving DecidableEq, Repr

/-- The loop state of `vrep` (R149-R151). The body instructions with their addresses are held while the loop runs. -/
structure Loop where
  active : Bool
  /-- A boundary inside the body has been taken and the loop is suspended (R151). -/
  suspended : Bool
  /-- Address of the `vrep`. -/
  pc : BitVec 40
  /-- k, the length of the body. -/
  k : Nat
  /-- Repetition count c, completed iterations, and the body index. -/
  count : Word
  iter : Word
  idx : Nat
  /-- The scalar resume point. -/
  srpc : Option (BitVec 40)
  /-- The queue q0-q3 that c is still to be popped from, when the loop comes to execute (R23, R128). -/
  due : Option (Fin 4)
  deriving DecidableEq, Repr

/-- The registers that a boundary before an unfinished vector instruction restores (R131). -/
structure Checkpoint where
  g : Vector Word 32
  gtag : Vector Fmt 32
  gpois : BitVec 32
  q : Vector (List QVal) 8
  q15 : List Q15
  qseq : Nat
  qpos : Nat
  rstat : Word
  /-- Control state, and the watchdog as it stands without what was issued since (R122, R223). -/
  trapv : BitVec 40
  wdog : BitVec 48
  rmode : RMode
  uab : BitVec 8
  wleft : BitVec 48
  wdue : Bool
  /-- The handler bit (R319), the loop state (R151), and the count of home operations to windows (R346). -/
  handler : Bool
  loop : Loop
  wops : Nat
  deriving DecidableEq, Repr

/-- A vector instruction in the sequencer (R130): its number in the strand's order, its addresses, its scalar operands
as captured at issue (R128), the rmode and uab in force (R25). -/
structure VEntry where
  num : Nat
  pc : BitVec 40
  npc : BitVec 40
  ins : Instr
  a : Option QVal
  b : Option QVal
  rmode : RMode
  uab : BitVec 8
  /-- Is it a body instruction of the running loop? -/
  body : Bool
  ckpt : Checkpoint
  /-- The walk that it stalls on, and the 72-bit address that missed (R321). -/
  walk : Option (Nat × Nat)
  /-- Its accesses have been sent to their homes (R261): the first element that a `vldff` leaves out, and the elements
  that have returned, as (element, value, poison). -/
  started : Bool
  cut : Option Nat
  got : List (Nat × Nat × Bool)
  deriving DecidableEq, Repr

/-- A `trd` or `twr` in q8 (R153, R164): the row, the tile, the register, the format, and the group that `twr` read.
`after` is the number of the next vector instruction behind it: the engine takes it up when the earlier ones have
completed (R131). -/
structure TileCmd where
  pc : BitVec 40
  after : Nat
  read : Bool
  f : Fmt
  v : Nat
  t : Nat
  row : Nat
  data : List Nat
  deriving DecidableEq, Repr

/-- A tile (R152, R57): elements that are not zero by index 128 i + j, tag, sticky bits, resume field, poisoned parts
(element × 2 + part). -/
structure Tile where
  elems : Tab Nat
  tag : Fmt
  rlost : Bool
  nfseen : Bool
  rvalid : Bool
  rstep : Nat
  rpc : BitVec 40
  rcell : Nat
  poison : List Nat
  deriving DecidableEq, Repr

/-- What a tile command that has completed past unfinished vector instructions replaced, until they have executed: a boundary
before one of them gives it back (R131, R153). `after` is the number of the next vector instruction behind the command. -/
structure TileSave where
  after : Nat
  /-- Tiles, as (cluster, number, tile), and vector registers, as (number, value, tag, poisoned nibbles). -/
  tiles : List (Nat × Nat × Tile)
  regs : List (Nat × BitVec 512 × Fmt × BitVec 128)
  terr : Option (BitVec 40)
  deriving DecidableEq, Repr

/-- A tile instruction under way at the strand's PC whose accesses are made one by one (R167, R276): the pieces of an image that
it has stored, or what it has read, latest first, each with the mask of its poisoned words; and the shape word that an `mmas`
has read. -/
structure TileOp where
  stored : Nat
  got : List (Nat × Nat)
  word : Option Nat
  deriving DecidableEq, Repr

/-- A strand (R11-R13, R22-R25, R32). `uid` is the model's own name for it. -/
structure Strand where
  uid : Nat
  cell : Nat
  slot : Nat
  status : Status
  /-- Activation (true) or resident (R11). -/
  act : Bool
  part : Nat
  launch : Nat
  asid : Nat
  pc : BitVec 40
  /-- Address after the base word of the instruction being executed (R92). -/
  npc : BitVec 40
  g : Vector Word 32
  gtag : Vector Fmt 32
  /-- Registers marked poisoned by a load (R174). -/
  gpois : BitVec 32
  v : Vector (BitVec 512) 32
  vtag : Vector Fmt 32
  /-- Poisoned nibbles of each vector register: an h4 element is one (R147). -/
  vpois : Vector (BitVec 128) 32
  m : Vector (BitVec 512) 8
  q : Vector (List QVal) 8
  q15 : List Q15
  qseq : Nat
  qpos : Nat
  /-- Vector configuration (R123). -/
  fc : Fmt
  gc : Nat
  vl : Nat
  loop : Loop
  /-- The tile wait count's commands in q8 (R153), and a pending tile error with its PC (R164). -/
  tileq : List TileCmd
  terr : Option (BitVec 40)
  saves : List TileSave
  top : Option TileOp
  /-- Tile wait count that a frame gave the strand beyond the commands in q8 (R328). -/
  twc : Nat
  /-- Control state (R25). -/
  trapv : BitVec 40
  wdog : BitVec 48
  rmode : RMode
  uab : BitVec 8
  wleft : BitVec 48
  /-- `wdog.left` has reached 0 and the fault has not been taken yet (R303). -/
  wdue : Bool
  handler : Bool
  fcause : BitVec 16
  fpc : BitVec 40
  faddr : Word
  rstat : Word
  rank : BitVec 32
  lin : Word
  gen : Word
  popId : Word
  coord : Word
  tag : BitVec 16
  src : BitVec 20
  /-- The deadline of a `sleep` that was taken back (R213, R292, R303): outside and inside a trap handler. -/
  sleepUntil : Option Nat
  sleepTrap : Option Nat
  /-- The fills that answered the strand's `ldc`s, by line (R179). -/
  ldcSeen : Tab Nat
  /-- Vector entries in the sequencer, oldest first (R130); the body of a suspended loop with the operands that it
  captured (R149, R151); and the number of the next entry. -/
  vq : List VEntry
  lbody : List VEntry
  vnum : Nat
  /-- Count of issued writing instructions (R245) and of home operations to windows (R346). -/
  wcount : Nat
  wops : Nat
  /-- Clk since it last issued or became ready, and clk ready without issuing (R300, R301). -/
  age : Nat
  waited : Nat
  /-- An op 6 step is in progress (R344). -/
  stepping : Bool
  /-- The breakpoints at its next instruction have been tested (R340). -/
  bpDone : Bool
  /-- The entry and origin of an activation: handler entry, source cell and sequence (or task number) (R346). -/
  entry : BitVec 40
  origin : Nat × Nat
  /-- The task that started it, if any (R216). -/
  task : Option Nat
  /-- Clk of its cluster since its start (R337 kind 2). -/
  clks : Nat
  /-- The frame of the spill area that its context takes (R292), while it is spilled. -/
  frame : Option Nat
  /-- The registers before a blocked instruction that has popped its operands: a spill or stop that takes the
  instruction back restores them (R292). -/
  undo : Option Checkpoint
  deriving DecidableEq, Repr

/-! ### Memory accesses, messages and engine commands -/

/-- An access of a strand on its way to its home, or performed with its reply on its way back (R182, R257, R261): a load,
a store, an `ldc` fill, a home operation that does not hold its strand, or an element of a vector access. `cell` is the cell that issued it; `pc` and
`ckpt` are the boundary before its instruction, which a fault that the home finds restores (R93, R318). -/
structure Access where
  id : Nat
  uid : Nat
  cell : Nat
  pc : BitVec 40
  ckpt : Checkpoint
  ins : Instr
  va : Nat
  pa : Nat
  /-- The operand b, or the element's number; the value stored, or the old value of the destination (R178, R183-R185). -/
  b : Word
  d : Word
  watched : Bool
  /-- The strand's count of issued writing instructions (R245). -/
  wno : Nat
  /-- The strand's count of home operations to windows when it was issued (R346). -/
  wop : Nat
  /-- Number of the next vector instruction after it (R131). -/
  after : Nat
  /-- Performed, and the place of its reply in the order of its home's messages (R270). -/
  done : Bool
  doneAt : Nat
  res : Word
  rstat : Option Word
  poison : Bool
  /-- A fault that the home found: cause and address. -/
  fault : Option (Nat × Nat)
  /-- The walk that a ring operation is stalled on at its home, and the address that missed (R189, R321). -/
  walk : Option (Nat × Nat)
  deriving DecidableEq, Repr

/-- Who a message is for (R203-R206, R211, R216). -/
inductive MsgKind where
  | normal
  | spawn
  /-- A dispatched task activation with its task number (R216). -/
  | task (n : Nat)
  deriving DecidableEq, Repr

/-- A message: its image with the source in the dest field (R203), its sequence number, the sender's launch identity. -/
structure Msg where
  id : Nat
  /-- Its place in the order in which its cell's messages and accesses entered the outbound path (R270). -/
  sent : Nat
  kind : MsgKind
  src : Nat
  dst : Nat
  seq : Nat
  part : Nat
  launch : Nat
  entry : BitVec 40
  tag : BitVec 16
  coord : Word
  payload : List Word
  /-- The htag of a host message whose result is owed once it has an inbox entry (R351). -/
  host : Option Word
  deriving DecidableEq, Repr

/-- A write that an engine has still to perform: to a B-store by fabric address, or to memory by address. -/
structure EngPiece where
  store : Bool
  addr : Nat
  bytes : List Byte
  deriving DecidableEq, Repr

/-- An engine command (R194-R202): stage 0 in the strand's q9 or q10, 1 in the engine's queue, 2 performed with its
credit due, 3 credited with its completion due. -/
structure EngCmd where
  num : Nat
  /-- 1 cpy, 2 cpyb, 3 gath, 4 route (R195). -/
  kind : Nat
  var : CpyVar
  uid : Nat
  cell : Nat
  slot : Nat
  part : Nat
  launch : Nat
  asid : Nat
  uab : BitVec 8
  task : Option Nat
  desc : List Word
  daddr : Word
  stage : Nat
  /-- The result words 0-6 of the completion entry, once performed. -/
  status : Nat
  w2 : Nat
  w3 : Nat
  w4 : Nat
  w5 : Word
  w6 : Nat
  /-- Bytes still to be credited (R193). -/
  credit : Nat
  /-- The walk that the command is stalled on, and the address that missed (R200, R321). -/
  walk : Option (Nat × Nat)
  /-- The stack that homes a gather's table (R201). -/
  stack : Nat
  /-- How far it has come: whether it has started, the point of its plan, its place in the source, a header read, and a code
  table read; the bytes still to be read from an address, those read, latest first; the writes still to be performed. -/
  begun : Bool
  phase : Nat
  pos : Nat
  aux : Nat
  table : List Byte
  rdAt : Nat
  rdLeft : Nat
  got : List (List Byte)
  out : List EngPiece
  deriving DecidableEq, Repr

/-- A siding of a migrated strand (R212): the q15 entries that have arrived for it at its old cell, each with its place in the
activation-order log if it is a message (R346). -/
structure Siding where
  id : Nat
  uid : Nat
  cell : Nat
  items : List (Option Nat × List Word)
  deriving DecidableEq, Repr

/-! ### Translation -/

/-- A translation held by a TLB or service (R330-R334): page number of a leaf of 2^log bytes. -/
structure TlbEntry where
  asid : Nat
  page : Nat
  log : Nat
  pa : Nat
  r : Bool
  w : Bool
  x : Bool
  watched : Bool
  deriving DecidableEq, Repr

/-- A walk or a posted miss (R321, R334): the page, the access that started it, and what waits on it. -/
structure Walk where
  id : Nat
  die : Nat
  part : Nat
  asid : Nat
  page : Nat
  va : Nat
  /-- 0 read, 1 write, 2 fetch, 3 home operation. -/
  acc : Nat
  eng : Bool
  cell : Nat
  slot : Nat
  /-- The walk found no valid leaf: a miss to post (R321). -/
  miss : Bool
  /-- Sequence number of its posted record, and the first answer written to it (R322). -/
  record : Option Nat
  ans : Option MissAnswer
  deriving DecidableEq, Repr

/-- A `tlbinv` in progress (R224), or a page whose watched attribute is being set (R243): the strand that gets the
kind 8 entry, if any. -/
structure Tlbinv where
  id : Nat
  uid : Option Nat
  part : Nat
  asid : Nat
  start : Word
  count : Nat
  deriving DecidableEq, Repr

/-! ### Cells, clusters, dies -/

/-- A message in an outbound buffer with the destinations still to be served (R204, R210). -/
structure OutMsg where
  msg : Msg
  dests : List Nat
  deriving DecidableEq, Repr

/-- A cell: buffers, caches, TLB, and control registers (R3, R204-R206, R179, R99, R334, R345). -/
structure Cell where
  outbox : List OutMsg
  inbox : List Msg
  /-- ldc cache and fetch path as (line number, its 64 bytes). -/
  ldc : Tab (List Byte)
  fetch : Tab (List Byte)
  /-- When each line of the ldc cache was filled, in the order of the device's accesses (R179). -/
  filled : Tab Nat
  /-- Lines of the ldc cache and the fetch path, by number, that hold a parity error not found yet (R313). -/
  flawed : List Nat
  tlb : List TlbEntry
  /-- Constant-bank copies by (partition × 2^32 + launch) (R26). -/
  cbank : Tab (List Word)
  undeliverable : BitVec 32
  /-- A drain stop is applied (R343). -/
  stopped : Bool
  lastSlot : Nat
  /-- When its issue port last issued and its sequencer last executed, in units of 1/360360 ns (R130, R300). -/
  issuedAt : Option Nat
  seqAt : Option Nat
  /-- Residents of launches still to start here: (launch, start index) (R290). -/
  toStart : List (Nat × Nat)
  deriving DecidableEq, Repr

/-- A cluster: tiles, shared caches, deque, counters, clock (R3, R152, R179, R297, R298, R302, R366, R368). -/
structure Cluster where
  tiles : Tab Tile
  ldc : Tab (List Byte)
  /-- When each line of the ldc cache was filled (R179). -/
  filled : Tab Nat
  /-- Lines of the ldc cache that hold a parity error not found yet (R313). -/
  flawed : List Nat
  tlb : List TlbEntry
  /-- Tasks by partition and key: a hint may name a cluster of another partition (R297). -/
  deque : List (Nat × Nat)
  counter : Word
  attempts : Word
  failed : Nat
  failedSince : BitVec 32
  /-- Clock in units of 100 MHz, and core voltage in millivolts (R366). -/
  clock : Nat
  millivolts : Nat
  gated : Bool
  /-- A message or task has arrived since it was gated (R302). -/
  arrived : Bool
  hot : Bool
  deriving DecidableEq, Repr

/-- A die: its translation service (R334) and its roll-up unit's pending increments (partition, knot, count) (R246,
R311). -/
structure Die where
  tlb : List TlbEntry
  rollups : List (Nat × Nat × Nat)
  deriving DecidableEq, Repr

/-! ### Launches and tasks -/

/-- Effective fields of a launch (R15, R16). -/
structure Eff where
  cells : Nat
  slots : Nat
  tasks : Nat
  hbm : Nat
  evBase : Nat
  evCount : Nat
  prio : Nat
  fdom : Nat
  gang : Nat
  tiles : BitVec 8
  spc : Nat
  rmode : RMode
  cbank : Word
  /-- uab of the RCB that supplies cbank. -/
  cbankUab : BitVec 8
  seed : Word
  clmFirst : Word
  clmLen : Nat
  corr : BitVec 32
  trapv : BitVec 40
  wdog : BitVec 48
  deriving DecidableEq, Repr

/-- Where a launch stands (R288, R289, R291, R294, R296). -/
inductive LStage where
  | queued | placing | woken | running | suspended | ending
  deriving DecidableEq, Repr

/-- A live launch. -/
structure Launch where
  num : Nat
  rcb : Word
  entry : BitVec 40
  uab : BitVec 8
  asid : Nat
  eff : Eff
  /-- Effective fdom of the named RCB and of each ancestor (R323). -/
  fdoms : List Nat
  stage : LStage
  fixed : Bool
  first : Nat
  /-- The cell set in ascending order (R287), and how many of its steps are placed (R289). -/
  cellSet : List Nat
  placed : Nat
  hbmHeld : Bool
  /-- Cells that the wake message has not reached yet (R289). -/
  wakeDue : List Nat
  /-- Slots and live tasks of its budget in use (R18). -/
  slotsUsed : Nat
  tasksLive : Nat
  host : Bool
  htag : Word
  launcher : Option Nat
  /-- Tile images of a suspended launch in the spill area: (cluster, tile, place of the image) (R293). -/
  savedTiles : List (Nat × Nat × Nat)
  deriving DecidableEq, Repr

/-- A launch command handed to the coordinator (R217, R285). `bad`: a reserved field of the command is set. -/
structure LaunchCmd where
  rcb : Word
  uab : BitVec 8
  asid : Nat
  fixed : Bool
  first : Nat
  htag : Word
  bad : Bool
  /-- The strand that issued it; none for the host. -/
  launcher : Option Nat
  deriving DecidableEq, Repr

/-- Where a task stands (R216, R297). -/
inductive TStage where
  | waiting | ready | queued | running | ended
  deriving DecidableEq, Repr

/-- A task of the task unit (R20, R215, R216). -/
structure Task where
  num : Nat
  die : Nat
  launch : Nat
  cell : Nat
  asid : Nat
  uab : BitVec 8
  words : List Word
  stage : TStage
  /-- The cluster whose deque holds it, whether it has joined the event's waiters, and whether a thief has taken it (R298). -/
  cluster : Nat
  placed : Bool
  stolen : Bool
  /-- What the product of a kind 1 task has read of its next step (R276). -/
  top : Option TileOp
  deriving DecidableEq, Repr

/-- Who waits on an event (R214). -/
inductive Waiter where
  | strand (uid c : Nat)
  | task (n c : Nat)
  deriving DecidableEq, Repr

/-- An event of the signal box (R214). -/
structure Event where
  count : BitVec 32
  waiters : List Waiter
  deriving DecidableEq, Repr

/-! ### Laws and populations -/

/-- An installed law region (R230, R231). -/
structure Region where
  step : Bool
  n : Nat
  /-- The law table's and the range's addresses, as the descriptor gives them. -/
  lt : Word
  start : Word
  /-- Fabric pages (64 KiB) of the law table and of the range, in order, with the offset of the first byte. -/
  ltPages : List Nat
  ltOff : Nat
  pages : List Nat
  off : Nat
  size : Nat
  /-- The counter at the task unit that applies `step`s, and as the homes of each die hold it (R231, R240). -/
  ctr : Word
  seen : List Word
  rcell : Nat
  rvalid : Bool
  owner : Nat
  ownerLive : Bool
  /-- A pass is running from this word index to the end; `none` for no pass (R237). -/
  pass : Option Nat
  passStart : Nat
  deriving DecidableEq, Repr

/-- A member of a population (R250, R252). -/
structure Member where
  uid : Nat
  reg : Nat
  waiting : Option Word
  wreg : Nat
  deriving DecidableEq, Repr

/-- A population (R21, R250-R254). -/
structure Pop where
  seed : Word
  gen : Word
  launch : Nat
  members : List Member
  fixed : Bool
  deriving DecidableEq, Repr

/-- A clone or another context that waits for a slot: the strand image, and the cell whose slot it takes (R14, R254). -/
structure Clone where
  pop : Nat
  index : Nat
  /-- The weight register that its membership records. -/
  wreg : Nat
  image : Strand
  /-- It found no free slot and waits on its parent's cell. -/
  waiting : Bool
  deriving DecidableEq, Repr

/-! ### Faults, traces, debug -/

/-- A fatal fault: its domain and the first fault's fields (R323, R324). -/
structure DomainEnd where
  fdom : Nat
  launch : Nat
  cause : Nat
  cell : Nat
  slot : Nat
  pc : Nat
  addr : Word
  time : Nat
  uid : Nat
  /-- 0 to be stopped, 1 stopped and dump queued, 2 dump written, 3 teardown point placed. -/
  phase : Nat
  /-- The dump is being written: the header's state is 1 (R324). -/
  writing : Bool
  dumped : Bool
  /-- Later faults of the domain, as words w1 to w5 of the header layout (R325, R326). -/
  secondary : List (List Word)
  deriving DecidableEq, Repr

/-- A trace ring's control block (R335); `dropped` counts records since the last kind 16 record (R336). -/
structure Ring where
  base : Word
  size : BitVec 32
  en : Bool
  wrap : Bool
  kmask : BitVec 16
  wr : Nat
  rd : Nat
  lost : BitVec 32
  dropped : Nat
  deriving DecidableEq, Repr

/-- A breakpoint register (R340). -/
structure Breakpoint where
  w0 : Word
  w1 : Word
  w2 : Word
  w3 : Word
  deriving DecidableEq, Repr

/-- The debug control word and command block of a partition (R341, R342). -/
structure Debug where
  attach : Bool
  recording : Bool
  replaying : Bool
  diverged : Bool
  op : BitVec 4
  cell : BitVec 20
  slot : BitVec 3
  frame : Word
  busy : Bool
  res : BitVec 4
  deriving DecidableEq, Repr

/-- The order log's control block and the state of its points (R346, R347). -/
structure OrderLog where
  base : Word
  seg : Word
  windows : List Word
  /-- Entries enforced so far by point, and points that have diverged or ended. -/
  pos : Tab Nat
  free : List Nat
  lastTime : Tab Nat
  deriving DecidableEq, Repr

/-- A result queue's work still to be written (R350). -/
structure Result where
  kind : Nat
  status : Nat
  launch : Nat
  htag : Word
  data : Word
  deriving DecidableEq, Repr

/-- BAR0 of a virtual function (R349). -/
structure HostFn where
  lqBase : Word
  lqSize : Nat
  lqTail : BitVec 32
  lqHead : BitVec 32
  mqBase : Word
  mqSize : Nat
  mqTail : BitVec 32
  mqHead : BitVec 32
  rqBase : Word
  rqSize : Nat
  rqHead : BitVec 32
  rqTail : BitVec 32
  hasid : Nat
  ipend : BitVec 6
  imask : BitVec 6
  pstate : BitVec 2
  qerr : Bool
  /-- MSI-X messages sent, by vector, newest first (R353). -/
  sent : List Nat
  /-- Results waiting for room in the result queue. -/
  results : List Result
  /-- What the latest read through BAR2 returned to the host (R348). -/
  barRead : Word
  deriving DecidableEq, Repr

/-- A watched object (R243): its leaf knot, and its bytes as fabric ranges (address, length). -/
structure Watched where
  knot : Nat
  asid : Nat
  va : Nat
  size : Nat
  ranges : List (Nat × Nat)
  deriving DecidableEq, Repr

/-- A partition (R356-R359) and the units' state that it owns. `knotTop` is an upper bound of the knot indexes in use;
`bumps` are identities not closed yet (leaf, writer, count) (R245); `dead` homes past their teardown point (R327). -/
structure Part where
  /-- Descriptor words w0-w19 (R356). -/
  desc : List Word
  fn : HostFn
  /-- Other devices that hold cells of the partition, each with the descriptor words of its share (R355, R356). -/
  peers : Tab (List Word)
  /-- A reset is in progress: the step it has reached (R359). -/
  resetting : Option Nat
  wdLeft : Nat
  pending : List LaunchCmd
  launches : List Launch
  nextLaunch : Nat
  tasks : List Task
  nextTask : Tab Nat
  events : Tab Event
  claims : List (Nat × Word × Word × Nat)
  regions : Tab Region
  bumps : List (Nat × Nat × Nat)
  pops : Tab Pop
  clones : List Clone
  objects : List Watched
  knotTop : Nat
  /-- Translation fault queue: head, tail, next sequence number, records' walks (R321). -/
  tfHead : Nat
  tfSeq : Nat
  ends : List DomainEnd
  dumpLost : BitVec 32
  dead : List Nat
  dbg : Debug
  bps : List Breakpoint
  log : OrderLog
  rings : Tab Ring
  /-- Sequence numbers by source cell × 2^20 + destination cell (R203). -/
  seqs : Tab (BitVec 32)
  /-- Tokens' waiters by barrier address: (uid, phase) in arrival order (R192). -/
  tokenWaiters : Tab (List (Nat × Bool))
  deriving DecidableEq, Repr

/-! ### Arrays, boot, power -/

/-- An error log entry (R314): words 0-2. -/
structure ErrEntry where
  w0 : Word
  w1 : Word
  w2 : Word
  deriving DecidableEq, Repr

/-- The error log, its head register and the injection register of an array (R314, R315). -/
structure ArrayRegs where
  entries : List ErrEntry
  lost : Nat
  inj0 : Word
  inj1 : Word
  inj2 : Word
  inj3 : Word
  deriving DecidableEq, Repr

/-- A word that holds an error not yet found (R313, R315). -/
structure Flip where
  addr : Nat
  dmask : BitVec 64
  cmask : BitVec 8
  inj : Bool
  deriving DecidableEq, Repr

/-- Boot status and identity registers (R363-R365). -/
structure Boot where
  powered : Bool
  /-- A thermal shutdown holds the next boot (R368). -/
  shut : Bool
  ready : Bool
  minimal : Bool
  stage : BitVec 3
  starts : BitVec 2
  reason : BitVec 8
  nonce : BitVec 256
  signed : Bool
  /-- Signed configuration record (R365): device number, domain identifier, planes present, maximum power limit. -/
  device : BitVec 8
  domain : Nat
  planes : BitVec 32
  maxPower : Nat
  /-- The staging window of physical function 0 (R364). -/
  staging : List Host.Cell
  deriving DecidableEq, Repr

/-- Rails, limit and link planes (R338, R354, R366, R367). -/
structure Power where
  /-- Latest current in mA and voltage in mV, by rail. -/
  rails : List (BitVec 32 × BitVec 16)
  limit : Nat
  budgets : List Nat
  livePlanes : BitVec 32
  hbmPaced : List Nat
  /-- The latest multiple of 1,000 ns at which each rail has been sampled (R338). -/
  sampled : List Nat
  /-- The latest multiple of 1,000 ns at which the power manager has read the rails (R367). -/
  managed : Nat
  sensors : Tab Int
  deriving DecidableEq, Repr

/-! ### Scheduling data of the model -/

/-- What the agenda names next: an issue by a slot of a cell, an event of the table, an idle tick, the choice between
immediate and delayed accesses, and the command of an engine that goes on before others that have started. Any other instruction in `event` is dropped. -/
inductive Turn where
  | issue (cell slot : Nat)
  | event (i : Instr)
  | idle (clk : Nat)
  | delay (on : Bool)
  | favour (cmd : Nat)
  deriving DecidableEq, Repr

/-- The whole machine. -/
structure State where
  /-- Device nanosecond count (R22 `now`, R275) and the part of a nanosecond in units of 1/360360 ns. -/
  now : Nat
  phase : Nat
  /-- The model's own scheduling data: what happens next, and whether accesses, vector instructions and products are
  delayed (log entries 5 and 6). -/
  agenda : List Turn
  async : Bool
  /-- Counter of free values (log entry 7), next uid, next access, walk, message and command number. -/
  free : Nat
  nextId : Nat
  /-- The strand in focus, on which `exec` acts, and every other strand. -/
  st : Strand
  parked : List Strand
  /-- Memory of the fabric by 56-bit fabric address: canonical (R305); words poisoned; errors not found yet. -/
  mem : List Host.Cell
  poison : List Nat
  flips : List Flip
  hostMem : List Host.Cell
  cells : Tab Cell
  clusters : Tab Cluster
  dies : Tab Die
  accs : List Access
  flight : List Msg
  cmds : List EngCmd
  sidings : List Siding
  walks : List Walk
  invs : List Tlbinv
  parts : Tab Part
  /-- The hypervisor's ASID table (R330). -/
  asids : Tab Word
  arrays : List (ArrayId × ArrayRegs)
  boot : Boot
  power : Power
  deriving DecidableEq, Repr

/-- Why a step stops. No instruction and no event of the PV8 stops the machine: every fault of R316 is a trap or the end
of a fault domain, both next states. -/
inductive Fault where
  /-- Raised by nobody; kept so that the type is inhabited. Safe. -/
  | none
  deriving DecidableEq, Repr

/-- Why an instruction is not run. -/
inductive Refusal where
  /-- An instruction without a meaning, rejected by name: raised by an arm of `exec` only. Safe: nothing is claimed. -/
  | notModelled (mnemonic : String)
  deriving DecidableEq, Repr

/-! ### Reset -/

def Loop.idle : Loop := ⟨false, false, 0, 0, 0, 0, 0, none, none⟩

/-- A slot that holds no strand; also the register image of R30 before its fields are filled. -/
def Strand.empty : Strand where
  uid := 0
  cell := 0
  slot := 0
  status := .free
  act := false
  part := 0
  launch := 0
  asid := 0
  pc := 0
  npc := 0
  g := Vector.replicate 32 0
  gtag := Vector.replicate 32 .raw
  gpois := 0
  v := Vector.replicate 32 0
  vtag := Vector.replicate 32 .raw
  vpois := Vector.replicate 32 0
  m := (Vector.replicate 8 0).set 0 (BitVec.allOnes 512)
  q := Vector.replicate 8 []
  q15 := []
  qseq := 0
  qpos := 0
  fc := .raw
  gc := 1
  vl := 0
  loop := Loop.idle
  tileq := []
  terr := none
  saves := []
  top := none
  twc := 0
  trapv := 0
  wdog := 0
  rmode := .rne
  uab := 0
  wleft := 0
  wdue := false
  handler := false
  fcause := 0
  fpc := 0
  faddr := 0
  rstat := 0
  rank := 0
  lin := 0
  gen := 0
  popId := BitVec.allOnes 64
  coord := 0
  tag := 0
  src := 0
  sleepUntil := none
  sleepTrap := none
  ldcSeen := []
  vq := []
  lbody := []
  vnum := 0
  wcount := 0
  wops := 0
  age := 0
  waited := 0
  stepping := false
  bpDone := false
  entry := 0
  origin := (0, 0)
  task := none
  clks := 0
  frame := none
  undo := none

/-- A cell with nothing in it (R357). -/
def Cell.empty : Cell := ⟨[], [], [], [], [], [], [], [], 0, false, 7, none, none, []⟩

/-- A tile as `tzero` leaves it (R168, R357). -/
def Tile.zero : Tile := ⟨[], .raw, false, false, false, 0, 0, 0, []⟩

/-- A cluster with nothing in it, at the nominal clock. -/
def Cluster.empty : Cluster := ⟨[], [], [], [], [], [], 0, 0, 0, 0, Config.nominalClock, 650, false, false, false⟩

def Die.empty : Die := ⟨[], []⟩

/-- A trace ring at reset (R335). -/
def Ring.reset : Ring := ⟨0, 0, false, false, 0, 0, 0, 0, 0⟩

/-- A breakpoint register at reset (R340). -/
def Breakpoint.reset : Breakpoint := ⟨0, 0, 0, 0⟩

/-- The debug control word and command block at reset (R341, R342). -/
def Debug.reset : Debug := ⟨false, false, false, false, 0, 0, 0, 0, false, 0⟩

def OrderLog.reset : OrderLog := ⟨0, 0, List.replicate 8 0, [], [], []⟩

/-- BAR0 of a virtual function at reset (R349): imask 0x3F, everything else 0. -/
def HostFn.reset : HostFn := ⟨0, 0, 0, 0, 0, 0, 0, 0, 0, 0, 0, 0, 0, 0, 0x3F, 0, false, [], [], 0⟩

/-- A partition that does not exist (R356, R357): every descriptor word 0. -/
def Part.reset : Part where
  desc := List.replicate 20 0
  fn := HostFn.reset
  peers := []
  resetting := none
  wdLeft := 0
  pending := []
  launches := []
  nextLaunch := 1
  tasks := []
  nextTask := []
  events := []
  claims := []
  regions := []
  bumps := []
  pops := []
  clones := []
  objects := []
  knotTop := 1
  tfHead := 0
  tfSeq := 0
  ends := []
  dumpLost := 0
  dead := []
  dbg := Debug.reset
  bps := List.replicate 8 Breakpoint.reset
  log := OrderLog.reset
  rings := []
  seqs := []
  tokenWaiters := []

/-- An array's error log and injection register at reset (R314, R315). -/
def ArrayRegs.reset : ArrayRegs := ⟨List.replicate 16 ⟨0, 0, 0⟩, 0, 0, 0, 0, 0⟩

/-- Boot registers before power-on (R363). -/
def Boot.reset : Boot := ⟨false, false, false, false, 0, 0, 0, 0, false, 0, 0, BitVec.allOnes 32, 1600, []⟩

def Power.reset : Power := ⟨List.replicate 18 (0, 0), 1600, List.replicate 4 0, BitVec.allOnes 32, [], List.replicate 18 0, 0, []⟩

/-- The machine right after reset, before POWER_ON: registers at the values that the manual's Reset columns give, memory
all zero as the boot scrub leaves it, no partition live, no strand (log entries 1, 2, 4). -/
def State.reset : State where
  now := 0
  phase := 0
  agenda := []
  async := false
  free := 0
  nextId := 1
  st := Strand.empty
  parked := []
  mem := []
  poison := []
  flips := []
  hostMem := []
  cells := []
  clusters := []
  dies := []
  accs := []
  flight := []
  cmds := []
  sidings := []
  walks := []
  invs := []
  parts := []
  asids := []
  arrays := []
  boot := Boot.reset
  power := Power.reset

end Sys2Proof.Machine
end

