-- ==== Sys2Proof/Machine/Ops.lean ====
section
/-! DEFINITION. The named operations over the machine: tables, memory with its error protection, strands, registers,
interrupts, trace records, and taking a fault (R316-R320). Meanings are written over these and nothing else. -/

namespace Sys2Proof.Machine

/-! ### Tables -/

/-- The value at a key, or the default. -/
def Tab.get {α : Type} (t : Tab α) (d : α) (k : Nat) : α :=
  match t with
  | [] => d
  | (i, x) :: r => if i = k then x else Tab.get r d k

/-- Is the key listed? -/
def Tab.has {α : Type} (t : Tab α) (k : Nat) : Bool := t.any fun e => e.1 == k

/-- The table with a value at a key; the table stays sorted by key. -/
def Tab.set {α : Type} (t : Tab α) (k : Nat) (x : α) : Tab α :=
  match t with
  | [] => [(k, x)]
  | (i, y) :: r => if i < k then (i, y) :: Tab.set r k x else if i = k then (k, x) :: r else (k, x) :: (i, y) :: r

/-- The table without a key. -/
def Tab.erase {α : Type} (t : Tab α) (k : Nat) : Tab α := t.filter fun e => e.1 != k

/-! ### Memory (R7, R305) -/

/-- What a byte that nothing has written reads as: the boot scrub leaves all HBM and SRAM zero (R362, R357). -/
def unlisted : Byte := 0

/-- One byte of memory. -/
def memGet : List Host.Cell → Nat → Byte
  | [], _ => unlisted
  | (k, v) :: r, a => if k < a then memGet r a else if k = a then v else unlisted

/-- Memory with one byte written, in canonical form: rising addresses, no entry equal to `unlisted`. -/
def memSet : List Host.Cell → Nat → Byte → List Host.Cell
  | [], a, v => if v = unlisted then [] else [(a, v)]
  | (k, x) :: r, a, v =>
    if k < a then (k, x) :: memSet r a v
    else if k = a then (if v = unlisted then r else (a, v) :: r)
    else if v = unlisted then (k, x) :: r else (a, v) :: (k, x) :: r

/-- The canonical form of memory. -/
def memWf : List Host.Cell → Bool
  | [] => true
  | (_, v) :: [] => v != unlisted
  | (k, v) :: (k', v') :: r => v != unlisted && decide (k < k') && memWf ((k', v') :: r)

/-- `n` bytes from address `a`, little-endian (R7). -/
def memRead (m : List Host.Cell) (a : Nat) : Nat → Nat
  | 0 => 0
  | n + 1 => (memGet m a).toNat + 256 * memRead m (a + 1) n

/-- Memory with the low `n` bytes of `x` written at `a`, little-endian. -/
def memWrite (m : List Host.Cell) (a : Nat) : Nat → Nat → List Host.Cell
  | 0, _ => m
  | n + 1, x => memWrite (memSet m a (BitVec.ofNat 8 (x % 256))) (a + 1) n (x / 256)

/-- Memory with `n` bytes from `a` cleared. -/
def memZero (m : List Host.Cell) (a n : Nat) : List Host.Cell := m.filter fun c => decide (c.1 < a ∨ a + n ≤ c.1)

/-- `n` bytes from `a`, as a list. -/
def memBytes (m : List Host.Cell) (a : Nat) : Nat → List Byte
  | 0 => []
  | n + 1 => memGet m a :: memBytes m (a + 1) n

/-- A list of bytes written at `a`. -/
def memPut (m : List Host.Cell) (a : Nat) : List Byte → List Host.Cell
  | [] => m
  | b :: bs => memPut (memSet m a b) (a + 1) bs

/-- `n` 64-bit words from `a`. -/
def memWords (m : List Host.Cell) (a : Nat) : Nat → List Word
  | 0 => []
  | n + 1 => BitVec.ofNat 64 (memRead m a 8) :: memWords m (a + 8) n

/-- 64-bit words written at `a`. -/
def memPutWords (m : List Host.Cell) (a : Nat) : List Word → List Host.Cell
  | [] => m
  | w :: ws => memPutWords (memWrite m a 8 w.toNat) (a + 8) ws

/-! ### Time (R8, R22, R275, R366) -/

/-- Units of 1/360360 ns in one period of 100 MHz: every clock of 100 MHz steps up to 1.5 GHz has a whole period. -/
def clkUnits : Nat := 3603600

/-- The time in units. -/
def State.units (s : State) : Nat := s.now * 360360 + s.phase

/-- The clk of a clock (in 100 MHz) that have begun by a time. -/
def clksTo (clock t : Nat) : Nat := t * clock / clkUnits

/-- When the next clk of a clock begins. -/
def nextClk (clock t : Nat) : Nat := (clksTo clock t + 1) * (clkUnits / max 1 clock)

/-! ### Numbers of cells, clusters, dies (R5) -/

/-- The flat cluster number on the device: cell bits [11:4]. -/
def clusterOf (cell : Nat) : Nat := cell / 16 % 256
/-- The die: cell bits [11:10]. -/
def dieOf (cell : Nat) : Nat := cell / 1024 % 4
/-- The device: cell bits [19:12]. -/
def deviceOf (cell : Nat) : Nat := cell / 4096 % 256
/-- Cell bits [11:0]. -/
def cellOnDevice (cell : Nat) : Nat := cell % 4096
/-- Fabric address of byte 0 of a cell's SRAM (R305). -/
def sramBase (cell : Nat) : Nat := deviceOf cell * 2 ^ 48 + 0x100000000000 + cellOnDevice cell * 2 ^ 18
/-- Fabric address of byte 0 of slice 0 of a cluster's B-store (R305). -/
def bstoreBase (device cluster : Nat) : Nat := device * 2 ^ 48 + 0x110000000000 + cluster * 2 ^ 22

/-- What a fabric address names (R305). -/
inductive Place where
  | hbm (stack : Nat)
  | sram (cell : Nat)
  | bstore (cluster : Nat)
  | control
  | reserved
  deriving DecidableEq, Repr

/-- The contents of a fabric address (R305), on its own device. -/
def placeOf (pa : Nat) : Place :=
  let a := pa % 2 ^ 48
  if a < 0x8000000000 then .hbm (a / 2 ^ 36)
  else if 0x100000000000 ≤ a ∧ a < 0x100040000000 then .sram ((a - 0x100000000000) / 2 ^ 18)
  else if 0x110000000000 ≤ a ∧ a < 0x110040000000 then .bstore ((a - 0x110000000000) / 2 ^ 22)
  else if 0xFF0000000000 ≤ a then .control
  else .reserved

/-- The home of an address (R305), as a number: cells, then B-stores, then HBM slices, by device. -/
def homeOf (pa : Nat) : Nat :=
  pa / 2 ^ 48 * 65536 + match placeOf pa with
    | .sram c => c
    | .bstore k => 4096 + k
    | .hbm s => 8192 + s
    | _ => 16384

/-- The die that homes an address. -/
def homeDie (pa : Nat) : Nat :=
  match placeOf pa with
  | .sram c => c / 1024
  | .bstore k => k / 64
  | .hbm s => s / 2
  | _ => 0

/-! ### Lookups -/

def State.cell (s : State) (c : Nat) : Cell := Tab.get s.cells Cell.empty c
def State.setCell (s : State) (c : Nat) (x : Cell) : State := { s with cells := Tab.set s.cells c x }
def State.modCell (s : State) (c : Nat) (f : Cell → Cell) : State := s.setCell c (f (s.cell c))
def State.cluster (s : State) (k : Nat) : Cluster := Tab.get s.clusters Cluster.empty k
def State.setCluster (s : State) (k : Nat) (x : Cluster) : State := { s with clusters := Tab.set s.clusters k x }
def State.modCluster (s : State) (k : Nat) (f : Cluster → Cluster) : State := s.setCluster k (f (s.cluster k))
def State.die (s : State) (d : Nat) : Die := Tab.get s.dies Die.empty d
def State.modDie (s : State) (d : Nat) (f : Die → Die) : State := { s with dies := Tab.set s.dies d (f (s.die d)) }
def State.part (s : State) (p : Nat) : Part := Tab.get s.parts Part.reset p
def State.setPart (s : State) (p : Nat) (x : Part) : State := { s with parts := Tab.set s.parts p x }
def State.modPart (s : State) (p : Nat) (f : Part → Part) : State := s.setPart p (f (s.part p))
def Cluster.tile (c : Cluster) (t : Nat) : Tile := Tab.get c.tiles Tile.zero t
def Cluster.setTile (c : Cluster) (t : Nat) (x : Tile) : Cluster := { c with tiles := Tab.set c.tiles t x }

/-- A launch of a partition by number. -/
def Part.launch? (p : Part) (n : Nat) : Option Launch := p.launches.find? fun l => l.num == n

/-- A launch of a partition changed. -/
def Part.modLaunch (p : Part) (n : Nat) (f : Launch → Launch) : Part :=
  { p with launches := p.launches.map fun l => if l.num = n then f l else l }

/-- Does a descriptor's clus mask (R356) hold a flat cluster? -/
def descCluster (ws : List Word) (k : Nat) : Bool := bitAt (ws.getD (1 + k / 64) 0).toNat (k % 64)

/-- Does a descriptor's hbm mask (R356) hold a gibibyte? -/
def descGib (ws : List Word) (g : Nat) : Bool := bitAt (ws.getD (5 + g / 64) 0).toNat (g % 64)

/-- The descriptor word `i` of a partition (R356). -/
def Part.w (p : Part) (i : Nat) : Nat := (p.desc.getD i 0).toNat

/-- Does the partition exist (R356 live)? -/
def Part.live (p : Part) : Bool := bitAt (p.w 0) 0

/-- Does the flat cluster belong to the partition (R356 clus)? -/
def Part.hasCluster (p : Part) (k : Nat) : Bool := descCluster p.desc k

/-- Number of set bits among the low `n` bits. -/
def countBits (x : Nat) : Nat → Nat
  | 0 => 0
  | n + 1 => x % 2 + countBits (x / 2) n

/-- The partition's clusters on this device, ascending. -/
def Part.clusters (p : Part) : List Nat := (List.range 256).filter p.hasCluster

/-- The partition's HBM quota in bytes (R356). -/
def Part.quota (p : Part) : Nat := ((List.range 8).map fun i => countBits (p.w (5 + i)) 64).sum * 2 ^ 30

/-- Is the live bit of a descriptor set (R356)? -/
def descLive (ws : List Word) : Bool := bitAt (ws.getD 0 0).toNat 0

/-- The descriptor words of a partition's share of a device (R356): its own, or the live one that a peer device holds. -/
def State.share (s : State) (p dev : Nat) : List Word :=
  if dev = s.boot.device.toNat then (s.part p).desc
  else
    let d := Tab.get (s.part p).peers [] dev
    if descLive d then d else []

/-- The other devices that hold a share of the partition (R356). -/
def Part.peerDevices (p : Part) : List Nat := (p.peers.filter fun e => descLive e.2).map (·.1)

/-- Is an address homed on another device (R274)? What its home does is not this device's to say (log entry 9). -/
def State.remote (s : State) (pa : Nat) : Bool := pa / 2 ^ 48 != s.boot.device.toNat

/-- May the partition name a fabric address (R331)? HBM, SRAM and B-stores that the descriptor of their device assigns. -/
def State.mayName (s : State) (p pa : Nat) : Bool :=
  let d := s.share p (pa / 2 ^ 48)
  match placeOf pa with
    | .hbm _ => descGib d (pa % 2 ^ 48 / 2 ^ 30)
    | .sram c => descCluster d (c / 16)
    | .bstore k => descCluster d k
    | _ => false

/-- The live partition that owns a fabric address. -/
def State.ownerOf (s : State) (pa : Nat) : Option Nat :=
  (List.range 16).find? fun p => (s.part p).live && s.mayName p pa

/-- Does a cell belong to the partition (R209 0x0502), on this device or on another that holds a share of it (R356)? -/
def State.hasCell (s : State) (p cell : Nat) : Bool := descCluster (s.share p (deviceOf cell)) (clusterOf cell)

/-! ### Strands -/

/-- Every strand, the one in focus first. -/
def State.strands (s : State) : List Strand := s.st :: s.parked

/-- A strand by uid. -/
def State.strand? (s : State) (uid : Nat) : Option Strand := s.strands.find? fun t => t.uid == uid && t.status != .free

/-- Changes one strand by uid. -/
def State.modStrand (s : State) (uid : Nat) (f : Strand → Strand) : State :=
  { s with st := if s.st.uid = uid then f s.st else s.st,
           parked := s.parked.map fun t => if t.uid = uid then f t else t }

/-- Brings a strand into focus. -/
def State.focus (s : State) (uid : Nat) : State :=
  if s.st.uid = uid then s
  else match s.parked.find? fun t => t.uid == uid with
    | none => s
    | some t => { s with st := t, parked := (if s.st.status = .free then [] else [s.st]) ++ s.parked.filter fun x => x.uid != uid }

/-- Adds a strand to the machine. -/
def State.addStrand (s : State) (t : Strand) : State := { s with parked := s.parked ++ [t] }

/-- Does the strand hold a slot of its cell (R13)? -/
def Strand.inSlot (t : Strand) : Bool :=
  match t.status with
  | .free | .spilled _ | .moving | .stopped => false
  | _ => true

/-- The tile wait count (R153). -/
def Strand.tileCount (t : Strand) : Nat := t.tileq.length + t.twc

/-- Slots of a cell that hold a strand. -/
def State.usedSlots (s : State) (cell : Nat) : List Nat :=
  (s.strands.filter fun t => t.inSlot && t.cell == cell).map (·.slot)

/-- The lowest-numbered free slot of a cell. -/
def State.freeSlot (s : State) (cell : Nat) : Option Nat :=
  (List.range 8).find? fun i => !(s.usedSlots cell).contains i

/-- The slot that anything but a clone finds: none while a clone waits on the cell for the first that frees (R254). -/
def State.openSlot (s : State) (cell : Nat) : Option Nat :=
  if s.parts.any fun e => e.2.clones.any fun c => c.waiting && c.image.cell == cell then none else s.freeSlot cell

/-- The launch of a strand, if it lives. -/
def State.launchOf (s : State) (t : Strand) : Option Launch := (s.part t.part).launch? t.launch

/-- The strand's constant bank entry `n` (R26). -/
def State.constant (s : State) (t : Strand) (n : Nat) : Word :=
  (Tab.get (s.cell t.cell).cbank [] (t.part * 2 ^ 32 + t.launch)).getD n 0

/-- Is the launch in the subtree of a fault domain that is ending (R323)? -/
def Part.ending (p : Part) (l : Launch) : Bool := p.ends.any fun e => l.fdoms.contains e.fdom

/-- May strands of the launch start and run (R291, R323, R359)? -/
def Part.runs (p : Part) (l : Launch) : Bool :=
  p.resetting.isNone && !p.ending l && match l.stage with
    | .woken | .running => true
    | _ => false

/-- Is a drain stop applied to the cell (R343)? -/
def State.cellStopped (s : State) (cell : Nat) : Bool := (s.cell cell).stopped

/-- Is a strand a resident on a stopped cell, which halts at its next boundary (R343)? -/
def State.residentStops (s : State) (t : Strand) : Bool := !t.act && !t.stepping && s.cellStopped t.cell

/-- The cells of the target of a stop: op 1 names a cell, op 2 the partition, op 3 either (R342). -/
def Debug.targets (d : Debug) (cell : Nat) : Bool :=
  if d.op = 2 ∨ (d.op = 3 ∧ d.cell = 0xFFFFF) then true else d.cell.toNat == cell

/-- Does a hardening in progress halt the strand: on a stopped cell, or in a single step (R343, R344 op 3)? -/
def State.hardens (s : State) (t : Strand) : Bool :=
  let d := (s.part t.part).dbg
  d.busy && d.op == 3 && d.targets t.cell && (s.cellStopped t.cell || t.stepping)

/-- Has the strand stored some pieces of a tile image, and not all: it goes on to the end of the instruction (R93)? -/
def Strand.midStore (t : Strand) : Bool := t.top.any fun o => o.stored != 0

/-- May a strand issue, as far as its launch, its cluster, its watchdog (R303), stops and a single step say? -/
def State.mayIssue (s : State) (t : Strand) : Bool :=
  t.midStore || (match s.launchOf t with
    | some l => (s.part t.part).runs l
    | none => false)
  && !(s.cluster (clusterOf t.cell)).gated && !t.wdue && !s.residentStops t && !s.hardens t && !(t.stepping && t.vq != [])

/-- Vector entries of every strand of a cell (R130). -/
def State.seqCount (s : State) (cell : Nat) : Nat :=
  ((s.strands.filter fun t => t.cell == cell).map fun t => t.vq.length).sum

/-- Entries that a strand's q15 occupies: entries read provisionally past a vector instruction still count (R131). -/
def Strand.q15Count (t : Strand) : Nat :=
  match t.vq with
  | [] => t.q15.length
  | e :: _ => (e.ckpt.q15 ++ t.q15.filter fun x => e.ckpt.qseq ≤ x.seq).length

/-- Entries of a cell's completion store in use (R329). -/
def State.storeCount (s : State) (cell : Nat) : Nat :=
  ((s.strands.filter fun t => t.cell == cell && t.status != .free).map Strand.q15Count).sum

/-- Has the strand's q15 room (R329)? -/
def State.q15Room (s : State) (t : Strand) : Bool := decide (t.q15Count < 16 ∧ s.storeCount t.cell < 256)

/-- The registers that a boundary before the current instruction restores (R131). -/
def Strand.checkpoint (t : Strand) : Checkpoint where
  g := t.g
  gtag := t.gtag
  gpois := t.gpois
  q := t.q
  q15 := t.q15
  qseq := t.qseq
  qpos := t.qpos
  rstat := t.rstat
  trapv := t.trapv
  wdog := t.wdog
  rmode := t.rmode
  uab := t.uab
  wleft := t.wleft
  wdue := t.wdue
  handler := t.handler
  loop := t.loop
  wops := t.wops

/-- An entry none of whose accesses has been made. -/
def VEntry.fresh (e : VEntry) : VEntry := { e with started := false, cut := none, got := [], walk := none }

/-- Puts the strand back to a boundary: popped queue entries return to their heads, pushes made since are gone, and q15
keeps what has arrived since (R131). A loop that was suspended there is suspended again, with its body; one that ran there has
ended since, or never began. -/
def Strand.restore (t : Strand) (c : Checkpoint) : Strand :=
  { t with
    g := c.g, gtag := c.gtag, gpois := c.gpois, q := c.q, qpos := c.qpos, rstat := c.rstat
    q15 := c.q15 ++ t.q15.filter fun x => c.qseq ≤ x.seq
    trapv := c.trapv, wdog := c.wdog, rmode := c.rmode, uab := c.uab, wleft := c.wleft, wdue := c.wdue
    handler := c.handler, wops := c.wops, loop := if c.loop.active then Loop.idle else c.loop
    lbody := if c.loop.suspended then (if t.lbody = [] then (t.vq.filter (·.body)).map VEntry.fresh else t.lbody) else [] }

/-- A strand with an entry added to its q15. -/
def Strand.pushQ15 (t : Strand) (ws : List Word) : Strand := { t with q15 := t.q15 ++ [⟨t.qseq, ws⟩], qseq := t.qseq + 1 }

/-! ### Boot (R362, R364) -/

/-- Does a hypervisor run: a boot has reached stage 4, and the device is not in minimal mode? -/
def Boot.serving (b : Boot) : Bool := b.powered && !b.minimal && decide (4 ≤ b.stage.toNat)

/-! ### Interrupts (R353) and results (R350) -/

/-- Raises vector `n` of partition `p`: sets its pending bit, and sends its message when it is unmasked. During a reset
only vector 4 is raised (R353). -/
def State.raise (s : State) (p n : Nat) : State :=
  s.modPart p fun x =>
    if x.resetting.isSome ∧ n ≠ 4 then x
    else
      let bit : BitVec 6 := BitVec.ofNat 6 (2 ^ n)
      { x with fn := { x.fn with
          ipend := x.fn.ipend ||| bit
          sent := if x.fn.imask &&& bit = 0 then n :: x.fn.sent else x.fn.sent } }

/-! ### Error protection (R313-R315) -/

/-- The array that holds a fabric address. -/
def arrayOf (pa : Nat) : ArrayId :=
  match placeOf pa with
  | .sram c => .sram c
  | .bstore k => .bstore k
  | .hbm st => .hbm st
  | _ => .hbm 0

def State.arrayRegs (s : State) (a : ArrayId) : ArrayRegs :=
  match s.arrays.find? fun x => x.1 == a with
  | some x => x.2
  | none => ArrayRegs.reset

def State.setArray (s : State) (a : ArrayId) (r : ArrayRegs) : State :=
  { s with arrays := (s.arrays.filter fun x => x.1 != a) ++ [(a, r)] }

/-- The context of an access for the error log (R314 w1): asid, cell, slot, or none for an engine or the scrubber. -/
structure ErrCtx where
  asid : Nat
  cell : Nat
  slot : Nat
  valid : Bool
  deriving DecidableEq, Repr

def ErrCtx.engine : ErrCtx := ⟨0, 0, 0, false⟩
def Strand.ctx (t : Strand) : ErrCtx := ⟨t.asid, t.cell, t.slot, true⟩

/-- The kind field of a log entry: 0 empty (R314). -/
def ErrEntry.kind (e : ErrEntry) : Nat := e.w0.toNat / 2 ^ 56 % 4

/-- The entry that a new error fills (R314): the next empty one; for an uncorrected error also the oldest corrected or
parity entry. -/
def errSlot (es : List ErrEntry) (kind : Nat) : Option Nat :=
  match es.findIdx? fun e => e.kind == 0 with
  | some i => some i
  | none =>
    if kind = 2 then
      let old := es.filter fun e => e.kind != 2
      match (old.map fun e => e.w2.toNat).min? with
      | none => none
      | some t => es.findIdx? fun e => e.kind != 2 && e.w2.toNat == t
    else none

/-- The head register of an array's log (R314): `next`, the entry that the next error fills (an uncorrected one when no
entry is empty; 0 when none can be filled), and `lost`. -/
def ArrayRegs.head (r : ArrayRegs) : Word :=
  BitVec.ofNat 64 ((errSlot r.entries 2).getD 0 % 16 + r.lost % 2 ^ 28 * 16)

/-- Logs an error of kind 1 corrected, 2 uncorrected, 3 parity at a protected word; an uncorrected one interrupts the
partition that owns it (R314). -/
def State.logError (s : State) (a : ArrayId) (addr kind : Nat) (inj : Bool) (syn : BitVec 8) (c : ErrCtx)
    (owner : Option Nat) : State :=
  let r := s.arrayRegs a
  let e : ErrEntry :=
    ⟨BitVec.ofNat 64 (addr % 2 ^ 48 + syn.toNat * 2 ^ 48 + kind * 2 ^ 56 + bitOf inj * 2 ^ 58),
     if c.valid then BitVec.ofNat 64 (c.asid % 2 ^ 13 + c.cell % 2 ^ 20 * 2 ^ 13 + c.slot % 8 * 2 ^ 33 + 2 ^ 36) else 0,
     BitVec.ofNat 64 s.now⟩
  let r' := match errSlot r.entries kind with
    | some i => { r with entries := r.entries.set i e }
    | none => { r with lost := min (r.lost + 1) (2 ^ 28 - 1) }
  let s := s.setArray a r'
  match owner with
  | some p => if kind = 2 then s.raise p 2 else s
  | none => s

/-- A read of the protected word `w` (fabric address / 8) finds the error that it holds: a single bit is corrected and
written back, anything else poisons the word (R313). -/
def State.findError (s : State) (w : Nat) (c : ErrCtx) : State :=
  match s.flips.find? fun f => f.addr == w with
  | none => s
  | some f =>
    let n := countBits f.dmask.toNat 64 + countBits f.cmask.toNat 8
    let s := { s with flips := s.flips.filter fun x => x.addr != w }
    if n = 0 then s
    else
      let syn := Config.syndrome f.dmask f.cmask
      let s := s.logError (arrayOf (w * 8)) (w * 8 % 2 ^ 48) (if n = 1 then 1 else 2) f.inj syn c (s.ownerOf (w * 8))
      if n = 1 then s else { s with poison := w :: s.poison.filter fun x => x != w }

/-- Finds the errors of `n` words from `w`. -/
def State.findErrors (s : State) (c : ErrCtx) (w : Nat) : Nat → State
  | 0 => s
  | n + 1 => (s.findError w c).findErrors c (w + 1) n

/-- Number of protected words that `n` bytes at `pa` touch. -/
def wordSpan (pa n : Nat) : Nat := if n = 0 then 0 else (pa + n - 1) / 8 - pa / 8 + 1

/-- A read performed at the home: errors are met first; the flag says whether a word read is poisoned. -/
def State.readAt (s : State) (c : ErrCtx) (pa n : Nat) : Nat × Bool × State :=
  if s.flips = [] ∧ s.poison = [] then (memRead s.mem pa n, false, s)
  else
    let s := s.findErrors c (pa / 8) (wordSpan pa n)
    let bad := (List.range (wordSpan pa n)).any fun i => s.poison.contains (pa / 8 + i)
    if bad then (lowBits (8 * n) (Config.poisonData s.free).toNat, true, { s with free := s.free + 1 })
    else (memRead s.mem pa n, false, s)

/-- An injection register fires on a write to its word (R315). -/
def State.inject (s : State) (pa n : Nat) : State :=
  if s.arrays = [] then s
  else
    let a := arrayOf pa
    let r := s.arrayRegs a
    let w := r.inj0.toNat % 2 ^ 48 / 8
    if bitAt r.inj0.toNat 48 ∧ pa % 2 ^ 48 / 8 ≤ w ∧ w < pa % 2 ^ 48 / 8 + wordSpan pa n then
      let f : Flip := ⟨pa / 2 ^ 48 * 2 ^ 45 + w, r.inj1, BitVec.ofNat 8 (r.inj2.toNat % 256), true⟩
      let r' := if bitAt r.inj0.toNat 49 then r else { r with inj0 := r.inj0 &&& ~~~(BitVec.ofNat 64 (2 ^ 48)) }
      { s with flips := f :: s.flips.filter fun x => x.addr != f.addr }.setArray a r'
    else s

/-- A write performed at the home. A write of a whole protected word clears its poison and its error; a partial write
reads the word first (R313). -/
def State.writeAt (s : State) (c : ErrCtx) (pa n x : Nat) : State :=
  if s.flips = [] ∧ s.poison = [] then { s with mem := memWrite s.mem pa n x }.inject pa n
  else
    let whole (w : Nat) : Bool := decide (pa ≤ w * 8 ∧ w * 8 + 8 ≤ pa + n)
    let clear (w : Nat) : Bool := decide (pa / 8 ≤ w ∧ w < pa / 8 + wordSpan pa n) && whole w
    let s := { s with flips := s.flips.filter fun f => !clear f.addr, poison := s.poison.filter fun w => !clear w }
    let s := s.findErrors c (pa / 8) (wordSpan pa n)
    { s with mem := memWrite s.mem pa n x }.inject pa n

/-- 64-bit words written at `pa`, one after another, by a unit of the device. -/
def State.writeWords (s : State) (pa : Nat) : List Word → State
  | [] => s
  | w :: ws => (s.writeAt ErrCtx.engine pa 8 w.toNat).writeWords (pa + 8) ws

/-- A unit of the device meets the errors of the words that `n` bytes at `pa` touch, as a read of them does. -/
def State.meet (s : State) (pa n : Nat) : State :=
  if s.flips = [] then s else s.findErrors ErrCtx.engine (pa / 8) (wordSpan pa n)

/-! ### Trace records (R335-R338) -/

/-- Words joined, the first lowest. -/
def joinWords : List Word → Nat
  | [] => 0
  | w :: ws => w.toNat + 2 ^ 64 * joinWords ws

/-- Writes one record of a ring (R336), as one 32-byte write: dropped in stop mode when it would meet rd, overwriting in
overwrite mode. -/
def State.ringWrite (s : State) (r : Ring) (ws : List Word) : State × Ring :=
  let bytes := r.size.toNat * 65536
  if bytes = 0 then (s, r)
  else
    let next := (r.wr + 32) % bytes
    if next = r.rd ∧ r.wrap = false then
      (s, { r with lost := if r.lost = BitVec.allOnes 32 then r.lost else r.lost + 1
                   dropped := min (r.dropped + 1) (2 ^ 32 - 1) })
    else
      (s.writeAt ErrCtx.engine (r.base.toNat + r.wr) 32 (joinWords ws),
        { r with wr := next, rd := if next = r.rd then (r.rd + 32) % bytes else r.rd })

/-- A ring's control block written back. -/
def State.setRing (s : State) (p d : Nat) (r : Ring) : State :=
  s.modPart p fun x => { x with rings := Tab.set x.rings d r }

/-- The words of a record (R337). -/
def recordWords (kind slot cell : Nat) (flag : Bool) (corr time w2 w3 : Nat) : List Word :=
  [BitVec.ofNat 64 (kind + slot % 8 * 2 ^ 8 + cell % 2 ^ 20 * 2 ^ 11 + bitOf flag * 2 ^ 31 + corr % 2 ^ 32 * 2 ^ 32),
   BitVec.ofNat 64 time, BitVec.ofNat 64 w2, BitVec.ofNat 64 w3]

/-- Does the kind mask let records of a kind through (R335)? -/
def Ring.takes (r : Ring) (k : Nat) : Bool := bitAt r.kmask.toNat (k - 1)

/-- Writes a record of kind `k` to the ring of partition `p` on die `d` (R335-R337); a kind 16 record goes first when
records have been dropped, there is room again, and the mask lets its kind through. -/
def State.traceOn (s : State) (p d k slot cell : Nat) (flag : Bool) (corr w2 w3 : Nat) (time : Nat) : State :=
  let r := Tab.get (s.part p).rings Ring.reset d
  if r.en ∧ r.takes k then
    let room : Bool := r.size != 0 && (r.wrap || decide ((r.wr + 32) % (r.size.toNat * 65536) ≠ r.rd))
    let (s, r) :=
      if r.dropped ≠ 0 ∧ room ∧ r.takes 16 then
        s.ringWrite { r with dropped := 0 } (recordWords 16 0 0xFFFFF false 0 time r.dropped 0)
      else (s, r)
    let (s, r) := s.ringWrite r (recordWords k slot cell flag corr time w2 w3)
    s.setRing p d r
  else s

/-- A record of a strand: its slot, cell, launch's corr, at the present time. -/
def State.traceStrand (s : State) (t : Strand) (k : Nat) (flag : Bool) (w2 w3 : Nat) : State :=
  let corr := match s.launchOf t with
    | some l => l.eff.corr.toNat
    | none => 0
  s.traceOn t.part (dieOf t.cell) k t.slot t.cell flag corr w2 w3 s.now

/-! ### Stopping an instruction: faults (R316-R320), waits (R13), misses (R321) -/

/-- Why an instruction has no effect now. -/
inductive Stop where
  /-- A precise fault with its cause and `fault.addr` (R316). -/
  | trap (cause : Nat) (addr : Nat)
  /-- A fault whose `fault.pc` is the next instruction: `trap`, `bkpt` (R220, R222, R319). -/
  | after (cause : Nat) (addr : Nat)
  /-- The strand blocks and takes the instruction again when it wakes. -/
  | wait (w : Wait)
  /-- A precise fault that a home finds by reading a word in error: the state holds what the read logged (R313). -/
  | found (s : State) (cause : Nat) (addr : Nat)
  /-- No valid translation for a 72-bit address (R321): 0 read, 1 write, 2 fetch, 3 home operation. -/
  | miss (va acc : Nat)
  deriving DecidableEq, Repr

/-- An instruction that may stop. -/
abbrev Run (α : Type) := Except Stop α

/-- Words w1 to w5 of a dump buffer's header (R324): a fault's domain, launch, cause, place, `fault.pc`, `fault.addr`, time. -/
def faultWords (fdom launch cause cell slot pc : Nat) (addr : Word) (time : Nat) : List Word :=
  [BitVec.ofNat 64 (fdom % 2 ^ 12 + launch % 2 ^ 32 * 2 ^ 12),
   BitVec.ofNat 64 (cause % 2 ^ 16 + cell % 2 ^ 20 * 2 ^ 16 + slot % 8 * 2 ^ 36), BitVec.ofNat 64 pc, addr, BitVec.ofNat 64 time]

/-- The fault domain `fdom` takes a fatal fault (R320): in a domain that is ending already it is a secondary record until the dump
is complete, and nothing after that (R326). -/
def Part.fatal (x : Part) (fdom launch cell slot uid cause : Nat) (pc : BitVec 40) (addr : Word) (now : Nat) : Part :=
  if x.ends.any fun e => e.fdom == fdom then
    { x with ends := x.ends.map fun e =>
        if e.fdom = fdom ∧ e.phase < 2 then { e with secondary := e.secondary ++ [faultWords fdom launch cause cell slot pc.toNat addr now] }
        else e }
  else { x with ends := x.ends ++ [⟨fdom, launch, cause, cell, slot, pc.toNat, addr, now, uid, 0, false, true, []⟩] }

/-- Opens the end of a fault domain for a fatal fault (R320, R323): the strand is stopped; a later fatal fault of a
domain that is already ending is a secondary record (R326). A launch that has ended has no domain left to end. -/
def State.fatal (s : State) (p launch cell slot uid cause : Nat) (pc : BitVec 40) (addr : Word) : State :=
  match (s.part p).launch? launch with
  | some l => s.setPart p ((s.part p).fatal l.eff.fdom launch cell slot uid cause pc addr s.now)
  | none => s

/-- TAKING A FAULT (R319): `fault.cause`, `fault.pc`, `fault.addr` are written, the handler bit is set and the PC becomes
trapv; nothing else changes. The fault is fatal when trapv is 0 or the handler bit is set (R320): the strand stops at
its boundary, its slot is free (R13), and the end of its fault domain opens (R323). `pc` is B, or the next instruction for trap, sysc, bkpt. -/
def State.takeFault (s : State) (cause : Nat) (pc : BitVec 40) (addr : Word) : State :=
  if s.st.trapv = 0 ∨ s.st.handler = true then
    { s with st := { s.st with status := .stopped, stepping := false, top := none, fcause := BitVec.ofNat 16 cause, fpc := pc, faddr := addr } }
      |>.fatal s.st.part s.st.launch s.st.cell s.st.slot s.st.uid cause pc addr
  else
    { s with st := { s.st with
        fcause := BitVec.ofNat 16 cause
        fpc := pc
        faddr := addr
        handler := true
        pc := s.st.trapv
        bpDone := false
        top := none
        status := if s.st.stepping then .halted else s.st.status
        stepping := false } }

/-- THE RETURN FROM A TRAP (R221, R319): leaves handler state; the PC becomes `fault.pc`. -/
def Strand.returnFrom (t : Strand) : Strand := { t with handler := false, pc := t.fpc }

/-- The walk of a page for an address space that runs or waits on a die (R334): misses for the page join it until its
record is posted. -/
def State.walkFor (s : State) (die asid page : Nat) : Option Walk :=
  s.walks.find? fun w => w.die == die && w.asid == asid && w.page == page && w.record.isNone

/-- Joins or starts the walk of a miss; its number (R321, R334). -/
def State.startWalk (s : State) (die p asid va acc : Nat) (eng : Bool) (cell slot : Nat) : Nat × State :=
  match s.walkFor die asid (va / 65536) with
  | some w => (w.id, s)
  | none =>
    (s.nextId, { s with
      walks := s.walks ++ [⟨s.nextId, die, p, asid, va / 65536, va, acc, eng, cell, slot, false, none, none⟩]
      nextId := s.nextId + 1 })

/-- The instruction has completed: the PC moves past it. -/
def State.finish (s : State) : State := { s with st := { s.st with pc := s.st.npc } }

/-- The strand in focus with its registers changed, and the instruction completed. -/
def State.done (s : State) (t : Strand) : State := { s with st := { t with pc := s.st.npc } }

/-- `ret.status` (R22). -/
def Strand.status? (t : Strand) (n : Nat) : Strand := { t with rstat := BitVec.ofNat 64 n }

end Sys2Proof.Machine
end

