-- ==== Sys2Proof/Machine/Access.lean ====
section
/-! DEFINITION. What every access of memory goes through: translation (R321, R330-R334), permission (R331), homes past
their teardown point (R327), law regions and the sweep load (R230, R312), watched objects and knots (R241-R246), the
order logs of windows (R346, R347), and the write that a home performs. -/

namespace Sys2Proof.Machine

/-! ### The knot table (R241) -/

/-- A knot as its 32-byte record gives it. -/
structure Knot where
  count : Nat
  parent : Nat
  depth : Nat
  live : Bool
  leaf : Bool
  obase : Nat
  osize : Nat
  deriving DecidableEq, Repr

/-- The parent field of knot 0. -/
def noParent : Nat := 0xFFFFFF

/-- Fabric address of a knot's record. -/
def State.knotAddr (s : State) (p n : Nat) : Nat := (s.part p).w 13 + 32 * n

/-- Knot `n` of partition `p`. -/
def State.knot (s : State) (p n : Nat) : Knot :=
  let a := s.knotAddr p n
  let w1 := memRead s.mem (a + 8) 8
  ⟨memRead s.mem a 8, bitsOf w1 23 0, bitsOf w1 28 24, bitAt w1 29, bitAt w1 30, memRead s.mem (a + 16) 8,
    lowBits 48 (memRead s.mem (a + 24) 8)⟩

/-- The words of a knot's record. -/
def Knot.words (k : Knot) : List Word :=
  [BitVec.ofNat 64 k.count,
   BitVec.ofNat 64 (k.parent % 2 ^ 24 + k.depth % 32 * 2 ^ 24 + bitOf k.live * 2 ^ 29 + bitOf k.leaf * 2 ^ 30),
   BitVec.ofNat 64 k.obase, BitVec.ofNat 64 (k.osize % 2 ^ 48)]

/-- Writes knot `n`: four whole protected words (R313). -/
def State.putKnot (s : State) (p n : Nat) (k : Knot) : State := s.writeWords (s.knotAddr p n) k.words

/-- Adds to a knot's count, which saturates. The home reads the word and writes it back: the errors of it are met, and a
poisoned count stays poisoned (R313; log entry 106). -/
def State.knotAdd (s : State) (p n k : Nat) : State :=
  let (v, bad, s) := s.readAt ErrCtx.engine (s.knotAddr p n) 8
  if bad then s else s.writeAt ErrCtx.engine (s.knotAddr p n) 8 (min (v + k) (2 ^ 64 - 1))

/-! ### The roll-up units (R246, R311) -/

/-- The die that homes a knot. -/
def State.knotDie (s : State) (p n : Nat) : Nat := homeDie (s.knotAddr p n)

/-- Pending increments with `k` more for knot `n` of partition `p`: increments to one knot merge (R311). -/
def addPending (l : List (Nat × Nat × Nat)) (p n k : Nat) : List (Nat × Nat × Nat) :=
  if l.any (fun e => e.1 == p && e.2.1 == n) then
    l.map fun e => if e.1 = p ∧ e.2.1 = n then (p, n, e.2.2 + k) else e
  else l ++ [(p, n, k)]

/-- Hands `k` increments to a knot to the unit of a die. -/
def State.rollTo (s : State) (d p n k : Nat) : State := s.modDie d fun x => { x with rollups := addPending x.rollups p n k }

/-- Hands `k` increments to a knot's parent to the roll-up unit of the die that homes the knot (R246): knot 0 has none (R241).
The errors of the word that names the parent are met, and increments behind a poisoned one are lost (R313; log entry 106). -/
def State.rollUp (s : State) (p n k : Nat) : State :=
  if n = 0 then s
  else
    let (_, bad, s) := s.readAt ErrCtx.engine (s.knotAddr p n + 8) 8
    if bad then s else s.rollTo (s.knotDie p n) p (s.knot p n).parent k

/-- Has a die's unit room for `n` more pending knots of its 4,096? -/
def State.unitRoom (s : State) (d n : Nat) : Bool := decide ((s.die d).rollups.length + n ≤ 4096)

/-- The increments that the units hold for partition `p`. -/
def State.rollups (s : State) (p : Nat) : List (Nat × Nat) :=
  s.dies.flatMap fun e => (e.2.rollups.filter fun r => r.1 == p).map (·.2)

/-- Who writes: partition, context for the error log, identity of the instruction or command (R245). -/
structure Writer where
  part : Nat
  ctx : ErrCtx
  who : Nat
  num : Nat
  deriving DecidableEq, Repr

/-- The writer that a strand's current instruction is: the strand and its count of issued writing instructions (R245). The
strand's own number stands for its cell and slot, so that a later strand of the slot is another writer. -/
def Strand.writer (t : Strand) : Writer := ⟨t.part, t.ctx, t.uid, t.wcount⟩

/-- Does an object hold one of `n` bytes at `pa`? -/
def Watched.touched (o : Watched) (pa n : Nat) : Bool := o.ranges.any fun r => decide (pa < r.1 + r.2 ∧ r.1 < pa + n)

/-- One bump request taken by the leaf's home: the first of its identity adds 1 (R245). -/
def State.bumpLeaf (s : State) (w : Writer) (leaf : Nat) : State :=
  if (s.part w.part).bumps.contains (leaf, w.who, w.num) then s
  else
    (s.modPart w.part fun x => { x with bumps := (leaf, w.who, w.num) :: x.bumps }).knotAdd w.part leaf 1
      |>.rollUp w.part leaf 1

/-- Is a write of some fabric ranges, as (address, length), held back: has the unit of a die that homes watched bytes among
them, or of the die that homes their object's leaf, no room for what the write hands to it (R311)? -/
def State.rollFull (s : State) (p : Nat) (l : List (Nat × Nat)) : Bool :=
  let os := (s.part p).objects.filter fun o => l.any fun r => o.touched r.1 r.2
  os.any fun o => !s.unitRoom (s.knotDie p o.knot) os.length
    || l.any fun r => o.touched r.1 r.2 && !s.unitRoom (homeDie r.1) os.length

/-- The bumps of a write of `n` bytes at `pa` (R244, R245). -/
def State.bump (s : State) (w : Writer) (pa n : Nat) : State :=
  ((s.part w.part).objects.filter fun o => o.touched pa n).foldl (fun s o => s.bumpLeaf w o.knot) s

/-! ### Law regions (R230) and the sweep load (R312) -/

/-- The byte offset of a fabric address in a region. -/
def Region.offsetOf (r : Region) (pa : Nat) : Option Nat :=
  match r.pages.findIdx? fun g => g == pa / 65536 with
  | none => none
  | some i =>
    let o := i * 65536 + pa % 65536
    if r.off ≤ o ∧ o < r.off + r.size then some (o - r.off) else none

/-- The fabric address of byte `o` of a region. -/
def Region.addrOf (r : Region) (o : Nat) : Nat := r.pages.getD ((r.off + o) / 65536) 0 * 65536 + (r.off + o) % 65536

/-- The region of a partition that holds a fabric address: its number and itself. -/
def Part.regionAt (p : Part) (pa : Nat) : Option (Nat × Region) :=
  p.regions.find? fun e => (e.2.offsetOf pa).isSome

/-- The partitions that are live. -/
def State.liveParts (s : State) : List Part := (s.parts.filter fun e => e.2.live).map (·.2)

/-- The weight of a word with a law in units of 2^-24: 2^(24-n) in a WALL region, 0 elsewhere. -/
def State.sweepWeight (s : State) (pa : Nat) : Nat :=
  (s.liveParts.map fun p => match p.regionAt pa with
    | some (_, r) => if r.step then 0 else 2 ^ (24 - r.n)
    | none => 0).sum

/-- The sweep load of a die in units of 2^-24: over the words whose law index is not 0. -/
def State.sweepLoad (s : State) (d : Nat) : Nat :=
  (s.mem.map fun c => if c.1 % 8 = 0 ∧ homeDie c.1 = d then s.sweepWeight c.1 else 0).sum

/-- Would a write raise the load of its die above 2^29 (R312)? -/
def State.overload (s : State) (pa n x : Nat) : Bool :=
  if s.sweepWeight (pa / 8 * 8) = 0 then false
  else
    let d := homeDie pa
    let new := { s with mem := memWrite s.mem pa n x }.sweepLoad d
    decide (2 ^ 53 < new ∧ s.sweepLoad d < new)

/-- The address of the law-carrying word at which a write of `n` bytes at `pa`, the virtual address `va`, takes its die's
load too far (R312). -/
def State.overAt (s : State) (pa n x va : Nat) : Option Nat :=
  if s.overload pa n x then
    some (va / 8 * 8 + 8 * ((List.range (wordSpan pa n)).find? fun i =>
      s.overload pa (min n ((pa / 8 + i + 1) * 8 - pa)) x).getD 0)
  else none

/-! ### The write that a home performs -/

/-- May the home perform a write? It takes the laws fault 0x0605 (R312), or waits while a roll-up unit is full (R311). -/
def State.writeOk (s : State) (w : Writer) (watched : Bool) (pa n x va : Nat) : Run Unit :=
  match s.overAt pa n x va with
  | some a => .error (.trap 0x0605 (a % 2 ^ 64))
  | none => if watched ∧ s.rollFull w.part [(pa, n)] then .error (.wait .issue) else .ok ()

/-- A write of the low `n` bytes of `x`: the bump first, then the bytes (R244). -/
def State.write (s : State) (w : Writer) (watched : Bool) (pa n x : Nat) : State :=
  (if watched then s.bump w pa n else s).writeAt w.ctx pa n x

/-- A write of a list of bytes, in naturally aligned 8-byte pieces as far as the error codes see them (R276). -/
def State.writeBytes (s : State) (w : Writer) (watched : Bool) (pa : Nat) : List Byte → State
  | [] => s
  | b :: bs => (s.write w watched pa 1 b.toNat).writeBytes w watched (pa + 1) bs

/-! ### Translation -/

/-- Where an access goes. -/
structure Loc where
  pa : Nat
  watched : Bool
  deriving DecidableEq, Repr

/-- Does a translation serve an address? -/
def TlbEntry.hits (e : TlbEntry) (asid va : Nat) : Bool := e.asid == asid && e.page == va / 2 ^ e.log

/-- A translation held by the cell's TLB, the cluster's, or the die's service (R334). -/
def State.tlbFind (s : State) (cell asid va : Nat) : Option TlbEntry :=
  match (s.cell cell).tlb.find? fun e => e.hits asid va with
  | some e => some e
  | none =>
    match (s.cluster (clusterOf cell)).tlb.find? fun e => e.hits asid va with
    | some e => some e
    | none => (s.die (dieOf cell)).tlb.find? fun e => e.hits asid va

/-- The ASID table entry: root and partition, if valid (R330). -/
def State.asidRoot (s : State) (asid : Nat) : Option (Nat × Nat) :=
  let e := (Tab.get s.asids 0 asid).toNat
  if bitAt e 0 then some (bitsOf e 55 17 * 2 ^ 17, bitsOf e 4 1) else none

/-- Does a leaf overlap a watched object of the partition (R333)? -/
def Part.watches (p : Part) (pa n : Nat) : Bool := p.objects.any fun o => o.touched pa n

/-- The levels of a walk from a table, `n` of them left (R330, R331): a leaf found, or none (a miss). The device writes
bit 5 of a leaf that overlaps a watched object (R333); `clear`: it takes the bit away from one that overlaps none any more
(R249). -/
def walkLevels (clear : Bool) (s : State) (part asid va table : Nat) : Nat → State × Option TlbEntry
  | 0 => (s, none)
  | n + 1 =>
    let sh := 16 + 14 * n
    let at8 := table + 8 * (va / 2 ^ sh % 2 ^ 14)
    let (e, bad, s) := s.readAt ErrCtx.engine at8 8
    let pa := bitsOf e 55 16 * 2 ^ 16
    if bad ∨ bitAt e 0 = false ∨ bitsOf e 15 6 ≠ 0 ∨ bitsOf e 63 56 ≠ 0 then (s, none)
    else if bitAt e 1 then
      if n = 3 ∨ pa % 2 ^ sh ≠ 0 then (s, none)
      else
        let wch := (s.part part).watches pa (2 ^ sh)
        let s :=
          if wch then s.writeAt ErrCtx.engine at8 1 (e % 256 ||| 32)
          else if clear ∧ bitAt e 5 then s.writeAt ErrCtx.engine at8 1 (e % 256 - 32)
          else s
        (s, some ⟨asid, va / 2 ^ sh, sh, pa, bitAt e 2, bitAt e 3, bitAt e 4, wch⟩)
    else if pa % 2 ^ 17 ≠ 0 then (s, none)
    else walkLevels clear s part asid va pa n

/-- A walk of the tables of an ASID (R330-R332). -/
def State.walk (s : State) (asid va : Nat) : State × Option TlbEntry :=
  match s.asidRoot asid with
  | none => (s, none)
  | some (root, p) => walkLevels false s p asid va root 4

/-- The leaf entry of a page loses its watched bit, unless an object still shares it (R249). -/
def State.unwatch (s : State) (asid va : Nat) : State :=
  match s.asidRoot asid with
  | none => s
  | some (root, p) => (walkLevels true s p asid va root 4).1

/-- A permitted access of partition `p` (R331): the fabric address, or 0x0303 or 0x0305 with the address. -/
def State.permit (s : State) (p : Nat) (e : TlbEntry) (va : Nat) (r w x : Bool) : Run Loc :=
  let pa := e.pa + va % 2 ^ e.log
  if (r && !e.r) || (w && !e.w) || (x && !e.x) || !s.mayName p pa then .error (.trap 0x0303 (va % 2 ^ 64))
  else if (s.part p).dead.contains (homeOf pa) then .error (.trap 0x0305 (va % 2 ^ 64))
  else .ok ⟨pa, e.watched⟩

/-- The 72-bit address of a data access (R12, R174). -/
def Strand.dataVa (t : Strand) (a : Word) : Nat := t.uab.toNat * 2 ^ 64 + a.toNat

/-- Translation and permission of a strand's access (R174): `acc` is 0 read, 1 write, 2 fetch, 3 home operation. -/
def State.locate (s : State) (t : Strand) (va acc : Nat) (r w x : Bool) : Run Loc :=
  match s.tlbFind t.cell t.asid va with
  | none => .error (.miss va acc)
  | some e => s.permit t.part e va r w x

/-- The alignment fault (R174). -/
def aligned (va n : Nat) : Run Unit := if va % n = 0 then .ok () else .error (.trap 0x0301 (va % 2 ^ 64))

/-- A translation that a unit of a die makes at once: its service, else a walk whose leaf the service keeps (R334). Units
that stall on a miss take a walker first (`engineLoc`). -/
def State.engineFind (s : State) (die asid va : Nat) : State × Option TlbEntry :=
  match (s.die die).tlb.find? fun e => e.hits asid va with
  | some e => (s, some e)
  | none =>
    match s.walk asid va with
    | (s, none) => (s, none)
    | (s, some e) => (s.modDie die fun d => { d with tlb := (e :: d.tlb).take 16384 }, some e)

/-! ### Order logs of the partition (R346, R347) -/

/-- The window that holds a fabric address: a window word of 0 names no line (log entry 30). -/
def OrderLog.window (l : OrderLog) (pa : Nat) : Option Nat :=
  l.windows.findIdx? fun w => w != 0 && w.toNat / 64 == pa / 64

/-- Number of cells of a partition, and the position of a cell among them. -/
def Part.cellCount (p : Part) : Nat := 16 * p.clusters.length
def Part.cellIndex (p : Part) (cell : Nat) : Nat :=
  16 * (p.clusters.filter fun k => k < clusterOf cell).length + cell % 16

/-- Records an entry at a log point while rec is 1 and rep is 0: the segment that it fills sets its overflow flag, and the
point stops recording (R346). -/
def State.logEntry (s : State) (p point size entry : Nat) : State :=
  let x := s.part p
  if x.dbg.recording = false ∨ x.dbg.replaying then s
  else
    let base := x.log.base.toNat + point * x.log.seg.toNat
    let s := s.meet base 16
    let n := memRead s.mem base 8
    let full (n : Nat) : Bool := decide (x.log.seg.toNat < 16 + (n + 1) * size)
    if bitAt (memRead s.mem (base + 8) 1) 0 then s
    else if full n then s.writeAt ErrCtx.engine (base + 8) 8 1
    else
      let s := (s.writeAt ErrCtx.engine (base + 16 + n * size) size entry).writeAt ErrCtx.engine base 8 (n + 1)
      if full (n + 1) then s.writeAt ErrCtx.engine (base + 8) 8 1 else s

/-- Does a log point that enforces its segment admit an entry (R347)? -/
def State.logAdmits (s : State) (p point size entry : Nat) : Bool :=
  let x := s.part p
  if x.dbg.replaying = false ∨ x.log.free.contains point then true
  else
    let base := x.log.base.toNat + point * x.log.seg.toNat
    let i := Tab.get x.log.pos 0 point
    if memRead s.mem base 8 ≤ i then true else memRead s.mem (base + 16 + i * size) size == entry

/-- An entry has happened at a log point: recorded, or the enforced position moves on. -/
def State.logDone (s : State) (p point size entry : Nat) : State :=
  let x := s.part p
  if x.dbg.replaying then
    let i := Tab.get x.log.pos 0 point
    let s := s.meet (x.log.base.toNat + point * x.log.seg.toNat + 16 + i * size) size
    s.setPart p { s.part p with log := { x.log with
      pos := Tab.set x.log.pos point (i + 1), lastTime := Tab.set x.log.lastTime point s.now } }
  else s.logEntry p point size entry

/-- The window entry of the home operation to windows with number `n` of a strand (R346). -/
def Strand.windowEntry (t : Strand) (n : Nat) : Nat :=
  t.cell % 2 ^ 20 + n % 2 ^ 32 * 2 ^ 20
    + 2 ^ 64 * (if t.act then t.origin.1 % 2 ^ 20 + t.origin.2 % 2 ^ 32 * 2 ^ 20 + (if t.task.isSome then 3 else 1) * 2 ^ 52
      else t.rank.toNat % 2 ^ 24 + bitsOf t.lin.toNat 47 24 * 2 ^ 24)

/-- Holds the home operation with number `n` of a strand on a windowed line back until a replay admits it (R347). -/
def State.windowHold (s : State) (t : Strand) (n pa : Nat) : Run Unit :=
  match (s.part t.part).log.window pa with
  | none => .ok ()
  | some i =>
    if s.logAdmits t.part ((s.part t.part).cellCount + i) 16 (t.windowEntry n) then .ok () else .error (.wait .issue)

/-- The home operation with number `n` of a strand on a windowed line has been performed. -/
def State.windowLog (s : State) (t : Strand) (n pa : Nat) : State :=
  match (s.part t.part).log.window pa with
  | none => s
  | some i => s.logDone t.part ((s.part t.part).cellCount + i) 16 (t.windowEntry n)

/-- A home operation of a strand to a windowed line has been issued: it counts (R346). -/
def State.countWindow (s : State) (t : Strand) (pa : Nat) : Strand :=
  if ((s.part t.part).log.window pa).isSome then { t with wops := t.wops + 1 } else t

/-- A home operation issued and performed in one step: logged and counted. -/
def State.windowDone (s : State) (t : Strand) (pa : Nat) : State :=
  (s.windowLog t t.wops pa).modStrand t.uid fun x => s.countWindow x pa

end Sys2Proof.Machine
end

