-- ==== Sys2Proof/Machine/Risk.lean ====
section
/-! DEFINITION. What an outstanding access of a strand can still bring: the objects that homes read (R58, R188, R190), the
faults that they may find (R317, R318), and how an instruction that stops waits for them. -/

namespace Sys2Proof.Machine

/-! ### Kinds of instruction -/

/-- Is it an instruction of the vector stream (R23, R132)? -/
def isVector : Instr → Bool
  | .vsetvl .. | .vsetvli .. | .vadd .. | .vsub .. | .vmul .. | .vmulh .. | .vmacc .. | .vand .. | .vor .. | .vxor ..
  | .vshl .. | .vshr .. | .vsra .. | .vmin .. | .vmax .. | .vminn .. | .vmaxn .. | .vabs .. | .vnarrow ..
  | .vwiden .. | .vfadd .. | .vfsub .. | .vfmul .. | .vfma .. | .vfdiv .. | .vfmin .. | .vfmax .. | .vcmp ..
  | .vfcmp .. | .vsel .. | .vmv .. | .vslide .. | .vperm .. | .vcompress .. | .vredsum .. | .vredmax .. | .vredmin ..
  | .vdotx .. | .vdeq .. | .vprune4 .. | .mand .. | .mor .. | .mxor .. | .mset .. | .vexp2 .. | .vlog2 .. | .vrcp ..
  | .vrsq .. | .vsigm .. | .vtanh .. | .vcvt .. | .mnot .. | .mpop .. | .mfirst .. | .vrep .. | .vld .. | .vlds ..
  | .vldx .. | .vldff .. | .vst .. | .vsts .. | .vstx .. => true
  | _ => false

/-- Is it a load (R147, R148, R177, R179)? -/
def isLoad : Instr → Bool
  | .ld .. | .ldc .. | .vld .. | .vlds .. | .vldx .. | .vldff .. => true
  | _ => false

/-- Is it a store (R147, R178)? -/
def isStore : Instr → Bool
  | .st .. | .vst .. | .vsts .. | .vstx .. => true
  | _ => false

/-- Is it a vector instruction that accesses memory (R147, R148)? -/
def isVectorMem (i : Instr) : Bool := isVector i && (isLoad i || isStore i)

/-- Is it a home operation: neither a load nor a store (R182)? `step` is applied at its region's home (R240). -/
def isHomeOp (i : Instr) : Bool := !isLoad i && !isStore i && match i with
  | .step .. => false
  | _ => true

/-- The format that a reply's tag names (R177, R183, R187); raw for the other home operations. -/
def accessFmt : Instr → Fmt
  | .ld f .. | .ldc f .. | .st f .. | .aadd f .. | .aand f .. | .aor f .. | .axor f .. | .amin f .. | .amax f ..
  | .axchg f .. | .acas f .. | .incw f .. | .bfadd f .. | .xrd f .. => f
  | _ => .raw

/-! ### The objects of home operations -/

/-- The 256-bit XA word split: value (signed), range-lost, nan-seen, count; `none` when malformed (R58). -/
def xaParts (w : Nat) : Option (Int × Bool × Bool × Nat) :=
  if bitsOf w 61 48 ≠ 0 then none
  else some (signedBits 192 (w / 2 ^ 64), bitAt w 63, bitAt w 62, bitsOf w 47 0)

/-- A barrier object (R190). -/
structure Barrier where
  permits : Nat
  tokens : Nat
  phase : Bool
  expect : Nat
  overrun : Bool
  deriving DecidableEq, Repr

/-- The barrier object in 16 bytes, or none when malformed. -/
def barrierParts (w : Nat) : Option Barrier :=
  if bitsOf w 63 33 ≠ 0 ∨ bitsOf w 127 113 ≠ 0 then none
  else some ⟨bitsOf w 15 0, bitsOf w 31 16, bitAt w 32, bitsOf w 111 64, bitAt w 112⟩

/-- A ring block (R188). -/
structure Ring4 where
  head : Nat
  tail : Nat
  mask : Nat
  esz : Nat
  base : Nat
  deriving DecidableEq, Repr

/-- Is x a power of two? -/
def isPow2 (x : Nat) : Bool := x != 0 && x == 2 ^ Nat.log2 x

/-- The ring block in 32 bytes, or none when malformed (R188). -/
def ringParts (w : Nat) : Option Ring4 :=
  let r : Ring4 := ⟨bitsOf w 63 0, bitsOf w 127 64, bitsOf w 159 128, bitsOf w 161 160, bitsOf w 255 192⟩
  if bitsOf w 191 162 ≠ 0 ∨ isPow2 (r.mask + 1) = false ∨ r.base % 2 ^ r.esz ≠ 0
      ∨ r.mask + 1 < (r.tail + 2 ^ 64 - r.head) % 2 ^ 64
  then none else some r

/-- The address of element slot `i` (R188). -/
def Ring4.slot (r : Ring4) (i : Nat) : Nat := (r.base + i % (r.mask + 1) * 2 ^ r.esz) % 2 ^ 64

/-- The elements in a ring. -/
def Ring4.count (r : Ring4) : Nat := (r.tail + 2 ^ 64 - r.head) % 2 ^ 64

/-- Where the element of a ring operation stands at its home (R189): its 72-bit address, and its place as the translations at
hand give it, or why it has none. -/
def State.ringSlot (s : State) (part asid cell va : Nat) (r : Ring4) (push : Bool) : Nat × Run Loc :=
  let sva := va / 2 ^ 64 * 2 ^ 64 + r.slot (if push then r.tail else r.head)
  (sva, match s.tlbFind cell asid sva with
    | none => .error (.miss sva 3)
    | some e => s.permit part e sva (!push) push false)

/-- Does a ring operation move an element: the ring is not full for `enq`, not empty for `deq` (R189)? -/
def Ring4.moves (r : Ring4) (push : Bool) : Bool := if push then r.count != r.mask + 1 else r.count != 0

/-! ### Risk -/

/-- Does a word of `n` bytes at `pa` hold poison or an error not found yet? -/
def State.inError (s : State) (pa n : Nat) : Bool :=
  (List.range (wordSpan pa n)).any fun i => s.poison.contains (pa / 8 + i) || s.flips.any fun f => f.addr == pa / 8 + i

/-- Does an instruction add to a ring, if it is a ring operation (R189)? -/
def ringPush : Instr → Option Bool
  | .enq .. => some true
  | .deq .. => some false
  | _ => none

/-- The element that an outstanding ring operation would move, as memory and the translations stand: `none` when it moves none,
else its place if that is known. -/
def State.ringElem (s : State) (x : Access) (push : Bool) : Option (Option Loc × Nat) :=
  match ringParts (memRead s.mem x.pa 32), s.strand? x.uid with
  | some r, some t =>
    if r.moves push then some ((s.ringSlot t.part t.asid x.cell x.va r push).2.toOption, 2 ^ r.esz) else none
  | _, _ => some (none, 0)

/-- Would the home of an outstanding access find a fault, as memory stands? For the accesses of evolving words the answer is
taken as yes until they have been performed. -/
def State.mayFault (s : State) (x : Access) : Bool :=
  x.fault.isSome || (!x.done && match x.ins with
    | .ld .. | .ldc .. | .step .. | .vld .. | .vlds .. | .vldx .. | .vldff .. => false
    | .vst .. | .vsts .. | .vstx .. => decide (s.sweepWeight (x.pa / 8 * 8) ≠ 0)
    | .st f .. => s.overload x.pa f.size (lowBits f.bits x.d.toNat)
    | .xrd .. => s.inError x.pa 32 || (xaParts (memRead s.mem x.pa 32)).isNone
    | .barm .. | .bput .. => s.inError x.pa 16 || (barrierParts (memRead s.mem x.pa 16)).isNone
    | .enq .. | .deq .. => s.inError x.pa 32 || decide (s.sweepWeight (x.pa / 8 * 8) ≠ 0)
        || match s.ringElem x ((ringPush x.ins).getD false) with
        | some (some l, n) => s.inError l.pa n || decide (s.sweepWeight (l.pa / 8 * 8) ≠ 0)
        | some (none, _) => true
        | none => false
    | .swld .. | .swst .. | .swadd .. | .swlaw .. => true
    | i => s.inError x.pa (accessFmt i).size || decide (s.sweepWeight (x.pa / 8 * 8) ≠ 0))

/-- May an access still fault, whatever becomes of the memory at its home meanwhile: a home operation not performed yet? -/
def State.unsettled (s : State) (x : Access) : Bool := s.mayFault x || (!x.done && isHomeOp x.ins)

/-- May an access that the strand issued before its vector instruction number `num` still fault? -/
def State.riskBefore (s : State) (uid num : Nat) : Bool :=
  s.accs.any fun x => x.uid == uid && decide (x.after ≤ num) && s.mayFault x

/-- Has the strand an access, issued before its vector instruction number `num`, that is not settled? Vector registers and
tiles are not changed behind one: its fault gives back no more than a checkpoint holds (R131, R318). -/
def State.unsettledBefore (s : State) (uid num : Nat) : Bool :=
  s.accs.any fun x => x.uid == uid && decide (x.after ≤ num) && s.unsettled x

/-- May an earlier access of the strand in focus still fault? -/
def State.risky (s : State) : Bool := s.accs.any fun x => x.uid == s.st.uid && s.mayFault x

/-- Waits while an earlier access of the strand may still fault at its home: what acts outside the strand cannot be taken
back (R93, R131, R318). -/
def noRisk (s : State) : Run Unit := if s.risky then .error (.wait .issue) else .ok ()

/-- Waits until every earlier access of the strand is settled. -/
def allSettled (s : State) : Run Unit :=
  if s.accs.any fun x => x.uid == s.st.uid && s.unsettled x then .error (.wait .issue) else .ok ()

/-! ### How an instruction stops -/

/-- Can the strand in focus take a fault now? The vector instructions before it have executed (R131, R151), and no access
before it may still fault (R318): one of them would be taken first. -/
def State.faultTurn (s : State) : Bool := decide (s.st.vq = []) && !s.risky

/-- The strand in focus waits to issue the same instruction again, with nothing else changed. -/
def State.again (s : State) : State := { s with st := { s.st with status := .blocked .issue } }

/-- The state after an instruction that stopped: the fault taken when its turn has come, or the strand blocked with nothing
else changed. -/
def State.stop (s : State) : Stop → State
  | .trap cause addr => if s.faultTurn then s.takeFault cause s.st.pc (BitVec.ofNat 64 addr) else s.again
  | .after cause addr => if s.faultTurn then s.takeFault cause s.st.npc (BitVec.ofNat 64 addr) else s.again
  | .found s' cause addr => if s.faultTurn then s'.takeFault cause s'.st.pc (BitVec.ofNat 64 addr) else s.again
  | .wait w => { s with st := { s.st with status := .blocked w } }
  | .miss va acc =>
    let (id, s) := s.startWalk (dieOf s.st.cell) s.st.part s.st.asid va acc false s.st.cell s.st.slot
    { s with st := { s.st with status := .blocked (.walk id va) } }

/-- The next state of an instruction: what it did, or how it stopped (R318: a fault leaves no other effect). -/
def State.settle (s : State) (r : Run State) : State :=
  match r with
  | .ok s' => s'
  | .error e => s.stop e

end Sys2Proof.Machine
end

