-- ==== Sys2Proof/Machine/Operands.lean ====
section
/-! DEFINITION. Operands of the scalar stream: registers, special registers, queue registers, constants and literals
(R22-R26, R36, R81), tag and poison checks (R29, R174), the order in which sources are read and pops take place (R102),
and the waits between the streams (R103, R130, R153, R177, R182). -/

namespace Sys2Proof.Machine

/-- A source operand as read: value, tag, the register number that a fault names, and its poison mark. -/
structure Src where
  val : Word
  tag : Fmt
  num : Nat
  bad : Bool
  deriving DecidableEq, Repr

def Src.zero : Src := ⟨0, .raw, 0, false⟩

/-- The value of a special register (R22). -/
def readSp (s : State) (t : Strand) : Sp → Word
  | .idCell => BitVec.ofNat 64 t.cell
  | .idSlot => BitVec.ofNat 64 t.slot
  | .idRank => t.rank.zeroExtend 64
  | .idLin => t.lin
  | .idGen => t.gen
  | .coord => t.coord
  | .tag => t.tag.zeroExtend 64
  | .src => t.src.zeroExtend 64
  | .now => BitVec.ofNat 64 s.now
  | .vl => BitVec.ofNat 64 t.vl
  | .faultCause => t.fcause.zeroExtend 64
  | .faultPc => t.fpc.zeroExtend 64
  | .faultAddr => t.faddr
  | .wdogLeft => t.wleft.zeroExtend 64
  | .retStatus => t.rstat
  | .popId => t.popId

/-- A queue register that the scalar stream may not read (R23): its scalar number. -/
def misuseRead : SReg → Option Nat
  | .q n => if (4 ≤ n.val ∧ n.val ≤ 7) ∨ n.val = 15 then none else some (48 + n.val)
  | _ => none

/-- A queue register that the scalar stream may not write (R23, R102): only q0-q3 may be written. -/
def misuseWrite : SReg → Option Nat
  | .q n => if n.val ≤ 3 then none else some (48 + n.val)
  | _ => none

/-- The queue-misuse fault (R316 0x0A01), raised before anything is popped. -/
def noMisuse : Option Nat → Run Unit
  | none => .ok ()
  | some n => .error (.trap 0x0A01 n)

/-- The misuse of a source operand. -/
def opMisuse : Opnd → Option Nat
  | .reg r => misuseRead r
  | _ => none

/-- The misuse of a memory base. -/
def baseMisuse : Base → Option Nat
  | .reg r => misuseRead r
  | .pc => none

/-- Reads a scalar register (R22, R23, R24): a queue read pops its head, or waits while the queue is empty; a read of
q15 returns the next word of its head entry, and the read of word 7 frees the entry. -/
def takeReg (s : State) (t : Strand) : SReg → Run (Src × Strand)
  | .g n => .ok (⟨t.g.get n, t.gtag.get n, n.val, t.gpois.getLsbD n.val⟩, t)
  | .sp r => .ok (⟨readSp s t r, .raw, r.num, false⟩, t)
  | .q n =>
    if n.val = 15 then
      match t.q15 with
      | [] => .error (.wait .issue)
      | e :: es =>
        .ok (⟨e.words.getD t.qpos 0, .raw, 63, false⟩,
          if t.qpos = 7 then { t with qpos := 0, q15 := es } else { t with qpos := t.qpos + 1 })
    else if h : n.val < 8 then
      match t.q[n.val] with
      | [] => .error (.wait .issue)
      | e :: es => .ok (⟨e.val, e.tag, 48 + n.val, e.bad⟩, { t with q := t.q.set n.val es })
    else .error (.trap 0x0A01 (48 + n.val))

/-- Reads a source operand of kinds 01, 10 and 11 (R36); constants and literals carry tag raw (R26). -/
def takeOp (s : State) (t : Strand) : Opnd → Run (Src × Strand)
  | .vec _ => .ok (Src.zero, t)
  | .reg r => takeReg s t r
  | .const n => .ok (⟨s.constant t n.val, .raw, 0, false⟩, t)
  | .lit v => .ok (⟨BitVec.ofInt 64 v, .raw, 0, false⟩, t)

/-- A general register written: g0 discards, the poison mark goes (R22, R174). -/
def Strand.setG (t : Strand) (n : Fin 32) (v : Word) (tag : Fmt) : Strand :=
  if n.val = 0 then t
  else { t with g := t.g.set n.val v n.isLt, gtag := t.gtag.set n.val tag n.isLt,
                gpois := t.gpois &&& ~~~(BitVec.ofNat 32 (2 ^ n.val)) }

/-- Writes a scalar destination (R22, R23): a queue write pushes, or waits while the queue is full. -/
def putReg (t : Strand) (d : SReg) (v : Word) (tag : Fmt) : Run Strand :=
  match d with
  | .g n => .ok (t.setG n v tag)
  | .sp _ => .ok t
  | .q n =>
    if h : n.val < 8 then
      if t.q[n.val].length < 4 then .ok { t with q := t.q.set n.val (t.q[n.val] ++ [⟨v, tag, false⟩]) }
      else .error (.wait .issue)
    else .error (.trap 0x0A01 (48 + n.val))

/-- Waits until the queue that an instruction writes has room (R102): before its checks. -/
def hasRoom (t : Strand) : SReg → Run Unit
  | .q n => if h : n.val < 8 then (if t.q[n.val].length < 4 then .ok () else .error (.wait .issue)) else .ok ()
  | _ => .ok ()

/-- The tag check of R29: the named format or raw; n64 shares code 0 with raw and passes only raw. -/
def tagCheck (f : Fmt) (x : Src) : Run Unit :=
  if x.tag = f ∨ x.tag = .raw then .ok () else .error (.trap 0x0201 x.num)

/-- The use of a poisoned register (R174, R316 0x0B01). -/
def poisonCheck (x : Src) : Run Unit := if x.bad then .error (.trap 0x0B01 x.num) else .ok ()

/-! ### What an instruction names, and the waits that follow from it -/

/-- The scalar register numbers that an instruction names in its fields. -/
def namedScalars (i : Instr) : List Nat :=
  match toEnc i with
  | none => []
  | some (key, e) =>
    match findRow (key / 1024) (key / 32 % 32) (key % 32) with
    | none => []
    | some r =>
      (match r.desc.d with
        | .src | .dst => [e.d]
        | _ => [])
      ++ (match r.desc.a with
        | .src | .dst => [e.a]
        | .opnd _ | .base => if e.ka = 1 then [e.a] else []
        | _ => [])
      ++ (match r.desc.b with
        | .src => [e.b]
        | .opnd _ => if e.kb = 1 then [e.b] else []
        | _ => [])

/-- The scalar destination of a vector instruction. -/
def vectorDst : Instr → Option SReg
  | .vsetvl d _ _ | .vsetvli _ _ d _ | .vredsum _ _ _ d _ _ | .vredmax _ _ d _ _ | .vredmin _ _ d _ _
  | .vdotx _ _ _ d _ _ | .mpop d _ | .mfirst d _ => some d
  | _ => none

/-- Does a vector instruction write vl (R123, R148)? -/
def writesVl : Instr → Bool
  | .vsetvl .. | .vsetvli .. | .vldff .. => true
  | _ => false

/-- The mask register that a vector instruction writes. -/
def maskDst : Instr → Option (Fin 8)
  | .vcmp _ _ _ d _ _ | .vfcmp _ _ _ d _ _ | .mand _ d _ _ | .mor _ d _ _ | .mxor _ d _ _ | .mnot _ d _ | .mset d _ => some d
  | _ => none

/-- Does an instruction that makes a home operation write `ret.status` when its reply arrives (R183, R185, R187, R189, R191,
R192, R239)? -/
def replyStatus : Instr → Bool
  | .acas .. | .bfadd .. | .xrd .. | .enq .. | .deq .. | .barm .. | .bput .. | .swadd .. => true
  | _ => false

/-- The destination of a load or home operation, written when its reply arrives. -/
def accessDst : Instr → Option SReg
  | .ld _ d _ _ | .ldc _ d _ _ | .aadd _ d _ _ | .aand _ d _ _ | .aor _ d _ _ | .axor _ d _ _ | .amin _ d _ _
  | .amax _ d _ _ | .axchg _ d _ _ | .acas _ d _ _ | .incw _ d _ _ | .bfadd _ d _ _ | .xrd _ _ d _ _
  | .swld d _ _ | .swadd d _ _ | .swlaw d _ _ | .step d _ _ | .enq d _ _ | .deq d _ => some d
  | _ => none

/-- Does a scalar instruction write `ret.status` itself? -/
def writesStatus : Instr → Bool
  | .div .. | .divn .. | .rem .. | .remn .. | .acas .. | .bfadd .. | .xrd .. | .enq .. | .deq .. | .barm .. | .bput ..
  | .sendn .. | .spawn .. | .sleep .. | .tsub .. | .evwait .. | .claim .. | .sysc .. | .swadd .. | .knew ..
  | .kenrol .. | .resample .. | .tcvt .. => true
  | _ => false

/-- Does an access of the strand that has not replied hold the instruction back (R177, R182)? -/
def waitsForReply (i : Instr) (regs : List Nat) (x : Access) : Bool :=
  (match accessDst x.ins with
    | some d => regs.contains d.num && d != .g 0
    | none => false)
  || (replyStatus x.ins && (regs.contains 46 || writesStatus i))

/-- Does an unfinished vector instruction hold a scalar instruction back (R103, R130)? It writes a g register that the
instruction names, or vl or the mask register that the instruction reads. A read of q4-q7 waits only while its queue is
empty (R23). -/
def waitsForVector (i : Instr) (regs : List Nat) (e : VEntry) : Bool :=
  (match vectorDst e.ins with
    | some (.g n) => regs.contains n.val && n.val != 0
    | _ => false)
  || (writesVl e.ins && (regs.contains 41 || match i with
    | .bm .. | .tscan .. => true
    | _ => false))
  || match i, maskDst e.ins with
    | .bm _ m _, some d => m == d
    | .tscan _ m _ _ _, some d => m == d
    | _, _ => false

/-- Must the instruction wait for a reply or for the vector stream? -/
def hazard (i : Instr) (s : State) : Bool :=
  if s.accs = [] ∧ s.st.vq = [] then false
  else
    let regs := namedScalars i
    (s.accs.any fun x => x.uid == s.st.uid && waitsForReply i regs x) || s.st.vq.any (waitsForVector i regs)

/-- Waits while a reply or the vector stream holds the instruction back. -/
def noHazard (i : Instr) (s : State) : Run Unit := if hazard i s then .error (.wait .issue) else .ok ()

/-- Waits until every earlier vector instruction has completed: instructions whose effect is not confined to the
strand's registers (R131, R149). -/
def vectorIdle (t : Strand) : Run Unit := if t.vq = [] then .ok () else .error (.wait .issue)

/-- Waits until every earlier access of the vector stream has been made (R181). -/
def vectorAccessIdle (t : Strand) : Run Unit :=
  if t.vq.any fun e => isVectorMem e.ins then .error (.wait .issue) else .ok ()

/-- Waits while a `vrep` loop runs: an instruction that acts outside the strand's registers issues only when the loop has
ended (R149). -/
def noLoop (t : Strand) : Run Unit := if t.loop.active then .error (.wait .issue) else .ok ()

/-- The unacknowledged store count of a strand (R178, R182, R261): its accesses that have not been performed and count (loads
and `ldc` fills do not), and its vector stores still in the sequencer, which count from their issue. -/
def State.storesDue (s : State) (uid : Nat) : Nat :=
  (s.accs.filter fun x => x.uid == uid && (!x.done || x.fault.isSome) && !isLoad x.ins).length
    + ((s.strands.filter fun t => t.uid == uid).map fun t => (t.vq.filter fun e => isStore e.ins).length).sum

/-- Waits until the unacknowledged store count is zero (R181, R264). -/
def noStores (s : State) : Run Unit := if s.storesDue s.st.uid = 0 then .ok () else .error (.wait .issue)

/-- Waits until every load and home operation of the strand has returned (R181 `.acq`). -/
def noLoads (s : State) : Run Unit :=
  if s.accs.any fun x => x.uid == s.st.uid && !isStore x.ins then .error (.wait .issue) else .ok ()

/-! ### The shape of a scalar instruction -/

/-- What a scalar instruction writes: the destination's value and tag, and `ret.status` if it reports one. -/
structure Res where
  val : Word
  tag : Fmt
  status : Option Nat
  deriving DecidableEq, Repr

/-- A result with no status. -/
def Res.of (val : Nat) (tag : Fmt) : Res := ⟨BitVec.ofNat 64 val, tag, none⟩

/-- A scalar instruction with sources a, b and, when it reads it, d (R102, R317): misuse before anything is popped, then
the pops in the order a, b, d, the tag checks in field order, poison, and the write. -/
def scalarRun (i : Instr) (s : State) (d : SReg) (readsD : Bool) (a b : Opnd) (fa fb fd : Option Fmt)
    (f : Src → Src → Src → Res) : Run State := do
  noHazard i s
  noMisuse (opMisuse a)
  noMisuse (opMisuse b)
  noMisuse (if readsD then misuseRead d else none)
  noMisuse (misuseWrite d)
  let (x, t) ← takeOp s s.st a
  let (y, t) ← takeOp s t b
  let (z, t) ← if readsD then takeReg s t d else .ok (Src.zero, t)
  hasRoom t d
  match fa with
  | some k => tagCheck k x
  | none => .ok ()
  match fb with
  | some k => tagCheck k y
  | none => .ok ()
  match fd with
  | some k => tagCheck k z
  | none => .ok ()
  poisonCheck x
  poisonCheck y
  poisonCheck z
  let r := f x y z
  let t ← putReg t d r.val r.tag
  .ok (s.done (match r.status with
    | some n => t.status? n
    | none => t))

/-- Both sources, no read of d, both checked against F. -/
def scalarAB (i : Instr) (s : State) (f : Fmt) (d : SReg) (a b : Opnd) (g : Nat → Nat → Res) :
    Host.Outcome State Fault Refusal :=
  .next (s.settle (scalarRun i s d false a b (some f) (some f) none fun x y _ => g x.val.toNat y.val.toNat))

/-- Both sources, no read of d, no tag check (R100, R108). -/
def scalarBits (i : Instr) (s : State) (d : SReg) (a b : Opnd) (g : Nat → Nat → Res) :
    Host.Outcome State Fault Refusal :=
  .next (s.settle (scalarRun i s d false a b none none none fun x y _ => g x.val.toNat y.val.toNat))

end Sys2Proof.Machine
end

