-- ==== Sys2Proof/Machine/Flags.lean ====
section
/-! DEFINITION. Conditions and reported statuses. The PV8 has no flag register: what other machines keep in flags are the
conditions of `bc` (R116) and `bm` (R119) and the codes that instructions write to `ret.status`. -/

namespace Sys2Proof.Machine

/-- The conditions of `bc` on 64-bit values (R116). -/
def bcHolds (c : BCond) (x y : Word) : Bool :=
  match c with
  | .eq => x == y
  | .ne => x != y
  | .lt => decide (x.toInt < y.toInt)
  | .ge => decide (y.toInt ≤ x.toInt)
  | .ltn => decide (x.toNat < y.toNat)
  | .gen => decide (y.toNat ≤ x.toNat)

/-- Bits 0 to vl - 1 of a mask. -/
def maskBelow (m : BitVec 512) (vl : Nat) : Nat := lowBits vl m.toNat

/-- The conditions of `bm` over bits 0 to vl - 1 (R119). -/
def bmHolds (v : BmVar) (m : BitVec 512) (vl : Nat) : Bool :=
  match v with
  | .any => maskBelow m vl != 0
  | .none => maskBelow m vl == 0
  | .all => maskBelow m vl == 2 ^ vl - 1

/-- Quotient, remainder and status of an integer division (R106): 1 for a zero divisor, 2 for the signed overflow. -/
def divide (f : Fmt) (x y : Int) : Int × Int × Nat :=
  if y = 0 then (-1, x, 1)
  else if f.isS ∧ x = f.minInt ∧ y = -1 then (x, 0, 2)
  else (Int.tdiv x y, x - Int.tdiv x y * y, 0)

/-- `ret.status` of `xrd` and `tcvt`: range-lost + 2 × the other sticky bit (R187, R166). -/
def stickyStatus (lost other : Bool) : Nat := bitOf lost + 2 * bitOf other

end Sys2Proof.Machine
end

