-- ==== Sys2Proof/Machine/Scalar.lean ====
section
/-! DEFINITION. The integer scalar instructions (R100-R110): arithmetic, division, shifts, bitwise, comparisons and
selections, `li` and `lea`. -/

namespace Sys2Proof.Machine

/-- What a meaning answers. -/
abbrev Out := Host.Outcome State Fault Refusal

/-- An exact binary operation on val(a, F) and val(b, F), written by R100. -/
def scalarInt (i : Instr) (s : State) (f : Fmt) (d : SReg) (a b : Opnd) (g : Int → Int → Int) : Out :=
  scalarAB i s f d a b fun x y => Res.of (f.put (g (f.intVal x) (f.intVal y))) f

/-- `add` (R105). -/
def execAdd (f : Fmt) (d : SReg) (a b : Opnd) (s : State) : Out := scalarInt (.add f d a b) s f d a b fun x y => x + y
/-- `sub` (R105). -/
def execSub (f : Fmt) (d : SReg) (a b : Opnd) (s : State) : Out := scalarInt (.sub f d a b) s f d a b fun x y => x - y
/-- `mul` (R105). -/
def execMul (f : Fmt) (d : SReg) (a b : Opnd) (s : State) : Out := scalarInt (.mul f d a b) s f d a b fun x y => x * y

/-- The high half ⌊x × y / 2^n⌋ of a product (R105). -/
def highHalf (f : Fmt) (x y : Int) : Int := shiftFloor (x * y) f.bits

/-- `mulh` (R105). -/
def execMulh (f : Fmt) (d : SReg) (a b : Opnd) (s : State) : Out := scalarInt (.mulh f d a b) s f d a b (highHalf f)
/-- `mulhn` (R105). -/
def execMulhn (f : Fmt) (d : SReg) (a b : Opnd) (s : State) : Out := scalarInt (.mulhn f d a b) s f d a b (highHalf f)

/-- A quotient or remainder with its status (R106). -/
def divRes (f : Fmt) (rem : Bool) (x y : Nat) : Res :=
  let (q, r, st) := divide f (f.intVal x) (f.intVal y)
  ⟨BitVec.ofNat 64 (f.put (if rem then r else q)), f, some st⟩

/-- `div` (R106). -/
def execDiv (f : Fmt) (d : SReg) (a b : Opnd) (s : State) : Out := scalarAB (.div f d a b) s f d a b (divRes f false)
/-- `divn` (R106). -/
def execDivn (f : Fmt) (d : SReg) (a b : Opnd) (s : State) : Out := scalarAB (.divn f d a b) s f d a b (divRes f false)
/-- `rem` (R106). -/
def execRem (f : Fmt) (d : SReg) (a b : Opnd) (s : State) : Out := scalarAB (.rem f d a b) s f d a b (divRes f true)
/-- `remn` (R106). -/
def execRemn (f : Fmt) (d : SReg) (a b : Opnd) (s : State) : Out := scalarAB (.remn f d a b) s f d a b (divRes f true)

/-- A shift of the n-bit field of a by b read unsigned, whose tag is not checked (R107). -/
def scalarShift (i : Instr) (s : State) (f : Fmt) (d : SReg) (a b : Opnd) (g : Nat → Nat → Nat → Nat) : Out :=
  .next (s.settle (scalarRun i s d false a b (some f) none none fun x y _ =>
    Res.of (f.extend (g f.bits x.val.toNat y.val.toNat)) f))

/-- `shl` (R107). -/
def execShl (f : Fmt) (d : SReg) (a b : Opnd) (s : State) : Out := scalarShift (.shl f d a b) s f d a b shlField
/-- `shr` (R107). -/
def execShr (f : Fmt) (d : SReg) (a b : Opnd) (s : State) : Out := scalarShift (.shr f d a b) s f d a b shrField
/-- `sra` (R107). -/
def execSra (f : Fmt) (d : SReg) (a b : Opnd) (s : State) : Out := scalarShift (.sra f d a b) s f d a b sraField
/-- `rotl` (R107). -/
def execRotl (f : Fmt) (d : SReg) (a b : Opnd) (s : State) : Out := scalarShift (.rotl f d a b) s f d a b rotlField

/-- A bitwise operation on all 64 bits, with no tag check and tag raw (R108). -/
def scalarBitwise (i : Instr) (s : State) (d : SReg) (a b : Opnd) (g : Word → Word → Word) : Out :=
  .next (s.settle (scalarRun i s d false a b none none none fun x y _ => ⟨g x.val y.val, .raw, none⟩))

/-- `and` (R108). -/
def execAnd (d : SReg) (a b : Opnd) (s : State) : Out := scalarBitwise (.and d a b) s d a b fun x y => x &&& y
/-- `or` (R108). -/
def execOr (d : SReg) (a b : Opnd) (s : State) : Out := scalarBitwise (.or d a b) s d a b fun x y => x ||| y
/-- `xor` (R108). -/
def execXor (d : SReg) (a b : Opnd) (s : State) : Out := scalarBitwise (.xor d a b) s d a b fun x y => x ^^^ y
/-- `andn` (R108). -/
def execAndn (d : SReg) (a b : Opnd) (s : State) : Out := scalarBitwise (.andn d a b) s d a b fun x y => x &&& ~~~y

/-- An operation on all 64 bits of b alone (R108). -/
def scalarB (i : Instr) (s : State) (d : SReg) (b : Opnd) (g : Word → Word) : Out :=
  scalarBitwise i s d (.lit 0) b fun _ y => g y

/-- `mov` (R108). -/
def execMov (d : SReg) (b : Opnd) (s : State) : Out := scalarB (.mov d b) s d b id

/-- Number of leading zero bits of a 64-bit value; 64 for 0. -/
def leadingZeros (x : Word) : Nat := 64 - bitLength x.toNat

/-- Number of trailing zero bits among the low `n` bits of `x`. -/
def trailingZeros (x : Nat) : Nat → Nat
  | 0 => 0
  | n + 1 => if x % 2 = 1 then 0 else 1 + trailingZeros (x / 2) n

/-- `clz` (R108). -/
def execClz (d : SReg) (b : Opnd) (s : State) : Out :=
  scalarB (.clz d b) s d b fun x => BitVec.ofNat 64 (leadingZeros x)
/-- `ctz` (R108). -/
def execCtz (d : SReg) (b : Opnd) (s : State) : Out :=
  scalarB (.ctz d b) s d b fun x => BitVec.ofNat 64 (trailingZeros x.toNat 64)
/-- `popc` (R108). -/
def execPopc (d : SReg) (b : Opnd) (s : State) : Out :=
  scalarB (.popc d b) s d b fun x => BitVec.ofNat 64 (countBits x.toNat 64)

/-- The low bit of the field that a control word names (R108). -/
def fieldLo (ctl : Word) : Nat := bitsOf ctl.toNat 5 0
/-- The width of the field that a control word names, cut off at bit 63 (R108). -/
def fieldWidth (ctl : Word) : Nat := min (fieldLo ctl + bitsOf ctl.toNat 11 6 + 1) 64 - fieldLo ctl

/-- zext(a[h:lo]) (R108). -/
def fieldExtract (x ctl : Word) : Word := BitVec.ofNat 64 (lowBits (fieldWidth ctl) (x.toNat / 2 ^ fieldLo ctl))

/-- `old` with bits [h:lo] replaced by a[h-lo:0] (R108). -/
def fieldInsert (old x ctl : Word) : Word :=
  let m := BitVec.ofNat 64 ((2 ^ fieldWidth ctl - 1) * 2 ^ fieldLo ctl)
  (old &&& ~~~m) ||| ((x <<< fieldLo ctl) &&& m)

/-- `bext` (R108). -/
def execBext (d : SReg) (a b : Opnd) (s : State) : Out := scalarBitwise (.bext d a b) s d a b fieldExtract
/-- `bins` (R108). -/
def execBins (d : SReg) (a b : Opnd) (s : State) : Out :=
  .next (s.settle (scalarRun (.bins d a b) s d true a b none none none fun x y z =>
    ⟨fieldInsert z.val x.val y.val, .raw, none⟩))

/-- A truth value with tag raw (R109). -/
def boolRes (p : Bool) : Res := Res.of (bitOf p) .raw

/-- `slt` (R109). -/
def execSlt (f : Fmt) (d : SReg) (a b : Opnd) (s : State) : Out :=
  scalarAB (.slt f d a b) s f d a b fun x y => boolRes (decide (f.intVal x < f.intVal y))
/-- `sltn` (R109). -/
def execSltn (f : Fmt) (d : SReg) (a b : Opnd) (s : State) : Out :=
  scalarAB (.sltn f d a b) s f d a b fun x y => boolRes (decide (f.intVal x < f.intVal y))
/-- `seq` (R109). -/
def execSeq (f : Fmt) (d : SReg) (a b : Opnd) (s : State) : Out :=
  scalarAB (.seq f d a b) s f d a b fun x y => boolRes (lowBits f.bits x == lowBits f.bits y)

/-- `min` (R109). -/
def execMin (f : Fmt) (d : SReg) (a b : Opnd) (s : State) : Out := scalarInt (.min f d a b) s f d a b min
/-- `max` (R109). -/
def execMax (f : Fmt) (d : SReg) (a b : Opnd) (s : State) : Out := scalarInt (.max f d a b) s f d a b max
/-- `minn` (R109). -/
def execMinn (f : Fmt) (d : SReg) (a b : Opnd) (s : State) : Out := scalarInt (.minn f d a b) s f d a b min
/-- `maxn` (R109). -/
def execMaxn (f : Fmt) (d : SReg) (a b : Opnd) (s : State) : Out := scalarInt (.maxn f d a b) s f d a b max

/-- `sel` (R109): d is read as a condition without a tag check. -/
def execSel (f : Fmt) (d : SReg) (a b : Opnd) (s : State) : Out :=
  .next (s.settle (scalarRun (.sel f d a b) s d true a b (some f) (some f) none fun x y z =>
    ⟨if z.val ≠ 0 then x.val else y.val, f, none⟩))

/-- `li` (R110). -/
def execLi (d : SReg) (e : Int) (s : State) : Out :=
  scalarBitwise (.li d e) s d (.lit 0) (.lit e) fun _ y => y

/-- The value of a memory base (R80, R110): a register, or the address of the instruction's first word. -/
def takeBase (s : State) (t : Strand) : Base → Run (Src × Strand)
  | .reg r => takeReg s t r
  | .pc => .ok (⟨s.st.pc.zeroExtend 64, .raw, 0, false⟩, t)

/-- `lea` (R110): no access, no tag check. -/
def execLea (d : SReg) (base : Base) (e : Int) (s : State) : Out :=
  .next (s.settle (do
    noHazard (.lea d base e) s
    noMisuse (baseMisuse base)
    noMisuse (misuseWrite d)
    let (x, t) ← takeBase s s.st base
    hasRoom t d
    poisonCheck x
    let t ← putReg t d (x.val + BitVec.ofInt 64 e) .raw
    .ok (s.done t)))

end Sys2Proof.Machine
end

