-- ==== Sys2Proof/Machine/ScalarFp.lean ====
section
/-! DEFINITION. Scalar floating point (R111-R115): sources checked against F, the result code in [n-1:0] with zero
above, the tag F; no status, no arithmetic fault. -/

namespace Sys2Proof.Machine

/-- An FP operation on codes that writes a code of F (R111). -/
def scalarFp (i : Instr) (s : State) (f : Fmt) (d : SReg) (a b : Opnd) (g : Nat → Nat → Nat) : Out :=
  scalarAB i s f d a b fun x y => Res.of (g x y) f

/-- The rounding of an instruction: its `rnd` key, with `dyn` the strand's rmode (R50, R111). -/
def modeOf (s : State) (r : Rnd) : RMode := r.mode s.st.rmode

/-- `fadd` (R112). -/
def execFadd (f : Fmt) (r : Rnd) (d : SReg) (a b : Opnd) (s : State) : Out :=
  scalarFp (.fadd f r d a b) s f d a b (faddCode f (modeOf s r) false)
/-- `fsub` (R112). -/
def execFsub (f : Fmt) (r : Rnd) (d : SReg) (a b : Opnd) (s : State) : Out :=
  scalarFp (.fsub f r d a b) s f d a b (fsubCode f (modeOf s r) false)
/-- `fmul` (R112). -/
def execFmul (f : Fmt) (r : Rnd) (d : SReg) (a b : Opnd) (s : State) : Out :=
  scalarFp (.fmul f r d a b) s f d a b (fmulCode f (modeOf s r) false)
/-- `fdiv` (R112). -/
def execFdiv (f : Fmt) (r : Rnd) (d : SReg) (a b : Opnd) (s : State) : Out :=
  scalarFp (.fdiv f r d a b) s f d a b fun x y => fdivCode f (modeOf s r) false (fdecode f x) (fdecode f y)

/-- `fma` (R112): round(a × b + gD) with the old gD, one rounding. -/
def execFma (f : Fmt) (r : Rnd) (d : SReg) (a b : Opnd) (s : State) : Out :=
  .next (s.settle (scalarRun (.fma f r d a b) s d true a b (some f) (some f) (some f) fun x y z =>
    Res.of (fmaCode f (modeOf s r) false x.val.toNat y.val.toNat z.val.toNat) f))

/-- `fsqrt` (R112). -/
def execFsqrt (f : Fmt) (r : Rnd) (d : SReg) (b : Opnd) (s : State) : Out :=
  scalarFp (.fsqrt f r d b) s f d (.lit 0) b fun _ y => fsqrtCode f (modeOf s r) (fdecode f y)

/-- `fmin` (R113). -/
def execFmin (f : Fmt) (d : SReg) (a b : Opnd) (s : State) : Out := scalarFp (.fmin f d a b) s f d a b (fminCode f)
/-- `fmax` (R113). -/
def execFmax (f : Fmt) (d : SReg) (a b : Opnd) (s : State) : Out := scalarFp (.fmax f d a b) s f d a b (fmaxCode f)

/-- `fcmp` (R113). -/
def execFcmp (f : Fmt) (c : FCond) (d : SReg) (a b : Opnd) (s : State) : Out :=
  scalarAB (.fcmp f c d a b) s f d a b fun x y => boolRes (fcmpHolds f c x y)

/-- `fclass` (R114). -/
def execFclass (f : Fmt) (d : SReg) (b : Opnd) (s : State) : Out :=
  scalarAB (.fclass f d b) s f d (.lit 0) b fun _ y => Res.of (fclassBits f y) .raw

/-- The 64-bit word of a conversion (R115): an integer extended by R100, any other code with zero above. -/
def fcvtWord (src f : Fmt) (m : RMode) (sat : Bool) (x : Nat) : Nat :=
  let c := convert src f m sat (lowBits src.bits x)
  if f.isInt then f.extend c else c

/-- `fcvt` (R115): the source format is tag(b). -/
def execFcvt (f : Fmt) (r : Rnd) (sat : Bool) (d : SReg) (b : Opnd) (s : State) : Out :=
  .next (s.settle (scalarRun (.fcvt f r sat d b) s d false (.lit 0) b none none none fun _ y _ =>
    Res.of (fcvtWord y.tag f (modeOf s r) sat y.val.toNat) f))

end Sys2Proof.Machine
end

