-- ==== Sys2Proof/Machine/Control.lean ====
section
/-! DEFINITION. Control transfer, `nop` and `yield`, and the control state (R92, R116-R120, R122, R220 `trap`, R221,
R222 `bkpt`, R223). -/

namespace Sys2Proof.Machine

/-- The target of a branch (R92): the address of the instruction's first word plus 2 × offset, modulo 2^40. -/
def branchTarget (s : State) (off : Int) : BitVec 40 := s.st.pc + BitVec.ofInt 40 (2 * off)

/-- The strand goes on at an address. -/
def State.goTo (s : State) (t : Strand) (pc : BitVec 40) : State := { s with st := { t with pc := pc } }

/-- The strand branches, or goes on after the instruction. -/
def State.branch (s : State) (t : Strand) (taken : Bool) (off : Int) : State :=
  if taken then s.goTo t (branchTarget s off) else s.done t

/-- `b` (R116). -/
def execB (off : Int) (s : State) : Out := .next (s.branch s.st true off)

/-- `bc` (R116): compares 64-bit values with no tag check. -/
def execBc (c : BCond) (a b : Opnd) (off : Int) (s : State) : Out :=
  .next (s.settle (do
    noHazard (.bc c a b off) s
    noMisuse (opMisuse a)
    noMisuse (opMisuse b)
    let (x, t) ← takeOp s s.st a
    let (y, t) ← takeOp s t b
    poisonCheck x
    poisonCheck y
    .ok (s.branch t (bcHolds c x.val y.val) off)))

/-- The counter of `loop` may not be a queue register (R117). -/
def counterMisuse : SReg → Option Nat
  | .q n => some (48 + n.val)
  | _ => none

/-- `loop` (R117). -/
def execLoop (c : SReg) (off : Int) (s : State) : Out :=
  .next (s.settle (do
    noHazard (.loop c off) s
    noMisuse (counterMisuse c)
    let (x, t) ← takeReg s s.st c
    poisonCheck x
    let v := x.val - 1
    let t ← putReg t c v .raw
    .ok (s.branch t (v != 0) off)))

/-- `jal` (R118): links the address after the base word. -/
def execJal (d : SReg) (off : Int) (s : State) : Out :=
  .next (s.settle (do
    noHazard (.jal d off) s
    noMisuse (misuseWrite d)
    hasRoom s.st d
    let t ← putReg s.st d (s.st.npc.zeroExtend 64) .raw
    .ok (s.branch t true off)))

/-- Is a 64-bit value no code address (R118)? -/
def badCode (x : Word) : Bool := bitAt x.toNat 0 || decide (2 ^ 40 ≤ x.toNat)

/-- `jr` (R118). -/
def execJr (b : SReg) (s : State) : Out :=
  .next (s.settle (do
    noHazard (.jr b) s
    noMisuse (misuseRead b)
    let (x, t) ← takeReg s s.st b
    if badCode x.val then .error (.trap 0x0304 x.val.toNat)
    else
      poisonCheck x
      .ok (s.goTo t (x.val.truncate 40))))

/-- `bm` (R119): reads the mask and vl after every earlier vector instruction that writes them. -/
def execBm (v : BmVar) (m : Fin 8) (off : Int) (s : State) : Out :=
  .next (s.settle (do
    noHazard (.bm v m off) s
    .ok (s.branch s.st (bmHolds v (s.st.m.get m) s.st.vl) off)))

/-- `nop` (R120). -/
def execNop (s : State) : Out := .next s.finish

/-- `yield` (R120): the strand takes the youngest position; every instruction that issues sets the age to 0 (R300). -/
def execYield (s : State) : Out := .next (s.done { s.st with age := 0 })

/-- A control field (R25). -/
def readSel (t : Strand) : Sel → Word
  | .trapv => t.trapv.zeroExtend 64
  | .wdog => t.wdog.zeroExtend 64
  | .rmode => BitVec.ofNat 64 t.rmode.code
  | .uab => t.uab.zeroExtend 64

/-- A control field written: only the field's bits are kept (R122). -/
def writeSel (t : Strand) (sel : Sel) (x : Word) : Strand :=
  match sel with
  | .trapv => { t with trapv := x.truncate 40 &&& ~~~(1 : BitVec 40) }
  | .wdog => { t with wdog := x.truncate 48, wleft := x.truncate 48, wdue := false }
  | .rmode => { t with rmode := RMode.ofCode (x.toNat % 4) }
  | .uab => { t with uab := x.truncate 8 }

/-- `sget` (R122). -/
def execSget (d : SReg) (sel : Sel) (s : State) : Out :=
  scalarBitwise (.sget d sel) s d (.lit 0) (.lit 0) fun _ _ => readSel s.st sel

/-- `sset` (R122): vector instructions before it keep the values in force at their own issue (R25); it waits only for a
`vrep` loop (R149). -/
def execSset (sel : Sel) (a : Opnd) (s : State) : Out :=
  .next (s.settle (do
    noLoop s.st
    noHazard (.sset sel a) s
    noMisuse (opMisuse a)
    let (x, t) ← takeOp s s.st a
    poisonCheck x
    .ok (s.done (writeSel t sel x.val))))

/-- `wdog` (R223). -/
def execWdog (d : SReg) (s : State) : Out :=
  .next (s.settle (do
    noLoop s.st
    noHazard (.wdog d) s
    noMisuse (misuseWrite d)
    hasRoom s.st d
    let t ← putReg s.st d (s.st.wleft.zeroExtend 64) .raw
    .ok (s.done { t with wleft := t.wdog, wdue := false })))

/-- `trap n` (R220): enters the handler with cause 0x8000 + n and the address of the next instruction. -/
def execTrap (n : Int) (s : State) : Out := .next (s.stop (.after (0x8000 + n.toNat) 0))

/-- `bkpt` (R222): with a debugger attached the strand halts after the instruction and a breakpoint record is traced;
otherwise cause 0x0508. -/
def execBkpt (s : State) : Out :=
  .next (s.settle (do
    vectorIdle s.st
    noRisk s
    if (s.part s.st.part).dbg.attach then
      let s' := s.done { s.st with status := .halted }
      .ok (s'.traceStrand s'.st 9 true (s.st.pc.toNat + s.st.tag.toNat * 2 ^ 40) s.st.coord.toNat)
    else .error (.after 0x0508 s.st.pc.toNat)))

end Sys2Proof.Machine
end

