-- ==== Sys2Proof/Machine/Mem.lean ====
section
/-! DEFINITION. Loads, stores, `ldc`, the atomics and exact reductions as their home performs them (R174-R187), the replies
that they send, and fences and `inv` (R180, R181). -/

namespace Sys2Proof.Machine

/-! ### What a home performs -/

/-- An access as it reaches its home: its writer, instruction, place and address, the operand b, the value stored or the old
destination, and the rounding mode at issue. -/
structure Req where
  w : Writer
  ins : Instr
  loc : Loc
  va : Nat
  b : Word
  d : Word
  mode : RMode

/-- What performing an access gives: the state, the reply's value, a status, poison. -/
structure Perf where
  s : State
  res : Word
  rstat : Option Nat
  poison : Bool

/-- A read of `n` bytes as a load of format `f` returns it (R177). -/
def loadAt (s : State) (c : ErrCtx) (f : Fmt) (pa : Nat) : Perf :=
  let (v, bad, s) := s.readAt c pa f.size
  ⟨s, BitVec.ofNat 64 (f.extend v), none, bad⟩

/-- A store of the low bytes of the operand (R178). -/
def storeAt (s : State) (q : Req) (f : Fmt) : Run Perf := do
  let y := lowBits f.bits q.d.toNat
  s.writeOk q.w q.loc.watched q.loc.pa f.size y q.va
  .ok ⟨s.write q.w q.loc.watched q.loc.pa f.size y, 0, none, false⟩

/-- The new memory value of an atomic, if it writes, and the status it reports (R183-R185): `x` the old value as
val(·, F), `y` the operand, `d` the old destination. -/
def atomicNew (i : Instr) (x y d : Int) : Option Int × Option Nat :=
  match i with
  | .aadd .. => (some (x + y), none)
  | .aand .. => (some (Nat.land x.toNat y.toNat), none)
  | .aor .. => (some (Nat.lor x.toNat y.toNat), none)
  | .axor .. => (some (Nat.xor x.toNat y.toNat), none)
  | .amin .. => (some (min x y), none)
  | .amax .. => (some (max x y), none)
  | .axchg .. => (some y, none)
  | .acas .. => if x = d then (some y, some 1) else (none, some 0)
  | .incw .. => (some (if y ≤ x then 0 else x + 1), none)
  | .bfadd .. => if x ≤ y ∧ d ≤ y - x then (some (x + d), some 1) else (none, some 0)
  | _ => (none, none)

/-- A fault that a home finds once it has read: the state keeps what the read logged (R313). -/
def foundAt {α : Type} (s : State) : Run α → Run α
  | .error (.trap c a) => .error (.found s c a)
  | r => r

/-- An atomic performed at its home (R182-R185): a poisoned target faults and leaves memory unchanged (R174). -/
def atomicAt (s : State) (q : Req) (f : Fmt) : Run Perf :=
  let (x, bad, s) := s.readAt q.w.ctx q.loc.pa f.size
  if bad then .error (.found s 0x0B01 (q.va % 2 ^ 64))
  else
    let r := BitVec.ofNat 64 (f.extend x)
    match atomicNew q.ins (f.intVal x) (f.intVal q.b.toNat) (f.intVal q.d.toNat) with
    | (some y, st) => do
      let z := wrapBits f.bits y
      foundAt s (s.writeOk q.w q.loc.watched q.loc.pa f.size z q.va)
      .ok ⟨s.write q.w q.loc.watched q.loc.pa f.size z, r, st, false⟩
    | (none, st) => .ok ⟨s, r, st, false⟩

/-! ### The ldc caches (R179, R180) -/

/-- A load of `n` bytes from a cached line. -/
def lineValue (line : List Byte) (off n : Nat) : Nat :=
  (line.drop off).take n |>.foldr (fun b acc => b.toNat + 256 * acc) 0

/-- When a line was filled that a cell's cache holds, and the cluster's. -/
def State.cellFill (s : State) (cell line : Nat) : Nat := Tab.get (s.cell cell).filled 0 line
def State.clusterFill (s : State) (cell line : Nat) : Nat := Tab.get (s.cluster (clusterOf cell)).filled 0 line

/-- Does the cell's own cache answer an `ldc`: not with a line that was filled before `since`, when the strand's previous `ldc` of
the line was answered by a later fill (R179)? -/
def State.ownAnswers (s : State) (cell line since : Nat) : Bool :=
  Tab.has (s.cell cell).ldc line && decide (since ≤ s.cellFill cell line)

/-- The line that answers an `ldc` in a cell: its cell's cache, then the cluster's. -/
def State.ldcLine (s : State) (cell line since : Nat) : Option (List Byte) :=
  let shared := (s.cluster (clusterOf cell)).ldc
  if s.ownAnswers cell line since then some (Tab.get (s.cell cell).ldc [] line)
  else if Tab.has shared line ∧ since ≤ s.clusterFill cell line then some (Tab.get shared [] line)
  else none

/-- The fill that answers it. -/
def State.ldcStamp (s : State) (cell line since : Nat) : Nat :=
  if s.ownAnswers cell line since then s.cellFill cell line else s.clusterFill cell line

/-- A fill brings a line into the cell's cache (256 lines) and the cluster's (2,048 lines); the highest-numbered line is
given up when a cache is full (log entry 31). -/
def State.ldcFill (s : State) (cell line : Nat) (bytes : List Byte) : State :=
  { (s.modCell cell fun c => { c with
      ldc := (Tab.set c.ldc line bytes).take 256, filled := (Tab.set c.filled line s.nextId).take 256
      flawed := c.flawed.filter (· != line) }).modCluster (clusterOf cell) fun k =>
      { k with ldc := (Tab.set k.ldc line bytes).take 2048, filled := (Tab.set k.filled line s.nextId).take 2048
               flawed := k.flawed.filter (· != line) } with nextId := s.nextId + 1 }

/-- Lines that leave the ldc cache of a cell, with their parity errors (R179, R313); one that its fetch path still holds under
the same number keeps its error. -/
def Cell.drop (c : Cell) (p : Nat → Bool) : Cell :=
  { c with ldc := c.ldc.filter fun l => !p l.1, filled := c.filled.filter fun l => !p l.1
           flawed := c.flawed.filter fun l => !p l || Tab.has c.fetch l }

/-- Lines that leave the ldc cache of a cluster. -/
def Cluster.drop (k : Cluster) (p : Nat → Bool) : Cluster :=
  { k with ldc := k.ldc.filter fun l => !p l.1, filled := k.filled.filter fun l => !p l.1
           flawed := k.flawed.filter fun l => !p l }

/-- Lines that leave a cell's fetch path. -/
def Cell.dropFetch (c : Cell) (p : Nat → Bool) : Cell :=
  { c with fetch := c.fetch.filter fun l => !p l.1, flawed := c.flawed.filter fun l => !p l || Tab.has c.ldc l }

/-- A line in parity error that an `ldc` meets is dropped, and the error is logged for the cell's SRAM or the cluster's
B-store beside the cache (R313, log entry 52): the cell's own line, else the cluster's. -/
def State.dropFlawed (s : State) (c : ErrCtx) (cell line since : Nat) : State :=
  let k := clusterOf cell
  let s := if s.ownAnswers cell line since ∧ (s.cell cell).flawed.contains line then
      (s.modCell cell fun x => x.drop (· == line)).logError (.sram cell) (line * 64 % 2 ^ 48) 3 false 0 c none
    else s
  if s.ownAnswers cell line since then s
  else if Tab.has (s.cluster k).ldc line ∧ (s.cluster k).flawed.contains line then
    (s.modCluster k fun x => x.drop (· == line)).logError (.bstore k) (line * 64 % 2 ^ 48) 3 false 0 c none
  else s

/-- Does the line that answers an `ldc` hold a parity error? -/
def State.ldcFlawed (s : State) (cell line since : Nat) : Bool :=
  if s.ownAnswers cell line since then (s.cell cell).flawed.contains line
  else (s.cluster (clusterOf cell)).flawed.contains line

/-- An `ldc` of a cell (R179): a hit returns the line's value and changes nothing; a miss fills the line by a read at the
home. A line read with poison is not kept. `since`: see `State.ldcLine`. -/
def ldcAt (s : State) (c : ErrCtx) (f : Fmt) (pa cell since : Nat) : Perf :=
  let line := pa / 64
  let s := s.dropFlawed c cell line since
  match s.ldcLine cell line since with
  | some bytes => ⟨s, BitVec.ofNat 64 (f.extend (lineValue bytes (pa % 64) f.size)), none, false⟩
  | none =>
    let (_, bad, s) := s.readAt c (line * 64) 64
    if bad then loadAt s c f pa
    else
      let bytes := memBytes s.mem (line * 64) 64
      ⟨s.ldcFill cell line bytes, BitVec.ofNat 64 (f.extend (lineValue bytes (pa % 64) f.size)), none, false⟩

/-- The latest fill that answered the strand's `ldc`s of a line (R179). -/
def Strand.ldcSince (t : Strand) (line : Nat) : Nat := Tab.get t.ldcSeen 0 line

/-- A strand's `ldc` of a line has been answered. -/
def Strand.sawLine (t : Strand) (line stamp : Nat) : Strand := { t with ldcSeen := Tab.set t.ldcSeen line stamp }

/-- What an `ldc` that a cell's caches have just answered makes of its strand; a line that no cache keeps makes nothing. -/
def State.seenBy (s : State) (t : Strand) (cell pa : Nat) : Strand :=
  let line := pa / 64
  if (s.ldcLine cell line (t.ldcSince line)).isSome then t.sawLine line (s.ldcStamp cell line (t.ldcSince line)) else t

/-- Does an `ldc` hit, so that it makes no access (R259)? Not while an `ldc` of the strand from the same line is on its way: its
fill may be newer (R179). -/
def State.ldcHits (s : State) (t : Strand) (pa : Nat) (i : Instr) : Bool :=
  match i with
  | .ldc .. => (s.ldcLine t.cell (pa / 64) (t.ldcSince (pa / 64))).isSome && !s.ldcFlawed t.cell (pa / 64) (t.ldcSince (pa / 64))
      && !(s.accs.any fun y => y.uid == t.uid && !y.done && y.pa / 64 == pa / 64 && match y.ins with
        | .ldc .. => true
        | _ => false)
  | _ => false

/-! ### Kinds of access -/

/-- Is it an atomic (R183-R185)? -/
def isAtomic : Instr → Bool
  | .aadd .. | .aand .. | .aor .. | .axor .. | .amin .. | .amax .. | .axchg .. | .acas .. | .incw .. | .bfadd .. => true
  | _ => false

/-- Does an instruction write memory and count as a writing instruction (R245)? -/
def writesMem : Instr → Bool
  | .xred .. | .swst .. | .swadd .. | .swlaw .. => true
  | i => isStore i || isAtomic i

/-- An issued writing instruction (R245). -/
def Strand.countWrite (t : Strand) (i : Instr) : Strand := if writesMem i then { t with wcount := t.wcount + 1 } else t

/-! ### Replies -/

/-- Marks the register of a poisoned load (R174): a general register, or the queue entry just pushed. -/
def Strand.markPoison (t : Strand) (d : SReg) : Strand :=
  match d with
  | .g n => if n.val = 0 then t else { t with gpois := t.gpois ||| BitVec.ofNat 32 (2 ^ n.val) }
  | .q n =>
    if h : n.val < 8 then
      match t.q[n.val].getLast? with
      | some e => { t with q := t.q.set n.val (t.q[n.val].dropLast ++ [{ e with bad := true }]) }
      | none => t
    else t
  | .sp _ => t

/-- The reply of an access reaches its strand: destination, poison mark, `ret.status`. -/
def replyTo (t : Strand) (i : Instr) (res : Word) (rstat : Option Nat) (poison : Bool) : Run Strand := do
  let t ← match accessDst i with
    | some d => do
      let t ← putReg t d res (accessFmt i)
      .ok (if poison then t.markPoison d else t)
    | none => .ok t
  .ok (match rstat with
    | some n => t.status? n
    | none => t)

/-- The reply of an access that stands before a boundary reaches the registers that the boundary restores (R131, R263). -/
def Checkpoint.reply (c : Checkpoint) (i : Instr) (res : Word) (rstat : Option Nat) (poison : Bool) : Checkpoint :=
  match replyTo { Strand.empty with g := c.g, gtag := c.gtag, gpois := c.gpois, q := c.q, rstat := c.rstat } i res rstat poison with
  | .ok t => { c with g := t.g, gtag := t.gtag, gpois := t.gpois, q := t.q, rstat := t.rstat }
  | .error _ => c

/-- The virtual address of an access (R174). -/
def accessVa (t : Strand) (base : Word) (e : Int) : Nat := t.dataVa (base + BitVec.ofInt 64 e)

/-- The cell whose SRAM is the home of an address. -/
def homeCell (pa : Nat) : Option Nat :=
  match placeOf pa with
  | .sram c => some (pa / 2 ^ 48 * 4096 + c)
  | _ => none

/-- Is a message from cell `a` to cell `b`, sent before a place in the order of R270, still on its way? -/
def State.sentTo (s : State) (a b before : Nat) : Bool :=
  ((s.cell a).outbox.any fun o => o.dests.contains b && decide (o.msg.sent < before))
  || s.flight.any fun m => m.src == a && m.dst == b && decide (m.sent < before)

/-- The accesses of the strand that come before an access in program order. -/
def State.earlier (s : State) (x : Access) : List Access := (s.accs.takeWhile fun y => y.id != x.id).filter fun y => y.uid == x.uid

/-- Does nothing of its own strand hold an access back? The vector instructions before it have made their accesses; unless it
is a load, they have executed, and no earlier access may still fault (R131, R318). It has then entered its cell's outbound
path. -/
def State.entered (s : State) (x : Access) (t : Strand) : Bool :=
  !(t.vq.any fun e => decide (e.num < x.after) && !e.started && (!isLoad x.ins || isVectorMem e.ins))
  && (isLoad x.ins || !(s.earlier x).any s.mayFault)

/-- Is an access from cell `a` to the memory of cell `b`, that entered the path before a place, still on its way (R270)? -/
def State.accessTo (s : State) (a b before : Nat) : Bool :=
  s.accs.any fun x => !x.done && x.cell == a && decide (x.id < before) && homeCell x.pa == some b
    && (s.strand? x.uid).any (s.entered x)

/-- Is a reply from the memory of cell `a` to cell `b`, that entered the path before a place, still on its way (R270)? -/
def State.replyOn (s : State) (a b before : Nat) : Bool :=
  s.accs.any fun x => x.done && x.fault.isNone && x.cell == b && decide (x.doneAt < before) && homeCell x.pa == some a

/-- Is something on its way from cell `a` to cell `b` that entered the path before a place (R270)? -/
def State.pathBusy (s : State) (a b before : Nat) : Bool := s.sentTo a b before || s.accessTo a b before || s.replyOn a b before

/-- Is something on its way between a cell and the home of an address, another cell, in either direction? Accesses, replies
and messages share the order of their pairs (R270). -/
def State.pairBusy (s : State) (cell pa : Nat) : Bool :=
  match homeCell pa with
  | some b => b != cell && (s.pathBusy cell b s.nextId || s.pathBusy b cell s.nextId)
  | none => false

/-- Does an access go to a home: its own, or the home of the element of a ring operation (any, while that is not known)? -/
def State.touches (s : State) (x : Access) (home : Nat) : Bool :=
  homeOf x.pa == home || match ringPush x.ins with
    | some push => (match s.ringElem x push with
      | some (some l, _) => homeOf l.pa == home
      | some (none, _) => true
      | none => false)
    | none => false

/-- Has the strand an access to a home that has not been performed (R259)? -/
def State.homeBusy (s : State) (uid home : Nat) : Bool := s.accs.any fun y => y.uid == uid && !y.done && s.touches y home

/-- An access that is performed at once takes its place after the strand's earlier accesses to the same home (R259) and in the
order of its pair (R270). A home on another device does not answer here (log entry 9). -/
def State.turnAt (s : State) (uid cell pa : Nat) : Run Unit :=
  if s.remote pa || s.homeBusy uid (homeOf pa) || s.pairBusy cell pa then .error (.wait .issue) else .ok ()

/-! ### Exact reductions (R58-R60, R186, R187) -/

/-- An XA word joined. -/
def xaJoin (v : Int) (lost nan : Bool) (count : Nat) : Nat :=
  wrapBits 192 v * 2 ^ 64 + bitOf lost * 2 ^ 63 + bitOf nan * 2 ^ 62 + count

/-- A term in units of 2^-96, truncated toward zero: `none` when its magnitude is 2^95 or more, or infinite (R59). -/
def xaTerm : FVal → Option Int
  | .nan => none
  | .inf _ => none
  | .fin neg m e =>
    let k : Int := e + 96
    let w : Nat := if 0 ≤ k then m * 2 ^ k.toNat else m / 2 ^ (-k).toNat
    let big : Bool := if 95 ≤ e then m != 0 else if 0 ≤ e then decide (2 ^ 95 ≤ m * 2 ^ e.toNat) else decide (2 ^ (95 + (-e).toNat) ≤ m)
    if big then none else some (if neg then -(w : Int) else w)

/-- One term added to an XA word (R59). -/
def xaAdd (f : Fmt) (term : Nat) (v : Int) (lost nan : Bool) (count : Nat) : Nat :=
  let c := min (count + 1) (2 ^ 48 - 1)
  let x := valueOf f (lowBits f.bits term)
  if x.isNan then xaJoin v lost true c
  else match xaTerm x with
    | none => xaJoin v true nan c
    | some w => xaJoin (v + w) lost nan c

/-- The code that `xrd` reads out (R60): at the width of F. -/
def xaRead (f : Fmt) (mode : RMode) (v : Int) (bad : Bool) : Nat :=
  if f.isInt then
    if bad then 0 else wrapBits f.bits (toIntClamped mode f.minInt f.maxInt 0 (.fin (decide (v < 0)) v.natAbs (-96)))
  else if bad then f.nanCode
  else (FVal.fin (decide (v < 0)) v.natAbs (-96)).toCode f mode false

/-- `xred` at its home (R186): the word is checked against R58. -/
def xredAt (s : State) (q : Req) (f : Fmt) : Run Perf :=
  let (old, bad, s) := s.readAt q.w.ctx q.loc.pa 32
  if bad then .error (.found s 0x0B01 (q.va % 2 ^ 64))
  else match xaParts old with
    | none => .error (.found s 0x0310 (q.va % 2 ^ 64))
    | some (v, lost, nan, count) => do
      let new := xaAdd f q.b.toNat v lost nan count
      foundAt s (s.writeOk q.w q.loc.watched q.loc.pa 32 new q.va)
      .ok ⟨s.write q.w q.loc.watched q.loc.pa 32 new, 0, none, false⟩

/-- `xrd` at its home (R187). -/
def xrdAt (s : State) (q : Req) (f : Fmt) (mode : RMode) : Run Perf :=
  let (old, bad, s) := s.readAt q.w.ctx q.loc.pa 32
  if bad then .error (.found s 0x0B01 (q.va % 2 ^ 64))
  else match xaParts old with
    | none => .error (.found s 0x0310 (q.va % 2 ^ 64))
    | some (v, lost, nan, _) =>
      let c := xaRead f mode v (lost || nan)
      .ok ⟨s, BitVec.ofNat 64 (if f.isInt then f.extend c else c), some (stickyStatus lost nan), false⟩

/-! ### Fences and invalidation (R180, R181) -/

/-- Does a scope select the cell's cache, and the cluster's (R180)? -/
def Scope.reaches (sc other : Scope) : Bool × Bool :=
  match (if sc = .dflt then other else sc) with
  | .strand | .dflt => (false, false)
  | .cell => (true, false)
  | _ => (true, true)

/-- Empties the ldc caches that a fence's scope selects. -/
def State.dropLdc (s : State) (cell : Nat) (r : Bool × Bool) : State :=
  let s := if r.1 then s.modCell cell fun c => c.drop fun _ => true else s
  if r.2 then s.modCluster (clusterOf cell) fun k => k.drop fun _ => true else s

/-- `fence` (R181). -/
def execFence (kind : FenceKind) (sc : Scope) (s : State) : Out :=
  .next (s.settle (do
    noLoop s.st
    vectorAccessIdle s.st
    match kind with
    | .rel => noStores s
    | .acq => noLoads s
    | .full => do
      noStores s
      noLoads s
    .ok (match kind with
      | .rel => s.finish
      | _ => (s.dropLdc s.st.cell (Scope.reaches sc .device)).finish)))

/-- Drops the line of a virtual address from the ldc caches selected, as the translation in force names it, and from the
cell's fetch path, which is keyed by virtual line. -/
def State.dropLine (s : State) (t : Strand) (a : Nat) (r : Bool × Bool) : State :=
  let va := t.uab.toNat * 2 ^ 64 + a
  let e := match s.tlbFind t.cell t.asid va with
    | some e => some e
    | none => (s.walk t.asid va).2
  let s := match e with
    | none => s
    | some e =>
      let line := (e.pa + va % 2 ^ e.log) / 64
      let s := if r.1 then s.modCell t.cell fun c => c.drop (· == line) else s
      if r.2 then s.modCluster (clusterOf t.cell) fun k => k.drop (· == line) else s
  s.modCell t.cell fun c => c.dropFetch (· == t.asid * 2 ^ 64 + a / 64)

/-- `inv` (R180): the line of a virtual address in the caches, as the current translation names it, and in the fetch
path. It makes no access and never faults. -/
def execInv (sc : Scope) (b : SReg) (s : State) : Out :=
  .next (s.settle (do
    noLoop s.st
    noHazard (.inv sc b) s
    noMisuse (misuseRead b)
    let (x, t) ← takeReg s s.st b
    poisonCheck x
    let s1 := s.dropLine t (x.val.toNat) (Scope.reaches sc .cluster)
    .ok (s1.done t)))

end Sys2Proof.Machine
end

