-- ==== Sys2Proof/Machine/Sync.lean ====
section
/-! DEFINITION. Ring queues (R188, R189) and token barriers (R190-R193): home operations, performed once every earlier
access of the strand has been performed. -/

namespace Sys2Proof.Machine

/-! ### Token barriers -/

/-- A barrier object joined; permits and tokens past 65,535 wrap (log entry 114). -/
def Barrier.word (b : Barrier) : Nat :=
  b.permits % 2 ^ 16 + b.tokens % 2 ^ 16 * 2 ^ 16 + bitOf b.phase * 2 ^ 32 + b.expect % 2 ^ 48 * 2 ^ 64
    + bitOf b.overrun * 2 ^ 112

/-- Serving one waiter: tokens - 1, permits + 1, phase turned (R192). -/
def Barrier.take (b : Barrier) : Barrier :=
  { b with tokens := b.tokens - 1, permits := b.permits + 1, phase := !b.phase }

/-- `barm` (R191): the new object and the status. -/
def Barrier.arm (b : Barrier) (c : Nat) : Barrier × Nat :=
  if c = 0 then (b, 0)
  else if 2 ^ 48 - 1 < c then (b, 2)
  else if b.expect = 0 then
    if b.permits = 0 then (b, 1) else ({ b with permits := b.permits - 1, expect := c }, 0)
  else if 2 ^ 48 - 1 < b.expect + c then (b, 2)
  else ({ b with expect := b.expect + c }, 0)

/-- A credit of c bytes (R193). -/
def Barrier.credit (b : Barrier) (c : Nat) : Barrier :=
  let o := b.overrun || decide (b.expect < c)
  let c := min c b.expect
  let left := b.expect - c
  { b with overrun := o, expect := left, tokens := if 0 < c ∧ left = 0 then b.tokens + 1 else b.tokens }

/-- An instruction with an effect outside the strand waits for the vector instructions before it (R131, R149), and while an
earlier access may fault. -/
def homeTurn (i : Instr) (s : State) : Run Unit := do
  vectorIdle s.st
  noHazard i s
  noRisk s

/-- A read by a home operation: poison is a precise fault, with what the read logged (R174). -/
def State.readHome (s : State) (c : ErrCtx) (pa n va : Nat) : Run (Nat × State) :=
  match s.readAt c pa n with
  | (v, bad, s1) => if bad then .error (.found s1 0x0B01 (va % 2 ^ 64)) else .ok (v, s1)

/-- A write by a ring or barrier operation, checked against the sweep load (R312). Such a write bumps no knot: R244 lists the
writes that do. -/
def State.writeHome (s : State) (w : Writer) (loc : Loc) (off n x va : Nat) : Run State := do
  foundAt s (s.writeOk w false (loc.pa + off) n x (va + off))
  .ok (s.write w false (loc.pa + off) n x)

/-! ### Ring queues -/

/-- A ring operation at its home (R189): the block, then its element at the home of the storage; `push` is `enq`. -/
def ringAt (s : State) (q : Req) (push : Bool) : Run Perf := do
  let (w, s1) ← s.readHome q.w.ctx q.loc.pa 32 q.va
  match ringParts w with
  | none => .error (.found s1 0x0311 (q.va % 2 ^ 64))
  | some r =>
    if r.moves push = false then .ok ⟨s1, if push then BitVec.ofNat 64 r.tail else 0, some 1, false⟩
    else
      let (sva, place) := s1.ringSlot q.w.part q.w.ctx.asid q.w.ctx.cell q.va r push
      let sl ← foundAt s1 place
      if s1.remote sl.pa then .error (.wait .issue) else .ok ()
      let n := 2 ^ r.esz
      let (v, s2) ← s1.readHome q.w.ctx sl.pa n sva
      if push then do
        let s3 ← s2.writeHome q.w sl 0 n (lowBits (8 * n) q.b.toNat) sva
        let s4 ← s3.writeHome q.w q.loc 8 8 ((r.tail + 1) % 2 ^ 64) q.va
        .ok ⟨s4, BitVec.ofNat 64 r.tail, some 0, false⟩
      else do
        let s3 ← s2.writeHome q.w q.loc 0 8 ((r.head + 1) % 2 ^ 64) q.va
        .ok ⟨s3, BitVec.ofNat 64 v, some 0, false⟩

/-! ### Waiters of a barrier object (R192) -/

/-- The waiters of a barrier object, in arrival order. -/
def State.waitersAt (s : State) (p pa : Nat) : List (Nat × Bool) := Tab.get (s.part p).tokenWaiters [] pa

/-- Waiters written back; an empty list is not kept. -/
def State.setWaiters (s : State) (p pa : Nat) (l : List (Nat × Bool)) : State :=
  s.modPart p fun x => { x with tokenWaiters := if l = [] then Tab.erase x.tokenWaiters pa else Tab.set x.tokenWaiters pa l }

/-- Marks a blocked strand served: its instruction counts as completed, and its wake is on the way (R192, R214). -/
def Strand.serve (t : Strand) : Strand := { t with status := .blocked .served, pc := t.npc, undo := none }

/-- The home serves waiters whose phase is the object's, in arrival order, while there are tokens (R192). It reads the object
before it writes it: the errors of its words are met, and a poisoned object serves nobody (R313). -/
def serveBarrier (s : State) (p pa : Nat) : Nat → State
  | 0 => s
  | fuel + 1 =>
    match barrierParts (memRead s.mem pa 16) with
    | none => s
    | some b =>
      if b.tokens = 0 then s
      else match (s.waitersAt p pa).find? fun w => w.2 == b.phase with
        | none => s
        | some w =>
          let s := s.meet pa 16
          if s.inError pa 16 then s
          else
            let s := s.setWaiters p pa ((s.waitersAt p pa).erase w)
            let s := s.writeAt ErrCtx.engine pa 16 b.take.word
            serveBarrier (s.modStrand w.1 Strand.serve) p pa fuel

/-- Every waiter that can be served now is served. -/
def State.serveTokens (s : State) (p pa : Nat) : State := serveBarrier s p pa (s.waitersAt p pa).length

/-- The home serves every waiter that can be served now, at every object: R192 serves whenever tokens > 0, whoever wrote the
object. -/
def State.serveAll (s : State) : State :=
  s.parts.foldl (fun s e => e.2.tokenWaiters.foldl (fun s w => s.serveTokens e.1 w.1) s) s

/-- A barrier operation reads its object at the home (R190). -/
def readBarrier (s : State) (c : ErrCtx) (pa va : Nat) : Run (Barrier × State) := do
  let (w, s) ← s.readHome c pa 16 va
  match barrierParts w with
  | none => .error (.found s 0x0312 (va % 2 ^ 64))
  | some b => .ok (b, s)

/-- `barm` at its home (R191), with c = the operand. -/
def barmAt (s : State) (q : Req) : Run Perf := do
  let (o, s1) ← readBarrier s q.w.ctx q.loc.pa q.va
  let (o', st) := o.arm q.b.toNat
  if o' == o then .ok ⟨s1, 0, some st, false⟩
  else
    let s2 ← s1.writeHome q.w q.loc 0 16 o'.word q.va
    .ok ⟨s2, 0, some st, false⟩

/-- `bput` at its home (R192): a waiter that the new token serves is served at once. -/
def bputAt (s : State) (q : Req) : Run Perf := do
  let (o, s1) ← readBarrier s q.w.ctx q.loc.pa q.va
  if o.permits = 0 then .ok ⟨s1, 0, some 1, false⟩
  else
    let s2 ← s1.writeHome q.w q.loc 0 16 { o with permits := o.permits - 1, tokens := o.tokens + 1 }.word q.va
    .ok ⟨s2.serveTokens q.w.part q.loc.pa, 0, some 0, false⟩

/-- `btake` (R192): places a waiter at the home, which serves it at once if it can; otherwise the strand blocks. -/
def execBtake (base : Base) (b : Opnd) (s : State) : Out :=
  .next (s.settle (do
    homeTurn (.btake base b) s
    noMisuse (baseMisuse base)
    noMisuse (opMisuse b)
    let (x, t) ← takeBase s s.st base
    let (y, t) ← takeOp s t b
    let va := accessVa t x.val 0
    aligned va 16
    let loc ← s.locate t va 3 false true false
    poisonCheck x
    poisonCheck y
    s.turnAt t.uid t.cell loc.pa
    s.windowHold t t.wops loc.pa
    let (_, s1) ← readBarrier s t.ctx loc.pa va
    let s2 := s1.setWaiters t.part loc.pa (s1.waitersAt t.part loc.pa ++ [(t.uid, bitAt y.val.toNat 0)])
    let s3 := { s2 with st := { t with
      status := .blocked (.token loc.pa), wcount := t.wcount + 1, undo := some s.st.checkpoint } }
    let s4 := (s3.windowDone t loc.pa).serveTokens t.part loc.pa
    .ok (if s4.st.status = Status.blocked .served then { s4 with st := { s4.st with status := s.st.status } } else s4)))

end Sys2Proof.Machine
end

