-- ==== Sys2Proof/Machine/Signal.lean ====
section
/-! DEFINITION. The signal box (R214, R299), the retirement of tasks (R216), the end of a strand (R121), random numbers
(R218): what instructions and events share. -/

namespace Sys2Proof.Machine

/-! ### Random numbers -/

/-- One round of PRV64. -/
def prvRound (x : Word) : Word :=
  let x := x + 0x7A1F36C9E852D40D
  let x := x ^^^ (x >>> 29)
  let x := x * 0x8F3A61D42B97C5E1
  let x := x ^^^ (x >>> 32)
  let x := x * 0x5D2EB7F194A60C3B
  x ^^^ (x >>> 29)

/-- PRV64(key, counter) (R218). -/
def prv64 (key counter : Word) : Word := prvRound (prvRound (prvRound (prvRound (counter ^^^ key))))

/-! ### Task records -/

/-- A field of a task record (R215). -/
def Task.w (t : Task) (i : Nat) : Nat := (t.words.getD i 0).toNat
def Task.kind (t : Task) : Nat := bitsOf (t.w 0) 2 0
def Task.pinned (t : Task) : Bool := t.kind == 1
def Task.waits (t : Task) : Bool := bitAt (t.w 1) 40
def Task.signals (t : Task) : Bool := bitAt (t.w 1) 41
def Task.skips (t : Task) : Bool := bitAt (t.w 1) 42
def Task.wev (t : Task) : Nat := bitsOf (t.w 0) 31 16
def Task.sev (t : Task) : Nat := bitsOf (t.w 0) 47 32
def Task.wcnt (t : Task) : Nat := bitsOf (t.w 0) 63 48
def Task.entry (t : Task) : Nat := bitsOf (t.w 1) 39 0
def Task.rtag (t : Task) : Nat := bitsOf (t.w 1) 63 48

def Part.task? (p : Part) (n die : Nat) : Option Task := p.tasks.find? fun t => t.num == n && t.die == die

/-- The key of a task in a waiter list, a deque and a strand: numbers are per die (R337). -/
def Task.key (t : Task) : Nat := t.die * 2 ^ 32 + t.num

/-- A task by its key. -/
def Part.taskAt (p : Part) (k : Nat) : Option Task := p.tasks.find? fun t => t.key == k

/-! ### The signal box -/

/-- Wanted count of a waiter. -/
def Waiter.wanted : Waiter → Nat
  | .strand _ c => c
  | .task _ c => c

/-- An event of a partition. -/
def Part.event (p : Part) (e : Nat) : Event := Tab.get p.events ⟨0, []⟩ e

/-- Entries of the overflow pool in use: waiters beyond the 4 inline places of each event (R299). -/
def Part.poolUsed (p : Part) : Nat := (p.events.map fun x => x.2.waiters.length - 4).sum

/-- Is there a place for one more waiter of event `e`? -/
def Part.waiterRoom (p : Part) (e : Nat) : Bool := decide ((p.event e).waiters.length < 4 ∨ p.poolUsed < 65536)

/-- The home serves head waiters whose wanted count is covered, in order (R214). -/
def serveEvent (s : State) (p e : Nat) : Nat → State
  | 0 => s
  | fuel + 1 =>
    let x := s.part p
    let ev := x.event e
    match ev.waiters with
    | [] => s
    | w :: ws =>
      if w.wanted ≤ ev.count.toNat then
        let s := s.setPart p { x with events := Tab.set x.events e ⟨ev.count - BitVec.ofNat 32 w.wanted, ws⟩ }
        let s := match w with
          | .strand uid _ => s.modStrand uid Strand.serve
          | .task n _ => s.modPart p fun x => { x with tasks := x.tasks.map fun t =>
              if t.key = n then { t with stage := .ready } else t }
        serveEvent s p e fuel
      else s

/-- Serves whoever can be served now. -/
def State.serveWaiters (s : State) (p e : Nat) : State := serveEvent s p e ((s.part p).event e).waiters.length

/-- `count := min(count + n, 2^32 - 1)`, then serving (R214). -/
def State.signal (s : State) (p e n : Nat) : State :=
  let x := s.part p
  let ev := x.event e
  let c := min (ev.count.toNat + n) (2 ^ 32 - 1)
  (s.setPart p { x with events := Tab.set x.events e { ev with count := BitVec.ofNat 32 c } }).serveWaiters p e

/-- A waiter joins the list of an event. -/
def State.addWaiter (s : State) (p e : Nat) (w : Waiter) : State :=
  let x := s.part p
  let ev := x.event e
  (s.setPart p { x with events := Tab.set x.events e { ev with waiters := ev.waiters ++ [w] } }).serveWaiters p e

/-- A strand's waiter is withdrawn (R214, R292): the waiter that heads the list then may be served. -/
def State.dropWaiter (s : State) (p e uid : Nat) : State :=
  let x := s.part p
  let ev := x.event e
  (s.setPart p { x with events := Tab.set x.events e { ev with waiters := ev.waiters.filter fun w => match w with
    | .strand u _ => u != uid
    | .task .. => true } }).serveWaiters p e

/-! ### Tasks -/

/-- A trace record of a task (R337 kinds 3, 4, 5). -/
def State.traceTask (s : State) (p : Nat) (t : Task) (kind : Nat) (flag : Bool) : State :=
  let corr := match (s.part p).launch? t.launch with
    | some l => l.eff.corr.toNat
    | none => 0
  s.traceOn p t.die kind 0 0xFFFFF flag corr (t.num % 2 ^ 32 + t.kind * 2 ^ 32 + t.cluster % 64 * 2 ^ 35)
    (t.launch % 2 ^ 32) s.now

/-- A task retires: it leaves the unit, its record is traced, and sev is signalled (R216). -/
def State.retireTask (s : State) (p k : Nat) (skipped : Bool) : State :=
  match (s.part p).taskAt k with
  | none => s
  | some t =>
    let s := s.traceTask p t 5 skipped
    let s := s.modPart p fun x =>
      ({ x with tasks := x.tasks.filter fun y => y.key != k }.modLaunch t.launch fun l =>
        { l with tasksLive := l.tasksLive - 1 })
    if t.signals then s.signal p t.sev 1 else s

/-! ### The end of a strand -/

/-- Removes a strand from its population; a population whose last member leaves is deleted (R251). -/
def State.leavePop (s : State) (p : Nat) (popId : Word) (uid : Nat) : State :=
  let k := popId.toNat
  if 256 ≤ k then s
  else
    let x := s.part p
    match x.pops.find? fun e => e.1 == k with
    | none => s
    | some (_, pop) =>
      let ms := pop.members.filter fun m => m.uid != uid
      s.setPart p { x with pops := if ms = [] then Tab.erase x.pops k else Tab.set x.pops k { pop with members := ms } }

/-- What the end of a strand leaves: it has left its population, its slot of the budget is free, an activation's end is
traced, its task retires; its accesses are forgotten (R121, R337). `fatal`: it was stopped by the end of its domain. -/
def State.endStrand (s : State) (t : Strand) (fatal : Bool) : State :=
  let s := s.leavePop t.part t.popId t.uid
  let s := if t.act then s.traceStrand t 2 fatal (t.entry.toNat + t.tag.toNat * 2 ^ 40) (lowBits 48 t.clks) else s
  let s := s.modPart t.part fun x => x.modLaunch t.launch fun l => { l with slotsUsed := l.slotsUsed - 1 }
  let s := { s with accs := s.accs.filter fun y => y.uid != t.uid }
  match t.task with
  | some k => if fatal then s else s.retireTask t.part k false
  | none => s

/-- The strand in focus is gone: its slot is free (R13). -/
def State.clearFocus (s : State) : State := { s with st := Strand.empty }

/-- `done` (R121): waits for the vector stream, the tile commands and the stores; then the strand ends. -/
def execDone (s : State) : Out :=
  .next (s.settle (do
    vectorIdle s.st
    if s.st.tileCount ≠ 0 then .error (.wait .issue) else .ok ()
    noStores s
    .ok (s.endStrand s.st false).clearFocus))

/-! ### evsig, evwait -/

/-- The range check of an event operand and of a count (R209 0x0504). -/
def eventCheck (s : State) (t : Strand) (e n : Word) : Run Unit :=
  let (base, count) := match s.launchOf t with
    | some l => (l.eff.evBase, l.eff.evCount)
    | none => (0, 0)
  if e.toNat < base ∨ base + count ≤ e.toNat then .error (.trap 0x0504 e.toNat)
  else if 2 ^ 32 ≤ n.toNat then .error (.trap 0x0504 n.toNat)
  else .ok ()

/-- Two scalar operands a and b with no tag check (R208). -/
def takeAB (s : State) (a b : Opnd) : Run (Src × Src × Strand) := do
  noMisuse (opMisuse a)
  noMisuse (opMisuse b)
  let (x, t) ← takeOp s s.st a
  let (y, t) ← takeOp s t b
  .ok (x, y, t)

/-- `evsig` (R214). -/
def execEvsig (a b : Opnd) (s : State) : Out :=
  .next (s.settle (do
    homeTurn (.evsig a b) s
    noStores s
    let (x, y, t) ← takeAB s a b
    eventCheck s t x.val y.val
    poisonCheck x
    poisonCheck y
    .ok ((s.done t).signal t.part x.val.toNat y.val.toNat)))

/-- `evwait` (R214): completes at once when c = 0 or when the home serves it at once; status 1 when the pool is full. -/
def execEvwait (a b : Opnd) (s : State) : Out :=
  .next (s.settle (do
    homeTurn (.evwait a b) s
    let (x, y, t) ← takeAB s a b
    eventCheck s t x.val y.val
    poisonCheck x
    poisonCheck y
    let e := x.val.toNat
    if y.val = 0 then .ok (s.done (t.status? 0))
    else if (s.part t.part).waiterRoom e = false then .ok (s.done (t.status? 1))
    else
      let s1 := { s with st := { t.status? 0 with status := .blocked (.event e), undo := some s.st.checkpoint } }
      let s2 := s1.addWaiter t.part e (.strand t.uid y.val.toNat)
      .ok (if s2.st.status = Status.blocked .served then { s2 with st := { s2.st with status := s.st.status } } else s2)))

end Sys2Proof.Machine
end

