-- ==== Sys2Proof/Machine/Message.lean ====
section
/-! DEFINITION. The instructions of page 6 but those of Control and Signal (R203-R224): messages, `spawn`, `migrate`,
`sleep`, `tsub`, `launch`, `rand`, `claim`, `tlbinv`, `tmark`, `sysc`, `eret`. -/

namespace Sys2Proof.Machine

/-! ### Message images (R203) -/

/-- A record of `n` bytes at the strand's address, aligned to `n`, read as one access (R194, R203, R210, R216): the words, the
state after the read, and where it stands. -/
def readRecord (s : State) (t : Strand) (x : Src) (n : Nat) : Run (List Word × State) := do
  let va := accessVa t x.val 0
  aligned va n
  let loc ← s.locate t va 0 true false false
  poisonCheck x
  s.turnAt t.uid t.cell loc.pa
  let (_, bad, s1) := s.readAt t.ctx loc.pa n
  if bad then .error (.found s1 0x0B01 (va % 2 ^ 64)) else .ok (memWords s1.mem loc.pa (n / 8), s1)

/-- Word `i` of a record, as a number. -/
def wordAt (ws : List Word) (i : Nat) : Nat := (ws.getD i 0).toNat

/-- Is a message image malformed: a reserved bit, or an odd entry (R209 0x0501)? -/
def imageBad (ws : List Word) : Bool := bitsOf (wordAt ws 0) 63 60 != 0 || bitAt (wordAt ws 0) 20

def imageDest (ws : List Word) : Nat := bitsOf (wordAt ws 0) 19 0
def imageEntry (ws : List Word) : Nat := bitsOf (wordAt ws 0) 59 20

/-- The message that an image makes. -/
def imageMsg (id : Nat) (kind : MsgKind) (src part launch : Nat) (ws : List Word) : Msg where
  id := id
  sent := id
  kind := kind
  src := src
  dst := imageDest ws
  seq := 0
  part := part
  launch := launch
  entry := BitVec.ofNat 40 (imageEntry ws)
  tag := BitVec.ofNat 16 (wordAt ws 1)
  coord := BitVec.ofNat 64 (wordAt ws 1 / 2 ^ 16)
  payload := (ws.drop 2).take 6
  host := none

/-- The device numbers of the domain that this device knows: its own, the partition's peers and the one that the image
names, in rising order (DEDUCED, log 53). -/
def domainDevices (s : State) (p dest : Nat) : List Nat :=
  (s.boot.device.toNat :: dest / 4096 :: (s.part p).peerDevices).dedup.insertionSort (· ≤ ·)

/-- The destinations of `mcast`: every cell of the domain whose number agrees with dest on the mask, in rising order
(R210). -/
def castDests (s : State) (p dest msk : Nat) : List Nat :=
  (domainDevices s p dest).flatMap fun d =>
    ((List.range 4096).map fun c => d * 4096 + c).filter fun n => Nat.land n msk == Nat.land dest msk

/-- The lowest destination outside the partition takes 0x0502. -/
def destCheck (s : State) (p : Nat) (dests : List Nat) : Run Unit :=
  match dests.find? fun n => !s.hasCell p n with
  | some n => .error (.trap 0x0502 n)
  | none => .ok ()

/-- The image of a send, checked (R203, R210). -/
def openImage (s : State) (t : Strand) (x : Src) : Run (List Word × State) := do
  let (ws, s1) ← readRecord s t x 64
  if imageBad ws then .error (.trap 0x0501 x.val.toNat) else .ok (ws, s1)

/-- Places a message in the cell's outbound buffer. -/
def State.post (s : State) (cell : Nat) (m : Msg) (dests : List Nat) : State :=
  { s.modCell cell fun c => { c with outbox := c.outbox ++ [⟨m, dests⟩] } with nextId := s.nextId + 1 }

/-- A message takes its pair's next sequence number and is on its way (R203); one that no cell has placed in its buffer enters
the path now. -/
def State.depart (s : State) (m : Msg) : State :=
  let x := s.part m.part
  let key := m.src * 2 ^ 20 + m.dst
  let n := Tab.get x.seqs 0 key
  { s.setPart m.part { x with seqs := Tab.set x.seqs key (n + 1) } with
    flight := s.flight ++ [{ m with
      id := s.nextId, sent := if m.sent = 0 then s.nextId else m.sent, seq := n.toNat }], nextId := s.nextId + 1 }

/-- Is the cell's outbound buffer full (R204)? -/
def State.outFull (s : State) (cell : Nat) : Bool := decide (4 ≤ (s.cell cell).outbox.length)

/-- `send` and `mcast` (R210): block while the outbound buffer is full. -/
def sendRun (i : Instr) (s : State) (rel : Bool) (base : Base) (msk : Option Opnd) : Run State := do
  homeTurn i s
  if rel then noStores s else .ok ()
  noMisuse (baseMisuse base)
  noMisuse (match msk with
    | some b => opMisuse b
    | none => none)
  let (x, t) ← takeBase s s.st base
  let (y, t) ← match msk with
    | some b => takeOp s t b
    | none => .ok (Src.zero, t)
  let (ws, s1) ← openImage s t x
  let dests := if msk.isSome then castDests s t.part (imageDest ws) (y.val.toNat % 2 ^ 20) else [imageDest ws]
  destCheck s t.part dests
  poisonCheck y
  if s.outFull t.cell then .error (.wait .issue)
  else .ok ((s1.post t.cell (imageMsg s1.nextId .normal t.cell t.part t.launch ws) dests).done t)

/-- `send` (R210). -/
def execSend (rel : Bool) (base : Base) (s : State) : Out := .next (s.settle (sendRun (.send rel base) s rel base none))

/-- `mcast` (R210). -/
def execMcast (rel : Bool) (base : Base) (b : Opnd) (s : State) : Out :=
  .next (s.settle (sendRun (.mcast rel base b) s rel base (some b)))

/-- `sendn` (R210): status 1 and nothing sent when the buffer is full. -/
def execSendn (rel : Bool) (base : Base) (s : State) : Out :=
  .next (s.settle (do
    homeTurn (.sendn rel base) s
    if rel then noStores s else .ok ()
    noMisuse (baseMisuse base)
    let (x, t) ← takeBase s s.st base
    let (ws, s1) ← openImage s t x
    destCheck s t.part [imageDest ws]
    if s.outFull t.cell then .ok (s1.done (t.status? 1))
    else .ok ((s1.post t.cell (imageMsg s1.nextId .normal t.cell t.part t.launch ws) [imageDest ws]).done (t.status? 0))))

/-- Is the launch's slot budget used up (R18, R211)? -/
def Launch.noSlot (l : Launch) : Bool := decide (l.eff.slots ≤ l.slotsUsed)

/-- `spawn` (R211): reserves a slot of the budget and sends the image as a message. -/
def execSpawn (base : Base) (s : State) : Out :=
  .next (s.settle (do
    homeTurn (.spawn base) s
    noMisuse (baseMisuse base)
    let (x, t) ← takeBase s s.st base
    let (ws, s1) ← openImage s t x
    if imageEntry ws = 0 then .error (.trap 0x0501 x.val.toNat) else .ok ()
    destCheck s t.part [imageDest ws]
    let full := match s.launchOf t with
      | some l => l.noSlot
      | none => true
    if full then .ok (s1.done (t.status? 1))
    else if s.outFull t.cell then .error (.wait .issue)
    else
      let s2 := s1.modPart t.part fun x => x.modLaunch t.launch fun l => { l with slotsUsed := l.slotsUsed + 1 }
      .ok ((s2.post t.cell (imageMsg s2.nextId .spawn t.cell t.part t.launch ws) [imageDest ws]).done (t.status? 0))))

/-! ### Moving, sleeping -/

/-- The context that leaves a slot holds one deadline of a `sleep` taken back, that of the level at which the strand runs, as its
frame does (R32, R328). -/
def Strand.oneDeadline (t : Strand) : Strand :=
  { t with sleepUntil := if t.handler then none else t.sleepUntil, sleepTrap := if t.handler then t.sleepTrap else none }

/-- `migrate` (R212): the context leaves its slot, and the old cell keeps a siding. The operands of a suspended loop's body (R149)
and the poison marks of registers (R147, R174) go with the registers and the loop state (log entries 66, 67). -/
def execMigrate (b : Opnd) (s : State) : Out :=
  .next (s.settle (do
    homeTurn (.migrate b) s
    if s.st.tileCount ≠ 0 then .error (.wait .issue) else .ok ()
    noStores s
    noMisuse (opMisuse b)
    let (y, t) ← takeOp s s.st b
    let cell := y.val.toNat % 2 ^ 20
    if t.act then .error (.trap 0x0503 0) else .ok ()
    destCheck s t.part [cell]
    poisonCheck y
    if cell = t.cell then .ok (s.done t)
    else
      let s1 := { s with
        sidings := s.sidings ++ [(⟨s.nextId, t.uid, t.cell, []⟩ : Siding)]
        nextId := s.nextId + 1
        parked := s.parked ++ [{ t.oneDeadline with status := .moving, cell := cell, pc := s.st.npc }] }
      .ok s1.clearFocus))

/-- The deadline that the context keeps for a `sleep` that was taken back (R292, R303): the one of the level, handler or not,
at which the strand runs. -/
def Strand.kept (t : Strand) : Option Nat := if t.handler then t.sleepTrap else t.sleepUntil

/-- Keeps a deadline, or none, for the level at which the strand runs. -/
def Strand.keep (t : Strand) (d : Option Nat) : Strand :=
  if t.handler then { t with sleepTrap := d } else { t with sleepUntil := d }

/-- `sleep` (R213): completes with status 0 when q15 holds an entry; otherwise blocks until t0 + ticks, t0 read at issue, or
the deadline kept of the same `sleep` taken back (R292). -/
def execSleep (b : Opnd) (s : State) : Out :=
  .next (s.settle (do
    homeTurn (.sleep b) s
    noMisuse (opMisuse b)
    let (y, t) ← takeOp s s.st b
    poisonCheck y
    if t.q15 ≠ [] then .ok (s.done ((t.status? 0).keep none))
    else
      let d := match t.kept with
        | some d => some d
        | none => if y.val = 0 then none else some (s.now + y.val.toNat)
      .ok { s with st := { t.keep none with status := .blocked (.sleep d), undo := some s.st.checkpoint } }))

/-! ### Tasks -/

/-- Is a layout-T modifier of a kind 1 task one that R62 and its operation allow (0 `mma`, 1 `mmas`, 2 `mmac`)? -/
def tileModOk (op m : Nat) : Bool :=
  tilePairOk (Fmt.ofCode (m / 8)) (TileB.ofCode (m / 2 % 4)) && (op == 0 || Fmt.ofCode (m / 8) != .h4)
    && (op != 2 || m / 2 % 4 != 3)

/-- Is a task record malformed (R215)? A kind 1 record with operation code 3, or with a modifier that is not allowed, is
(log entry 117). -/
def taskBad (l : Option Launch) (ws : List Word) : Bool :=
  let w0 := wordAt ws 0
  let w1 := wordAt ws 1
  let kind := bitsOf w0 2 0
  let entry := bitsOf w1 39 0
  let outside (e : Nat) : Bool := match l with
    | some l => decide (e < l.eff.evBase ∨ l.eff.evBase + l.eff.evCount ≤ e)
    | none => true
  bitsOf w0 7 3 != 0 || bitAt w0 15 || bitsOf w1 47 43 != 0 || bitsOf (wordAt ws 2) 31 24 != 0
    || decide (5 ≤ kind)
    || (match kind with
      | 0 => entry % 2 != 0 || entry == 0
      | 1 => entry != 0 || !bitAt w0 14 || bitsOf (wordAt ws 4) 63 12 != 0 || wordAt ws 7 != 0
          || bitsOf (wordAt ws 4) 4 3 == 3 || !tileModOk (bitsOf (wordAt ws 4) 4 3) (bitsOf (wordAt ws 4) 11 5)
      | _ => entry % 64 != 0)
    || (bitAt w1 40 && outside (bitsOf w0 31 16)) || (bitAt w1 41 && outside (bitsOf w0 47 32))

/-- A task joins the waiters of its event, when there is a place (R216, R299). -/
def State.placeTask (s : State) (p k : Nat) : State :=
  match (s.part p).taskAt k with
  | none => s
  | some t =>
    if t.stage = .waiting ∧ t.placed = false ∧ (s.part p).waiterRoom t.wev then
      let s := s.modPart p fun x => { x with tasks := x.tasks.map fun y => if y.key = k then { y with placed := true } else y }
      s.addWaiter p t.wev (.task k t.wcnt)
    else s

/-- A record handed to the task unit of a die: it takes the die's next number (R216, R337). -/
def State.submitTask (s : State) (t : Strand) (ws : List Word) : State :=
  let d := dieOf t.cell
  let n := Tab.get (s.part t.part).nextTask 0 d
  let waits := bitAt (wordAt ws 1) 40
  let k : Task := ⟨n, d, t.launch, t.cell, t.asid, t.uab, ws, if waits then .waiting else .ready, clusterOf t.cell, false, false, none⟩
  let s := s.modPart t.part fun x => { x.modLaunch t.launch fun l => { l with tasksLive := l.tasksLive + 1 } with
    tasks := x.tasks ++ [k], nextTask := Tab.set x.nextTask d (n + 1) }
  s.placeTask t.part k.key

/-- `tsub` (R216). -/
def execTsub (base : Base) (s : State) : Out :=
  .next (s.settle (do
    homeTurn (.tsub base) s
    noStores s
    noMisuse (baseMisuse base)
    let (x, t) ← takeBase s s.st base
    let (ws, s1) ← readRecord s t x 64
    if taskBad (s.launchOf t) ws then .error (.trap 0x0505 x.val.toNat) else .ok ()
    let full := match s.launchOf t with
      | some l => decide (l.eff.tasks ≤ l.tasksLive)
      | none => true
    if full then .ok (s1.done (t.status? 1)) else .ok ((s1.done (t.status? 0)).submitTask t ws)))

/-! ### Launches, random numbers, claims -/

/-- `launch` (R217): hands the RCB to the coordinator. -/
def execLaunch (base : Base) (s : State) : Out :=
  .next (s.settle (do
    homeTurn (.launch base) s
    noStores s
    noMisuse (baseMisuse base)
    let (x, t) ← takeBase s s.st base
    poisonCheck x
    .ok ((s.done t).modPart t.part fun p => { p with
      pending := p.pending ++ [⟨x.val, t.uab, t.asid, false, 0, 0, false, some t.uid⟩] })))

/-- The seed of the strand's launch. -/
def State.seedOf (s : State) (t : Strand) : Word :=
  match s.launchOf t with
  | some l => l.eff.seed
  | none => 0

/-- `rand` (R218). -/
def execRand (d : SReg) (b : Opnd) (s : State) : Out :=
  .next (s.settle (do
    homeTurn (.rand d b) s
    noMisuse (opMisuse b)
    noMisuse (misuseWrite d)
    let (y, t) ← takeOp s s.st b
    hasRoom t d
    poisonCheck y
    let t ← putReg t d (prv64 (s.seedOf t) y.val) .raw
    .ok (s.done t)))

/-- Does a range overlap a claim of the same key (R219)? -/
def claimOverlaps (cs : List (Nat × Word × Word × Nat)) (key : Word) (first len : Nat) : Bool :=
  cs.any fun c => c.2.1 == key && decide (c.2.2.1.toNat < first + len ∧ first < c.2.2.1.toNat + c.2.2.2)

/-- `claim` (R219). -/
def execClaim (a b : Opnd) (s : State) : Out :=
  .next (s.settle (do
    homeTurn (.claim a b) s
    let (x, y, t) ← takeAB s a b
    let p := s.part t.part
    let first := x.val.toNat
    let len := y.val.toNat
    if len = 0 then do
      poisonCheck x
      poisonCheck y
      .ok (s.done (t.status? 0))
    else if 2 ^ 64 < first + len ∨ claimOverlaps p.claims (s.seedOf t) first len then .error (.trap 0x0506 first)
    else do
      poisonCheck x
      poisonCheck y
      if 1024 ≤ p.claims.length then .ok (s.done (t.status? 1))
      else .ok ((s.done (t.status? 0)).modPart t.part fun p => { p with
        claims := p.claims ++ [(t.launch, s.seedOf t, x.val, len)] })))

/-! ### System -/

/-- `tlbinv` (R224): completes at once; TLBINV_COMPLETE drops the entries and pushes the kind 8 entry. -/
def execTlbinv (a b : Opnd) (s : State) : Out :=
  .next (s.settle (do
    homeTurn (.tlbinv a b) s
    let (x, y, t) ← takeAB s a b
    poisonCheck x
    poisonCheck y
    .ok ({ s with
      invs := s.invs ++ [(⟨s.nextId, some t.uid, t.part, t.asid, x.val - x.val % 65536, y.val.toNat % 2 ^ 40⟩ : Tlbinv)]
      nextId := s.nextId + 1 }.done t)))

/-- `tmark` (R222): a kind 8 record. -/
def execTmark (a b : Opnd) (s : State) : Out :=
  .next (s.settle (do
    homeTurn (.tmark a b) s
    let (x, y, t) ← takeAB s a b
    poisonCheck x
    poisonCheck y
    .ok ((s.done t).traceStrand t 8 false x.val.toNat (y.val.toNat % 2 ^ 16))))

/-- `sysc` (R220): acts as `fence.full`, then the strand blocks until the reply. -/
def execSysc (n : Int) (s : State) : Out :=
  .next (s.settle (do
    vectorIdle s.st
    noStores s
    noLoads s
    let s1 := s.dropLdc s.st.cell (Scope.reaches .dflt .device)
    .ok { s1 with st := { s1.st with status := .blocked (.sysc n.toNat) } }))

/-- `eret` (R221): leaves handler state and goes on at `fault.pc`; outside a handler it raises 0x0507. It waits for no access
(R263), but not while a loop runs (R149). A suspended `vrep` loop is taken up again at the next issue (R151). -/
def execEret (s : State) : Out :=
  .next (s.settle (do
    noLoop s.st
    if s.st.handler then .ok { s with st := s.st.returnFrom } else .error (.trap 0x0507 0)))

end Sys2Proof.Machine
end

