-- ==== Sys2Proof/Machine/Engine.lean ====
section
/-! DEFINITION. Engine commands (R193-R202, R308-R310): the instructions that issue them, their acceptance, what the copy
engine, gather unit and route unit do, credits and completions. -/

namespace Sys2Proof.Machine

/-! ### Issue (R194) -/

/-- Commands of a strand that wait in its q9 (copy) or q10 (die units) (R23, R308). -/
def State.queued (s : State) (uid : Nat) (copy : Bool) : Nat :=
  (s.cmds.filter fun c => c.uid == uid && c.stage == 0 && (decide (c.kind ≤ 2) == copy)).length

/-- Is a copy descriptor malformed (R196, R199)? -/
def copyBad (blocked : Bool) (v : CpyVar) (ws : List Word) : Bool :=
  let src := wordAt ws 0
  let w1 := wordAt ws 1
  let len := bitsOf (wordAt ws 2) 47 0
  let table := wordAt ws 4
  let cap := bitsOf (wordAt ws 5) 47 0
  let boff := bitsOf w1 14 0
  let slice0 := bitsOf w1 21 15
  let per := bitsOf w1 37 22
  let m := Nat.log2 (per / 33)
  bitsOf (wordAt ws 2) 63 49 != 0 || bitsOf (wordAt ws 5) 63 48 != 0 || wordAt ws 6 != 0 || wordAt ws 7 != 0
    || len == 0 || wordAt ws 3 % 16 != 0
    || (blocked && (bitsOf w1 63 38 != 0 || decide (per < 1 ∨ 32768 < per ∨ 32768 < boff + per)))
    || (match v with
      | .plain => table != 0 || cap != 0 || (blocked && (len % per != 0 || decide (128 < slice0 + len / per)))
      | .dec | .enc => blocked && (len % per != 0 || decide (128 < slice0 + len / per))
      | .q4g => src % 64 != 0 || len % 8512 != 0 || per != 33 * 2 ^ m || decide (7 < m) || table % 4 != 0 || cap != 0
          || decide (128 < slice0 + 256 * (len / 8512) / 2 ^ m))

/-- Is a gather descriptor malformed, but for the table's home (R201)? A misaligned address makes it so (log entry 116). -/
def gatherBad (ws : List Word) : Bool :=
  bitsOf (wordAt ws 5) 63 1 != 0 || wordAt ws 6 != 0 || wordAt ws 7 != 0 || bitsOf (wordAt ws 2) 23 0 == 0
    || wordAt ws 0 % 4 != 0 || wordAt ws 1 % 64 != 0 || wordAt ws 3 % 64 != 0 || wordAt ws 4 % 16 != 0

/-- Is a route descriptor malformed (R202)? A misaligned address makes it so (log entry 116). -/
def routeBad (ws : List Word) : Bool :=
  bitsOf (wordAt ws 1) 63 48 != 0 || bitsOf (wordAt ws 7) 63 1 != 0 || bitsOf (wordAt ws 1) 31 0 == 0
    || wordAt ws 0 % 4 != 0 || wordAt ws 3 % 4 != 0 || wordAt ws 4 % 4 != 0 || wordAt ws 5 % 4 != 0
    || wordAt ws 6 % 16 != 0

/-- A command with its descriptor, not yet performed; `stack` homes a gather's table. -/
def newCmd (num kind : Nat) (v : CpyVar) (t : Strand) (ws : List Word) (daddr : Word) (stack : Nat) : EngCmd where
  num := num
  kind := kind
  var := v
  uid := t.uid
  cell := t.cell
  slot := t.slot
  part := t.part
  launch := t.launch
  asid := t.asid
  uab := t.uab
  task := none
  desc := ws
  daddr := daddr
  stage := 0
  status := 0
  w2 := 0
  w3 := 0
  w4 := 0
  w5 := 0
  w6 := 0
  credit := 0
  walk := none
  stack := stack
  begun := false
  phase := 0
  pos := 0
  aux := 0
  table := []
  rdAt := 0
  rdLeft := 0
  got := []
  out := []

/-- The HBM stack that homes an address under a translation, if it is in HBM (R201). -/
def TlbEntry.stackOf (e : TlbEntry) (va : Nat) : Option Nat :=
  match placeOf (e.pa + va % 2 ^ e.log) with
  | .hbm k => some k
  | _ => none

/-- A gather's table must be in HBM (R201): its translation is met at issue. The stack that homes it, or none. -/
def tableStack (s : State) (t : Strand) (kind : Nat) (ws : List Word) : Run (Option Nat) :=
  if kind = 3 then
    let va := t.dataVa (ws.getD 1 0)
    match s.tlbFind t.cell t.asid va with
    | none => .error (.miss va 0)
    | some e => .ok (e.stackOf va)
  else .ok (some 0)

/-- The issue of an engine command (R194): 1 cpy, 2 cpyb, 3 gath, 4 route. -/
def engineRun (i : Instr) (s : State) (kind : Nat) (v : CpyVar) (base : Base) (bad : List Word → Bool) : Run State := do
  homeTurn i s
  noStores s
  noMisuse (baseMisuse base)
  let (x, t) ← takeBase s s.st base
  let (ws, s1) ← readRecord s t x 64
  if bad ws then .error (.trap 0x0313 x.val.toNat) else .ok ()
  match (← tableStack s t kind ws) with
  | none => .error (.trap 0x0313 x.val.toNat)
  | some k =>
    if (if kind ≤ 2 then 8 else 4) ≤ s.queued t.uid (decide (kind ≤ 2)) then .error (.wait .issue)
    else .ok ({ s1 with cmds := s1.cmds ++ [newCmd s1.nextId kind v t ws x.val k], nextId := s1.nextId + 1 }.done t)

/-- `cpy` (R194, R196). -/
def execCpy (v : CpyVar) (base : Base) (s : State) : Out :=
  .next (s.settle (engineRun (.cpy v base) s 1 v base (copyBad false v)))
/-- `cpyb` (R194, R196, R199). -/
def execCpyb (v : CpyVar) (base : Base) (s : State) : Out :=
  .next (s.settle (engineRun (.cpyb v base) s 2 v base (copyBad true v)))
/-- `gath` (R201). -/
def execGath (base : Base) (s : State) : Out :=
  .next (s.settle (engineRun (.gath base) s 3 .plain base gatherBad))
/-- `route` (R202). -/
def execRoute (base : Base) (s : State) : Out :=
  .next (s.settle (engineRun (.route base) s 4 .plain base routeBad))

/-! ### Acceptance (R308) -/

/-- The queue of an engine: its name (class, number) and how many commands it holds (R308). -/
def EngCmd.engine (c : EngCmd) : Nat × Nat × Nat :=
  if c.kind ≤ 2 then (0, clusterOf c.cell, 32) else if c.kind = 3 then (1, c.stack, 64) else (2, dieOf c.cell, 16)

/-- The commands in an engine's queue, in arrival order. -/
def State.engineQueue (s : State) (cls n : Nat) : List EngCmd :=
  s.cmds.filter fun c => c.stage == 1 && c.engine.1 == cls && c.engine.2.1 == n

/-- Changes a command by number. -/
def State.modCmd (s : State) (n : Nat) (f : EngCmd → EngCmd) : State :=
  { s with cmds := s.cmds.map fun c => if c.num = n then f c else c }

/-- The command of a strand that its engine takes next: the first of its q9, else of its q10, whose engine has room. None is taken
once a reset of the partition has begun (R359). -/
def State.nextAccept (s : State) (uid : Nat) : Option EngCmd :=
  let first (copy : Bool) : Option EngCmd :=
    match s.cmds.find? fun c => c.uid == uid && c.stage == 0 && (decide (c.kind ≤ 2) == copy) with
    | some c => if (s.part c.part).resetting.isNone ∧ (s.engineQueue c.engine.1 c.engine.2.1).length < c.engine.2.2 then some c else none
    | none => none
  match first true with
  | some c => some c
  | none => first false

/-- ENGINE_ACCEPT_COMMAND: the command enters its engine's queue, last. -/
def execEngineAcceptCommand (uid : Nat) (s : State) : Out :=
  match s.nextAccept uid with
  | none => .next s
  | some c => .next { s with cmds := (s.cmds.filter fun x => x.num != c.num) ++ [{ c with stage := 1 }] }

/-! ### A unit's accesses -/

/-- The address space and identity that a command acts under. -/
structure EngCtx where
  die : Nat
  part : Nat
  asid : Nat
  uab : Nat
  w : Writer
  deriving DecidableEq, Repr

/-- The die through whose service an engine translates (R334): the gather unit's is the one that homes its stack. -/
def EngCmd.die (c : EngCmd) : Nat := if c.kind = 3 then c.stack / 2 else dieOf c.cell

def EngCmd.ctx (c : EngCmd) : EngCtx :=
  ⟨c.die, c.part, c.asid, c.uab.toNat, ⟨c.part, ErrCtx.engine, 0, c.num⟩⟩

/-- The 72-bit address of an engine's access. -/
def EngCtx.va (c : EngCtx) (a : Nat) : Nat := c.uab * 2 ^ 64 + a % 2 ^ 64

/-- A translation that the service of a unit's die holds; a miss takes one of its walkers (R334). A home on another device does
not answer here (log entry 9). -/
def State.engineLoc (s : State) (c : EngCtx) (a : Nat) (r w : Bool) : Run Loc :=
  match (s.die c.die).tlb.find? fun e => e.hits c.asid (c.va a) with
  | none => .error (.miss (c.va a) (if w then 1 else 0))
  | some e => do
    let loc ← s.permit c.part e (c.va a) r w false
    if s.remote loc.pa then .error (.wait .issue) else .ok loc

/-- Where an engine writes in a B-store, by fabric address: one past its teardown point performs nothing (R327). -/
def State.storeLoc (s : State) (p pa n : Nat) : Run Loc :=
  if (s.part p).dead.contains (homeOf pa) then .error (.trap 0x0305 (pa % 2 ^ 64))
  else if s.remote pa then .error (.wait .issue)
  else .ok ⟨pa, (s.part p).watches pa n⟩

/-- A read of one piece of at most 8 bytes by a unit that walks inline: value or fault. Another device's memory gives a free
value. -/
def engLoad (s : State) (c : EngCtx) (a n : Nat) : State × Except (Nat × Nat) Nat :=
  match s.engineFind c.die c.asid (c.va a) with
  | (s, none) => (s, .error (0x0302, a % 2 ^ 64))
  | (s, some e) =>
    match s.permit c.part e (c.va a) true false false with
    | .error (.trap cause addr) => (s, .error (cause, addr))
    | .error _ => (s, .error (0x0303, a % 2 ^ 64))
    | .ok loc =>
      if s.remote loc.pa then ({ s with free := s.free + 1 }, .ok (lowBits (8 * n) (Config.remoteData s.free).toNat))
      else
        let (v, bad, s) := s.readAt ErrCtx.engine loc.pa n
        if bad then (s, .error (0x0B01, a % 2 ^ 64)) else (s, .ok v)

/-- The low `k` bytes of a list as a number, and its rest. -/
def takeBytes : List Byte → Nat → Nat × List Byte
  | bs, 0 => (0, bs)
  | [], _ => (0, [])
  | b :: bs, k + 1 =>
    let (v, r) := takeBytes bs k
    (b.toNat + 256 * v, r)

/-- The low `n` bytes of a number, as a list. -/
def bytesOf (x : Nat) : Nat → List Byte
  | 0 => []
  | n + 1 => BitVec.ofNat 8 x :: bytesOf (x / 256) n

/-- Bytes at an address cut into naturally aligned pieces of at most 8 bytes (R276). -/
def piecesOf (store : Bool) (a : Nat) (bs : List Byte) : Nat → List EngPiece
  | 0 => []
  | fuel + 1 =>
    if bs = [] then []
    else
      let k := 8 - a % 8
      ⟨store, a, bs.take k⟩ :: piecesOf store (a + k) (bs.drop k) fuel

/-- The writes of bytes to memory at an address. -/
def memPieces (a : Nat) (bs : List Byte) : List EngPiece := piecesOf false a bs bs.length

/-- The writes of bytes to a B-store at a fabric address. -/
def storePiecesAt (pa : Nat) (bs : List Byte) : List EngPiece := piecesOf true pa bs bs.length

/-! ### The course of a command

A command reads and writes piece by piece. What it reads next, and what it writes once that has come, is its plan; each kind
has its own. -/

/-- The barrier that a command names (R196, R201, R202). -/
def EngCmd.bar (c : EngCmd) : Nat :=
  if c.kind ≤ 2 then wordAt c.desc 3 else if c.kind = 3 then wordAt c.desc 4 else wordAt c.desc 6

/-- Does a command push no completion entry? -/
def EngCmd.noEntry (c : EngCmd) : Bool :=
  if c.kind ≤ 2 then bitAt (wordAt c.desc 2) 48 else if c.kind = 3 then bitAt (wordAt c.desc 5) 0 else bitAt (wordAt c.desc 7) 0

/-- A command with a status bit set (R195). -/
def EngCmd.flag (c : EngCmd) (n : Nat) : EngCmd := if bitAt c.status n then c else { c with status := c.status + 2 ^ n }

/-- The end of a command's work: the bytes written are due to its barrier, if it names one, else its completion is due. -/
def EngCmd.over (c : EngCmd) : EngCmd :=
  { c with stage := if c.bar = 0 then 3 else 2, credit := c.w2, walk := none, rdLeft := 0, got := [], out := [] }

/-- A command ends with status bit 2, a faulting address and a cause (R195, R200). -/
def EngCmd.failed (c : EngCmd) (cause addr : Nat) : EngCmd :=
  { (c.flag 2).over with w5 := BitVec.ofNat 64 addr, w6 := cause }

/-- A plan's next step: read `n` bytes at an address, then go on at a point of the plan. -/
def EngCmd.read (c : EngCmd) (phase a n : Nat) : EngCmd := { c with phase := phase, rdAt := a, rdLeft := n, got := [] }

/-- A plan's next step: perform writes, then go on at a point of the plan. -/
def EngCmd.write (c : EngCmd) (phase : Nat) (out : List EngPiece) : EngCmd := { c with phase := phase, got := [], out := out }

/-- The bytes that a command has read. -/
def EngCmd.bytes (c : EngCmd) : List Byte := c.got.reverse.flatten

/-! ### Where a copy writes (R197) -/

/-- Memory from dst, or `per` bytes to each slice from slice0. -/
inductive Target where
  | memory (dst : Nat)
  | slices (base boff slice0 per : Nat)
  deriving DecidableEq, Repr

/-- The target of a command on a device. -/
def EngCmd.target (c : EngCmd) (device : Nat) : Target :=
  let w1 := wordAt c.desc 1
  if c.kind = 1 then .memory w1
  else .slices (bstoreBase device (clusterOf c.cell)) (bitsOf w1 14 0) (bitsOf w1 21 15) (bitsOf w1 37 22)

/-- The bytes that a target can take: a copy to slices ends with slice 127 (log entry 34). -/
def Target.room (t : Target) (cap : Nat) : Nat :=
  match t with
  | .memory _ => cap
  | .slices _ _ slice0 per => min cap ((128 - slice0) * per)

/-- The fabric address of byte `off` of a target in slices. -/
def sliceAddr (base boff slice0 per off : Nat) : Nat := base + (slice0 + off / per) * 32768 + boff + off % per

/-- The writes of bytes from offset `off` of a target on. -/
def Target.pieces (t : Target) (off : Nat) (bs : List Byte) : Nat → List EngPiece
  | 0 => []
  | fuel + 1 =>
    match t with
    | .memory dst => memPieces (dst + off) bs
    | .slices base boff slice0 per =>
      if bs = [] then []
      else
        let k := per - off % per
        storePiecesAt (sliceAddr base boff slice0 per off) (bs.take k) ++ t.pieces (off + k) (bs.drop k) fuel

/-- The bytes of the piece that begins at offset `off` of a target of `len` bytes. -/
def Target.pieceAt (t : Target) (off len : Nat) : Nat :=
  match t with
  | .memory dst => min (8 - (dst + off) % 8) (len - off)
  | .slices base boff slice0 per =>
    min (min (8 - sliceAddr base boff slice0 per off % 8) (per - off % per)) (len - off)

def EngCmd.src (c : EngCmd) : Nat := wordAt c.desc 0
def EngCmd.len (c : EngCmd) : Nat := bitsOf (wordAt c.desc 2) 47 0

/-! ### COPY_PLAIN (R197) -/

/-- Byte `i` of an overlapping copy (R197): the original source byte, or a byte that the command wrote. -/
def overlapByte (free : Nat) (src dst len : Nat) (orig : List Byte) (i : Nat) : Nat → Byte
  | 0 => orig.getD i 0
  | fuel + 1 =>
    if dst ≤ src + i ∧ src + i < dst + len ∧ src ≠ dst ∧ Config.overlapOriginal free i = false then
      overlapByte free src dst len orig (src + i - dst) fuel
    else orig.getD i 0

/-- Do the source and the destination of a copy overlap? -/
def EngCmd.overlaps (c : EngCmd) : Option Nat :=
  let dst := wordAt c.desc 1
  if c.kind = 1 ∧ c.src < dst + c.len ∧ dst < c.src + c.len then some dst else none

/-- The plan of a plain copy: piece by piece of the destination, the source bytes read, then written. Overlapping ranges are
read whole first. -/
def planPlain (device free : Nat) (c : EngCmd) : EngCmd :=
  let t := c.target device
  match c.overlaps with
  | some dst =>
    match c.phase with
    | 0 => c.read 1 c.src c.len
    | 1 =>
      let orig := c.bytes
      c.write 2 (t.pieces 0 ((List.range c.len).map fun i => overlapByte free c.src dst c.len orig i c.len) 1)
    | _ => c.over
  | none =>
    match c.phase with
    | 0 => if c.len ≤ c.pos then c.over else c.read 1 (c.src + c.pos) (t.pieceAt c.pos c.len)
    | _ => { c with pos := c.pos + c.bytes.length }.write 0 (t.pieces c.pos c.bytes (c.bytes.length + 1))

/-! ### The entropy code (R198, R309, R310) -/

/-- count[L] of a code table, L = 1-16 (R309). -/
def tableCount (t : List Byte) (l : Nat) : Nat := (t.getD (2 * (l - 1)) 0).toNat + 256 * (t.getD (2 * (l - 1) + 1) 0).toNat

/-- The number of codes. -/
def tableSize (t : List Byte) : Nat := ((List.range 16).map fun i => tableCount t (i + 1)).sum

/-- Is a table valid (R309)? -/
def tableValid (t : List Byte) : Bool :=
  let n := tableSize t
  let syms := (t.drop 32).take n
  decide (1 ≤ n ∧ n ≤ 256) && decide (((List.range 16).map fun i => tableCount t (i + 1) * 2 ^ (15 - i)).sum ≤ 2 ^ 16)
    && decide syms.Nodup && ((t.drop (32 + n)).all fun b => b == 0)

/-- A code: its symbol, length and bits. -/
structure HCode where
  sym : Byte
  len : Nat
  code : Nat
  deriving DecidableEq, Repr

/-- The codes of lengths from `l`, `k` lengths left, assigned canonically (R310). -/
def assignCodes (t : List Byte) (syms : List Byte) (l code : Nat) : Nat → List HCode
  | 0 => []
  | k + 1 =>
    let n := tableCount t l
    ((syms.take n).zipIdx.map fun e => ⟨e.1, l, code + e.2⟩) ++ assignCodes t (syms.drop n) (l + 1) ((code + n) * 2) k

/-- The codes of a table. -/
def tableCodes (t : List Byte) : List HCode := assignCodes t ((t.drop 32).take (tableSize t)) 1 0 16

/-- The bits of a code, most significant first. -/
def codeBits (c : HCode) : List Bool := (List.range c.len).map fun i => bitAt c.code (c.len - 1 - i)

/-- Bits packed into bytes from bit 7 downward, padded with zeros. -/
def packBits : List Bool → List Byte
  | [] => []
  | a :: b :: c :: d :: e :: f :: g :: h :: r =>
    BitVec.ofNat 8 (bitOf a * 128 + bitOf b * 64 + bitOf c * 32 + bitOf d * 16 + bitOf e * 8 + bitOf f * 4 + bitOf g * 2
      + bitOf h) :: packBits r
  | l => [BitVec.ofNat 8 ((l.zipIdx.map fun x => bitOf x.1 * 2 ^ (7 - x.2)).sum)]

/-- The bits of bytes, bit 7 first. -/
def unpackBits (bs : List Byte) : List Bool := bs.flatMap fun b => (List.range 8).map fun i => b.getLsbD (7 - i)

/-- The codes of a block's bytes; none when a byte has no code. -/
def encodeBlock (cs : List HCode) : List Byte → Option (List Bool)
  | [] => some []
  | b :: bs =>
    match cs.find? fun c => c.sym == b, encodeBlock cs bs with
    | some c, some r => some (codeBits c ++ r)
    | _, _ => none

/-- The symbol whose code begins the bits, with the rest; none when none of up to 16 bits matches. -/
def readCode (cs : List HCode) (bits : List Bool) : Option (Byte × List Bool) :=
  match cs.find? fun c => (codeBits c).isPrefixOf bits with
  | some c => some (c.sym, bits.drop c.len)
  | none => none

/-- `n` symbols decoded from bits, with the bits left. -/
def decodeBlock (cs : List HCode) (bits : List Bool) : Nat → Option (List Byte × List Bool)
  | 0 => some ([], bits)
  | n + 1 =>
    match readCode cs bits with
    | none => none
    | some (b, r) =>
      match decodeBlock cs r n with
      | none => none
      | some (bs, r) => some (b :: bs, r)

/-- The record of a block (R198). -/
def recordOf (plain : Nat) (payload : List Byte) : List Byte :=
  let h := payload.length % 2 ^ 14 + (plain - 1) % 2 ^ 12 * 2 ^ 14
  [BitVec.ofNat 8 h, BitVec.ofNat 8 (h / 2 ^ 8), BitVec.ofNat 8 (h / 2 ^ 16), BitVec.ofNat 8 (h / 2 ^ 24)] ++ payload

/-- The plan of an entropy copy up to its records (R198): the table is read once; one that is not valid sets corrupt and
writes nothing. One whose address is not aligned fails as an access does (log entry 115). -/
def planTable (c : EngCmd) : EngCmd :=
  match c.phase with
  | 0 => if wordAt c.desc 4 % 64 ≠ 0 then c.failed 0x0301 (wordAt c.desc 4) else c.read 1 (wordAt c.desc 4) 320
  | _ => if tableValid c.bytes then { c with table := c.bytes, phase := 2 } else (c.flag 1).over

/-- The capacity of an entropy copy. -/
def EngCmd.cap (c : EngCmd) (device : Nat) : Nat := (c.target device).room (bitsOf (wordAt c.desc 5) 47 0)

/-- The plan of `.enc`: blocks of 4 KiB, each read, coded and written as a record if it fits whole. -/
def planEncode (device : Nat) (c : EngCmd) : EngCmd :=
  match c.phase with
  | 0 | 1 => planTable c
  | 2 => if c.len ≤ c.pos then c.over else c.read 3 (c.src + c.pos) (min 4096 (c.len - c.pos))
  | 3 =>
    match encodeBlock (tableCodes c.table) c.bytes with
    | none => (c.flag 1).over
    | some bits =>
      let r := recordOf c.bytes.length (packBits bits)
      if c.cap device < c.w2 + r.length then (c.flag 0).over
      else { c with pos := c.pos + c.bytes.length }.write 4 ((c.target device).pieces c.w2 r (r.length + 1))
  | _ => { c with phase := 2, w3 := c.w3 + 1 }

/-- The plan of `.dec`: records, each written once its payload has decoded whole, within cap. One that does not decode and would
also pass cap sets corrupt only (log entry 115). -/
def planDecode (device : Nat) (c : EngCmd) : EngCmd :=
  let left := c.len - c.pos
  match c.phase with
  | 0 | 1 => planTable c
  | 2 => if left = 0 then c.over else if left < 4 then (c.flag 1).over else c.read 3 (c.src + c.pos) 4
  | 3 =>
    let h := (takeBytes c.bytes 4).1
    if left < 4 + bitsOf h 13 0 ∨ bitsOf h 31 26 ≠ 0 then (c.flag 1).over
    else { c with aux := h }.read 4 (c.src + c.pos + 4) (bitsOf h 13 0)
  | 4 =>
    let plain := bitsOf c.aux 25 14 + 1
    match decodeBlock (tableCodes c.table) (unpackBits c.bytes) plain with
    | none => (c.flag 1).over
    | some (bs, rest) =>
      if 8 ≤ rest.length then (c.flag 1).over
      else if c.cap device < c.w2 + plain then (c.flag 0).over
      else { c with pos := c.pos + 4 + bitsOf c.aux 13 0 }.write 5 ((c.target device).pieces c.w2 bs (bs.length + 1))
  | _ => { c with phase := 2, w3 := c.w3 + 1 }

/-! ### Q4G_UNPACK (R199) -/

/-- The writes of block b of a group. -/
def q4Block (base boff slice0 m table g : Nat) (grp : List Byte) (b : Nat) : List EngPiece :=
  let beta := 256 * g + b
  let j := beta / 2 ^ m
  let kb := beta % 2 ^ m
  let at0 := base + (slice0 + j) * 32768 + boff
  storePiecesAt (at0 + 32 * kb) ((grp.drop (32 * b)).take 32)
    ++ storePiecesAt (at0 + 32 * 2 ^ m + kb) ((grp.drop (8192 + b)).take 1)
    ++ (if kb = 0 then memPieces (table + 4 * j) ((grp.drop 8448).take 4) else [])

/-- The plan of an unpacking: the groups in ascending order. -/
def planQ4 (device : Nat) (c : EngCmd) : EngCmd :=
  let w1 := wordAt c.desc 1
  let a := c.src + 8512 * c.pos
  match c.phase with
  | 0 => if c.len / 8512 ≤ c.pos then c.over else c.read 1 a 8512
  | 1 =>
    let grp := c.bytes
    if (grp.drop 8452).any fun b => b != 0 then c.failed 0x0405 (a % 2 ^ 64)
    else c.write 2 ((List.range 256).flatMap (q4Block (bstoreBase device (clusterOf c.cell)) (bitsOf w1 14 0) (bitsOf w1 21 15)
      (Nat.log2 (bitsOf w1 37 22 / 33)) (wordAt c.desc 4) c.pos grp))
  | _ => { c with phase := 0, pos := c.pos + 1, w3 := c.pos + 1 }

/-! ### GATHER (R201) -/

/-- The plan of a gather: for each index, read once, the row that it names, or zeros when it is out of range. -/
def planGather (c : EngCmd) : EngCmd :=
  let size := 64 * (bitsOf (wordAt c.desc 2) 31 24 + 1)
  let dst := wordAt c.desc 3 + c.pos * size
  match c.phase with
  | 0 => if bitsOf (wordAt c.desc 2) 23 0 ≤ c.pos then c.over else c.read 1 (c.src + 4 * c.pos) 4
  | 1 =>
    let x := (takeBytes c.bytes 4).1
    if bitsOf (wordAt c.desc 2) 63 32 ≤ x then
      { c.flag 3 with w3 := c.w3 + 1, pos := c.pos + 1 }.write 0 (memPieces dst (List.replicate size 0))
    else c.read 2 (wordAt c.desc 1 + x * size) size
  | _ => { c with pos := c.pos + 1 }.write 0 (memPieces dst c.bytes)

/-! ### ROUTE_ASSIGN (R202) -/

/-- A 32-bit number as bytes. -/
def bytes4 (x : Nat) : List Byte :=
  [BitVec.ofNat 8 x, BitVec.ofNat 8 (x / 2 ^ 8), BitVec.ofNat 8 (x / 2 ^ 16), BitVec.ofNat 8 (x / 2 ^ 24)]

/-- 32-bit numbers of a list of bytes. -/
def words4 : List Byte → List Nat
  | a :: b :: c :: d :: r => (a.toNat + 256 * b.toNat + 65536 * c.toNat + 16777216 * d.toNat) :: words4 r
  | _ => []

/-- The accepted indexes of expert e under capacity C. -/
def accepted (ids : List Nat) (e cap : Nat) : List Nat :=
  ((ids.zipIdx.filter fun x => x.1 == e).map (·.2)).take cap

/-- The dropped indexes, ascending: beyond capacity, or an identifier out of range. -/
def dropped (ids : List Nat) (experts cap : Nat) : List Nat :=
  (ids.zipIdx.filter fun x => decide (experts ≤ x.1) || !(accepted ids x.1 cap).contains x.2).map (·.2)

/-- The plan of a route command: the entries are read; then slot table, counts and drop buffer are written. -/
def planRoute (c : EngCmd) : EngCmd :=
  let experts := bitsOf (wordAt c.desc 1) 47 32 + 1
  let cap := bitsOf (wordAt c.desc 2) 31 0
  let dcap := bitsOf (wordAt c.desc 2) 63 32
  match c.phase with
  | 0 => c.read 1 c.src (4 * bitsOf (wordAt c.desc 1) 31 0)
  | 1 =>
    let ids := words4 c.bytes
    let slots := (List.range experts).flatMap fun e =>
      let a := accepted ids e cap
      (a ++ List.replicate (cap - a.length) 0xFFFFFFFF).flatMap bytes4
    let cnt := (List.range experts).flatMap fun e => bytes4 (accepted ids e cap).length
    let drops := dropped ids experts cap
    let outs := (ids.filter fun x => experts ≤ x).length
    let c := if dcap < drops.length then c.flag 4 else c
    let c := if outs = 0 then c else c.flag 5
    { c with w3 := drops.length, w4 := outs }.write 2
      (memPieces (wordAt c.desc 3) slots ++ memPieces (wordAt c.desc 4) cnt
        ++ memPieces (wordAt c.desc 5) ((drops.take dcap).flatMap bytes4))
  | _ => c.over

/-! ### Carrying a command out -/

/-- The plan of a command. -/
def EngCmd.plan (c : EngCmd) (device free : Nat) : EngCmd :=
  match c.kind with
  | 3 => planGather c
  | 4 => planRoute c
  | _ => match c.var with
    | .plain => planPlain device free c
    | .enc => planEncode device c
    | .dec => planDecode device c
    | .q4g => planQ4 device c

/-- A command being carried out; `on` is false once it has ended, has stalled (R321), or waits for a roll-up unit (R311). -/
structure EngAt where
  s : State
  c : EngCmd
  on : Bool
  deriving DecidableEq, Repr

/-- A command stalled on a translation miss: its walk runs on the unit's die, and its record is posted by TRANSLATION_MISS
(R200, R321). -/
def EngAt.stall (x : EngAt) (va acc : Nat) : EngAt :=
  let (id, s) := x.s.startWalk x.c.die x.c.part x.c.asid va acc true (x.c.cell / 16 * 16) x.c.kind
  ⟨s, { x.c with walk := some (id, va) }, false⟩

/-- What a stop of an access does to its command: a fault ends it (R200). -/
def EngAt.stop (x : EngAt) (a : Nat) : Stop → EngAt
  | .miss va acc => x.stall va acc
  | .wait _ => { x with on := false }
  | .trap cause addr | .after cause addr => { x with c := x.c.failed cause addr, on := false }
  | .found s cause _ => ⟨s, x.c.failed cause (a % 2 ^ 64), false⟩

/-- Performs the first write that is due: by a piece the home performs it whole (R276). -/
def EngAt.put (x : EngAt) (p : EngPiece) : EngAt :=
  let ctx := x.c.ctx
  let n := p.bytes.length
  let v := (takeBytes p.bytes n).1
  match (if p.store then x.s.storeLoc x.c.part p.addr n else x.s.engineLoc ctx p.addr false true) with
  | .error e => x.stop p.addr e
  | .ok loc =>
    match x.s.writeOk ctx.w loc.watched loc.pa n v p.addr with
    | .error e => x.stop p.addr e
    | .ok _ => { x with s := x.s.write ctx.w loc.watched loc.pa n v, c := { x.c with w2 := x.c.w2 + n, out := x.c.out.tail } }

/-- Reads the next piece of what a command reads (R276). -/
def EngAt.get (x : EngAt) : EngAt :=
  let a := x.c.rdAt
  let n := min (8 - a % 8) x.c.rdLeft
  match x.s.engineLoc x.c.ctx a true false with
  | .error e => x.stop a e
  | .ok loc =>
    let (v, bad, s) := x.s.readAt ErrCtx.engine loc.pa n
    if bad then x.stop a (.found s 0x0B01 a)
    else { x with s := s, c := { x.c with rdAt := a + n, rdLeft := x.c.rdLeft - n, got := bytesOf v n :: x.c.got } }

/-- One step of a command: a write that is due, else a read that is due, else its plan goes on. -/
def EngAt.act (x : EngAt) : EngAt :=
  match x.c.out with
  | p :: _ => x.put p
  | [] =>
    if x.c.rdLeft ≠ 0 then x.get
    else
      let c := x.c.plan x.s.boot.device.toNat x.s.free
      { x with s := { x.s with free := x.s.free + (if x.c.overlaps.isSome ∧ x.c.phase = 1 then 1 else 0) }
               c := c, on := decide (c.stage = 1) }

/-- At most `fuel` steps of a command. -/
def EngAt.run (x : EngAt) : Nat → EngAt
  | 0 => x
  | fuel + 1 => if x.on then x.act.run fuel else x

/-- How many steps of a command one event makes: one where the model delays accesses, so that other parties' accesses and
other commands come between (R269, R276); else as many as it takes (log entry 96). -/
def State.engFuel (s : State) : Nat := if s.async then 1 else 2 ^ 48

/-- The head command of an engine's queue goes on, unless it is stalled. -/
def State.runHead (s : State) (cls n : Nat) (pick : EngCmd → Bool) : State :=
  match s.engineQueue cls n with
  | [] => s
  | c :: _ =>
    if !pick c || c.walk.isSome then s
    else
      let x := (⟨s, { c with begun := true }, true⟩ : EngAt).run s.engFuel
      x.s.modCmd c.num fun _ => x.c

/-- COPY_PLAIN. -/
def execCopyPlain (cluster : Nat) (s : State) : Out :=
  .next (s.runHead 0 cluster fun c => c.var == .plain)

/-- COPY_ENCODE. -/
def execCopyEncode (cluster : Nat) (s : State) : Out :=
  .next (s.runHead 0 cluster fun c => c.var == .enc)

/-- COPY_DECODE. -/
def execCopyDecode (cluster : Nat) (s : State) : Out :=
  .next (s.runHead 0 cluster fun c => c.var == .dec)

/-- Q4G_UNPACK. -/
def execQ4gUnpack (cluster : Nat) (s : State) : Out :=
  .next (s.runHead 0 cluster fun c => c.var == .q4g)

/-- GATHER. -/
def execGather (stack : Nat) (s : State) : Out :=
  .next (s.runHead 1 stack fun c => c.kind == 3)

/-- ROUTE_ASSIGN. -/
def execRouteAssign (die : Nat) (s : State) : Out :=
  .next (s.runHead 2 die fun c => c.kind == 4)

/-- The model's choice of which started command of an engine goes on: commands start in queue order, and their accesses
interleave in no promised order (R269). A command comes before the others of its queue once each of them has started. -/
def State.favour (s : State) (n : Nat) : State :=
  match s.cmds.find? fun c => c.num == n && c.stage == 1 with
  | none => s
  | some c =>
    let ahead := (s.engineQueue c.engine.1 c.engine.2.1).takeWhile fun x => x.num != n
    if ahead.all (·.begun) then { s with cmds := c :: s.cmds.filter fun x => x.num != n } else s

/-! ### Credits and completions (R193, R195) -/

/-- ENGINE_CREDIT: the bytes written are credited to the barrier object, all in one credit at the command's end, one of 0 bytes
too (log entry 113); a malformed object ends the command with status bit 2 and cause 0x0312. -/
def execEngineCredit (n : Nat) (s : State) : Out :=
  match s.cmds.find? fun c => c.num == n && c.stage == 2 && c.walk.isNone with
  | none => .next s
  | some c =>
    let fail (s : State) (cause : Nat) : State := s.modCmd n fun x =>
      { x.flag 2 with stage := 3, w5 := BitVec.ofNat 64 c.bar, w6 := cause }
    let ctx := c.ctx
    match s.engineLoc ctx c.bar false true with
    | .error (.miss va _) =>
      let x := (⟨s, c, true⟩ : EngAt).stall va 3
      .next (x.s.modCmd n fun _ => x.c)
    | .error (.trap cause _) => .next (fail s cause)
    | .error _ => .next s
    | .ok loc =>
      let (w, bad, s) := s.readAt ErrCtx.engine loc.pa 16
      if bad then .next (fail s 0x0B01)
      else match barrierParts w with
        | none => .next (fail s 0x0312)
        | some b =>
          let s := s.writeAt ErrCtx.engine loc.pa 16 (b.credit c.credit).word
          .next ((s.modCmd n fun x => { x with stage := 3 }).serveTokens ctx.part loc.pa)

/-- The completion entry of a command (R195). -/
def EngCmd.entry (c : EngCmd) : List Word :=
  [BitVec.ofNat 64 (c.kind + c.status % 256 * 256), c.daddr, BitVec.ofNat 64 c.w2, BitVec.ofNat 64 c.w3,
   BitVec.ofNat 64 c.w4, c.w5, BitVec.ofNat 64 c.w6, 0]

/-- COMPLETION_ENTRY_PUSH: the entry goes to q15 when there is room, to the siding of a strand that has moved (R212), and
is discarded for an ended strand (R121). A task's command reports to the task unit: it retires the task, or is a fatal
fault of the domain (R216, R323). -/
def execCompletionEntryPush (n : Nat) (s : State) : Out :=
  match s.cmds.find? fun c => c.num == n && c.stage == 3 with
  | none => .next s
  | some c =>
    let gone : State := { s with cmds := s.cmds.filter fun x => x.num != n }
    match c.task with
    | some k =>
      if bitAt c.status 2 then .next (gone.fatal c.part c.launch c.cell 0 0 c.w6 0 c.w5)
      else .next (gone.retireTask c.part k false)
    | none =>
      if c.noEntry then .next gone
      else match s.strand? c.uid with
        | none => .next gone
        | some t =>
          match s.sidings.find? fun d => d.uid == c.uid && d.cell == c.cell with
          | some d => .next { gone with sidings := s.sidings.map fun x =>
              if x.id = d.id then { x with items := x.items ++ [(none, c.entry)] } else x }
          | none => if s.q15Room t then .next (gone.modStrand c.uid fun t => t.pushQ15 c.entry) else .next s

/-! ### Words read by the coordinator and the dies' units -/

/-- `n` 64-bit words read from an address through an engine's translation: the words, or the fault. -/
def engWords (s : State) (c : EngCtx) (a : Nat) : Nat → State × Except (Nat × Nat) (List Word)
  | 0 => (s, .ok [])
  | n + 1 =>
    match engLoad s c a 8 with
    | (s, .error f) => (s, .error f)
    | (s, .ok x) =>
      match engWords s c (a + 8) n with
      | (s, .error f) => (s, .error f)
      | (s, .ok xs) => (s, .ok (BitVec.ofNat 64 x :: xs))

/-- The lowest-numbered die that holds a cluster of the partition: home of the signal box and the population unit
(R214, R250). -/
def Part.homeDie (p : Part) : Nat := p.clusters.headD 0 / 64

/-- A unit of a die that acts for a partition in an address space. -/
def unitCtx (die p asid uab : Nat) : EngCtx := ⟨die, p, asid, uab, ⟨p, ErrCtx.engine, 2 ^ 32, 0⟩⟩

/-- Copies a launch's constant bank to a cell at its first start there (R26); a fault is (cause, the image's address). -/
def State.copyBank (s : State) (p : Nat) (l : Launch) (cell : Nat) : State × Option (Nat × Nat) :=
  let key := p * 2 ^ 32 + l.num
  if Tab.has (s.cell cell).cbank key then (s, none)
  else match engWords s (unitCtx (dieOf cell) p l.asid l.eff.cbankUab.toNat) l.eff.cbank.toNat 256 with
    | (s, .error (cause, _)) => (s, some (cause, l.eff.cbank.toNat))
    | (s, .ok ws) => (s.modCell cell fun c => { c with cbank := Tab.set c.cbank key ws }, none)

end Sys2Proof.Machine
end

