-- ==== Sys2Proof/Machine/Fetch.lean ====
section
/-! DEFINITION. Fetching code (R12, R90, R93, R99): a word at a time through the cell's fetch path, which does not snoop
stores, until the words read decode or are rejected. -/

namespace Sys2Proof.Machine

/-- The key of a line of the fetch path: lines are held by virtual address. -/
def fetchKey (asid a : Nat) : Nat := asid * 2 ^ 64 + a / 64

/-- Two bytes of a line as a code word (R76). -/
def lineWord (line : List Byte) (off : Nat) : Nat := (line.getD off 0).toNat + 256 * (line.getD (off + 1) 0).toNat

/-- A line of the fetch path in parity error that a fetch meets is dropped, and the error is logged for the cell's SRAM beside
it (R313, log entry 52); `pa` is the line's fabric address. -/
def State.dropFetchLine (s : State) (c : ErrCtx) (cell key pa : Nat) : State :=
  if Tab.has (s.cell cell).fetch key ∧ (s.cell cell).flawed.contains key then
    (s.modCell cell fun x => { x with fetch := Tab.erase x.fetch key, flawed := x.flawed.filter (· != key) }).logError
      (.sram cell) pa 3 false 0 c none
  else s

/-- One code word at a 40-bit address (R12): translated and permitted as a fetch, then taken from the line that the
fetch path holds, or from memory, whose line the fetch path then keeps. A poisoned word faults with its address. Another device's
memory does not answer here (log entry 9). -/
def State.fetchWord (s : State) (t : Strand) (a : Nat) : Run (Nat × State) := do
  let loc ← s.locate t a 2 false false true
  let key := fetchKey t.asid a
  let s := s.dropFetchLine t.ctx t.cell key (loc.pa / 64 * 64 % 2 ^ 48)
  let lines := (s.cell t.cell).fetch
  if Tab.has lines key then .ok (lineWord (Tab.get lines [] key) (a % 64), s)
  else if s.remote loc.pa then .error (.wait .issue)
  else
    let (_, bad, s1) := s.readAt t.ctx (loc.pa / 64 * 64) 64
    if bad then
      let (w, bad, s2) := s1.readAt t.ctx loc.pa 2
      if bad then .error (.found s2 0x0B01 a) else .ok (w, s2)
    else
      let line := memBytes s1.mem (loc.pa / 64 * 64) 64
      .ok (lineWord line (a % 64), s1.modCell t.cell fun c => { c with fetch := Tab.set c.fetch key line })

/-- Fetches words from `pc` on until those read, `ws` first, decode or are rejected (R90, R93, R98). -/
def fetchFrom (s : State) (t : Strand) (pc : Nat) (ws : List Nat) : Nat → Run (Decoded × State)
  | 0 => .ok (decodeWords ws, s)
  | n + 1 => do
    let (w, s) ← s.fetchWord t ((pc + 2 * ws.length) % 2 ^ 40)
    match decodeWords (ws ++ [w]) with
    | .short => fetchFrom s t pc (ws ++ [w]) n
    | d => .ok (d, s)

/-- Fetches and decodes the instruction at an address: at most four prefixes and a base word (R90). -/
def State.fetchAt (s : State) (t : Strand) (pc : Nat) : Run (Decoded × State) := fetchFrom s t pc [] 5

end Sys2Proof.Machine
end

