-- ==== Sys2Proof/Machine/VectorCore.lean ====
section
/-! DEFINITION. Vector operands (R123-R129): groups of registers, elements, tags, poison, activity under the mask, and
the write of a destination group under its policies. A vector instruction acts through a `VIn`, whether it executes at
issue or later in the sequencer. -/

namespace Sys2Proof.Machine

/-- What a vector instruction executes with: the machine, the strand with its queue operands popped, the scalar operands
a, b, d, the rounding mode and upper address byte in force at its issue (R25, R128), and its number. -/
structure VIn where
  s : State
  t : Strand
  a : Src
  b : Src
  d : Src
  mode : RMode
  uab : BitVec 8
  num : Nat

/-- The override of `pfx.v`; 0 for `cfg` (R88). -/
def lmulSize : LMul → Nat
  | .cfg => 0 | .x1 => 1 | .x2 => 2 | .x4 => 4 | .x8 => 8

/-- EG(w), the registers of a group of w-bit elements under the reference pair (R126). -/
def groupSize (t : Strand) (k : Keys) (f : Fmt) (w : Nat) : Nat :=
  if k.lmul = .cfg then max 1 (t.gc * w / t.fc.bits) else max 1 (lmulSize k.lmul * w / f.bits)

/-! ### The registers that an instruction touches (R130, R153) -/

/-- The metadata group of `vprune4` (R145). -/
def metaSize (vl : Nat) : Nat := max 1 (((vl + 7) / 8 * 16 + 511) / 512)

/-- The registers that a vector instruction writes, as (first, number). -/
def vectorDsts (t : Strand) : Instr → List (Nat × Nat)
  | .vadd f k d _ _ | .vsub f k d _ _ | .vmul f k d _ _ | .vmulh f k d _ _ | .vmacc f k d _ _ | .vand f k d _ _
  | .vor f k d _ _ | .vxor f k d _ _ | .vshl f k d _ _ | .vshr f k d _ _ | .vsra f k d _ _ | .vmin f k d _ _
  | .vmax f k d _ _ | .vminn f k d _ _ | .vmaxn f k d _ _ | .vnarrow f k d _ _ | .vfmin f k d _ _ | .vfmax f k d _ _
  | .vsel f k d _ _ | .vperm f k d _ _ => [(d.val, groupSize t k f f.bits)]
  | .vfadd f _ k d _ _ | .vfsub f _ k d _ _ | .vfmul f _ k d _ _ | .vfma f _ k d _ _ | .vfdiv f _ k d _ _
  | .vdeq f _ k d _ _ => [(d.val, groupSize t k f f.bits)]
  | .vabs f k d _ | .vwiden f k d _ | .vcompress f k d _ => [(d.val, groupSize t k f f.bits)]
  | .vmv f k d _ => [(d.val, groupSize t k f f.bits)]
  | .vslide f _ k d _ _ => [(d.val, groupSize t k f f.bits)]
  | .vprune4 f k d _ b => [(d.val, groupSize t k f f.bits), (b.val, metaSize t.vl)]
  | .vexp2 k d _ | .vlog2 k d _ | .vrcp k d _ | .vrsq k d _ | .vsigm k d _ | .vtanh k d _ => [(d.val, groupSize t k .f32 32)]
  | .vcvt f _ k d _ => [(d.val, groupSize t k f f.bits)]
  | .vld f k d _ _ | .vldff f k d _ _ => [(d.val, groupSize t k f f.bits)]
  | .vlds f k d _ _ => [(d.val, groupSize t k f f.bits)]
  | .vldx f k d _ _ => [(d.val, groupSize t k f f.bits)]
  | _ => []

/-- A vector operand b. -/
def vectorOpnd (size : Nat) : Opnd → List (Nat × Nat)
  | .vec n => [(n.val, size)]
  | _ => []

/-- The registers that a vector instruction reads only, as (first, number). -/
def vectorSrcs (t : Strand) : Instr → List (Nat × Nat)
  | .vadd f k _ a b | .vsub f k _ a b | .vmul f k _ a b | .vmulh f k _ a b | .vmacc f k _ a b | .vand f k _ a b
  | .vor f k _ a b | .vxor f k _ a b | .vshl f k _ a b | .vshr f k _ a b | .vsra f k _ a b | .vmin f k _ a b
  | .vmax f k _ a b | .vminn f k _ a b | .vmaxn f k _ a b | .vfmin f k _ a b | .vfmax f k _ a b
  | .vsel f k _ a b => (a.val, groupSize t k f f.bits) :: vectorOpnd (groupSize t k f f.bits) b
  | .vnarrow f k _ a b => (a.val, groupSize t k f (2 * f.bits)) :: vectorOpnd (groupSize t k f f.bits) b
  | .vfadd f _ k _ a b | .vfsub f _ k _ a b | .vfmul f _ k _ a b | .vfma f _ k _ a b
  | .vfdiv f _ k _ a b => (a.val, groupSize t k f f.bits) :: vectorOpnd (groupSize t k f f.bits) b
  | .vcmp f _ k _ a b => (a.val, groupSize t k f f.bits) :: vectorOpnd (groupSize t k f f.bits) b
  | .vfcmp f _ k _ a b => (a.val, groupSize t k f f.bits) :: vectorOpnd (groupSize t k f f.bits) b
  | .vperm f k _ a b => [(a.val, groupSize t k f f.bits), (b.val, groupSize t k f f.bits)]
  | .vdeq _ _ k _ a _ => [(a.val, groupSize t k .h4 4)]
  | .vabs f k _ b | .vcompress f k _ b => [(b.val, groupSize t k f f.bits)]
  | .vwiden f k _ b => [(b.val, groupSize t k f (f.bits / 2))]
  | .vmv f k _ b => vectorOpnd (groupSize t k f f.bits) b
  | .vslide f _ k _ a _ => [(a.val, groupSize t k f f.bits)]
  | .vredsum f _ k _ a _ => [(a.val, groupSize t k f f.bits)]
  | .vredmax f k _ a _ | .vredmin f k _ a _ => [(a.val, groupSize t k f f.bits)]
  | .vdotx f _ k _ a b => [(a.val, groupSize t k f f.bits), (b.val, groupSize t k f f.bits)]
  | .vprune4 f k _ a _ => [(a.val, groupSize t k f f.bits)]
  | .vexp2 k _ b | .vlog2 k _ b | .vrcp k _ b | .vrsq k _ b | .vsigm k _ b | .vtanh k _ b => [(b.val, groupSize t k .f32 32)]
  | .vcvt f _ k _ b =>
    let tag := t.vtag[b.val]?.getD .raw
    [(b.val, if t.vq = [] then groupSize t k f (if tag = .raw then t.fc else tag).bits else 8)]
  | .vst f k d _ _ => [(d.val, groupSize t k f f.bits)]
  | .vsts f k d _ _ => [(d.val, groupSize t k f f.bits)]
  | .vstx f k d _ b => [(d.val, groupSize t k f f.bits), (b.val, groupSize t k f 32)]
  | .vldx f k _ _ b => [(b.val, groupSize t k f 32)]
  | _ => []

/-- Groups as the strand's stream will find them: while a vector instruction that sets the configuration has not completed,
an operand is taken to be of 8 registers, the most that a group has. -/
def Strand.spans (t : Strand) (l : List (Nat × Nat)) : List (Nat × Nat) :=
  if t.vq.any fun e => match e.ins with
    | .vsetvl .. | .vsetvli .. => true
    | _ => false
  then l.map fun g => (g.1, 8) else l

/-- Do two lists of groups share a register? -/
def groupsMeet (a b : List (Nat × Nat)) : Bool := a.any fun x => b.any fun y => decide (x.1 < y.1 + y.2 ∧ y.1 < x.1 + x.2)

/-- Every group that a vector instruction touches. -/
def vectorGroups (t : Strand) (i : Instr) : List (Nat × Nat) := vectorDsts t i ++ vectorSrcs t i

/-- The registers of a tile row in format F (R164). -/
def rowGroup (f : Fmt) (v : Nat) : List (Nat × Nat) := [(v, 128 * f.bits / 512)]

/-- Does an outstanding `trd` or `twr` hold back an instruction that writes `dsts` and reads `srcs` (R153)? -/
def TileCmd.holds (c : TileCmd) (dsts srcs : List (Nat × Nat)) : Bool :=
  groupsMeet (rowGroup c.f c.v) dsts || (c.read && groupsMeet (rowGroup c.f c.v) srcs)

/-- Waits while an outstanding `trd` or `twr` holds a vector instruction back (R153). -/
def tilesClear (t : Strand) (i : Instr) : Run Unit :=
  if t.tileq ≠ [] ∧ t.tileq.any fun c => c.holds (t.spans (vectorDsts t i)) (t.spans (vectorSrcs t i)) then .error (.wait .issue)
  else .ok ()

/-- Waits until every earlier vector instruction that touches the registers of a row has completed (R153). -/
def rowClear (t : Strand) (f : Fmt) (v : Nat) : Run Unit :=
  if t.vq.any fun e => groupsMeet (rowGroup f v) (t.spans (vectorGroups t e.ins)) then .error (.wait .issue) else .ok ()

/-! ### Checks and elements -/

/-- The checks of R126 on one operand: 0x0210 for its size, 0x0211 for its first register. -/
def groupCheck (t : Strand) (eg w reg : Nat) : Run Unit :=
  if 8 < eg ∨ eg * 512 / w < t.vl then .error (.trap 0x0210 reg)
  else if reg % eg ≠ 0 then .error (.trap 0x0211 reg)
  else .ok ()

/-- The registers of a group that hold an element below vl. -/
def liveRegs (t : Strand) (eg w reg : Nat) : List Nat :=
  ((List.range (min eg ((t.vl * w + 511) / 512))).map (reg + ·)).filter (· < 32)

/-- The tag check of a source group (R29, R127), with the register at fault. -/
def groupTags (t : Strand) (eg w reg : Nat) (f : Fmt) : Run Unit :=
  match (liveRegs t eg w reg).find? fun r => t.vtag[r]?.getD .raw != f && t.vtag[r]?.getD .raw != .raw with
  | some r => .error (.trap 0x0201 r)
  | none => .ok ()

/-- `n` registers from `reg` joined end to end (R126). -/
def joinRegs (v : Vector (BitVec 512) 32) (reg : Nat) : Nat → Nat
  | 0 => 0
  | n + 1 => (v[reg]?.getD 0).toNat + 2 ^ 512 * joinRegs v (reg + 1) n

/-- The poison marks of `n` registers from `reg`, one bit a nibble. -/
def joinBad (v : Vector (BitVec 128) 32) (reg : Nat) : Nat → Nat
  | 0 => 0
  | n + 1 => (v[reg]?.getD 0).toNat + 2 ^ 128 * joinBad v (reg + 1) n

/-- A source group as read: its first register, element width, bits and poison marks. -/
structure VSrc where
  reg : Nat
  w : Nat
  bits : Nat
  bad : Nat

/-- Reads a group (R129: all of it before anything is written). -/
def Strand.vsrc (t : Strand) (eg w reg : Nat) : VSrc := ⟨reg, w, joinRegs t.v reg eg, joinBad t.vpois reg eg⟩

/-- Element `i` of a group (R126, R53). -/
def VSrc.get (x : VSrc) (i : Nat) : Nat := lowBits x.w (x.bits / 2 ^ (x.w * i))

/-- Is element `i` poisoned (R147)? -/
def VSrc.isBad (x : VSrc) (i : Nat) : Bool :=
  x.bad / 2 ^ (x.w / 4 * i) % 2 ^ (x.w / 4) != 0

/-- The use of the elements `i` below vl with `p i` (R147, R316 0x0B01). -/
def VSrc.use (x : VSrc) (vl : Nat) (p : Nat → Bool) : Run Unit :=
  if x.bad = 0 then .ok ()
  else match (List.range vl).find? fun i => p i && x.isBad i with
    | some i => .error (.trap 0x0B01 (x.reg + x.w * i / 512))
    | none => .ok ()

/-- Is element `i` active (R127)? -/
def Strand.activeAt (t : Strand) (k : Keys) (i : Nat) : Bool := decide (i < t.vl) && (t.m.get k.mask).getLsbD i

/-- Elements of width `w` packed, the first lowest. -/
def packElems (w : Nat) (l : List Nat) : Nat := l.foldr (fun x acc => x + 2 ^ w * acc) 0

/-- Poison marks of elements of width `w` as nibble marks: an error covers whole elements (R147). -/
def packBad (w : Nat) : List Bool → Nat
  | [] => 0
  | b :: l => (if b then 2 ^ (w / 4) - 1 else 0) + 2 ^ (w / 4) * packBad w l

/-- Writes `n` registers from `reg`: bits, poison marks, tag. -/
def Strand.putRegs (t : Strand) (tag : Fmt) (reg bits bad : Nat) : Nat → Strand
  | 0 => t
  | n + 1 =>
    { t with v := t.v.setIfInBounds reg (BitVec.ofNat 512 bits)
             vtag := t.vtag.setIfInBounds reg tag
             vpois := t.vpois.setIfInBounds reg (BitVec.ofNat 128 bad) }
      |>.putRegs tag (reg + 1) (bits / 2 ^ 512) (bad / 2 ^ 128) n

/-- What the write gives an element: a new value with its poison mark, the old value, or zero. -/
inductive Fill where
  | new (x : Nat) (bad : Bool)
  | keep
  | zero
  deriving DecidableEq, Repr

/-- Writes a destination group element by element, with the tag on every register (R127). -/
def Strand.fillGroup (t : Strand) (eg w reg : Nat) (tag : Fmt) (f : Nat → Fill) : Strand :=
  let old := t.vsrc eg w reg
  let l := (List.range (eg * 512 / w)).map f
  let vals := l.zipIdx.map fun (x, i) => match x with
    | .new v _ => lowBits w v
    | .keep => old.get i
    | .zero => 0
  let bads := l.zipIdx.map fun (x, i) => match x with
    | .new _ b => b
    | .keep => old.isBad i
    | .zero => false
  let quiet : Bool := old.bad == 0 && !(l.any fun x => match x with
    | .new _ b => b
    | _ => false)
  t.putRegs tag reg (packElems w vals) (if quiet then 0 else packBad w bads) eg

/-- Writes a destination under R127: results to active elements, `mpol` and `tpol` for the others; vl = 0 changes
nothing. -/
def Strand.vwrite (t : Strand) (k : Keys) (eg w reg : Nat) (tag : Fmt) (act : Nat → Bool) (res : Nat → Fill) : Strand :=
  if t.vl = 0 then t
  else t.fillGroup eg w reg tag fun i =>
    if i < t.vl then (if act i then res i else if k.mz then .zero else .keep)
    else if k.tz then .zero else .keep

/-- Writes a mask as a destination of 1-bit elements; m0 discards (R138, R146). -/
def Strand.mwrite (t : Strand) (k : Keys) (md : Fin 8) (act res : Nat → Bool) : Strand :=
  if t.vl = 0 ∨ md.val = 0 then t
  else
    let old := (t.m.get md).toNat
    let bits := (List.range 512).map fun i => bitOf <|
      if i < t.vl then (if act i then res i else if k.mz then false else bitAt old i)
      else if k.tz then false else bitAt old i
    { t with m := t.m.set md.val (BitVec.ofNat 512 (packElems 1 bits)) }

/-- The state with the strand's registers changed. -/
def VIn.out (c : VIn) (t : Strand) : Run State := .ok { c.s with st := t }

/-- The result of a reduction or count written to g or pushed to q4-q7 (R128, R141). -/
def VIn.outReg (c : VIn) (d : SReg) (r : Res) : Run State := do
  let t ← putReg c.t d r.val r.tag
  c.out t

/-! ### Element operations with a second operand that is a vector or a scalar -/

/-- Operand b of an element instruction: a vector source, or a scalar at each element (R128). -/
inductive BSrc where
  | vec (x : VSrc)
  | scalar (x : Nat)

/-- Element `i` of operand b. -/
def BSrc.get (x : BSrc) (i : Nat) : Nat :=
  match x with
  | .vec v => v.get i
  | .scalar n => n

/-- The tag check of operand b (R29). -/
def bTags (c : VIn) (eg w : Nat) (b : Opnd) (f : Option Fmt) : Run Unit :=
  match b, f with
  | _, none => .ok ()
  | .vec n, some f => groupTags c.t eg w n.val f
  | _, some f => tagCheck f c.b

/-- The group check of operand b (R126). -/
def bGroup (c : VIn) (eg w : Nat) (b : Opnd) : Run Unit :=
  match b with
  | .vec n => groupCheck c.t eg w n.val
  | _ => .ok ()

/-- Operand b as read. -/
def bRead (c : VIn) (eg w : Nat) (b : Opnd) : BSrc :=
  match b with
  | .vec n => .vec (c.t.vsrc eg w n.val)
  | _ => .scalar c.b.val.toNat

/-- The use of operand b at the elements with `p i`. -/
def bUse (c : VIn) (x : BSrc) (p : Nat → Bool) : Run Unit :=
  match x with
  | .vec v => v.use c.t.vl p
  | .scalar _ => poisonCheck c.b

/-- An element instruction of width ew(F) on va, b and the old vd (R127-R129, R317): tag checks in field order a, b, d,
the group checks in the same order, poison, then the write with a tag. `fa`, `fb`, `fd` are the formats checked; `useD`
says that vd is read. -/
def elemRun (c : VIn) (f : Fmt) (k : Keys) (d a : Nat) (b : Opnd) (fa fb fd : Option Fmt) (useD : Bool) (tag : Fmt)
    (g : Nat → Nat → Nat → Nat) : Run State := do
  let w := f.bits
  let eg := groupSize c.t k f w
  match fa with
  | some x => groupTags c.t eg w a x
  | none => .ok ()
  bTags c eg w b fb
  match fd with
  | some x => groupTags c.t eg w d x
  | none => .ok ()
  groupCheck c.t eg w a
  bGroup c eg w b
  groupCheck c.t eg w d
  let x := c.t.vsrc eg w a
  let y := bRead c eg w b
  let z := c.t.vsrc eg w d
  let act := c.t.activeAt k
  x.use c.t.vl act
  bUse c y act
  if useD then z.use c.t.vl act else .ok ()
  c.out (c.t.vwrite k eg w d tag act fun i => .new (g (x.get i) (y.get i) (z.get i)) false)

/-- An element instruction on one source (field b, or a of a short word) of width `ws` and format `fs`, to width
ew(F). -/
def unaryRun (c : VIn) (f : Fmt) (k : Keys) (d src : Nat) (ws : Nat) (fs : Fmt) (tag : Fmt) (g : Nat → Nat) :
    Run State := do
  let w := f.bits
  let eg := groupSize c.t k f w
  let es := groupSize c.t k f ws
  groupTags c.t es ws src fs
  groupCheck c.t es ws src
  groupCheck c.t eg w d
  let x := c.t.vsrc es ws src
  let act := c.t.activeAt k
  x.use c.t.vl act
  c.out (c.t.vwrite k eg w d tag act fun i => .new (g (x.get i)) false)

end Sys2Proof.Machine
end

