-- ==== Sys2Proof/Machine/VectorOps.lean ====
section
/-! DEFINITION. What the vector instructions compute on registers (R125, R133-R146): integer and floating-point element
operations, compares, moves and permutes, reductions, conversions, pruning and masks. -/

namespace Sys2Proof.Machine

/-! ### Configuration (R125) -/

/-- Sets Fc, Gc, vl from a requested length and returns the length granted. -/
def setConfig (c : VIn) (d : SReg) (f : Fmt) (g : Nat) (len : Word) : Run State := do
  let vl := min len.toNat (min 512 (g * 512 / f.bits))
  let t ← putReg { c.t with fc := f, gc := g, vl := vl } d (BitVec.ofNat 64 vl) .raw
  c.out t

/-- `vsetvl`: an invalid configuration word faults with itself. -/
def vsetvlRun (c : VIn) (d : SReg) : Run State := do
  hasRoom c.t d
  let x := c.b.val.toNat
  if x / 2 ^ 10 ≠ 0 ∨ bitsOf x 7 4 ≠ 0 ∨ 14 ≤ x % 16 then .error (.trap 0x0213 x)
  else do
    poisonCheck c.a
    poisonCheck c.b
    setConfig c d (Fmt.ofCode (x % 16)) (2 ^ bitsOf x 9 8) c.a.val

/-- The grouping of a `vsetvli` variant. -/
def grpSize : Grp → Nat
  | .g1 => 1 | .g2 => 2 | .g4 => 4 | .g8 => 8

/-- `vsetvli`. -/
def vsetvliRun (c : VIn) (f : Fmt) (grp : Grp) (d : SReg) : Run State := do
  hasRoom c.t d
  poisonCheck c.b
  setConfig c d f (grpSize grp) c.b.val

/-! ### Integer elements (R133-R135) -/

/-- An exact integer operation on val(va[i]), val(b[i]), val(vd[i]), wrapped or clamped (R133). -/
def intElem (c : VIn) (f : Fmt) (k : Keys) (d a : Nat) (b : Opnd) (acc : Bool) (g : Int → Int → Int → Int) : Run State :=
  elemRun c f k d a b (some f) (some f) (if acc then some f else none) acc f fun x y z =>
    f.narrow k.sat (g (f.intVal x) (f.intVal y) (f.intVal z))

/-- A bitwise operation on the fields: width-only, tag raw (R134). -/
def bitElem (c : VIn) (f : Fmt) (k : Keys) (d a : Nat) (b : Opnd) (g : Nat → Nat → Nat) : Run State :=
  elemRun c f k d a b none none none false .raw fun x y _ => g x (lowBits f.bits y)

/-- A shift by a width-only count (R134, R107). -/
def shiftElem (c : VIn) (f : Fmt) (k : Keys) (d a : Nat) (b : Opnd) (g : Nat → Nat → Nat → Nat) : Run State :=
  elemRun c f k d a b (some f) none none false f fun x y _ => g f.bits x y

/-- `vabs` (R133). -/
def vabsRun (c : VIn) (f : Fmt) (k : Keys) (d b : Nat) : Run State :=
  unaryRun c f k d b f.bits f f fun x => f.narrow k.sat (f.intVal x).natAbs

/-- The format of twice the width with the same signedness (R135). -/
def Fmt.wide : Fmt → Fmt
  | .s8 => .s16 | .s16 => .s32 | .s32 => .s64 | .n8 => .n16 | .n16 => .n32 | _ => .raw

/-- The format of half the width with the same signedness (R135). -/
def Fmt.half : Fmt → Fmt
  | .s16 => .s8 | .s32 => .s16 | .s64 => .s32 | .n16 => .n8 | .n32 => .n16 | _ => .n32

/-- `vnarrow` (R135). -/
def vnarrowRun (c : VIn) (f : Fmt) (k : Keys) (d a : Nat) (b : Opnd) : Run State := do
  let w := f.bits
  let fw := Fmt.wide f
  let eg := groupSize c.t k f w
  let es := groupSize c.t k f (2 * w)
  groupTags c.t es (2 * w) a fw
  groupCheck c.t es (2 * w) a
  bGroup c eg w b
  groupCheck c.t eg w d
  let x := c.t.vsrc es (2 * w) a
  let y := bRead c eg w b
  let act := c.t.activeAt k
  x.use c.t.vl act
  bUse c y act
  c.out (c.t.vwrite k eg w d f act fun i =>
    .new (f.narrow k.sat (shiftFloor (fw.intVal (x.get i)) (min (y.get i) (2 * w)))) false)

/-- `vwiden` (R135). -/
def vwidenRun (c : VIn) (f : Fmt) (k : Keys) (d b : Nat) : Run State :=
  unaryRun c f k d b (f.bits / 2) (Fmt.half f) f fun x => wrapBits f.bits ((Fmt.half f).intVal x)

/-! ### Floating point (R136, R137) -/

/-- The rounding of a vector instruction. -/
def VIn.round (c : VIn) (r : Rnd) : RMode := r.mode c.mode

/-- An operation on codes with one rounding (R136). -/
def fpElem (c : VIn) (f : Fmt) (k : Keys) (d a : Nat) (b : Opnd) (g : Nat → Nat → Nat) : Run State :=
  elemRun c f k d a b (some f) (some f) none false f fun x y _ => g x y

/-- `vfma` (R136). -/
def vfmaRun (c : VIn) (f : Fmt) (r : Rnd) (k : Keys) (d a : Nat) (b : Opnd) : Run State :=
  elemRun c f k d a b (some f) (some f) (some f) true f (fmaCode f (c.round r) k.sat)

/-- A special function on FP32 elements (R137). -/
def specRun (c : VIn) (k : Keys) (d b : Nat) (g : Nat → Nat) : Run State := unaryRun c .f32 k d b 32 .f32 .f32 g

/-! ### Compares, selection, moves, permutes (R138-R140) -/

/-- The conditions of `vcmp` (R138). -/
def vcmpHolds (f : Fmt) (v : VCond) (x y : Nat) : Bool :=
  match v with
  | .eq => f.intVal x == f.intVal y
  | .ne => f.intVal x != f.intVal y
  | .lt => decide (f.intVal x < f.intVal y)
  | .ge => decide (f.intVal y ≤ f.intVal x)

/-- A compare: one bit of md an element (R138). -/
def compareRun (c : VIn) (f : Fmt) (k : Keys) (d : Fin 8) (a : Nat) (b : Opnd) (g : Nat → Nat → Bool) : Run State := do
  let w := f.bits
  let eg := groupSize c.t k f w
  groupTags c.t eg w a f
  bTags c eg w b (some f)
  groupCheck c.t eg w a
  bGroup c eg w b
  let x := c.t.vsrc eg w a
  let y := bRead c eg w b
  let act := c.t.activeAt k
  x.use c.t.vl act
  bUse c y act
  c.out (c.t.mwrite k d act fun i => g (x.get i) (y.get i))

/-- `vsel` (R139): its mask selects, and every i below vl is written. -/
def vselRun (c : VIn) (f : Fmt) (k : Keys) (d a : Nat) (b : Opnd) : Run State := do
  let w := f.bits
  let eg := groupSize c.t k f w
  groupTags c.t eg w a f
  bTags c eg w b (some f)
  groupCheck c.t eg w a
  bGroup c eg w b
  groupCheck c.t eg w d
  let x := c.t.vsrc eg w a
  let y := bRead c eg w b
  let p := c.t.activeAt k
  x.use c.t.vl p
  bUse c y fun i => !p i
  c.out (c.t.vwrite k eg w d f (fun _ => true) fun i => .new (if p i then x.get i else y.get i) false)

/-- `vmv` (R139). -/
def vmvRun (c : VIn) (f : Fmt) (k : Keys) (d : Nat) (b : Opnd) : Run State := do
  let w := f.bits
  let eg := groupSize c.t k f w
  bGroup c eg w b
  groupCheck c.t eg w d
  let y := bRead c eg w b
  let act := c.t.activeAt k
  bUse c y act
  c.out (c.t.vwrite k eg w d .raw act fun i => .new (y.get i) false)

/-- `vslide` (R140). -/
def vslideRun (c : VIn) (f : Fmt) (down : Bool) (k : Keys) (d a : Nat) : Run State := do
  let w := f.bits
  let eg := groupSize c.t k f w
  groupCheck c.t eg w a
  groupCheck c.t eg w d
  let x := c.t.vsrc eg w a
  let off := c.b.val.toNat
  let act := c.t.activeAt k
  let vl := c.t.vl
  poisonCheck c.b
  x.use vl fun j => if down then decide (off ≤ j) && act (j - off) else act (j + off)
  c.out (c.t.vwrite k eg w d .raw act fun i =>
    if down then (if i + off < vl then .new (x.get (i + off)) false else .zero)
    else if off ≤ i then .new (x.get (i - off)) false else .keep)

/-- `vperm` (R140). -/
def vpermRun (c : VIn) (f : Fmt) (k : Keys) (d a b : Nat) : Run State := do
  let w := f.bits
  let eg := groupSize c.t k f w
  groupCheck c.t eg w a
  groupCheck c.t eg w b
  groupCheck c.t eg w d
  let x := c.t.vsrc eg w a
  let y := c.t.vsrc eg w b
  let act := c.t.activeAt k
  let vl := c.t.vl
  y.use vl act
  x.use vl fun j => (List.range vl).any fun i => act i && y.get i == j
  c.out (c.t.vwrite k eg w d .raw act fun i => if y.get i < vl then .new (x.get (y.get i)) false else .zero)

/-- `vcompress` (R140). -/
def vcompressRun (c : VIn) (f : Fmt) (k : Keys) (d b : Nat) : Run State := do
  let w := f.bits
  let eg := groupSize c.t k f w
  groupCheck c.t eg w b
  groupCheck c.t eg w d
  let x := c.t.vsrc eg w b
  let act := c.t.activeAt k
  x.use c.t.vl act
  let l := ((List.range c.t.vl).filter act).map x.get
  c.out (if c.t.vl = 0 then c.t else c.t.fillGroup eg w d .raw fun i =>
    match l[i]? with
    | some y => .new y false
    | none => if k.tz then .zero else .keep)

/-! ### Reductions (R141, R142, R70) -/

/-- The active elements of a source. -/
def actives (c : VIn) (k : Keys) (x : VSrc) : List Nat := ((List.range c.t.vl).filter (c.t.activeAt k)).map x.get

/-- A reduction: `g` on the start value and the active elements gives the code of width n (R141). -/
def reduceRun (c : VIn) (f : Fmt) (k : Keys) (d : SReg) (a : Nat) (g : Nat → List Nat → Nat) : Run State := do
  let w := f.bits
  let eg := groupSize c.t k f w
  hasRoom c.t d
  groupTags c.t eg w a f
  tagCheck f c.b
  groupCheck c.t eg w a
  let x := c.t.vsrc eg w a
  x.use c.t.vl (c.t.activeAt k)
  poisonCheck c.b
  let r := g (lowBits w c.b.val.toNat) (actives c k x)
  c.outReg d (Res.of (if f.isInt then f.extend r else r) f)

/-- The sum of `vredsum` (R141). -/
def redSum (f : Fmt) (mode : RMode) (start : Nat) (l : List Nat) : Nat :=
  if f.isFloat then (sumExact ((start :: l).map (fdecode f))).toCode f mode false
  else wrapBits f.bits ((start :: l).map f.intVal).sum

/-- The greatest member of the set (R70). -/
def redMax (f : Fmt) (start : Nat) (l : List Nat) : Nat :=
  if f.isFloat then l.foldl (fmaxCode f) (fmaxCode f start start)
  else wrapBits f.bits (l.foldl (fun m x => max m (f.intVal x)) (f.intVal start))

/-- The least member of the set (R70). -/
def redMin (f : Fmt) (start : Nat) (l : List Nat) : Nat :=
  if f.isFloat then l.foldl (fminCode f) (fminCode f start start)
  else wrapBits f.bits (l.foldl (fun m x => min m (f.intVal x)) (f.intVal start))

/-- The format of the result of `vdotx`, which its start value is checked against (R142). -/
def dotFmt (f : Fmt) : Fmt := if f.isFloat then .f32 else if f.isS then .s64 else .raw

/-- Does `vdotx` read its destination (R142)? -/
def hasStart : SReg → Bool
  | .g n => n.val != 0
  | _ => false

/-- `vdotx` (R142): the start value is operand d. -/
def vdotxRun (c : VIn) (f : Fmt) (r : Rnd) (k : Keys) (d : SReg) (a b : Nat) : Run State := do
  let w := f.bits
  let eg := groupSize c.t k f w
  hasRoom c.t d
  groupTags c.t eg w a f
  groupTags c.t eg w b f
  if hasStart d then tagCheck (dotFmt f) c.d else .ok ()
  groupCheck c.t eg w a
  groupCheck c.t eg w b
  let x := c.t.vsrc eg w a
  let y := c.t.vsrc eg w b
  let act := c.t.activeAt k
  x.use c.t.vl act
  y.use c.t.vl act
  if hasStart d then poisonCheck c.d else .ok ()
  let idx := (List.range c.t.vl).filter act
  let start := c.d.val.toNat
  let v :=
    if f.isFloat then
      (sumExact ((if hasStart d then [fdecode .f32 (lowBits 32 start)] else [])
        ++ idx.map fun i => (fdecode f (x.get i)).mul (fdecode f (y.get i)))).toCode .f32 (c.round r) false
    else
      wrapBits 64 ((if hasStart d then (start : Int) else 0)
        + (idx.map fun i => f.intVal (x.get i) * f.intVal (y.get i)).sum)
  c.outReg d (Res.of v (dotFmt f))

/-! ### Conversions (R143, R144) -/

/-- `vcvt` (R143): the source format is the tag of vs, or Fc for raw. -/
def vcvtRun (c : VIn) (f : Fmt) (r : Rnd) (k : Keys) (d src : Nat) : Run State :=
  let tag := c.t.vtag[src]?.getD .raw
  let p := if tag = .raw then c.t.fc else tag
  unaryRun c f k d src p.bits p f (convert p f (c.round r) k.sat)

/-- The value L(c) × s of a Q4 code (R54, R144). -/
def q4Value (code : Nat) (s : FVal) : FVal :=
  (FVal.fin (decide (q4Level code < 0)) (q4Level code).natAbs (-8)).mul s

/-- `vdeq` (R144): vs must carry tag raw. -/
def vdeqRun (c : VIn) (f : Fmt) (r : Rnd) (k : Keys) (d a : Nat) : Run State := do
  let es := groupSize c.t k f 4
  match (liveRegs c.t es 4 a).find? fun i => c.t.vtag[i]?.getD .raw != .raw with
  | some i => .error (.trap 0x0201 i)
  | none => .ok ()
  tagCheck .f32 c.b
  let w := f.bits
  let eg := groupSize c.t k f w
  groupCheck c.t es 4 a
  groupCheck c.t eg w d
  let x := c.t.vsrc es 4 a
  let act := c.t.activeAt k
  x.use c.t.vl act
  poisonCheck c.b
  let s := fdecode .f32 (lowBits 32 c.b.val.toNat)
  c.out (c.t.vwrite k eg w d f act fun i => .new ((q4Value (x.get i) s).toCode f (c.round r) false) false)

/-! ### Pruning (R145) -/

/-- Is the magnitude of `x` greater than that of `y`? Floats: -0 equal to +0, NaN above infinity. -/
def magGreater (f : Fmt) (x y : Nat) : Bool :=
  if f.isFloat then
    let a := fdecode f x
    let b := fdecode f y
    if a.isNan then !b.isNan else if b.isNan then false else decide (0 < a.abs.cmp b.abs)
  else decide ((f.intVal y).natAbs < (f.intVal x).natAbs)

/-- The places, in a group of eight, of the four elements of greatest magnitude, ascending: an element stays when fewer
than four others beat it, by magnitude or by a lower index among equals. -/
def pruneKeep (f : Fmt) (g : List Nat) : List Nat :=
  (List.range 8).filter fun i =>
    ((List.range 8).filter fun j =>
      magGreater f (g.getD j 0) (g.getD i 0) || (decide (j < i) && !magGreater f (g.getD i 0) (g.getD j 0))).length < 4

/-- `vprune4` (R145). Of two destinations that overlap, `fault.addr` names the metadata destination b (log entry 102). -/
def vprune4Run (c : VIn) (f : Fmt) (k : Keys) (d a b : Nat) : Run State := do
  let w := f.bits
  let eg := groupSize c.t k f w
  let vl := c.t.vl
  let n := (vl + 7) / 8
  let em := metaSize vl
  groupTags c.t eg w a f
  groupCheck c.t eg w a
  if b % em ≠ 0 then .error (.trap 0x0211 b) else .ok ()
  groupCheck c.t eg w d
  if d < b + em ∧ b < d + eg then .error (.trap 0x0211 b) else .ok ()
  let x := c.t.vsrc eg w a
  x.use vl fun _ => true
  let groups := (List.range n).map fun g => (List.range 8).map fun j => if 8 * g + j < vl then x.get (8 * g + j) else 0
  let kept := (groups.map fun g => (pruneKeep f g).map fun j => g.getD j 0).flatten
  let meta' := groups.map fun g =>
    let j := pruneKeep f g
    j.getD 0 0 + j.getD 1 0 * 8 + j.getD 2 0 * 64 + j.getD 3 0 * 512
  let fill (l : List Nat) (i : Nat) : Fill :=
    match l[i]? with
    | some y => .new y false
    | none => if k.tz then .zero else .keep
  c.out (if vl = 0 then c.t else (c.t.fillGroup eg w d f (fill kept)).fillGroup em 16 b .n16 (fill meta'))

/-! ### Masks (R146) -/

/-- A bitwise mask operation on bits below vl; the rest follow `tpol`. -/
def maskRun (c : VIn) (k : Keys) (d : Fin 8) (g : Nat → Bool) : Run State := c.out (c.t.mwrite k d (fun _ => true) g)

/-- Bit `i` of a mask. -/
def VIn.bit (c : VIn) (m : Fin 8) (i : Nat) : Bool := (c.t.m.get m).getLsbD i

/-- `mset`: bit i is i < n, whatever vl is. -/
def msetRun (c : VIn) (d : Fin 8) : Run State := do
  poisonCheck c.b
  c.out (if d.val = 0 then c.t else
    { c.t with m := c.t.m.set d.val (BitVec.ofNat 512 (2 ^ min 512 c.b.val.toNat - 1)) })

/-- `mpop`. -/
def mpopRun (c : VIn) (d : SReg) (m : Fin 8) : Run State := do
  hasRoom c.t d
  c.outReg d (Res.of (countBits (maskBelow (c.t.m.get m) c.t.vl) 512) .raw)

/-- `mfirst`: all ones when no bit is set. -/
def mfirstRun (c : VIn) (d : SReg) (m : Fin 8) : Run State := do
  hasRoom c.t d
  c.outReg d (match (List.range c.t.vl).find? (c.bit m) with
    | some i => Res.of i .raw
    | none => Res.of (2 ^ 64 - 1) .raw)

end Sys2Proof.Machine
end

