-- ==== Sys2Proof/Machine/VectorMem.lean ====
section
/-! DEFINITION. Vector memory (R147, R148): the addresses of the elements, the checks of every active element before any
is performed, and the accesses in ascending element order. -/

namespace Sys2Proof.Machine

/-- Where element `i` lies relative to the base (R147): by element size, by a stride, by an index vector. -/
inductive ElemStep where
  | unit (e : Int)
  | stride (x : Word)
  | index (x : VSrc)

/-- Bytes of an element in memory: 1 for h4. -/
def elemBytes (f : Fmt) : Nat := max 1 (f.bits / 8)

/-- The offset of element `i`. -/
def ElemStep.at (p : ElemStep) (f : Fmt) (i : Nat) : Word :=
  match p with
  | .unit e => BitVec.ofInt 64 (e + (i * f.bits / 8 : Nat))
  | .stride x => BitVec.ofNat 64 i * x
  | .index x => BitVec.ofNat 64 (x.get i)

/-- The 72-bit address of element `i` (R12, R147). -/
def VIn.elemVa (c : VIn) (p : ElemStep) (f : Fmt) (i : Nat) : Nat :=
  c.uab.toNat * 2 ^ 64 + (c.a.val + p.at f i).toNat

/-- The active elements with their addresses, ascending. -/
def VIn.elemVas (c : VIn) (k : Keys) (p : ElemStep) (f : Fmt) : List (Nat × Nat) :=
  ((List.range c.t.vl).filter (c.t.activeAt k)).map fun i => (i, c.elemVa p f i)

/-- Alignment, translation, permission of every element in order (R317): the lowest at fault decides. -/
def VIn.locs (c : VIn) (store : Bool) (n : Nat) : List (Nat × Nat) → Run (List (Nat × Loc))
  | [] => .ok []
  | (i, va) :: r => do
    aligned va n
    let l ← c.s.locate c.t va (bitOf store) (!store) store false
    let rest ← c.locs store n r
    .ok ((i, l) :: rest)

/-- A translation made at once, which posts no miss (R148). -/
def locateNow (s : State) (t : Strand) (va : Nat) : Run (Loc × State) :=
  match s.tlbFind t.cell t.asid va with
  | some e => do
    let l ← s.permit t.part e va true false false
    .ok (l, s)
  | none =>
    match s.walk t.asid va with
    | (_, none) => .error (.miss va 0)
    | (s, some e) => do
      let l ← s.permit t.part e va true false false
      .ok (l, s)

/-- The elements of `vldff` (R148): those below the lowest active element at fault, and its index, unless that element
is element 0, whose fault is taken. -/
def locsFirst (s : State) (t : Strand) (n : Nat) : List (Nat × Nat) → Run (List (Nat × Loc) × Option Nat × State)
  | [] => .ok ([], none, s)
  | (i, va) :: r =>
    let at1 : Run (Loc × State) :=
      if i = 0 then do
        aligned va n
        let l ← s.locate t va 0 true false false
        .ok (l, s)
      else if va % n ≠ 0 then .error (.trap 0x0301 (va % 2 ^ 64))
      else locateNow s t va
    match at1 with
    | .error e => if i = 0 then .error e else .ok ([], some i, s)
    | .ok (l, s) => do
      let (rest, j, s) ← locsFirst s t n r
      .ok ((i, l) :: rest, j, s)

/-! ### The accesses of an instruction -/

/-- A vector access that has passed every check (R147, R317): element number and place, ascending; for `vldff` the first
element that it leaves out; the state with what the translations brought in. -/
structure VPlan where
  els : List (Nat × Loc)
  cut : Option Nat
  s : State

/-- The checks on operands of a vector access (R317), and its step: the index group is read as n32. -/
def vmemChecks (c : VIn) (f : Fmt) (k : Keys) (d : Nat) (store : Bool) (e : Int) (b : Option Opnd) : Run ElemStep := do
  let w := f.bits
  let eg := groupSize c.t k f w
  let ei := groupSize c.t k f 32
  match b with
  | some (.vec n) => groupTags c.t ei 32 n.val .n32
  | _ => .ok ()
  if store then groupTags c.t eg w d f else .ok ()
  match b with
  | some (.vec n) => groupCheck c.t ei 32 n.val
  | _ => .ok ()
  groupCheck c.t eg w d
  .ok (match b with
    | some (.vec n) => .index (c.t.vsrc ei 32 n.val)
    | some _ => .stride c.b.val
    | none => .unit e)

/-- The poison checks of the address operands. -/
def vmemPoison (c : VIn) (k : Keys) (p : ElemStep) : Run Unit := do
  poisonCheck c.a
  match p with
  | .unit _ => .ok ()
  | .stride _ => poisonCheck c.b
  | .index x => x.use c.t.vl (c.t.activeAt k)

/-- The accesses of `vld`, `vlds`, `vldx` (R147). -/
def vloadPlan (c : VIn) (f : Fmt) (k : Keys) (d : Nat) (e : Int) (b : Option Opnd) : Run VPlan := do
  let p ← vmemChecks c f k d false e b
  let ls ← c.locs false (elemBytes f) (c.elemVas k p f)
  vmemPoison c k p
  .ok ⟨ls, none, c.s⟩

/-- The accesses of `vldff` (R148). -/
def vldffPlan (c : VIn) (f : Fmt) (k : Keys) (d : Nat) (e : Int) : Run VPlan := do
  let p ← vmemChecks c f k d false e none
  let (ls, j, s) ← locsFirst c.s c.t (elemBytes f) (c.elemVas k p f)
  vmemPoison c k p
  .ok ⟨ls, j, s⟩

/-- The accesses of `vst`, `vsts`, `vstx` (R147): no earlier access of the strand may still fault, and a full roll-up unit
holds the store back (R311). -/
def vstorePlan (c : VIn) (f : Fmt) (k : Keys) (d : Nat) (e : Int) (b : Option Opnd) : Run VPlan := do
  let p ← vmemChecks c f k d true e b
  let ls ← c.locs true (elemBytes f) (c.elemVas k p f)
  vmemPoison c k p
  (c.t.vsrc (groupSize c.t k f f.bits) f.bits d).use c.t.vl (c.t.activeAt k)
  if c.s.riskBefore c.t.uid c.num then .error (.wait .issue) else .ok ()
  if c.s.rollFull c.t.part ((ls.filter fun l => l.2.watched).map fun l => (l.2.pa, elemBytes f)) then .error (.wait .issue) else .ok ()
  .ok ⟨ls, none, c.s⟩

/-- The accesses of a vector instruction. -/
def vmemPlan (c : VIn) : Instr → Run VPlan
  | .vld f k d _ e => vloadPlan c f k d e none
  | .vlds f k d _ b => vloadPlan c f k d 0 (some b)
  | .vldx f k d _ b => vloadPlan c f k d 0 (some (.vec b))
  | .vldff f k d _ e => vldffPlan c f k d e
  | .vst f k d _ e => vstorePlan c f k d e none
  | .vsts f k d _ b => vstorePlan c f k d 0 (some b)
  | .vstx f k d _ b => vstorePlan c f k d 0 (some (.vec b))
  | _ => .ok ⟨[], none, c.s⟩

/-- The format, mask and register group of a vector access. -/
def vmemOf : Instr → Fmt × Keys × Nat
  | .vld f k d _ _ | .vldff f k d _ _ | .vst f k d _ _ => (f, k, d.val)
  | .vlds f k d _ _ | .vsts f k d _ _ => (f, k, d.val)
  | .vldx f k d _ _ | .vstx f k d _ _ => (f, k, d.val)
  | _ => (.raw, Keys.dflt, 0)

/-! ### Elements at their homes -/

/-- Element `i` read at its home: value and poison. An h4 element takes nibble i mod 2 of its byte, also at a strided or
indexed address, for which R147 names none (log entry 103). -/
def elemRead (s : State) (c : ErrCtx) (f : Fmt) (i pa : Nat) : Nat × Bool × State :=
  let (x, bad, s) := s.readAt c pa (elemBytes f)
  (if f = .h4 then x / 16 ^ (i % 2) % 16 else x, bad, s)

/-- What element `i` with value `x` leaves in its bytes: an h4 element keeps the other nibble (log entry 103). -/
def elemBits (s : State) (f : Fmt) (i pa x : Nat) : Nat :=
  if f = .h4 then
    let old := memRead s.mem pa 1
    if i % 2 = 0 then old / 16 * 16 + x % 16 else old % 16 + 16 * (x % 16)
  else lowBits f.bits x

/-- The elements read, ascending: values and poison by element number. -/
def readElems (s : State) (ctx : ErrCtx) (f : Fmt) : List (Nat × Loc) → List (Nat × Nat × Bool) × State
  | [] => ([], s)
  | (i, l) :: r =>
    let (x, bad, s) := elemRead s ctx f i l.pa
    let (rest, s) := readElems s ctx f r
    ((i, x, bad) :: rest, s)

/-- The elements written at their homes, ascending, each under one writing instruction (R147, R245); the sweep load
faults before any effect (R312). -/
def writeElems (s : State) (w : Writer) (f : Fmt) (va : Nat → Nat) (x : VSrc) : List (Nat × Loc) → Run State
  | [] => .ok s
  | (i, l) :: r =>
    let y := elemBits s f i l.pa (x.get i)
    match s.overAt l.pa (elemBytes f) y (va i) with
    | some a => .error (.trap 0x0605 (a % 2 ^ 64))
    | none => writeElems (s.write w l.watched l.pa (elemBytes f) y) w f va x r

/-- The place of a vector access after the strand's earlier accesses to the same homes (R131, R259), and after the messages
of its pairs (R270). Elements homed on another device are not performed here (log entry 9). -/
def VIn.turn (c : VIn) (ls : List (Nat × Loc)) : Run Unit :=
  if (ls.any fun l => c.s.remote l.2.pa) || (c.s.accs.any fun x => x.uid == c.t.uid && !x.done && decide (x.after ≤ c.num)
      && ls.any fun l => c.s.touches x (homeOf l.2.pa))
    || ls.any fun l => c.s.pairBusy c.t.cell l.2.pa
  then .error (.wait .issue) else .ok ()

/-! ### What an instruction leaves -/

/-- A loaded element in the destination. -/
def loaded (l : List (Nat × Nat × Bool)) (i : Nat) : Fill :=
  match l.find? fun e => e.1 == i with
  | some (_, x, bad) => .new x bad
  | none => .keep

/-- A load has its elements (R147); the elements from the one at fault on become tail (R148). -/
def loadDone (t : Strand) (i : Instr) (cut : Option Nat) (xs : List (Nat × Nat × Bool)) : Strand :=
  let (f, k, d) := vmemOf i
  let eg := groupSize t k f f.bits
  let t := match cut with
    | some n => { t with vl := n }
    | none => t
  t.vwrite k eg f.bits d f (t.activeAt k) (loaded xs)

/-- The 72-bit address of element `i` of an instruction. -/
def VIn.vaOf (c : VIn) (i : Instr) (n : Nat) : Nat :=
  match i with
  | .vld f _ _ _ e | .vldff f _ _ _ e | .vst f _ _ _ e => c.elemVa (.unit e) f n
  | .vlds f _ _ _ _ | .vsts f _ _ _ _ => c.elemVa (.stride c.b.val) f n
  | .vldx f k _ _ b | .vstx f k _ _ b => c.elemVa (.index (c.t.vsrc (groupSize c.t k f 32) 32 b.val)) f n
  | _ => 0

/-- A vector access performed in one step: its elements ascending. -/
def vmemRun (c : VIn) (i : Instr) : Run State := do
  let p ← vmemPlan c i
  c.turn p.els
  let (f, k, d) := vmemOf i
  if isLoad i then
    let (xs, s) := readElems p.s c.t.ctx f p.els
    .ok { s with st := loadDone c.t i p.cut xs }
  else
    let s ← writeElems p.s c.t.writer f (c.vaOf i) (c.t.vsrc (groupSize c.t k f f.bits) f.bits d) p.els
    .ok { s with st := { c.t with wcount := c.t.wcount + 1 } }

/-- The accesses of a vector instruction sent to their homes, where they are performed in either order at different homes
(R261): one for each element. A store has then done what it does to its strand; a load waits for its elements. -/
def vmemSend (c : VIn) (e : VEntry) : Run (State × Option Nat) := do
  let p ← vmemPlan c e.ins
  let (f, k, d) := vmemOf e.ins
  let x := c.t.vsrc (groupSize c.t k f f.bits) f.bits d
  let accs := p.els.zipIdx.map fun (l, n) =>
    ({ id := p.s.nextId + n, uid := c.t.uid, cell := c.t.cell, pc := e.pc, ckpt := e.ckpt, ins := e.ins, va := c.vaOf e.ins l.1
       pa := l.2.pa, b := BitVec.ofNat 64 l.1, d := BitVec.ofNat 64 (x.get l.1), watched := l.2.watched
       wno := c.t.wcount, wop := 0, after := e.num + 1, done := false, doneAt := 0, res := 0, rstat := none
       poison := false, fault := none, walk := none } : Access)
  let before := if e.body then p.s.accs else p.s.accs.takeWhile fun y => y.uid != c.t.uid || decide (y.after ≤ e.num)
  .ok ({ p.s with
    accs := before ++ accs ++ p.s.accs.drop before.length
    nextId := p.s.nextId + accs.length
    st := if isLoad e.ins then c.t else { c.t with wcount := c.t.wcount + 1 } }, p.cut)

end Sys2Proof.Machine
end

