-- ==== Sys2Proof/Machine/Sequencer.lean ====
section
/-! DEFINITION. The vector sequencer (R128, R130, R131, R149-R151): what an entry holds, its execution, the entry of a
vector instruction at issue, `vrep`, boundaries before unfinished entries, and SEQUENCER_EXECUTE. -/

namespace Sys2Proof.Machine

/-! ### Scalar operands of a vector instruction (R128) -/

/-- The operand that a base register is. -/
def Base.opnd : Base → Option Opnd
  | .reg r => some (.reg r)
  | .pc => none

/-- A scalar operand, if the operand is one. -/
def scalarOpnd : Opnd → Option Opnd
  | .vec _ => none
  | o => some o

/-- The scalar operand a: a base, a length. -/
def vectorA : Instr → Option Opnd
  | .vsetvl _ a _ => some a
  | .vld _ _ _ m _ | .vldff _ _ _ m _ | .vst _ _ _ m _ => Base.opnd m
  | .vlds _ _ _ m _ | .vsts _ _ _ m _ => Base.opnd m
  | .vldx _ _ _ m _ | .vstx _ _ _ m _ => Base.opnd m
  | _ => none

/-- Is operand a the address of the instruction (R80)? -/
def vectorPc : Instr → Bool
  | .vld _ _ _ .pc _ | .vldff _ _ _ .pc _ | .vst _ _ _ .pc _ | .vlds _ _ _ .pc _ | .vsts _ _ _ .pc _
  | .vldx _ _ _ .pc _ | .vstx _ _ _ .pc _ => true
  | _ => false

/-- The scalar operand b. -/
def vectorB : Instr → Option Opnd
  | .vsetvl _ _ b | .vsetvli _ _ _ b => some b
  | .vadd _ _ _ _ b | .vsub _ _ _ _ b | .vmul _ _ _ _ b | .vmulh _ _ _ _ b | .vmacc _ _ _ _ b | .vand _ _ _ _ b
  | .vor _ _ _ _ b | .vxor _ _ _ _ b | .vshl _ _ _ _ b | .vshr _ _ _ _ b | .vsra _ _ _ _ b | .vmin _ _ _ _ b
  | .vmax _ _ _ _ b | .vminn _ _ _ _ b | .vmaxn _ _ _ _ b | .vnarrow _ _ _ _ b => scalarOpnd b
  | .vfadd _ _ _ _ _ b | .vfsub _ _ _ _ _ b | .vfmul _ _ _ _ _ b | .vfma _ _ _ _ _ b | .vfdiv _ _ _ _ _ b => scalarOpnd b
  | .vfmin _ _ _ _ b | .vfmax _ _ _ _ b => scalarOpnd b
  | .vcmp _ _ _ _ _ b | .vfcmp _ _ _ _ _ b => scalarOpnd b
  | .vsel _ _ _ _ b => scalarOpnd b
  | .vmv _ _ _ b => scalarOpnd b
  | .vslide _ _ _ _ _ b => scalarOpnd b
  | .vredsum _ _ _ _ _ b => scalarOpnd b
  | .vredmax _ _ _ _ b | .vredmin _ _ _ _ b => scalarOpnd b
  | .vdeq _ _ _ _ _ b => scalarOpnd b
  | .mset _ b => scalarOpnd b
  | .vlds _ _ _ _ b | .vsts _ _ _ _ b => scalarOpnd b
  | _ => none

/-- The scalar operand d: the start value of `vdotx` (R142). -/
def vectorD : Instr → Option Opnd
  | .vdotx _ _ _ d _ _ => if hasStart d then some (.reg d) else none
  | _ => none

/-- The queue-misuse of a vector source: only q0-q3 may be read (R23, R128). -/
def vectorMisuse : Option Opnd → Option Nat
  | some (.reg (.q n)) => if n.val < 4 then none else some (48 + n.val)
  | _ => none

/-- The queue-misuse of a vector destination: only q4-q7 may be written (R23, R132). -/
def vectorDstMisuse : Option SReg → Option Nat
  | some (.q n) => if 4 ≤ n.val ∧ n.val < 8 then none else some (48 + n.val)
  | _ => none

/-- The value that an entry captures at issue: none for a queue operand, which it pops when it executes (R128). -/
def capture (s : State) (t : Strand) : Option Opnd → Option QVal
  | none => none
  | some (.reg (.q _)) => none
  | some o => match takeOp s t o with
    | .ok (x, _) => some ⟨x.val, x.tag, x.bad⟩
    | .error _ => none

/-- The register number that a fault names for an operand. -/
def opndNum : Opnd → Nat
  | .reg r => r.num
  | _ => 0

/-- An operand at execution: what was captured, or the head of its queue. -/
def takeV (s : State) (t : Strand) (o : Option Opnd) (cap : Option QVal) : Run (Src × Strand) :=
  match o, cap with
  | none, none => .ok (Src.zero, t)
  | none, some x => .ok (⟨x.val, x.tag, 0, x.bad⟩, t)
  | some (.reg (.q n)), _ => takeReg s t (.q n)
  | some o, some x => .ok (⟨x.val, x.tag, opndNum o, x.bad⟩, t)
  | some _, none => .ok (Src.zero, t)

/-! ### Execution -/

/-- What a vector instruction does when it executes. -/
def vectorEffect (i : Instr) (c : VIn) : Run State :=
  match i with
  | .vsetvl d _ _ => vsetvlRun c d
  | .vsetvli f grp d _ => vsetvliRun c f grp d
  | .vadd f k d a b => intElem c f k d a b false fun x y _ => x + y
  | .vsub f k d a b => intElem c f k d a b false fun x y _ => x - y
  | .vmul f k d a b => intElem c f k d a b false fun x y _ => x * y
  | .vmulh f k d a b => intElem c f k d a b false fun x y _ => shiftFloor (x * y) f.bits
  | .vmacc f k d a b => intElem c f k d a b true fun x y z => z + x * y
  | .vand f k d a b => bitElem c f k d a b Nat.land
  | .vor f k d a b => bitElem c f k d a b Nat.lor
  | .vxor f k d a b => bitElem c f k d a b Nat.xor
  | .vshl f k d a b => shiftElem c f k d a b shlField
  | .vshr f k d a b => shiftElem c f k d a b shrField
  | .vsra f k d a b => shiftElem c f k d a b sraField
  | .vmin f k d a b => intElem c f k d a b false fun x y _ => min x y
  | .vmax f k d a b => intElem c f k d a b false fun x y _ => max x y
  | .vminn f k d a b => intElem c f k d a b false fun x y _ => min x y
  | .vmaxn f k d a b => intElem c f k d a b false fun x y _ => max x y
  | .vabs f k d b => vabsRun c f k d b
  | .vnarrow f k d a b => vnarrowRun c f k d a b
  | .vwiden f k d b => vwidenRun c f k d b
  | .vfadd f r k d a b => fpElem c f k d a b (faddCode f (c.round r) k.sat)
  | .vfsub f r k d a b => fpElem c f k d a b (fsubCode f (c.round r) k.sat)
  | .vfmul f r k d a b => fpElem c f k d a b (fmulCode f (c.round r) k.sat)
  | .vfma f r k d a b => vfmaRun c f r k d a b
  | .vfdiv f r k d a b => fpElem c f k d a b fun x y => fdivCode f (c.round r) k.sat (fdecode f x) (fdecode f y)
  | .vfmin f k d a b => fpElem c f k d a b (fminCode f)
  | .vfmax f k d a b => fpElem c f k d a b (fmaxCode f)
  | .vcmp f v k d a b => compareRun c f k d a b (vcmpHolds f v)
  | .vfcmp f v k d a b => compareRun c f k d a b (fcmpHolds f v)
  | .vsel f k d a b => vselRun c f k d a b
  | .vmv f k d b => vmvRun c f k d b
  | .vslide f down k d a _ => vslideRun c f down k d a
  | .vperm f k d a b => vpermRun c f k d a b
  | .vcompress f k d b => vcompressRun c f k d b
  | .vredsum f r k d a _ => reduceRun c f k d a (redSum f (c.round r))
  | .vredmax f k d a _ => reduceRun c f k d a (redMax f)
  | .vredmin f k d a _ => reduceRun c f k d a (redMin f)
  | .vdotx f r k d a b => vdotxRun c f r k d a b
  | .vdeq f r k d a _ => vdeqRun c f r k d a
  | .vprune4 f k d a b => vprune4Run c f k d a b
  | .mand k d a b => maskRun c k d fun i => c.bit a i && c.bit b i
  | .mor k d a b => maskRun c k d fun i => c.bit a i || c.bit b i
  | .mxor k d a b => maskRun c k d fun i => c.bit a i != c.bit b i
  | .mset d _ => msetRun c d
  | .vexp2 k d b => specRun c k d b exp2Code
  | .vlog2 k d b => specRun c k d b log2Code
  | .vrcp k d b => specRun c k d b rcpCode
  | .vrsq k d b => specRun c k d b rsqCode
  | .vsigm k d b => specRun c k d b sigmCode
  | .vtanh k d b => specRun c k d b tanhCode
  | .vcvt f r k d b => vcvtRun c f r k d b
  | .mnot k d b => maskRun c k d fun i => !c.bit b i
  | .mpop d m => mpopRun c d m
  | .mfirst d m => mfirstRun c d m
  | .vld .. | .vlds .. | .vldx .. | .vldff .. | .vst .. | .vsts .. | .vstx .. => vmemRun c i
  | _ => .ok c.s

/-- The entry of an instruction issued now by the strand in focus. -/
def newEntry (s : State) (i : Instr) (pc npc : BitVec 40) (body : Bool) : VEntry :=
  { num := s.st.vnum, pc := pc, npc := npc, ins := i,
    a := if vectorPc i then some ⟨pc.zeroExtend 64, .raw, false⟩
      else match vectorD i with
        | some o => capture s s.st (some o)
        | none => capture s s.st (vectorA i),
    b := capture s s.st (vectorB i), rmode := s.st.rmode, uab := s.st.uab, body := body, ckpt := s.st.checkpoint,
    walk := none, started := false, cut := none, got := [] }

/-- The misuse faults of a vector instruction. -/
def vectorChecks (i : Instr) : Run Unit := do
  noMisuse (vectorMisuse (vectorA i))
  noMisuse (vectorMisuse (vectorB i))
  noMisuse (vectorDstMisuse (vectorDst i))

/-- What an entry executes with: the operand checks made and its queue operands popped (R128, R317). -/
def entryIn (s : State) (e : VEntry) : Run VIn := do
  vectorChecks e.ins
  let d := vectorD e.ins
  let (x, t) ← takeV s s.st (vectorA e.ins) (if d.isSome then none else e.a)
  let (y, t) ← takeV s t (vectorB e.ins) e.b
  let (z, t) ← takeV s t d (if d.isSome then e.a else none)
  .ok ⟨s, t, x, y, z, e.rmode, e.uab, e.num⟩

/-- An entry executed on the strand in focus: its pops, then its effect. -/
def runEntry (s : State) (e : VEntry) : Run State := do
  let c ← entryIn s e
  vectorEffect e.ins c

/-! ### Issue -/

/-- Enters an instruction in the sequencer if an entry is free, else the strand waits (R130). -/
def enterEntry (s : State) (e : VEntry) : Run State :=
  if s.seqCount s.st.cell < 16 then
    .ok ({ s with st := { s.st with vq := s.st.vq ++ [e], vnum := s.st.vnum + 1 } }.finish)
  else .error (.wait .issue)

/-- May a cell's sequencer execute an instruction in this clk (R130)? -/
def State.seqFree (s : State) (cell : Nat) : Bool :=
  match (s.cell cell).seqAt with
  | none => true
  | some t => decide (clksTo (s.cluster (clusterOf cell)).clock t < clksTo (s.cluster (clusterOf cell)).clock s.units)

/-- Records that a cell's sequencer has executed an instruction in this clk (R130). -/
def State.markSequencer (s : State) (cell : Nat) : State := s.modCell cell fun c => { c with seqAt := some s.units }

/-- Can a vector instruction take an entry and execute in the clk of its issue: nothing before it in the strand and every
access settled, an entry and the sequencer free, and no delay by the model (log entry 6)? -/
def State.atOnce (s : State) : Bool :=
  s.st.vq == [] && !s.async && decide (s.seqCount s.st.cell < 16) && s.seqFree s.st.cell
    && !(s.accs.any fun x => x.uid == s.st.uid && s.unsettled x)

/-- A vector instruction at issue: it executes at once where it can and does not wait for a queue; otherwise it enters the
sequencer and the scalar stream goes on. It waits for the tile commands before it that use its registers (R153). -/
def issueVector (i : Instr) (s : State) : Run State := do
  noHazard i s
  vectorChecks i
  tilesClear s.st i
  let e := newEntry s i s.st.pc s.st.npc false
  if s.atOnce then
    match runEntry s e with
    | .ok s' => .ok (s'.finish.markSequencer s.st.cell)
    | .error (.wait _) => enterEntry s e
    | .error x => .error x
  else enterEntry s e

/-- What the meaning of a vector instruction answers. -/
def vector (i : Instr) (s : State) : Out := .next (s.settle (issueVector i s))

/-! ### vrep (R149-R151) -/

/-- May an instruction stand in a body (R150)? -/
def bodyAllowed : Instr → Bool
  | .vrep .. | .vsetvl .. | .vsetvli .. => false
  | i => isVector i

/-- Decodes the `k` instructions of a body from an address, in order; the first that fails decides the fault (R150).
The entries, the address after the body, and the state with what the fetches brought in. -/
def fetchBody (s : State) (pc : Nat) (num : Nat) : Nat → Run (List VEntry × Nat × State)
  | 0 => .ok ([], pc, s)
  | k + 1 => do
    let (d, s) ← s.fetchAt s.st pc
    match d with
    | .bad f w => .error (.trap f.cause ((pc + 2 * w) % 2 ^ 40))
    | .short => .error (.trap 0x0101 pc)
    | .ok i len =>
      let next := (pc + 2 * len) % 2 ^ 40
      if bodyAllowed i then do
        let e := newEntry s i (BitVec.ofNat 40 pc) (BitVec.ofNat 40 next) true
        let (rest, fin, s) ← fetchBody s next (num + 1) k
        .ok ({ e with num := num } :: rest, fin, s)
      else .error (.trap 0x0212 pc)

/-- The body's entries taken together, when `k` are free at once (R149), with the loop state. The scalar stream goes on at
`pc`. -/
def enterBody (s : State) (l : Loop) (es : List VEntry) (pc : BitVec 40) : Run State :=
  if s.seqCount s.st.cell + es.length ≤ 16 then
    .ok { s with st := { s.st with vq := s.st.vq ++ es, vnum := s.st.vnum + es.length, lbody := [], loop := l, pc := pc } }
  else .error (.wait .issue)

/-- Does a vector entry pop the queue that a register is: a later `vrep` that reads its count there takes it afterwards
(R131)? -/
def VEntry.pops (e : VEntry) (c : SReg) : Bool :=
  match c with
  | .q _ => [vectorA e.ins, vectorB e.ins, vectorD e.ins].contains (some (.reg c))
  | _ => false

/-- The queue q0-q3 that a register is. -/
def countQueue : SReg → Option (Fin 4)
  | .q n => if h : n.val < 4 then some ⟨n.val, h⟩ else none
  | _ => none

/-- Is the count of a `vrep` in its queue now: an entry is there that no vector instruction before it pops (R128)? -/
def countReady (s : State) (c : SReg) : Bool :=
  match countQueue c with
  | none => true
  | some (n : Fin 4) => !(s.st.vq.any fun e => e.pops c) && !(s.st.q.get (n.castLE (by decide))).isEmpty

/-- `vrep` (R149-R151). Queue misuses of the body's instructions are faults of the instruction that executes. While a loop is
suspended it raises 0x0212 with its own address, and while one runs it waits for its end (log entry 104). With its count in a
queue that holds none for it yet the body enters, and waits in the sequencer for the count (R23, R128). -/
def vrepRun (k1 : Fin 15) (c : SReg) (s : State) : Run State := do
  if s.st.loop.suspended then .error (.trap 0x0212 s.st.pc.toNat)
  else if s.st.loop.active then .error (.wait .issue)
  else do
    noHazard (.vrep k1 c) s
    noMisuse (vectorMisuse (some (.reg c)))
    let (es, fin, s1) ← fetchBody s s.st.npc.toNat s.st.vnum (k1.val + 1)
    if es.any fun e => hazard e.ins s then .error (.wait .issue) else .ok ()
    es.forM fun e => tilesClear s.st e.ins
    if countReady s c then
      let (x, t) ← takeReg s s.st c
      poisonCheck x
      let s2 := { s1 with st := t }
      if x.val = 0 then .ok { s2 with st := { t with pc := BitVec.ofNat 40 fin } }
      else enterBody s2 ⟨true, false, s.st.pc, k1.val + 1, x.val, 0, 0, none, none⟩ es (BitVec.ofNat 40 fin)
    else enterBody s1 ⟨true, false, s.st.pc, k1.val + 1, 0, 0, 0, none, countQueue c⟩ es (BitVec.ofNat 40 fin)

/-- A suspended loop goes on (R151): its body enters again with the operands that it captured (or, after a context load
that has only the loop state, decoded again), and the scalar stream goes on at its resume point. -/
def resumeLoop (s : State) : Run State := do
  let l := s.st.loop
  let go (s : State) (es : List VEntry) (fin : Nat) : Run State :=
    enterBody s { l with active := true, suspended := false, srpc := none }
      (es.zipIdx.map fun (e, i) => { e with num := s.st.vnum + i })
      (match l.srpc with
        | some pc => pc
        | none => BitVec.ofNat 40 fin)
  if s.st.lbody ≠ [] then go s s.st.lbody 0
  else do
    let (d, s) ← s.fetchAt s.st l.pc.toNat
    let first := match d with
      | .ok _ len => l.pc.toNat + 2 * len
      | _ => l.pc.toNat
    let (es, fin, s) ← fetchBody s (first % 2 ^ 40) s.st.vnum l.k
    go s es fin

/-! ### Boundaries before unfinished entries (R131, R151) -/

/-- What a tile command changed is given back. -/
def State.giveBack (s : State) (x : TileSave) : State :=
  let s := x.tiles.foldl (fun s e => s.modCluster e.1 fun c => c.setTile e.2.1 e.2.2) s
  { s with st := { s.st with
      v := x.regs.foldl (fun v e => v.setIfInBounds e.1 e.2.1) s.st.v
      vtag := x.regs.foldl (fun v e => v.setIfInBounds e.1 e.2.2.1) s.st.vtag
      vpois := x.regs.foldl (fun v e => v.setIfInBounds e.1 e.2.2.2) s.st.vpois
      terr := x.terr } }

/-- Takes back what the tile commands of the strand in focus behind its vector instruction number `num` have done, the latest
first (R131). -/
def State.undoTiles (s : State) (num : Nat) : State :=
  let late (x : TileSave) : Bool := decide (num < x.after)
  let s' := (s.st.saves.filter late).foldl State.giveBack s
  { s' with st := { s'.st with saves := s.st.saves.filter fun x => !late x } }

/-- Takes back what the strand in focus issued at and after an entry: registers and queues as the entry's checkpoint has
them, its accesses and tile commands dropped. -/
def State.undoFrom (s : State) (e : VEntry) : State :=
  let s := s.undoTiles e.num
  { s with accs := s.accs.filter fun x => !(x.uid == s.st.uid && decide (e.num < x.after))
           st := { s.st.restore e.ckpt with pc := e.pc, tileq := s.st.tileq.filter fun c => decide (c.after ≤ e.num) } }

/-- The boundary before the oldest unfinished vector instruction of the strand in focus (R131). Inside a body the loop is
suspended, the saved PC is the `vrep`, and the scalar resume point is the first instruction after the body that has not
issued: the oldest vector instruction behind the body, if one has entered, else the PC (R151). While the loop waits for its
count, the boundary is before the `vrep`. -/
def State.pullBack (s : State) : State :=
  match s.st.vq with
  | [] => s
  | e :: _ =>
    if e.body && s.st.loop.due.isSome then
      let s' := s.undoFrom e
      { s' with st := { s'.st with vq := [], pc := s.st.loop.pc } }
    else if e.body then
      let s' := match s.st.vq.find? fun x => !x.body with
        | some x => s.undoFrom x
        | none => s
      { s' with
        accs := s'.accs.filter fun x => !(x.uid == s.st.uid && isLoad x.ins
          && s.st.vq.any fun y => y.started && y.num + 1 == x.after && y.ins == x.ins)
        st := { s'.st with
          lbody := (s.st.vq.filter (·.body)).map VEntry.fresh
          vq := [], pc := s.st.loop.pc
          loop := { s.st.loop with active := false, suspended := true, srpc := some s'.st.pc } } }
    else
      let s' := s.undoFrom e
      { s' with st := { s'.st with vq := [] } }

/-- What an executed entry did to queues and the general registers, done to a later entry's checkpoint too: it stands
before that boundary (R131). -/
def Checkpoint.follow (c : Checkpoint) (old new : Strand) (d : Option SReg) : Checkpoint :=
  { c with
    q := Vector.ofFn fun n : Fin 8 =>
      if n.val < 4 then (c.q.get n).drop ((old.q.get n).length - (new.q.get n).length)
      else c.q.get n ++ (new.q.get n).drop (old.q.get n).length
    g := match d with
      | some (.g n) => c.g.set n.val (new.g.get n)
      | _ => c.g
    gtag := match d with
      | some (.g n) => c.gtag.set n.val (new.gtag.get n)
      | _ => c.gtag
    gpois := match d with
      | some (.g n) => (c.gpois &&& ~~~(BitVec.ofNat 32 (2 ^ n.val))) ||| (new.gpois &&& BitVec.ofNat 32 (2 ^ n.val))
      | _ => c.gpois }

/-- An entry of the strand in focus has done something to the strand's registers: later boundaries keep it (R131). `old` is
the strand before it. -/
def State.followFrom (s : State) (old : Strand) (e : VEntry) (d : Option SReg) : State :=
  { s with
    accs := s.accs.map fun x => if x.uid = s.st.uid ∧ e.num < x.after then { x with ckpt := x.ckpt.follow old s.st d } else x
    st := { s.st with
      vq := s.st.vq.map fun x => if e.num = x.num then x else { x with ckpt := x.ckpt.follow old s.st d }
      undo := s.st.undo.map fun c => c.follow old s.st d } }

/-- An entry has completed: it leaves the sequencer, or in a loop the next body instruction is due, and after the last
iteration the body leaves (R149). -/
def Strand.retire (t : Strand) (e : VEntry) : Strand :=
  if e.body then
    let i := t.loop.idx + 1
    if i < t.loop.k then { t with loop := { t.loop with idx := i } }
    else if t.loop.iter + 1 = t.loop.count then { t with vq := t.vq.drop t.loop.k, loop := Loop.idle }
    else { t with loop := { t.loop with idx := 0, iter := t.loop.iter + 1 } }
  else { t with vq := t.vq.filter fun x => x.num != e.num }

/-- Changes an entry of the strand by number. -/
def Strand.modEntry (t : Strand) (n : Nat) (f : VEntry → VEntry) : Strand :=
  { t with vq := t.vq.map fun e => if e.num = n then f e else e }

/-- May the strand's sequencer work proceed (R343: a stopped or spilled strand has none)? -/
def Strand.vectorReady (t : Strand) : Bool :=
  match t.status with
  | .ready | .running | .blocked _ => t.vq != []
  | _ => false

/-- Has a vector load of the strand been sent whose entry has not completed? -/
def Strand.vectorSent (t : Strand) : Bool := t.vq.any (·.started)

/-- Has a vector store been made behind loads that have not completed (R261)? No boundary lies before them. -/
def Strand.passed (t : Strand) : Bool :=
  match t.vq with
  | [] => false
  | e :: _ => e.num + t.vq.length != t.vnum

/-- A single step that waited for a vector instruction is over when it has executed: the strand halts before whatever has
not (R344). -/
def State.stepDone (s : State) : State :=
  if s.st.stepping then
    let s := s.pullBack
    { s with st := { s.st with stepping := false, status := .halted } }
  else s

/-- The oldest entry that has not begun, when it may begin: it is the head, or the body instruction at the body index; or a
memory access behind loads that have been sent and write none of its registers (R130). A body that waits for its count does
not begin. -/
def Strand.nextEntry (t : Strand) : Option VEntry :=
  match t.vq with
  | [] => none
  | h :: _ =>
    if h.body && t.loop.due.isSome then none
    else if h.body then (t.vq[t.loop.idx]?).filter fun e => !e.started
    else match t.vq.dropWhile (·.started) with
      | [] => none
      | e :: _ =>
        let sent := t.vq.takeWhile (·.started)
        if sent = [] then some e
        else if isVectorMem e.ins ∧ e.body = false ∧ sent.all fun x => x.cut.isNone
            && !groupsMeet (vectorDsts t x.ins) (vectorGroups t e.ins) then some e
        else none

/-- The sent entry at the head, or at the body index, whose elements have all returned. -/
def State.sentEntry (s : State) : Option VEntry :=
  match s.st.vq with
  | [] => none
  | h :: _ =>
    (if h.body then s.st.vq[s.st.loop.idx]? else some h).filter fun e =>
      e.started && !s.accs.any fun x => x.uid == s.st.uid && x.ins == e.ins && x.after == e.num + 1

/-- What tile commands replaced is kept only for the boundaries that vector instructions still unfinished may need. -/
def Strand.prune (t : Strand) : Strand :=
  { t with saves := match t.vq with
      | [] => []
      | e :: _ => t.saves.filter fun x => decide (e.num < x.after) }

/-- The end of an entry of the strand in focus; `old` is the strand before it. -/
def State.endEntry (s : State) (old : Strand) (e : VEntry) (d : Option SReg) : State :=
  State.stepDone ({ s with st := (s.st.retire e).prune }.followFrom old e d)

/-- A `vrep` in the sequencer takes its count from its queue (R128): the body goes on, or leaves when the count is 0. `none`
while the queue is empty; poison is a fault of the `vrep`. -/
def State.takeCount (s : State) (n : Fin 4) : Option (Except Nat State) :=
  let q : Fin 8 := n.castLE (by decide)
  match s.st.q.get q, s.st.vq with
  | x :: r, e :: _ =>
    if x.bad then some (.error (48 + n.val))
    else
      let t := { s.st with q := s.st.q.set q r }
      let t := if x.val = 0 then { t with vq := t.vq.filter fun y => !y.body, loop := Loop.idle }
        else { t with loop := { t.loop with count := x.val, due := none } }
      some (.ok (State.stepDone ({ s with st := t.prune }.followFrom s.st e none)))
  | _, _ => none

/-- Are the elements of a vector access sent to their homes one by one: no element that is stored evolves (R261, log entry
65)? -/
def State.sends (s : State) (i : Instr) (els : List (Nat × Loc)) : Bool :=
  isLoad i || els.all fun l => decide (s.sweepWeight (l.2.pa / 8 * 8) = 0)

/-- An entry executes whole, once the accesses before it are settled. -/
def wholeEntry (s : State) (e : VEntry) (c : VIn) : Run State := do
  if s.unsettledBefore s.st.uid e.num then .error (.wait .issue) else .ok ()
  let s1 ← vectorEffect e.ins c
  .ok (s1.endEntry s.st e (vectorDst e.ins))

/-- An entry begins: a memory access sends its elements where the model delays accesses; anything else executes. -/
def beginEntry (s : State) (e : VEntry) : Run State := do
  let c ← entryIn s e
  if s.async && isVectorMem e.ins then
    let p ← vmemPlan c e.ins
    if s.sends e.ins p.els then
      let (s1, cut) ← vmemSend c e
      if isLoad e.ins then
        .ok ({ s1 with st := s1.st.modEntry e.num fun x => { x with started := true, cut := cut, got := [] } }.followFrom s.st e none)
      else .ok (s1.endEntry s.st e none)
    else wholeEntry s e c
  else wholeEntry s e c

/-- The fault of an entry, taken at the boundary before it (R131, R151, R319). -/
def State.entryFault (s : State) (e : VEntry) (cause addr : Nat) : State :=
  let s' := s.pullBack
  { s' with st := { s'.st with status := .ready } }.takeFault cause e.pc (BitVec.ofNat 64 addr)

/-- May the strand in focus take a fault of an entry now: the loads sent before it have completed, and the accesses before it
are settled (R318)? -/
def State.entryTurn (s : State) (e : VEntry) : Bool := !s.st.vectorSent && !s.unsettledBefore s.st.uid e.num

/-- What the sequencer does for the strand in focus: a load that has its elements completes; or an entry begins, faults, or
starts the walk that it waits for (R321); or a `vrep` takes its count; or nothing yet. -/
def State.execEntry (s : State) : Option State :=
  match s.sentEntry with
  | some e =>
    if s.unsettledBefore s.st.uid e.num then none else
    let s1 := { s with st := (loadDone s.st e.ins e.cut e.got).modEntry e.num fun x => { x with started := false } }
    some (s1.endEntry s.st e none)
  | none =>
    match s.st.nextEntry with
    | none => match s.st.loop.due, s.st.vq with
      | some n, e :: _ =>
        if e.body then match s.takeCount n with
          | some (.ok s') => some s'
          | some (.error num) =>
            if s.entryTurn e then some (s.entryFault { e with pc := s.st.loop.pc } 0x0B01 num) else none
          | none => none
        else none
      | _, _ => none
    | some e =>
      if e.walk.any fun w => s.walks.any fun x => x.id == w.1 then none
      else match beginEntry s e with
        | .ok s' => some s'
        | .error (.trap cause addr) | .error (.after cause addr) =>
          if s.entryTurn e then some (s.entryFault e cause addr) else none
        | .error (.found s1 cause addr) =>
          if s.entryTurn e then some ({ s1 with st := s.st }.entryFault e cause addr) else none
        | .error (.wait _) => none
        | .error (.miss va acc) =>
          let (id, s1) := s.startWalk (dieOf s.st.cell) s.st.part s.st.asid va acc false s.st.cell s.st.slot
          some { s1 with st := s1.st.modEntry e.num fun x => { x with walk := some (id, va) } }

/-- Effective class min(3, class + ⌊w / 1,024⌋) (R301). -/
def State.effClass (s : State) (t : Strand) : Nat :=
  min 3 ((match s.launchOf t with
    | some l => l.eff.prio
    | none => 0) + t.waited / 1024)

/-- Does strand `a` go before strand `b` of its cell (R300)? -/
def State.goesBefore (s : State) (a b : Strand) : Bool :=
  let ka := s.effClass a
  let kb := s.effClass b
  let last := (s.cell a.cell).lastSlot
  let rot (t : Strand) := (t.slot + 8 - (last + 1) % 8) % 8
  decide (kb < ka) || (ka == kb && (decide (b.age < a.age) || (a.age == b.age && decide (rot a < rot b))))

/-- The strand of a list that goes first (R300). -/
def State.firstOf (s : State) : List Strand → Option Strand
  | [] => none
  | a :: r => match s.firstOf r with
    | none => some a
    | some b => if s.goesBefore b a then some b else some a

/-- SEQUENCER_EXECUTE: one vector instruction of a cell, of the strand that R300 chooses among those whose oldest entry
can start (R130). -/
def execSequencerExecute (cell : Nat) (s : State) : Out :=
  let l := s.strands.filter fun t => t.cell == cell && t.vectorReady && ((s.focus t.uid).execEntry).isSome
  .next (match s.firstOf l with
    | none => s
    | some t => ((s.focus t.uid).execEntry).getD s)

end Sys2Proof.Machine
end

