-- ==== Sys2Proof/Machine/Vector.lean ====
section
/-! DEFINITION. The meanings of the vector instructions: each enters the sequencer or executes at once (`vector`), and its
effect is its line of `vectorEffect`. -/

namespace Sys2Proof.Machine

/-- `vsetvl` (R125). -/
def execVsetvl (d : SReg) (a b : Opnd) (s : State) : Out :=
  vector (.vsetvl d a b) s
/-- `vsetvli` (R125). -/
def execVsetvli (f : Fmt) (grp : Grp) (d : SReg) (b : Opnd) (s : State) : Out :=
  vector (.vsetvli f grp d b) s
/-- `vadd` (R133). -/
def execVadd (f : Fmt) (k : Keys) (d a : Fin 32) (b : Opnd) (s : State) : Out :=
  vector (.vadd f k d a b) s
/-- `vsub` (R133). -/
def execVsub (f : Fmt) (k : Keys) (d a : Fin 32) (b : Opnd) (s : State) : Out :=
  vector (.vsub f k d a b) s
/-- `vmul` (R133). -/
def execVmul (f : Fmt) (k : Keys) (d a : Fin 32) (b : Opnd) (s : State) : Out :=
  vector (.vmul f k d a b) s
/-- `vmulh` (R133). -/
def execVmulh (f : Fmt) (k : Keys) (d a : Fin 32) (b : Opnd) (s : State) : Out :=
  vector (.vmulh f k d a b) s
/-- `vmacc` (R133). -/
def execVmacc (f : Fmt) (k : Keys) (d a : Fin 32) (b : Opnd) (s : State) : Out :=
  vector (.vmacc f k d a b) s
/-- `vand` (R134). -/
def execVand (f : Fmt) (k : Keys) (d a : Fin 32) (b : Opnd) (s : State) : Out :=
  vector (.vand f k d a b) s
/-- `vor` (R134). -/
def execVor (f : Fmt) (k : Keys) (d a : Fin 32) (b : Opnd) (s : State) : Out :=
  vector (.vor f k d a b) s
/-- `vxor` (R134). -/
def execVxor (f : Fmt) (k : Keys) (d a : Fin 32) (b : Opnd) (s : State) : Out :=
  vector (.vxor f k d a b) s
/-- `vshl` (R134). -/
def execVshl (f : Fmt) (k : Keys) (d a : Fin 32) (b : Opnd) (s : State) : Out :=
  vector (.vshl f k d a b) s
/-- `vshr` (R134). -/
def execVshr (f : Fmt) (k : Keys) (d a : Fin 32) (b : Opnd) (s : State) : Out :=
  vector (.vshr f k d a b) s
/-- `vsra` (R134). -/
def execVsra (f : Fmt) (k : Keys) (d a : Fin 32) (b : Opnd) (s : State) : Out :=
  vector (.vsra f k d a b) s
/-- `vmin` (R133). -/
def execVmin (f : Fmt) (k : Keys) (d a : Fin 32) (b : Opnd) (s : State) : Out :=
  vector (.vmin f k d a b) s
/-- `vmax` (R133). -/
def execVmax (f : Fmt) (k : Keys) (d a : Fin 32) (b : Opnd) (s : State) : Out :=
  vector (.vmax f k d a b) s
/-- `vminn` (R133). -/
def execVminn (f : Fmt) (k : Keys) (d a : Fin 32) (b : Opnd) (s : State) : Out :=
  vector (.vminn f k d a b) s
/-- `vmaxn` (R133). -/
def execVmaxn (f : Fmt) (k : Keys) (d a : Fin 32) (b : Opnd) (s : State) : Out :=
  vector (.vmaxn f k d a b) s
/-- `vabs` (R133). -/
def execVabs (f : Fmt) (k : Keys) (d b : Fin 32) (s : State) : Out :=
  vector (.vabs f k d b) s
/-- `vnarrow` (R135). -/
def execVnarrow (f : Fmt) (k : Keys) (d a : Fin 32) (b : Opnd) (s : State) : Out :=
  vector (.vnarrow f k d a b) s
/-- `vwiden` (R135). -/
def execVwiden (f : Fmt) (k : Keys) (d b : Fin 32) (s : State) : Out :=
  vector (.vwiden f k d b) s
/-- `vfadd` (R136). -/
def execVfadd (f : Fmt) (r : Rnd) (k : Keys) (d a : Fin 32) (b : Opnd) (s : State) : Out :=
  vector (.vfadd f r k d a b) s
/-- `vfsub` (R136). -/
def execVfsub (f : Fmt) (r : Rnd) (k : Keys) (d a : Fin 32) (b : Opnd) (s : State) : Out :=
  vector (.vfsub f r k d a b) s
/-- `vfmul` (R136). -/
def execVfmul (f : Fmt) (r : Rnd) (k : Keys) (d a : Fin 32) (b : Opnd) (s : State) : Out :=
  vector (.vfmul f r k d a b) s
/-- `vfma` (R136). -/
def execVfma (f : Fmt) (r : Rnd) (k : Keys) (d a : Fin 32) (b : Opnd) (s : State) : Out :=
  vector (.vfma f r k d a b) s
/-- `vfdiv` (R136). -/
def execVfdiv (f : Fmt) (r : Rnd) (k : Keys) (d a : Fin 32) (b : Opnd) (s : State) : Out :=
  vector (.vfdiv f r k d a b) s
/-- `vfmin` (R136). -/
def execVfmin (f : Fmt) (k : Keys) (d a : Fin 32) (b : Opnd) (s : State) : Out :=
  vector (.vfmin f k d a b) s
/-- `vfmax` (R136). -/
def execVfmax (f : Fmt) (k : Keys) (d a : Fin 32) (b : Opnd) (s : State) : Out :=
  vector (.vfmax f k d a b) s
/-- `vcmp` (R138). -/
def execVcmp (f : Fmt) (c : VCond) (k : Keys) (d : Fin 8) (a : Fin 32) (b : Opnd) (s : State) : Out :=
  vector (.vcmp f c k d a b) s
/-- `vfcmp` (R138). -/
def execVfcmp (f : Fmt) (c : FCond) (k : Keys) (d : Fin 8) (a : Fin 32) (b : Opnd) (s : State) : Out :=
  vector (.vfcmp f c k d a b) s
/-- `vsel` (R139). -/
def execVsel (f : Fmt) (k : Keys) (d a : Fin 32) (b : Opnd) (s : State) : Out :=
  vector (.vsel f k d a b) s
/-- `vmv` (R139). -/
def execVmv (f : Fmt) (k : Keys) (d : Fin 32) (b : Opnd) (s : State) : Out :=
  vector (.vmv f k d b) s
/-- `vslide` (R140). -/
def execVslide (f : Fmt) (down : Bool) (k : Keys) (d a : Fin 32) (b : Opnd) (s : State) : Out :=
  vector (.vslide f down k d a b) s
/-- `vperm` (R140). -/
def execVperm (f : Fmt) (k : Keys) (d a b : Fin 32) (s : State) : Out :=
  vector (.vperm f k d a b) s
/-- `vcompress` (R140). -/
def execVcompress (f : Fmt) (k : Keys) (d b : Fin 32) (s : State) : Out :=
  vector (.vcompress f k d b) s
/-- `vredsum` (R141). -/
def execVredsum (f : Fmt) (r : Rnd) (k : Keys) (d : SReg) (a : Fin 32) (b : Opnd) (s : State) : Out :=
  vector (.vredsum f r k d a b) s
/-- `vredmax` (R141). -/
def execVredmax (f : Fmt) (k : Keys) (d : SReg) (a : Fin 32) (b : Opnd) (s : State) : Out :=
  vector (.vredmax f k d a b) s
/-- `vredmin` (R141). -/
def execVredmin (f : Fmt) (k : Keys) (d : SReg) (a : Fin 32) (b : Opnd) (s : State) : Out :=
  vector (.vredmin f k d a b) s
/-- `vdotx` (R142). -/
def execVdotx (f : Fmt) (r : Rnd) (k : Keys) (d : SReg) (a b : Fin 32) (s : State) : Out :=
  vector (.vdotx f r k d a b) s
/-- `vdeq` (R144). -/
def execVdeq (f : Fmt) (r : Rnd) (k : Keys) (d a : Fin 32) (b : Opnd) (s : State) : Out :=
  vector (.vdeq f r k d a b) s
/-- `vprune4` (R145). -/
def execVprune4 (f : Fmt) (k : Keys) (d a b : Fin 32) (s : State) : Out :=
  vector (.vprune4 f k d a b) s
/-- `mand` (R146). -/
def execMand (k : Keys) (d a b : Fin 8) (s : State) : Out :=
  vector (.mand k d a b) s
/-- `mor` (R146). -/
def execMor (k : Keys) (d a b : Fin 8) (s : State) : Out :=
  vector (.mor k d a b) s
/-- `mxor` (R146). -/
def execMxor (k : Keys) (d a b : Fin 8) (s : State) : Out :=
  vector (.mxor k d a b) s
/-- `mset` (R146). -/
def execMset (d : Fin 8) (b : Opnd) (s : State) : Out :=
  vector (.mset d b) s
/-- `vexp2` (R137). -/
def execVexp2 (k : Keys) (d b : Fin 32) (s : State) : Out :=
  vector (.vexp2 k d b) s
/-- `vlog2` (R137). -/
def execVlog2 (k : Keys) (d b : Fin 32) (s : State) : Out :=
  vector (.vlog2 k d b) s
/-- `vrcp` (R137). -/
def execVrcp (k : Keys) (d b : Fin 32) (s : State) : Out :=
  vector (.vrcp k d b) s
/-- `vrsq` (R137). -/
def execVrsq (k : Keys) (d b : Fin 32) (s : State) : Out :=
  vector (.vrsq k d b) s
/-- `vsigm` (R137). -/
def execVsigm (k : Keys) (d b : Fin 32) (s : State) : Out :=
  vector (.vsigm k d b) s
/-- `vtanh` (R137). -/
def execVtanh (k : Keys) (d b : Fin 32) (s : State) : Out :=
  vector (.vtanh k d b) s
/-- `vcvt` (R143). -/
def execVcvt (f : Fmt) (r : Rnd) (k : Keys) (d b : Fin 32) (s : State) : Out :=
  vector (.vcvt f r k d b) s
/-- `mnot` (R146). -/
def execMnot (k : Keys) (d b : Fin 8) (s : State) : Out :=
  vector (.mnot k d b) s
/-- `mpop` (R146). -/
def execMpop (d : SReg) (m : Fin 8) (s : State) : Out :=
  vector (.mpop d m) s
/-- `mfirst` (R146). -/
def execMfirst (d : SReg) (m : Fin 8) (s : State) : Out :=
  vector (.mfirst d m) s
/-- `vrep` (R149-R151). -/
def execVrep (k1 : Fin 15) (c : SReg) (s : State) : Out := .next (s.settle (vrepRun k1 c s))
/-- `vld` (R147). -/
def execVld (f : Fmt) (k : Keys) (d : Fin 32) (base : Base) (e : Int) (s : State) : Out :=
  vector (.vld f k d base e) s
/-- `vlds` (R147). -/
def execVlds (f : Fmt) (k : Keys) (d : Fin 32) (base : Base) (b : Opnd) (s : State) : Out :=
  vector (.vlds f k d base b) s
/-- `vldx` (R147). -/
def execVldx (f : Fmt) (k : Keys) (d : Fin 32) (base : Base) (b : Fin 32) (s : State) : Out :=
  vector (.vldx f k d base b) s
/-- `vldff` (R148). -/
def execVldff (f : Fmt) (k : Keys) (d : Fin 32) (base : Base) (e : Int) (s : State) : Out :=
  vector (.vldff f k d base e) s
/-- `vst` (R147). -/
def execVst (f : Fmt) (k : Keys) (d : Fin 32) (base : Base) (e : Int) (s : State) : Out :=
  vector (.vst f k d base e) s
/-- `vsts` (R147). -/
def execVsts (f : Fmt) (k : Keys) (d : Fin 32) (base : Base) (b : Opnd) (s : State) : Out :=
  vector (.vsts f k d base b) s
/-- `vstx` (R147). -/
def execVstx (f : Fmt) (k : Keys) (d : Fin 32) (base : Base) (b : Fin 32) (s : State) : Out :=
  vector (.vstx f k d base b) s

end Sys2Proof.Machine
end

