-- ==== Sys2Proof/Machine/TileCore.lean ====
section
/-! DEFINITION. Tiles (R27, R57, R152): holding, elements, error protection of the tile store (R313-R315), the resume
field (R154), and reads of memory by the matrix engine (R158). -/

namespace Sys2Proof.Machine

/-! ### Holding and elements -/

/-- Does the strand's launch hold tile `n` of a cluster (R27)? -/
def State.holds (s : State) (t : Strand) (cluster n : Nat) : Bool :=
  match s.launchOf t with
  | none => false
  | some l => bitAt l.eff.tiles.toNat n && l.cellSet.any fun c => clusterOf c == cluster

/-- The check of R152 on a cluster. -/
def State.holdOn (s : State) (t : Strand) (n k : Nat) : Run Unit := if s.holds t k n then .ok () else .error (.trap 0x0401 n)

/-- The check of R152. -/
def State.holdCheck (s : State) (t : Strand) (n : Nat) : Run Unit := s.holdOn t n (clusterOf t.cell)

/-- A tile of the strand's cluster. -/
def State.tileOf (s : State) (t : Strand) (n : Nat) : Tile := (s.cluster (clusterOf t.cell)).tile n

/-- The tag check of a tile operand of a cluster that is held (R62, R166, R169, R317). -/
def State.tagOn (s : State) (t : Strand) (n : Nat) (ok : Fmt → Bool) (k : Nat) : Run Unit :=
  let tag := ((s.cluster k).tile n).tag
  if s.holds t k n && !(ok tag || tag == .raw) then .error (.trap 0x0201 n) else .ok ()

/-- The tag check of a tile operand of the strand's cluster. -/
def State.tileTag (s : State) (t : Strand) (n : Nat) (ok : Fmt → Bool) : Run Unit := s.tagOn t n ok (clusterOf t.cell)

/-- The code of element `e` = 128 i + j: zero in every format under tag raw (R152). -/
def Tile.get (x : Tile) (e : Nat) : Nat := if x.tag = .raw then 0 else Tab.get x.elems 0 e

/-- Elements with one written; zero elements are not listed. -/
def setElem (l : Tab Nat) (e v : Nat) : Tab Nat := if v = 0 then Tab.erase l e else Tab.set l e v

/-- A tile with all its elements given, and a tag; the resume field is cleared (R154). -/
def Tile.filled (x : Tile) (tag : Fmt) (f : Nat → Nat) : Tile :=
  { x with tag := tag, rvalid := false
           elems := (List.range 16384).filterMap fun e => if f e = 0 then none else some (e, f e) }

/-- The elements that a tile holds when it takes a tag: none under raw (R152, R225). -/
def Tile.taken (x : Tile) (tag : Fmt) : Tile := if x.tag = .raw then { x with elems := [], tag := tag } else { x with tag := tag }

/-! ### Error protection of the tile store (R313-R315) -/

/-- The number under which an error of a tile word not found yet is held: apart from every word of memory. -/
def tileWord (cluster tile w : Nat) : Nat := 2 ^ 62 + cluster * 2 ^ 18 + tile * 2 ^ 15 + w

/-- The live partition that owns a cluster. -/
def State.clusterOwner (s : State) (k : Nat) : Option Nat :=
  (List.range 16).find? fun p => (s.part p).live && (s.part p).hasCluster k

/-- A read of the elements `p` of a tile finds their errors: single bits corrected, others poisoned, all logged. -/
def State.tileFind (s : State) (c : ErrCtx) (k n : Nat) (p : Nat → Bool) : State :=
  (s.flips.filter fun f => decide (tileWord k n 0 ≤ f.addr ∧ f.addr < tileWord k (n + 1) 0)
      && p ((f.addr - tileWord k n 0) / 2)).foldl (fun s f =>
    let w := f.addr - tileWord k n 0
    let bits := countBits f.dmask.toNat 64 + countBits f.cmask.toNat 8
    let s := { s with flips := s.flips.filter fun x => x.addr != f.addr }
    if bits = 0 then s
    else
      let s := s.logError (.tiles k) (n * 2 ^ 15 + w) (if bits = 1 then 1 else 2) f.inj (Config.syndrome f.dmask f.cmask) c
        (s.clusterOwner k)
      if bits = 1 then s
      else s.modCluster k fun x => x.setTile n { x.tile n with poison := w :: (x.tile n).poison }) s

/-- Is an element among `p` poisoned? -/
def Tile.badAt (x : Tile) (p : Nat → Bool) : Bool := x.poison.any fun w => p (w / 2)

/-- Writes a tile whose elements `p` the command wrote: their poison and errors go, and the injection register of the
tile store fires on its word (R315). -/
def State.tilePut (s : State) (k n : Nat) (x : Tile) (p : Nat → Bool) : State :=
  let s := { s with flips := s.flips.filter fun f =>
    !(decide (tileWord k n 0 ≤ f.addr ∧ f.addr < tileWord k (n + 1) 0) && p ((f.addr - tileWord k n 0) / 2)) }
  let s := s.modCluster k fun c => c.setTile n { x with poison := x.poison.filter fun w => !p (w / 2) }
  let r := s.arrayRegs (.tiles k)
  let w := r.inj0.toNat % 2 ^ 48
  if bitAt r.inj0.toNat 48 ∧ w / 2 ^ 15 = n ∧ p (w % 2 ^ 15 / 2) then
    let f : Flip := ⟨tileWord k n (w % 2 ^ 15), r.inj1, BitVec.ofNat 8 (r.inj2.toNat % 256), true⟩
    let r' := if bitAt r.inj0.toNat 49 then r else { r with inj0 := r.inj0 &&& ~~~(BitVec.ofNat 64 (2 ^ 48)) }
    { s with flips := f :: s.flips.filter fun x => x.addr != f.addr }.setArray (.tiles k) r'
  else s

/-- Every element of a tile. -/
def allElems : Nat → Bool := fun _ => true

/-- Reads a tile as a source: its errors are found first, and a poisoned element faults with the tile number (R313; log
entry 35). -/
def State.readTile (s : State) (t : Strand) (n : Nat) (p : Nat → Bool) : Run (Tile × State) :=
  let s' := s.tileFind t.ctx (clusterOf t.cell) n p
  let x := s'.tileOf t n
  if x.badAt p then .error (.found s' 0x0B01 n) else .ok (x, s')

/-! ### Memory that the engine reads -/

/-- The fabric pieces of `n` bytes at a 72-bit address, page by page; the address wraps within its upper byte (R12). -/
def State.pieces (s : State) (t : Strand) (va : Nat) (store : Bool) (n : Nat) : Nat → Run (List (Loc × Nat × Nat))
  | 0 => .ok []
  | fuel + 1 =>
    if n = 0 then .ok []
    else do
      let k := min n (65536 - va % 65536)
      let loc ← s.locate t va (bitOf store) (!store) store false
      let rest ← s.pieces t (va / 2 ^ 64 * 2 ^ 64 + (va + k) % 2 ^ 64) store (n - k) fuel
      .ok ((loc, k, va) :: rest)

/-- Bytes of pieces: the value, the address of the first piece that is poisoned, the state after. -/
def readPieces (s : State) (c : ErrCtx) : List (Loc × Nat × Nat) → Nat × Option Nat × State
  | [] => (0, none, s)
  | (l, k, va) :: r =>
    let (x, bad, s) := s.readAt c l.pa k
    let (y, b, s) := readPieces s c r
    (x + 2 ^ (8 * k) * y, if bad then some (va % 2 ^ 64) else b, s)

/-! ### The reads of a tile instruction (R276) -/

/-- A read that the engine makes: fabric address, bytes, the address that a fault names, and whether it is a piece of an image,
whose words are poisoned one by one. -/
structure EngRead where
  pa : Nat
  n : Nat
  va : Nat
  image : Bool

/-- `n` words read at their home: the value, and the mask of those poisoned. -/
def State.readMasked (s : State) (c : ErrCtx) (pa : Nat) : Nat → Nat × Nat × State
  | 0 => (0, 0, s)
  | n + 1 =>
    let (x, bad, s) := s.readAt c pa 8
    let (y, m, s) := s.readMasked c (pa + 8) n
    (x + 2 ^ 64 * y, bitOf bad + 2 * m, s)

/-- One read made: the value, and the mask of its poisoned words, or 1 when it is poisoned. -/
def EngRead.make (r : EngRead) (s : State) (c : ErrCtx) : (Nat × Nat) × State :=
  if r.image then
    let (x, m, s) := s.readMasked c r.pa (r.n / 8)
    ((x, m), s)
  else
    let (x, bad, s) := s.readAt c r.pa r.n
    ((x, bitOf bad), s)

/-- All reads made, in order. -/
def makeReads (s : State) (c : ErrCtx) : List EngRead → List (Nat × Nat) × State
  | [] => ([], s)
  | r :: l =>
    let (x, s) := r.make s c
    let (xs, s) := makeReads s c l
    (x :: xs, s)

/-- The tile instruction of the strand in focus has come on, and is not complete: the strand goes on at it. -/
def State.partWay (s : State) (t : Strand) (o : TileOp) : State := { s with st := { t with top := some o } }

/-- The reads of a tile instruction of the strand in focus (R276): all of them at once, each in its turn, and what follows is
`f` of what they read; or, where the model delays accesses, one in each step. -/
def tileReads (s : State) (t : Strand) (l : List EngRead) (f : List (Nat × Nat) → State → Run State) : Run State :=
  if s.async then
    let got := (s.st.top.map (·.got)).getD []
    match l[got.length]? with
    | none => f got.reverse { s with st := { s.st with top := none } }
    | some r => do
      s.turnAt t.uid t.cell r.pa
      let (x, s1) := r.make s t.ctx
      .ok (s1.partWay s.st ⟨0, x :: got, s.st.top.bind (·.word)⟩)
  else do
    l.forM fun r => s.turnAt t.uid t.cell r.pa
    let (got, s1) := makeReads s t.ctx l
    f got s1

/-- Codes of `w` bits, the first lowest (R53). -/
def codesOf (w x : Nat) (n : Nat) : List Nat := (List.range n).map fun i => lowBits w (x / 2 ^ (w * i))

/-- Waits until the strand's tile commands before it have completed (R153). -/
def tilesIdle (t : Strand) : Run Unit := if t.tileCount = 0 then .ok () else .error (.wait .issue)

/-- A synchronous tile instruction takes its turn (R153): after the replies that it waits for, once every earlier access is
settled, and after the strand's tile commands. The vector stream holds it back only where it touches its registers. -/
def tileTurn (i : Instr) (s : State) : Run Unit := do
  noLoop s.st
  noHazard i s
  allSettled s
  tilesIdle s.st

/-- The reads of a tile instruction take their turn (R153, R259): after the strand's earlier stores, home operations, and vector
accesses. -/
def readTurn (s : State) : Run Unit := do
  vectorAccessIdle s.st
  noStores s

/-- Waits until every earlier vector instruction that touches an f32 group in field b has completed (R153). -/
def groupClear (t : Strand) (b : Opnd) : Run Unit :=
  match b with
  | .vec n => rowClear t .f32 n.val
  | _ => .ok ()

/-! ### What a boundary before an unfinished vector instruction gives back (R131) -/

/-- What a tile command of the strand in focus has changed since `old` is kept while a vector instruction before it is
unfinished: a boundary before that one gives it back. `after` is the number of the next vector instruction behind it. -/
def State.keepUndo (s old : State) (after : Nat) : State :=
  if old.st.vq = [] then s
  else
    let k := clusterOf old.st.cell / 4 * 4
    let tiles := ((List.range 4).map (k + ·)).flatMap fun k => (List.range 8).filterMap fun n =>
      let x := (old.cluster k).tile n
      if (s.cluster k).tile n = x then none else some (k, n, x)
    let reg (t : Strand) (r : Nat) : BitVec 512 × Fmt × BitVec 128 := (t.v[r]?.getD 0, t.vtag[r]?.getD .raw, t.vpois[r]?.getD 0)
    let regs := (List.range 32).filterMap fun r => if reg s.st r = reg old.st r then none else some (r, reg old.st r)
    { s with st := { s.st with saves := ⟨after, tiles, regs, old.st.terr⟩ :: s.st.saves } }

/-- What a synchronous tile instruction that has taken effect leaves. -/
def tileDone (old : State) (r : Run State) : Run State := r.map fun s => s.keepUndo old old.st.vnum

/-- Does a row of a tile hold poison or an error not found yet? -/
def State.rowInError (s : State) (k n row : Nat) : Bool :=
  let p (e : Nat) : Bool := e / 128 == row
  ((s.cluster k).tile n).badAt p
    || s.flips.any fun f => decide (tileWord k n 0 ≤ f.addr ∧ f.addr < tileWord k (n + 1) 0) && p ((f.addr - tileWord k n 0) / 2)

/-- A group of f32 registers that a tile instruction reads or writes (R156 0x0409). -/
def tileGroup (eg reg : Nat) : Run Unit :=
  if reg % eg = 0 ∧ reg + eg ≤ 32 then .ok () else .error (.trap 0x0409 reg)

/-- The tag check of every register of such a group (R164, R166). -/
def tileGroupTags (t : Strand) (eg reg : Nat) (f : Fmt) : Run Unit :=
  match ((List.range eg).map (reg + ·)).find? fun r =>
      decide (r < 32) && t.vtag[r]?.getD .raw != f && t.vtag[r]?.getD .raw != .raw with
  | some r => .error (.trap 0x0201 r)
  | none => .ok ()

end Sys2Proof.Machine
end

