-- ==== Sys2Proof/Machine/Product.lean ====
section
/-! DEFINITION. Products: `mma`, `mmas`, `mmac` and MACRO_OP_STEP (R62-R68, R154, R157-R162, R225, R280). -/

namespace Sys2Proof.Machine

/-! ### Shape and layout -/

/-- The B format of a layout-T modifier (R85). -/
def bFmt (f : Fmt) : TileB → Fmt
  | .asA => f
  | .e4m3 => .e4m3
  | .e5m2 => .e5m2
  | .q4 => .q4

/-- The accumulator tag (R62). -/
def accTag (f : Fmt) : Fmt := if f = .bf16 ∨ f = .f16 then .f32 else .x96

/-- A shape word taken apart (R157). -/
structure Shape where
  rows : Nat
  cols : Nat
  blocks : Nat
  slot : Nat
  lda : Nat
  row0 : Nat
  col0 : Nat

def shapeOf (w : Nat) : Shape :=
  ⟨bitsOf w 6 0 + 1, bitsOf w 13 7 + 1, bitsOf w 20 14 + 1, bitsOf w 27 21, bitsOf w 39 28, bitsOf w 46 40, bitsOf w 53 47⟩

/-- Bytes of a B column in its slice (R158). -/
def bFoot (b : Fmt) (blocks : Nat) : Nat := 64 * blocks * b.bits / 8 + if b = .q4 then blocks else 0

/-- The shape check (R157 0x0402). -/
def shapeCheck (w : Nat) (b : Fmt) (complex : Bool) : Run Unit :=
  let h := shapeOf w
  if w / 2 ^ 54 ≠ 0 ∨ 128 < h.row0 + h.rows ∨ 128 < h.col0 + h.cols
      ∨ (b = .q4 ∧ countBits h.blocks 8 ≠ 1) ∨ (complex ∧ (h.cols % 2 = 1 ∨ h.col0 % 2 = 1))
      ∨ 32768 < 256 * h.slot + bFoot b h.blocks
  then .error (.trap 0x0402 w) else .ok ()

/-- A product about to run. -/
structure Prod where
  f : Fmt
  b : Fmt
  complex : Bool
  tile : Nat
  shape : Shape
  /-- gA, and gM for `mmas`. -/
  ga : Nat
  gm : Option Nat
  /-- The clusters of its engines, the strand's own among them (R162). -/
  clusters : List Nat
  home : Nat

/-- Values of k that a row of A holds in memory: half of them when it is compressed (R160). -/
def Prod.perRow (p : Prod) : Nat := if p.gm.isSome then 32 * p.shape.blocks else 64 * p.shape.blocks

/-- Bytes of a row of A. -/
def Prod.rowBytes (p : Prod) : Nat := p.perRow * p.f.bits / 8

/-- The row pitch P (R158). -/
def Prod.pitch (p : Prod) : Nat := if p.shape.lda = 0 then p.rowBytes else 64 * p.shape.lda

/-- An address moved within its upper byte. -/
def vaAdd (va n : Nat) : Nat := va / 2 ^ 64 * 2 ^ 64 + (va + n) % 2 ^ 64

/-- The pieces of every row of A, ascending (R158). -/
def Prod.aPieces (p : Prod) (s : State) (t : Strand) : Nat → Run (List (Loc × Nat × Nat))
  | 0 => .ok []
  | n + 1 => do
    let l ← p.aPieces s t n
    let r ← s.pieces t (vaAdd p.ga (n * p.pitch)) false p.rowBytes 3
    .ok (l ++ r)

/-- The footprint of A lies in the SRAM of one cell of the executing cluster (R158, R156 0x0403), on this device: the cell of
its lowest address, if that is one of the cluster's. -/
def aPlacement (device home : Nat) (l : List (Loc × Nat × Nat)) : Run Unit :=
  let cellOf (x : Loc × Nat × Nat) : Option Nat :=
    match placeOf x.1.pa with
    | .sram c => if x.1.pa / 2 ^ 48 = device ∧ c / 16 = home then some c else none
    | _ => none
  let low := (l.map fun x => x.2.2 % 2 ^ 64).min?
  let want := (l.find? fun x => some (x.2.2 % 2 ^ 64) == low).bind cellOf
  match ((l.filter fun x => cellOf x == none || cellOf x != want).map fun x => x.2.2 % 2 ^ 64).min? with
  | some a => .error (.trap 0x0403 a)
  | none => .ok ()

/-! ### One step (R154, R159-R161) -/

/-- Where an engine reads what the executing cluster's cell holds: the cell of the same index of its own cluster (R162). -/
def Prod.shift (p : Prod) (k pa : Nat) : Nat := pa + k * 2 ^ 22 - p.home * 2 ^ 22

/-- Places, 0-7, of the four values of a metadata entry; none when it is malformed (R160). -/
def metaPlaces (e : Nat) : Option (List Nat) :=
  let j (q : Nat) := e / 8 ^ q % 8
  if e / 2 ^ 12 = 0 ∧ j 0 < j 1 ∧ j 1 < j 2 ∧ j 2 < j 3 then some [j 0, j 1, j 2, j 3] else none

/-- Eight groups of a sparse row, from group `g` on: its 64 codes. -/
def expandRow (vals : List Nat) (g : Nat) : List Nat → List Nat
  | [] => []
  | e :: r =>
    let js := (metaPlaces e).getD []
    ((List.range 8).map fun i => match js.findIdx? fun j => j == i with
      | some q => vals.getD (4 * g + q) 0
      | none => 0) ++ expandRow vals (g + 1) r

/-- The reads of pieces, moved by `shift` fabric bytes for an engine of another cluster. -/
def pieceReads (shift : Nat → Nat) (l : List (Loc × Nat × Nat)) : List EngRead :=
  l.map fun (loc, n, va) => ⟨shift loc.pa, n, va % 2 ^ 64, false⟩

/-- The address of the entries of row `i` for step `n`. -/
def Prod.metaVa (p : Prod) (gm n i : Nat) : Nat := vaAdd gm (8 + 2 * (i * (8 * p.shape.blocks) + 8 * n))

/-- The reads of the entries of a step, by row (R160). -/
def Prod.metaReads (p : Prod) (s : State) (t : Strand) (n : Nat) : Run (List (List EngRead)) :=
  match p.gm with
  | none => .ok []
  | some gm => (List.range p.shape.rows).mapM fun i => do
    let l ← s.pieces t (p.metaVa gm n i) false 16 3
    .ok (pieceReads id l)

/-- The reads of the values of A of a step on an engine, by row. -/
def Prod.rowReads (p : Prod) (s : State) (t : Strand) (k n : Nat) : Run (List (List EngRead)) :=
  let bytes := (if p.gm.isSome then 32 else 64) * p.f.bits / 8
  (List.range p.shape.rows).mapM fun i => do
    let l ← s.pieces t (vaAdd p.ga (i * p.pitch + bytes * n)) false bytes 3
    .ok (pieceReads (p.shift k) l)

/-- The reads of B of a step, by column, from the engine's own B-store (R158): the codes, and a block scale. -/
def Prod.colReads (p : Prod) (s : State) (k n : Nat) : List (List EngRead) :=
  (List.range p.shape.cols).map fun j =>
    let base := bstoreBase s.boot.device.toNat k + (p.shape.col0 + j) * 2 ^ 15 + 256 * p.shape.slot
    let bytes := 64 * p.b.bits / 8
    let a := base + bytes * n
    let u := base + 32 * p.shape.blocks + n
    ⟨a, bytes, a, false⟩ :: if p.b = .q4 then [⟨u, 1, u, false⟩] else []

/-- The reads of a step on an engine: the entries of all rows, then A, then B. -/
structure StepReads where
  entries : List (List EngRead)
  rows : List (List EngRead)
  cols : List (List EngRead)

def StepReads.all (r : StepReads) : List EngRead := r.entries.flatten ++ r.rows.flatten ++ r.cols.flatten

/-- The reads of a step on an engine. -/
def Prod.reads (p : Prod) (s : State) (t : Strand) (k n : Nat) : Run StepReads := do
  let entries ← p.metaReads s t n
  let rows ← p.rowReads s t k n
  .ok ⟨entries, rows, p.colReads s k n⟩

/-- What one row, entry list or column read: the pieces' values joined, or the address of the first that is poisoned. -/
def joinReads : List EngRead → List (Nat × Nat) → Except Nat Nat
  | r :: rs, (x, bad) :: xs =>
    if bad ≠ 0 then .error r.va
    else match joinReads rs xs with
      | .error a => .error a
      | .ok y => .ok (x + 2 ^ (8 * r.n) * y)
  | _, _ => .ok 0

/-- Values of groups of reads, in order: a use of poison faults (R156). -/
def joinGroups : List (List EngRead) → List (Nat × Nat) → Run (List Nat)
  | [], _ => .ok []
  | g :: gs, l =>
    match joinReads g l with
    | .error a => .error (.trap 0x0B01 a)
    | .ok x => do
      let xs ← joinGroups gs (l.drop g.length)
      .ok (x :: xs)

/-- The entries of a step, checked row by row (R160): eight for each row. A poisoned read and a malformed entry fault in the
order of their rows. -/
def Prod.entries (p : Prod) (gm n i : Nat) : List (List EngRead) → List (Nat × Nat) → Run (List (List Nat))
  | [], _ => .ok []
  | g :: gs, l =>
    match joinReads g l with
    | .error a => .error (.trap 0x0B01 a)
    | .ok x =>
      let es := codesOf 16 x 8
      match es.findIdx? fun e => (metaPlaces e).isNone with
      | some q => .error (.trap 0x0404 ((p.metaVa gm n i + 2 * q) % 2 ^ 64))
      | none => do
        let rest ← p.entries gm n (i + 1) gs (l.drop g.length)
        .ok (es :: rest)

/-- The rows of A and the columns of B with their block scales, from what the reads of a step read: or the first fault. -/
def Prod.operands (p : Prod) (n : Nat) (r : StepReads) (l : List (Nat × Nat)) : Run (List (List Nat) × List (List Nat × Nat)) := do
  let es ← p.entries (p.gm.getD 0) n 0 r.entries l
  let l := l.drop r.entries.flatten.length
  let xs ← joinGroups r.rows l
  let ys ← joinGroups r.cols (l.drop r.rows.flatten.length)
  let rows := match p.gm with
    | none => xs.map fun x => codesOf p.f.bits x 64
    | some _ => (List.zip xs es).map fun (x, es) => expandRow (codesOf p.f.bits x 32) 0 es
  .ok (rows, ys.map fun y => (codesOf p.b.bits y 64, y / 2 ^ (64 * p.b.bits)))

/-- The exact products of an element: 64 of a row and a column, or for `mmac` the real or imaginary part's (R68). -/
def products (f b : Fmt) (complex odd : Bool) (x y : List Nat) : List FVal :=
  let xs := x.map (valueOf f)
  let ys := y.map (valueOf b)
  if complex then
    ((List.range 32).map fun c =>
      let ar := xs.getD (2 * c) .nan
      let ai := xs.getD (2 * c + 1) .nan
      let br := ys.getD (2 * c) .nan
      let bi := ys.getD (2 * c + 1) .nan
      if odd then [ar.mul bi, ai.mul br] else [ar.mul br, (ai.mul bi).neg]).flatten
  else List.zipWith FVal.mul xs ys

/-- Four k-steps of 16 products each, rounded rne and added rne (R63, R64). -/
def groupedAdd (old : Nat) (ps : List FVal) : Nat :=
  (List.range 4).foldl (fun acc q =>
    faddCode .f32 .rne false acc ((sumExact ((ps.drop (16 * q)).take 16)).toCode .f32 .rne false)) old

/-- Is a code neither NaN nor infinite? -/
def finiteCode (f : Fmt) (x : Nat) : Bool :=
  match valueOf f x with
  | .fin .. => true
  | _ => false

/-- A finite product in units of 2^-40; anything else contributes 0 (R65). -/
def unitsOf : FVal → Int
  | .fin n m e => FVal.scaled n m e (-40)
  | _ => 0

/-- X with a step's contribution added: clamped to the x96 range, and whether it was (R65, R57). -/
def exactAdd (old : Nat) (sum : Int) : Nat × Bool :=
  let x := signedBits 96 old + sum
  if x < -2 ^ 95 then (wrapBits 96 (-2 ^ 95), true)
  else if 2 ^ 95 ≤ x then (wrapBits 96 (2 ^ 95 - 1), true)
  else (wrapBits 96 x, false)

/-- A step's contribution to an exact element (R65, R66): block-scaled terms are L × u/256 × A. -/
def exactSum (f b : Fmt) (complex odd : Bool) (x : List Nat) (y : List Nat × Nat) : Int :=
  if b = .q4 then
    (List.zipWith (fun c d =>
      let l := q4Level d * y.2
      unitsOf ((valueOf f c).mul (.fin (decide (l < 0)) l.natAbs (-16)))) x y.1).sum
  else ((products f b complex odd x y.1).map unitsOf).sum

/-- The new code of an element, and whether its range was lost. -/
def stepElem (p : Prod) (x : List Nat) (y : List Nat × Nat) (odd : Bool) (old : Nat) : Nat × Bool :=
  if accTag p.f = .f32 then (groupedAdd old (products p.f p.b p.complex odd x y.1), false)
  else exactAdd old (exactSum p.f p.b p.complex odd x y)

/-- Is an element in the window (R159)? -/
def Prod.inWindow (p : Prod) (e : Nat) : Bool :=
  decide (p.shape.row0 ≤ e / 128 ∧ e / 128 < p.shape.row0 + p.shape.rows ∧ p.shape.col0 ≤ e % 128
    ∧ e % 128 < p.shape.col0 + p.shape.cols)

/-- A step applied to a tile (R159, R225). -/
def Prod.apply (p : Prod) (x : Tile) (rows : List (List Nat)) (cols : List (List Nat × Nat)) : Tile :=
  let x := x.taken (accTag p.f)
  let x := { x with nfseen := x.nfseen || (accTag p.f == .x96
    && (rows.any fun r => r.any fun c => !finiteCode p.f c)
      || (accTag p.f == .x96 && p.b != .q4 && cols.any fun c => c.1.any fun d => !finiteCode p.b d)) }
  rows.zipIdx.foldl (fun x (r, i) =>
    cols.zipIdx.foldl (fun x (c, j) =>
      let e := 128 * (p.shape.row0 + i) + p.shape.col0 + j
      let (v, lost) := stepElem p r c ((p.shape.col0 + j) % 2 == 1) (Tab.get x.elems 0 e)
      { x with elems := setElem x.elems e v, rlost := x.rlost || lost }) x) x

/-- The reads of a step on every engine. -/
def Prod.stepReads (p : Prod) (s : State) (t : Strand) (n : Nat) : Run (List (Nat × StepReads)) :=
  p.clusters.mapM fun k => do
    let r ← p.reads s t k n
    .ok (k, r)

/-- What the engines make of what they read for a step: the new tiles, or a fault; nothing is applied unless every engine can
(R162). -/
def Prod.stepTiles (p : Prod) (s : State) (t : Strand) (n : Nat) : List (Nat × StepReads) → List (Nat × Nat) → Run (List (Nat × Tile)) × State
  | [], _ => (.ok [], s)
  | (k, r) :: rs, l =>
    match p.operands n r l with
    | .error e => (.error e, s)
    | .ok (rows, cols) =>
      let s := s.tileFind t.ctx k p.tile p.inWindow
      let x := (s.cluster k).tile p.tile
      if x.badAt p.inWindow then (.error (.trap 0x0B01 p.tile), s)
      else match p.stepTiles s t n rs (l.drop r.all.length) with
        | (.error e, s) => (.error e, s)
        | (.ok ts, s) => (.ok ((k, p.apply x rows cols) :: ts), s)

/-- Puts the engines' tiles. -/
def Prod.putAll (p : Prod) (s : State) (l : List (Nat × Tile)) (f : Tile → Tile) : State :=
  l.foldl (fun s (k, x) => s.tilePut k p.tile (f x) p.inWindow) s

/-- The tiles of the engines as they stand. -/
def Prod.tilesNow (p : Prod) (s : State) : List (Nat × Tile) := p.clusters.map fun k => (k, (s.cluster k).tile p.tile)

/-- Changes the tiles of the engines without writing elements. -/
def Prod.markAll (p : Prod) (s : State) (f : Tile → Tile) : State :=
  p.clusters.foldl (fun s k => s.modCluster k fun c => c.setTile p.tile (f (c.tile p.tile))) s

/-- Records the next step in every resume field (R154); a product of one step never does (R280). -/
def Prod.record (p : Prod) (s : State) (t : Strand) (n : Nat) : State :=
  if p.shape.blocks = 1 then s
  else p.markAll s fun x => { x with rvalid := true, rstep := n, rpc := t.pc, rcell := t.cell }

/-- The step at which a product begins (R154): the recorded one, if the resume field of the tile of every engine names the
instruction, the cell and that step (R162); else 0. -/
def Prod.resumeStep (p : Prod) (s : State) (t : Strand) : Nat :=
  let x := (s.cluster p.home).tile p.tile
  if p.clusters.all fun k =>
    let y := (s.cluster k).tile p.tile
    y.rvalid && y.rpc == t.pc && y.rcell == t.cell && y.rstep == x.rstep
  then x.rstep else 0

/-- A step applied from what its reads read: the state, or the fault that it met with the step recorded. -/
def Prod.stepDone (p : Prod) (s : State) (t : Strand) (n : Nat) (rs : List (Nat × StepReads)) (l : List (Nat × Nat)) : Run State :=
  match p.stepTiles s t n rs l with
  | (.ok ts, s) => .ok (p.putAll s ts fun x => { x with rvalid := false })
  | (.error (.trap cause addr), s) => .error (.found (p.record s t n) cause addr)
  | (.error e, _) => .error e

/-- Applies steps `n`, `n + 1`, … up to `fuel` of them: the state, and the step that comes next. -/
def Prod.steps (p : Prod) (s : State) (t : Strand) (n : Nat) : Nat → Run (State × Nat)
  | 0 => .ok (s, n)
  | fuel + 1 =>
    if p.shape.blocks ≤ n then .ok (s, n)
    else do
      let rs ← p.stepReads s t n
      let reads := (rs.map fun r => r.2.all).flatten
      reads.forM fun r => s.turnAt t.uid t.cell r.pa
      let (l, s) := makeReads s t.ctx reads
      let s ← p.stepDone s t n rs l
      p.steps s t (n + 1) fuel

/-! ### The instruction -/

/-- The clusters of a command: the strand's own, or its gang's for a `.g4` form (R162, R287). -/
def prodClusters (t : Strand) (g4 : Bool) : List Nat :=
  let k := clusterOf t.cell
  if g4 then (List.range 4).map fun i => k / 4 * 4 + i else [k]

/-- Is the launch's effective gang 2 (R156 0x0406)? -/
def State.gangTwo (s : State) (t : Strand) : Bool :=
  match s.launchOf t with
  | some l => l.eff.gang == 2
  | none => false

/-- The whole metadata block is translated before the first step (R156). -/
def Prod.metaCheck (p : Prod) (s : State) (t : Strand) : Run Unit :=
  match p.gm with
  | none => .ok ()
  | some gm => do
    let _ ← s.pieces t (vaAdd gm 8) false (2 * p.shape.rows * 8 * p.shape.blocks) 12
    .ok ()

/-- The shape word: operand b, or the first 8 bytes of the metadata block (R157, R160), read once by a product under way. -/
def shapeWord (s : State) (t : Strand) (sparse : Bool) (y : Src) : Run (Nat × State) :=
  if sparse then
    match s.st.top.bind (·.word) with
    | some w => .ok (w, s)
    | none => do
      let l ← s.pieces t (t.dataVa y.val) false 8 3
      l.forM fun p => s.turnAt t.uid t.cell p.1.pa
      let (w, bad, s') := readPieces s t.ctx l
      match bad with
      | some a => .error (.found s' 0x0B01 a)
      | none => .ok (w, s')
  else .ok (y.val.toNat, s)

/-- A product under way keeps the shape word that it has read. -/
def State.keepWord (s : State) (w : Nat) : State :=
  { s with st := { s.st with top := s.st.top.map fun o => { o with word := some w } } }

/-- What a product leaves after a step: complete, or the next step recorded. -/
def Prod.leave (p : Prod) (s : State) (old t : Strand) (m : Nat) : State :=
  if p.shape.blocks ≤ m then (p.markAll s fun x => { x.taken (accTag p.f) with rvalid := false }).done t
  else p.record s old m

/-- A product, applying at most `limit` steps (R154, R159): the checks of R156 and R158, the steps from the recorded one
or from 0, then completion, a stop between steps, or a step's fault. Where the model delays accesses, an issue makes one read
of a step (R276). -/
def productRun (i : Instr) (s : State) (limit : Nat) (f : Fmt) (tb : TileB) (g4 sparse complex : Bool) (d : Fin 8)
    (a : SReg) (b : Opnd) : Run State := do
  tileTurn i s
  noMisuse (misuseRead a)
  noMisuse (opMisuse b)
  let (x, t) ← takeReg s s.st a
  let (y, t) ← takeOp s t b
  let ks := prodClusters t (g4 && s.gangTwo t)
  ks.forM (s.tagOn t d.val fun tag => tag == accTag f)
  ks.forM (s.holdOn t d.val)
  if g4 && !s.gangTwo t then .error (.trap 0x0406 0) else .ok ()
  if !sparse then shapeCheck y.val.toNat (bFmt f tb) complex else aligned y.val.toNat 8
  readTurn s
  let (w, s1) ← shapeWord s t sparse y
  if sparse then shapeCheck w (bFmt f tb) complex else .ok ()
  let p : Prod := ⟨f, bFmt f tb, complex, d.val, shapeOf w, t.dataVa x.val, if sparse then some (t.dataVa y.val) else none,
    ks, clusterOf t.cell⟩
  let l ← p.aPieces s1 t p.shape.rows
  aPlacement s.boot.device.toNat p.home l
  p.metaCheck s1 t
  poisonCheck x
  poisonCheck y
  let n := p.resumeStep s1 s.st
  if s.async ∧ n < p.shape.blocks then do
    let rs ← p.stepReads s1 t n
    let s2 ← tileReads s1 t (rs.map fun r => r.2.all).flatten fun got s2 => do
      let s3 ← p.stepDone s2 s.st n rs got
      .ok (p.leave s3 s.st { t with top := none } (n + 1))
    .ok (s2.keepWord w)
  else do
    let (s2, m) ← p.steps s1 s.st n limit
    .ok (p.leave s2 s.st { t with top := none } m)

/-- How many steps an issue applies: all of them, or one under a single step (R154, R344). -/
def stepLimit (t : Strand) : Nat := if t.stepping then 1 else 128

/-- `mma` (R159). -/
def execMma (f : Fmt) (tb : TileB) (g4 : Bool) (d : Fin 8) (a : SReg) (b : Opnd) (s : State) : Out :=
  .next (s.settle (tileDone s (productRun (.mma f tb g4 d a b) s (stepLimit s.st) f tb g4 false false d a b)))

/-- `mmas` (R160). -/
def execMmas (f : Fmt) (tb : TileB) (g4 : Bool) (d : Fin 8) (a : SReg) (b : SReg) (s : State) : Out :=
  .next (s.settle (tileDone s (productRun (.mmas f tb g4 d a b) s (stepLimit s.st) f tb g4 true false d a (.reg b))))

/-- `mmac` (R161). -/
def execMmac (f : Fmt) (tb : TileB) (g4 : Bool) (d : Fin 8) (a : SReg) (b : Opnd) (s : State) : Out :=
  .next (s.settle (tileDone s (productRun (.mmac f tb g4 d a b) s (stepLimit s.st) f tb g4 false true d a b)))

/-- One step of the product that the strand in focus is at. -/
def productOne (i : Instr) (s : State) : Option (Run State) :=
  match i with
  | .mma f tb g4 d a b => some (productRun i s 1 f tb g4 false false d a b)
  | .mmas f tb g4 d a b => some (productRun i s 1 f tb g4 true false d a (.reg b))
  | .mmac f tb g4 d a b => some (productRun i s 1 f tb g4 false true d a b)
  | _ => none

/-- MACRO_OP_STEP: one k-step of the product at a strand's PC, after which the strand is at the same instruction unless
it was the last step (R154). Only a strand that may issue makes one (R343, R360). -/
def execMacroOpStep (uid : Nat) (s : State) : Out :=
  match s.strand? uid with
  | none => .next s
  | some t =>
    if (t.status = .ready ∨ t.status = .blocked .issue) ∧ s.mayIssue t then
      let s' := s.focus uid
      match s'.fetchAt s'.st s'.st.pc.toNat with
      | .ok (.ok i len, s1) =>
        let s1 := { s1 with st := { s1.st with npc := s1.st.pc + BitVec.ofNat 40 (2 * len), status := .ready } }
        match (productOne i s1).map (tileDone s1) with
        | some (.ok s2) => .next s2
        | some (.error (.found s2 cause addr)) => .next (if s1.faultTurn then s1.stop (.found s2 cause addr) else s)
        | _ => .next s
      | _ => .next s
    else .next s

end Sys2Proof.Machine
end

