-- ==== Sys2Proof/Machine/Tiles.lean ====
section
/-! DEFINITION. The tile instructions other than products (R164-R171): moving rows, waiting, conversion, gates, the scan,
tile images, and TILE_COMMAND_EXECUTE. -/

namespace Sys2Proof.Machine

/-! ### trd and twr (R164), twait (R165) -/

/-- Registers of a row of 128 elements. -/
def rowRegs (f : Fmt) : Nat := 128 * f.bits / 512

/-- What the engine does with a command of the strand in focus (R164): the tile's tag must be F or raw, else the command has no
effect and its PC becomes the tile error (a later one replaces an earlier one, log entry 76). An element that has become
poisoned since the issue of its `trd` makes its part of the register poisoned (log entry 36). -/
def State.tileCmd (s : State) (c : TileCmd) : State :=
    let k := clusterOf s.st.cell
    let p (e : Nat) : Bool := e / 128 == c.row
    let x := s.tileOf s.st c.t
    if !(x.tag == c.f || x.tag == .raw) then { s with st := { s.st with terr := some c.pc } }
    else if c.read then
      let s := s.tileFind s.st.ctx k c.t p
      let x := s.tileOf s.st c.t
      let w := c.f.bits
      let vals := (List.range 128).map fun j => lowBits w (x.get (128 * c.row + j))
      let bads := (List.range 128).map fun j => x.badAt fun e => e == 128 * c.row + j
      let s := s.modCluster k fun y => y.setTile c.t { x with rvalid := false }
      { s with st := s.st.putRegs c.f c.v (packElems w vals) (packBad w bads) (rowRegs c.f) }
    else
      let y := x.taken c.f
      let elems := c.data.zipIdx.foldl (fun l (v, j) => setElem l (128 * c.row + j) v) y.elems
      s.tilePut k c.t { y with elems := elems, rvalid := false } p

/-- Carries out the oldest command in the q8 of the strand in focus (R153, R164). -/
def State.runTileCmd (s : State) : State :=
  match s.st.tileq with
  | [] => s
  | c :: r => ({ s with st := { s.st with tileq := r } }.tileCmd c).keepUndo s c.after

/-- A command pushed into q8, carried out at once unless a command before it is unfinished or the model delays it (R153; log
entry 6). -/
def pushTile (s : State) (t : Strand) (c : TileCmd) : Run State :=
  if 8 ≤ t.tileCount then .error (.wait .issue)
  else
    let s' := s.done { t with tileq := t.tileq ++ [c] }
    .ok (if s.async ∨ s.st.tileq ≠ [] then s' else s'.runTileCmd)

/-- The row operand (R156 0x0407). -/
def rowCheck (x : Src) : Run Unit := if 127 < x.val.toNat then .error (.trap 0x0407 x.val.toNat) else .ok ()

/-- The issue of a `trd` or `twr`: after the vector instructions that touch its registers, and once every earlier access is
settled; the rest of the vector stream does not hold it back (R149, R153). -/
def rowTurn (i : Instr) (s : State) (f : Fmt) (v : Nat) : Run Unit := do
  noLoop s.st
  rowClear s.st f v
  noHazard i s
  allSettled s

/-- `trd` (R164). A row in error is read at the instruction itself, so that a poisoned element faults there (R313). -/
def execTrd (f : Fmt) (d : Fin 32) (a : Fin 8) (b : Opnd) (s : State) : Out :=
  .next (s.settle (do
    rowTurn (.trd f d a b) s f d.val
    noMisuse (opMisuse b)
    let (y, t) ← takeOp s s.st b
    s.holdCheck t a.val
    rowCheck y
    tileGroup (rowRegs f) d.val
    poisonCheck y
    let row := y.val.toNat
    if s.rowInError (clusterOf t.cell) a.val row then do
      vectorIdle s.st
      tilesIdle s.st
      let (_, s1) ← s.readTile t a.val fun e => e / 128 == row
      pushTile s1 t ⟨s.st.pc, s.st.vnum, true, f, d.val, a.val, row, []⟩
    else pushTile s t ⟨s.st.pc, s.st.vnum, true, f, d.val, a.val, row, []⟩))

/-- `twr` (R164): reads its group at issue. -/
def execTwr (f : Fmt) (d : Fin 8) (a : Fin 32) (b : Opnd) (s : State) : Out :=
  .next (s.settle (do
    rowTurn (.twr f d a b) s f a.val
    if s.st.tileq.any fun c => c.read && c.holds [] (rowGroup f a.val) then .error (.wait .issue) else .ok ()
    noMisuse (opMisuse b)
    let (y, t) ← takeOp s s.st b
    tileGroupTags t (rowRegs f) a.val f
    s.holdCheck t d.val
    rowCheck y
    tileGroup (rowRegs f) a.val
    let x := t.vsrc (rowRegs f) f.bits a.val
    x.use 128 allElems
    poisonCheck y
    pushTile s t ⟨s.st.pc, s.st.vnum, false, f, a.val, d.val, y.val.toNat, (List.range 128).map x.get⟩))

/-- TILE_COMMAND_EXECUTE: the engine completes a strand's oldest `trd` or `twr`. -/
def execTileCommandExecute (uid : Nat) (s : State) : Out :=
  match s.strand? uid with
  | none => .next s
  | some t => .next (if t.tileq = [] then s else (s.focus uid).runTileCmd)

/-- `twait` (R165): raises a pending tile error and clears it. -/
def execTwait (n : Fin 64) (s : State) : Out :=
  .next (s.settle (do
    noLoop s.st
    if n.val < s.st.tileCount then .error (.wait .issue) else .ok ()
    match s.st.terr with
    | some pc => .error (.found { s with st := { s.st with terr := none } } 0x0201 pc.toNat)
    | none => .ok s.finish))

/-! ### tcvt (R166, R67) -/

/-- A scale by column: a group of 128 f32 codes, one FP32 value, or a literal's integer value. -/
def scaleOf (t : Strand) (b : Opnd) (y : Src) : Nat → FVal :=
  match b with
  | .vec n =>
    let x := t.vsrc 8 32 n.val
    fun j => fdecode .f32 (x.get j)
  | .lit v => fun _ => .ofInt v
  | _ => fun _ => fdecode .f32 (lowBits 32 y.val.toNat)

/-- An element of a tile with its value, under x96 or f32 (R166, R57). -/
def tileValue (tag : Fmt) (x : Nat) : FVal :=
  if tag = .f32 then fdecode .f32 x
  else
    let v := signedBits 96 x
    .fin (decide (v < 0)) v.natAbs (-40)

/-- Is a value finite? -/
def isFin : FVal → Bool
  | .fin .. => true
  | _ => false

/-- The converted code of S × value: an x96 zero with a finite S is +0 (R66, R166). -/
def tcvtCode (f : Fmt) (mode : RMode) (sat : Bool) (tag : Fmt) (x : Nat) (s : FVal) : Nat :=
  let v :=
    if tag ≠ .f32 ∧ x = 0 ∧ isFin s = true then FVal.fin false 0 0
    else s.mul (tileValue tag x)
  if f.isInt then wrapBits f.bits (toIntClamped mode f.minInt f.maxInt 0 v) else v.toCode f mode sat

/-- The tag checks of a tile or scale operand in field b (R317). -/
def tileBTags (t : Strand) (b : Opnd) (y : Src) : Run Unit :=
  match b with
  | .vec n => tileGroupTags t 8 n.val .f32
  | .lit _ => .ok ()
  | _ => tagCheck .f32 y

/-- The size and alignment of a vector operand in field b (R156 0x0409). -/
def tileBGroup (b : Opnd) : Run Unit :=
  match b with
  | .vec n => tileGroup 8 n.val
  | _ => .ok ()

/-- The use of a poisoned operand in field b. -/
def tileBUse (t : Strand) (b : Opnd) (y : Src) : Run Unit :=
  match b with
  | .vec n => (t.vsrc 8 32 n.val).use 128 allElems
  | _ => poisonCheck y

/-- `tcvt` (R166). -/
def execTcvt (f : Fmt) (r : Rnd) (sat : Bool) (d a : Fin 8) (b : Opnd) (s : State) : Out :=
  .next (s.settle (tileDone s (do
    tileTurn (.tcvt f r sat d a b) s
    groupClear s.st b
    noMisuse (opMisuse b)
    let (y, t) ← takeOp s s.st b
    s.tileTag t a.val fun tag => tag == .f32 || tag == .x96
    tileBTags t b y
    s.holdCheck t a.val
    s.holdCheck t d.val
    tileBGroup b
    tileBUse t b y
    let (x, s) ← s.readTile t a.val allElems
    let tag := if x.tag = .raw then .x96 else x.tag
    let mode := modeOf s r
    let k := clusterOf t.cell
    let s := s.modCluster k fun c => c.setTile a.val { c.tile a.val with rvalid := false }
    let new := { ((s.tileOf t d.val).filled f fun e => tcvtCode f mode sat tag (x.get e) (scaleOf t b y (e % 128))) with
      rlost := x.rlost, nfseen := x.nfseen }
    let s := s.tilePut k d.val new allElems
    .ok (s.done (t.status? (stickyStatus x.rlost x.nfseen))))))

/-! ### Gates (R169) -/

/-- The tile that a gate names as x. -/
def gateTile (v : Gate) (b : Opnd) : Option Nat :=
  match v, b with
  | .glu, .lit n => some n.toNat
  | .mix, .lit n => some n.toNat
  | _, _ => none

/-- Does a gate have a bias? -/
def gateBias : Gate → Bool
  | .sigb | .bias => true
  | _ => false

/-- A gate's result from s, the bias or other tile's element x, and the old element h. -/
def gateCode (v : Gate) (s x h : Nat) : Nat :=
  match v with
  | .sigb => sigmCode (radd s x)
  | .tanh => tanhCode s
  | .glu => rmul s (sigmCode x)
  | .mix => radd (rmul s h) (rmul (fsubCode .f32 .rne false 0x3F800000 s) x)
  | .expsp => expspCode s
  | .bias => radd s x

/-- The code of the bias in column `j`. -/
def biasOf (t : Strand) (b : Opnd) (y : Src) : Nat → Nat :=
  match b with
  | .vec n => (t.vsrc 8 32 n.val).get
  | _ => fun _ => lowBits 32 y.val.toNat

/-- `tgate` (R169): every tile operand is checked, and every source is read before tD is written. -/
def execTgate (v : Gate) (d a : Fin 8) (b : Opnd) (s : State) : Out :=
  .next (s.settle (tileDone s (do
    tileTurn (.tgate v d a b) s
    groupClear s.st b
    noMisuse (opMisuse b)
    let (y, t) ← takeOp s s.st b
    let other := gateTile v b
    s.tileTag t a.val (· == .f32)
    match other with
    | some n => s.tileTag t n (· == .f32)
    | none => if gateBias v then tileBTags t b y else .ok ()
    s.tileTag t d.val (· == .f32)
    s.holdCheck t a.val
    match other with
    | some n => s.holdCheck t n
    | none => .ok ()
    s.holdCheck t d.val
    if gateBias v then tileBGroup b else .ok ()
    if gateBias v then tileBUse t b y else .ok ()
    let (x, s) ← s.readTile t a.val allElems
    let (z, s) ← match other with
      | some n => s.readTile t n allElems
      | none => .ok (Tile.zero, s)
    let (h, s) ← if v = .mix then s.readTile t d.val allElems else .ok (s.tileOf t d.val, s)
    let k := clusterOf t.cell
    let clear (s : State) (n : Nat) : State := s.modCluster k fun c => c.setTile n { c.tile n with rvalid := false }
    let s := clear s a.val
    let s := match other with
      | some n => clear s n
      | none => s
    let second (e : Nat) : Nat := if other.isSome then z.get e else biasOf t b y (e % 128)
    let new := (s.tileOf t d.val).filled .f32 fun e => gateCode v (x.get e) (second e) (h.get e)
    .ok ((s.tilePut k d.val new allElems).done t))))

/-! ### Scan (R170, R171) -/

/-- A node of the scan tree. -/
structure ScanNode where
  a : Nat
  b : Nat
  f : Bool
  deriving DecidableEq, Repr

/-- One level of the tree: each position from the previous level. -/
def scanLevel (l : List ScanNode) (d : Nat) : List ScanNode :=
  l.zipIdx.map fun (x, t) =>
    if d ≤ t ∧ x.f = false then
      match l[t - d]? with
      | some y => ⟨rmul x.a y.a, fmaCode .f32 .rne false x.a y.b x.b, y.f⟩
      | none => x
    else x

/-- The levels 1, 2, 4, …, 64 below P. -/
def scanTree (l : List ScanNode) : List ScanNode :=
  (List.range 7).foldl (fun l i => if 2 ^ i < l.length then scanLevel l (2 ^ i) else l) l

/-- The final step at a position: h, and the low part of a compensated carry (R171). -/
def scanOut (pair : Bool) (x : ScanNode) (hi lo : Nat) : Nat × Nat :=
  if x.f then (x.b, 0)
  else if pair then
    let c := (fdecode .f32 hi).add .rne (fdecode .f32 lo)
    let e := ((fdecode .f32 x.a).mul c).add .rne (fdecode .f32 x.b)
    let h := e.toCode .f32 .rne false
    (h, (e.sub .rne (fdecode .f32 h)).toCode .f32 .rne false)
  else (fmaCode .f32 .rne false x.a hi x.b, 0)

/-- A column: the values h, and the carry out. -/
def scanColumn (pair : Bool) (a b : List Nat) (cont : Nat → Bool) (hi lo : Nat) : List Nat × Nat × Nat :=
  let nodes := scanTree ((List.zipWith (fun x y => (x, y)) a b).zipIdx.map fun ((x, y), t) => ⟨x, y, !cont t⟩)
  let outs := nodes.map fun x => scanOut pair x hi lo
  (outs.map (·.1), outs.getLast?.getD (0, 0))

/-- `tscan` (R170). -/
def execTscan (pair : Bool) (m : Fin 8) (d a : Fin 8) (b : Fin 32) (s : State) : Out :=
  .next (s.settle (tileDone s (do
    tileTurn (.tscan pair m d a b) s
    rowClear s.st .f32 b.val
    if pair then rowClear s.st .f32 (b.val + 8) else .ok ()
    let t := s.st
    let n := t.vl
    s.tileTag t a.val (· == .f32)
    tileGroupTags t (if pair then 16 else 8) b.val .f32
    s.tileTag t d.val (· == .f32)
    s.holdCheck t a.val
    s.holdCheck t d.val
    if n = 0 ∨ 128 < n then .error (.trap 0x0407 n) else .ok ()
    if pair && !(b.val == 0 || b.val == 8 || b.val == 16) then .error (.trap 0x0409 b.val) else .ok ()
    tileGroup 8 b.val
    let chi := t.vsrc 8 32 b.val
    let clo := t.vsrc 8 32 (b.val + 8)
    chi.use 128 allElems
    if pair then clo.use 128 allElems else .ok ()
    let rows (e : Nat) : Bool := decide (e / 128 < n)
    let (x, s) ← s.readTile t a.val rows
    let (y, s) ← s.readTile t d.val rows
    let cont (i : Nat) : Bool := (t.m.get m).getLsbD i
    let cols := (List.range 128).map fun c =>
      scanColumn pair ((List.range n).map fun i => x.get (128 * i + c)) ((List.range n).map fun i => y.get (128 * i + c))
        cont (chi.get c) (if pair then clo.get c else 0)
    let k := clusterOf t.cell
    let s := s.modCluster k fun c => c.setTile a.val { c.tile a.val with rvalid := false }
    let old := s.tileOf t d.val
    let new := old.filled .f32 fun e =>
      if e / 128 < n then (cols.getD (e % 128) ([], 0, 0)).1.getD (e / 128) 0 else old.get e
    let s := s.tilePut k d.val new rows
    let t := t.putRegs .f32 b.val (packElems 32 (cols.map (·.2.1))) 0 8
    let t := if pair then t.putRegs .f32 (b.val + 8) (packElems 32 (cols.map (·.2.2))) 0 8 else t
    .ok (s.done t))))

/-! ### Tile images (R167), tzero (R168) -/

/-- Bytes of a tile image. -/
def imageBytes : Nat := 196672

/-- The header words of a tile's image. -/
def Tile.header (x : Tile) : List Word :=
  [BitVec.ofNat 64 (x.tag.code + bitOf x.rlost * 2 ^ 4 + bitOf x.nfseen * 2 ^ 5),
   BitVec.ofNat 64 (bitOf x.rvalid + x.rstep % 128 * 2 + x.rpc.toNat * 2 ^ 8),
   BitVec.ofNat 64 (x.rcell % 2 ^ 20), 0, 0, 0, 0, 0]

/-- Byte `i` of a tile's image. -/
def Tile.imageByte (x : Tile) (i : Nat) : Byte :=
  if i < 64 then BitVec.ofNat 8 ((x.header.getD (i / 8) 0).toNat / 256 ^ (i % 8) % 256)
  else BitVec.ofNat 8 (x.get ((i - 64) / 12) / 256 ^ ((i - 64) % 12) % 256)

/-- The 64-byte piece `n` of an image, as a number. -/
def Tile.piece (x : Tile) (n : Nat) : Nat :=
  (List.range 64).foldr (fun i acc => (x.imageByte (64 * n + i)).toNat + 256 * acc) 0

/-- Does piece `n` hold a byte of a poisoned element? -/
def Tile.pieceBad (x : Tile) (n j : Nat) : Bool :=
  x.poison.any fun w =>
    let a := 64 + 12 * (w / 2) + 8 * (w % 2)
    decide (a / 8 = 8 * n + j ∨ (a + (if w % 2 = 0 then 7 else 3)) / 8 = 8 * n + j)

/-- The pieces of an image stored in order at their fabric addresses: one store each (R167); poisoned elements store
poisoned words (R313). -/
def storePieces (s : State) (w : Writer) (x : Tile) : List (Nat × Loc × Nat) → Run State
  | [] => .ok s
  | (n, l, va) :: r =>
    match s.overAt l.pa 64 (x.piece n) va with
    | some a => .error (.trap 0x0605 (a % 2 ^ 64))
    | none =>
      let s := s.write w l.watched l.pa 64 (x.piece n)
      let bad := ((List.range 8).filter (x.pieceBad n)).map fun j => l.pa / 8 + j
      storePieces { s with poison := bad ++ s.poison } w x r

/-- The 64-byte pieces of the page pieces of an image. -/
def imagePieces (l : List (Loc × Nat × Nat)) : List (Nat × Loc × Nat) :=
  ((l.map fun (loc, k, va) => (List.range (k / 64)).map fun i => ((⟨loc.pa + 64 * i, loc.watched⟩ : Loc), va + 64 * i)).flatten).zipIdx.map
    fun ((loc, va), n) => (n, loc, va)

/-- Does a piece of an image lie where an evolving word may (R312)? -/
def State.lawPiece (s : State) (pa : Nat) : Bool :=
  s.liveParts.any fun p => p.regions.any fun r => (r.2.offsetOf pa).isSome || (r.2.offsetOf (pa + 63)).isSome

/-- The stores of an image by the strand in focus, and the state that `f` makes of it after the last: all at once; or, where
the model delays accesses, one in each step (R257, R276), unless one of them may find the sweep load too high, which leaves
nothing stored (R312). -/
def tileStores (s : State) (t : Strand) (x : Tile) (l : List (Nat × Loc × Nat)) (f : State → State) : Run State :=
  let k := (s.st.top.map (·.stored)).getD 0
  if k ≠ 0 ∨ (s.async ∧ !(l.any fun p => s.lawPiece p.2.1.pa)) then
    match l[k]? with
    | none => .ok (f s)
    | some p => do
      s.turnAt t.uid t.cell p.2.1.pa
      let s ← storePieces s t.writer x [p]
      .ok (if k + 1 < l.length then s.partWay s.st ⟨k + 1, [], none⟩ else f s)
  else do
    l.forM fun p => s.turnAt t.uid t.cell p.2.1.pa
    let s ← storePieces s t.writer x l
    .ok (f s)

/-- `tst` (R167). -/
def execTst (d : Fin 8) (base : Base) (e : Int) (s : State) : Out :=
  .next (s.settle (do
    noLoop s.st
    homeTurn (.tst d base e) s
    tilesIdle s.st
    noMisuse (baseMisuse base)
    let (x, t) ← takeBase s s.st base
    s.holdCheck t d.val
    let va := accessVa t x.val e
    aligned va 64
    let l ← s.pieces t va true imageBytes 5
    poisonCheck x
    if s.rollFull t.part ((l.filter fun p => p.1.watched).map fun p => (p.1.pa, p.2.1)) then .error (.wait .issue) else .ok ()
    let k := clusterOf t.cell
    let s := s.tileFind t.ctx k d.val allElems
    tileStores s t (s.tileOf t d.val) (imagePieces l) fun s =>
      (s.modCluster k fun c => c.setTile d.val { c.tile d.val with rvalid := false }).done
        { t with wcount := t.wcount + 1, top := none }))

/-- A tile read from an image's bytes: none when it is not valid (R167). Elements under raw are zero (R152), and their code is
taken as 64 bits wide in the test for bits above it (log entry 112). -/
def tileFrom (img : Nat) (old : Tile) : Option Tile :=
  let h (i : Nat) := img / 2 ^ (64 * i) % 2 ^ 64
  let tag := Fmt.ofCode (h 0 % 16)
  let w := if tag = .x96 then 96 else tag.bits
  let elem (e : Nat) := img / 2 ^ (512 + 96 * e) % 2 ^ 96
  if h 0 / 2 ^ 6 ≠ 0 ∨ h 1 / 2 ^ 48 ≠ 0 ∨ h 2 / 2 ^ 20 ≠ 0 ∨ img / 2 ^ 192 % 2 ^ 320 ≠ 0 then none
  else if (List.range 16384).any fun e => elem e / 2 ^ w != 0 then none
  else
    some { old.filled tag (if tag = .raw then fun _ => 0 else elem) with
      rlost := bitAt (h 0) 4, nfseen := bitAt (h 0) 5, rvalid := bitAt (h 1) 0, rstep := h 1 / 2 % 128,
      rpc := BitVec.ofNat 40 (h 1 / 2 ^ 8), rcell := h 2 % 2 ^ 20 }

/-- The reads of the pieces of an image. -/
def imageReads (l : List (Nat × Loc × Nat)) : List EngRead := l.map fun p => ⟨p.2.1.pa, 64, p.2.2, true⟩

/-- What the pieces from number `n` on read: the value, and the word indexes of the image that are poisoned. -/
def joinImage (n : Nat) : List (Nat × Nat) → Nat × List Nat
  | [] => (0, [])
  | (x, m) :: r =>
    let (y, b) := joinImage (n + 1) r
    (x + 2 ^ 512 * y, ((List.range 8).filter (bitAt m)).map (8 * n + ·) ++ b)

/-- Element parts that lie in poisoned words of an image. -/
def poisonParts (bads : List Nat) : List Nat :=
  (List.range 32768).filter fun w =>
    let a := 64 + 12 * (w / 2) + 8 * (w % 2)
    bads.contains (a / 8) || bads.contains ((a + (if w % 2 = 0 then 7 else 3)) / 8)

/-- `tld` (R167): a poisoned word of the elements poisons them; one of the header faults (log entry 35). -/
def execTld (d : Fin 8) (base : Base) (e : Int) (s : State) : Out :=
  .next (s.settle (tileDone s (do
    tileTurn (.tld d base e) s
    readTurn s
    noMisuse (baseMisuse base)
    let (x, t) ← takeBase s s.st base
    s.holdCheck t d.val
    let va := accessVa t x.val e
    aligned va 64
    let l ← s.pieces t va false imageBytes 5
    poisonCheck x
    tileReads s t (imageReads (imagePieces l)) fun got s1 =>
      let (img, bads) := joinImage 0 got
      if bads.any (· < 8) then .error (.found s1 0x0B01 (va % 2 ^ 64))
      else match tileFrom img Tile.zero with
        | none => .error (.found s1 0x0408 (va % 2 ^ 64))
        | some y =>
          let k := clusterOf t.cell
          let s2 := s1.tilePut k d.val y allElems
          let s2 := if bads = [] then s2 else s2.modCluster k fun c =>
            c.setTile d.val { c.tile d.val with poison := poisonParts bads }
          .ok (s2.done { t with top := none }))))

/-- `tzero` (R168). -/
def execTzero (a : Fin 8) (s : State) : Out :=
  .next (s.settle (tileDone s (do
    tileTurn (.tzero a) s
    s.holdCheck s.st a.val
    .ok ((s.tilePut (clusterOf s.st.cell) a.val Tile.zero allElems).finish))))

end Sys2Proof.Machine
end

