-- ==== Sys2Proof/Machine/Evolution.lean ====
section
/-! DEFINITION. Evolving words (R230-R239): law tables, the value of a law after k ticks, crossings, the evolution of a
word or pair, and the reports of crossings. -/

namespace Sys2Proof.Machine

/-! ### Law entries (R232) -/

/-- An entry of a law table. -/
structure LawEntry where
  kind : Nat
  dir : Nat
  act : Nat
  next : Nat
  s : Nat
  p : Int
  sin : Int
  theta : Int
  rest : Int
  m : Int
  entry : Nat
  tag : Nat
  bad : Bool
  deriving DecidableEq, Repr

/-- Law 0, HOLD, whose entry is never read. -/
def LawEntry.hold : LawEntry := ⟨0, 0, 0, 0, 0, 0, 0, 0, 0, 0, 0, 0, false⟩

/-- The entry in 32 bytes. -/
def lawEntryOf (x : Nat) : LawEntry :=
  let f (hi lo : Nat) := bitsOf x hi lo
  let g (lo : Nat) := signedBits 32 (x / 2 ^ lo)
  { kind := f 1 0, dir := f 3 2, act := f 5 4, next := f 15 8, s := f 20 16, p := g 32, sin := g 64, theta := g 96,
    rest := g 128, m := g 160, entry := f 231 192, tag := f 247 232,
    bad := f 7 6 != 0 || f 31 21 != 0 || f 255 248 != 0 || f 5 4 == 3 || ((f 1 0 == 2) != (f 20 16 != 0))
      || decide (g 160 < 0) || f 192 192 == 1 }

/-- Is the law OSCILLATE? -/
def LawEntry.osc (e : LawEntry) : Bool := e.kind == 3

/-- Reads the entry of a law through the pages recorded at install (R231): a poisoned entry faults with its address. -/
def State.lawEntry (s : State) (c : ErrCtx) (r : Region) (law : Nat) : Run (LawEntry × State) :=
  if law = 0 then .ok (LawEntry.hold, s)
  else
    let o := r.ltOff + 32 * law
    let (x, bad, s) := s.readAt c (r.ltPages.getD (o / 65536) 0 * 65536 + o % 65536) 32
    if bad then .error (.found s 0x0B01 ((r.lt.toNat + 32 * law) % 2 ^ 64)) else .ok (lawEntryOf x, s)

/-! ### The value after k ticks (R234) -/

/-- clamp(x): to [-M, M], or to the Q15.16 range when M = 0. -/
def LawEntry.clamp (e : LawEntry) (x : Int) : Int :=
  if e.m = 0 then max (-2 ^ 31) (min (2 ^ 31 - 1) x) else max (-e.m) (min e.m x)

/-- f_k of LEAK, by the bits of k from the lowest. -/
def leakPower (b f k : Nat) : Nat → Nat
  | 0 => f
  | n + 1 => leakPower (b * b / 2 ^ 32) (if k % 2 = 1 then f * b / 2 ^ 32 else f) (k / 2) n

/-- rne(x / 2^30). -/
def rne30 (x : Int) : Int := roundToInt .rne (decide (x < 0)) x.natAbs (-30)

/-- (c1, s1) o (c2, s2). -/
def oscMul (x y : Int × Int) : Int × Int :=
  (rne30 (x.1 * y.1 - x.2 * y.2), rne30 (x.2 * y.1 + x.1 * y.2))

/-- (c_k, s_k), by squaring. -/
def oscPower (r q : Int × Int) (k : Nat) : Nat → Int × Int
  | 0 => r
  | n + 1 => oscPower (if k % 2 = 1 then oscMul r q else r) (oscMul q q) (k / 2) n

/-- The value (and for a pair its y) k ticks later under one law; k is below 2^24. -/
def LawEntry.value (e : LawEntry) (x y : Int) (k : Nat) : Int × Int :=
  match e.kind with
  | 0 => (x, y)
  | 1 => (e.clamp (x + e.p * k), y)
  | 2 =>
    let f := leakPower (2 ^ 32 - 2 ^ (32 - e.s)) (2 ^ 32) k 24
    (e.clamp (e.rest + Int.tdiv ((x - e.rest) * f) (2 ^ 32)), y)
  | _ =>
    let (c, s) := oscPower (2 ^ 30, 0) (e.p, e.sin) k 24
    (e.clamp (rne30 (c * x - s * y)), e.clamp (rne30 (s * x + c * y)))

/-! ### Crossings (R235) -/

/-- The direction in which V0 is short of θ: up or down; none when it is not short or dir is 0. -/
def LawEntry.short (e : LawEntry) (v : Int) : Option Bool :=
  if (e.dir = 1 ∨ e.dir = 3) ∧ v < e.theta then some true
  else if (e.dir = 2 ∨ e.dir = 3) ∧ e.theta < v then some false
  else none

/-- Is a value on or past θ in a direction? -/
def LawEntry.past (e : LawEntry) (up : Bool) (v : Int) : Bool := if up then decide (e.theta ≤ v) else decide (v ≤ e.theta)

/-- The least k, from `k` on for `n` of them, with `p k`. -/
def firstFrom (p : Nat → Bool) (k : Nat) : Nat → Option Nat
  | 0 => none
  | n + 1 => if p k then some k else firstFrom p (k + 1) n

/-- The crossing tick from (x, y) over 1..rem. -/
def LawEntry.first (e : LawEntry) (x y : Int) (rem : Nat) : Option Nat :=
  if e.kind = 0 then none
  else match e.short x with
    | none => none
    | some up => firstFrom (fun k => e.past up (e.value x y k).1) 1 rem

/-- Crossings under act 1 from (x, y) with `rem` ticks left, `at0` ticks after the segment's start: the value at its end,
and the crossings, latest first. -/
def resetRun (e : LawEntry) (x y : Int) (at0 rem : Nat) (acc : List Nat) : Nat → (Int × Int) × List Nat
  | 0 => (e.value x y rem, acc)
  | fuel + 1 =>
    match e.first x y rem with
    | none => (e.value x y rem, acc)
    | some k => resetRun e e.rest (if e.osc then 0 else y) (at0 + k) (rem - k) ((at0 + k) :: acc) fuel

/-! ### Evolution (R235) -/

/-- A segment with crossings: the word, the law's number and entry, first and last crossing tick, count, and the value that
the report carries. -/
structure Segment where
  pa : Nat
  v : Int
  law : Nat
  e : LawEntry
  first : Int
  last : Int
  count : Nat
  deriving DecidableEq, Repr

/-- Where an evolution stands: x and y, the law and its entry's kind, the ticks consumed, whether a switch to or from
OSCILLATE makes the odd word take the law and stamp of the even one (R233), the segments so far, and whether it stopped
at the ninth switch. -/
structure Evo where
  x : Int
  y : Int
  law : Nat
  osc : Bool
  t : Nat
  odd : Bool
  segs : List Segment
  stopped : Bool
  deriving DecidableEq, Repr

/-- The loop of R235, with `T - Δ` = `t0`; `fuel` is 10 minus the switches made. `solo`: an odd word of no pair, which may
not take an OSCILLATE law. -/
def evolveLoop (s : State) (c : ErrCtx) (r : Region) (va : Nat) (t0 : Int) (delta : Nat) (solo : Bool) (v : Evo) :
    Nat → Run (Evo × State)
  | 0 => .ok ({ v with stopped := decide (v.t < delta) }, s)
  | fuel + 1 =>
    if delta ≤ v.t then .ok (v, s)
    else if fuel = 0 then .ok ({ v with stopped := true }, s)
    else if v.law = 0 then .ok ({ v with t := delta }, s)
    else do
      let (e, s) ← s.lawEntry c r v.law
      if e.bad then .error (.found s 0x0602 va)
      else
        let rem := delta - v.t
        let b := t0 + v.t
        match e.first v.x v.y rem with
        | none =>
          let (x, y) := e.value v.x v.y rem
          .ok ({ v with x := x, y := y, t := delta }, s)
        | some k =>
          if e.act = 2 then do
            let (x, y) := e.value v.x v.y k
            let (n, s) ← s.lawEntry c r e.next
            if n.osc && solo then .error (.found s 0x0602 va)
            else
              evolveLoop s c r va t0 delta solo
                { v with x := x, y := y, t := v.t + k, law := e.next, osc := n.osc,
                         odd := v.odd || v.osc || n.osc
                         segs := v.segs ++ [⟨0, 0, v.law, e, b + k, b + k, 1⟩] } fuel
          else
            let ((x, y), ks) :=
              if e.act = 1 then resetRun e e.rest (if e.osc then 0 else v.y) k (rem - k) [k] rem
              else (e.value v.x v.y rem, [k])
            .ok ({ v with x := x, y := y, t := delta
                          segs := v.segs ++ [⟨0, 0, v.law, e, b + k, b + (ks.headD k : Nat), min 65535 ks.length⟩] }, s)

/-- The parts of a state word (R233): V, stamp, law. -/
def wordV (w : Nat) : Int := signedBits 32 (w / 2 ^ 32)
def wordStamp (w : Nat) : Nat := bitsOf w 31 8
def wordLaw (w : Nat) : Nat := w % 256

/-- A state word joined. -/
def wordOf (v : Int) (stamp : Int) (law : Nat) : Nat := wrapBits 32 v * 2 ^ 32 + wrapBits 24 stamp * 2 ^ 8 + law % 256

/-- The tick of a region at the homes of a die (R231): under STEP, the counter as they hold it (R240). -/
def Region.tick (s : State) (r : Region) (die : Nat) : Nat := if r.step then (r.seen.getD die 0).toNat else s.now / 2 ^ r.n

/-- What the addressed word is once its word or pair has evolved (R233): the first word, the y of a pair, or the odd word of
a pair that the evolution has ended, an ordinary word again. -/
inductive WordPlace where
  | first | y | odd
  deriving DecidableEq, Repr

/-- An evolved word or pair: its first word's fabric address, the addressed word's place, the evolution, the odd word's law,
the tick T, and the tick at which V holds. -/
structure Evolved where
  xpa : Nat
  place : WordPlace
  v : Evo
  ylaw : Nat
  now : Int
  vt : Int
  deriving DecidableEq, Repr

/-- Evolves the word at `pa` (or its pair) to the tick of its home (R233-R235). -/
def State.evolve (s : State) (c : ErrCtx) (r : Region) (va pa : Nat) : Run (Evolved × State) := do
  let even := pa / 16 * 16
  let odd : Bool := pa % 16 == 8
  let (w0, bad0, s) := s.readAt c even 8
  let (w1, bad1, s) := s.readAt c (even + 8) 8
  if (if odd then bad1 else bad0) then .error (.found s 0x0B01 va)
  else do
    let (e0, s) ← s.lawEntry c r (wordLaw w0)
    let pair := e0.osc
    if pair && (bad0 || bad1) then .error (.found s 0x0B01 va)
    else do
      let (e1, s) ← if odd && !pair then s.lawEntry c r (wordLaw w1) else .ok (e0, s)
      let solo := odd && !pair
      if solo && e1.osc then .error (.found s 0x0602 va)
      else do
        let w := if solo then w1 else w0
        let T : Int := r.tick s (homeDie pa)
        let delta := wrapBits 24 (T - wordStamp w)
        let (v, s) ← evolveLoop s c r va (T - delta) delta solo ⟨wordV w, wordV w1, wordLaw w, pair, 0, false, [], false⟩ 10
        let vt := if v.stopped then T - delta + v.t else T
        let xpa := if solo then pa else even
        let v := { v with segs := v.segs.map fun g => { g with pa := xpa, v := v.x } }
        let place : WordPlace := if !odd || solo then .first else if v.osc then .y else .odd
        if v.odd && bad1 then .error (.found s 0x0B01 va) else .ok (⟨xpa, place, v, v.law, T, vt⟩, s)

/-- The addressed word's value and law. -/
def Evolved.val (x : Evolved) : Int := if x.place = .first then x.v.x else x.v.y
def Evolved.law (x : Evolved) : Nat := if x.place = .odd then x.ylaw else x.v.law

/-- The addressed word with a value. -/
def Evolved.setVal (x : Evolved) (v : Int) : Evolved :=
  { x with v := if x.place = .first then { x.v with x := v } else { x.v with y := v } }

/-- The addressed word with a law, whose entry says whether it is OSCILLATE: the odd word takes it too when the old or the new
law is OSCILLATE (R233, R239); an odd word that is no y takes it alone. -/
def Evolved.setLaw (x : Evolved) (law : Nat) (osc : Bool) : Evolved :=
  if x.place = .odd then { x with ylaw := law }
  else
    let both := x.v.osc || osc
    { x with v := { x.v with law := law, osc := osc, odd := x.v.odd || both }, ylaw := if both then law else x.ylaw }

/-! ### Writing back and reporting -/

/-- The word to write at the even place and, when the odd word takes part, at the odd place. -/
def Evolved.words (x : Evolved) : List (Nat × Nat) :=
  (x.xpa, wordOf x.v.x x.vt x.v.law) ::
    if x.v.osc || x.v.odd || x.place == .odd then [(x.xpa + 8, wordOf x.v.y x.vt x.ylaw)] else []

/-- Writes words at their home: with a bump for `swst`, `swadd`, `swlaw` (R238), never for `swld` and sweeps. When one of
them would raise the sweep load too far, none is written (R312): `s0` is the state before. -/
def putWords (s0 s : State) (w : Writer) (bump watched : Bool) (va : Nat) : List (Nat × Nat) → Run State
  | [] => .ok s
  | (pa, x) :: r =>
    if s.overload pa 8 x then .error (.found s0 0x0605 (va / 16 * 16 + pa % 16))
    else putWords s0 (if bump then s.write w watched pa 8 x else s.writeAt w.ctx pa 8 x) w bump watched va r

/-- The address of a word in its region. -/
def Region.wordAddr (r : Region) (pa : Nat) : Nat :=
  match r.offsetOf pa with
  | some o => (r.start.toNat + o) % 2 ^ 64
  | none => 0

/-- The payload of a crossing report (R236); a crossing that `swadd` itself makes carries the value after it (log entry
105). -/
def reportPayload (n addr : Nat) (sweep : Bool) (vt : Int) (g : Segment) : List Word :=
  [BitVec.ofNat 64 addr, BitVec.ofInt 64 g.first, BitVec.ofInt 64 g.last,
   BitVec.ofNat 64 (g.count % 2 ^ 16 + n % 64 * 2 ^ 16 + g.law % 256 * 2 ^ 22 + bitOf sweep * 2 ^ 30 + wrapBits 32 g.v * 2 ^ 32),
   BitVec.ofInt 64 vt, 0]

/-- Sends the reports of an evolution in segment order: from the report cell to itself, under the region's owner (R236),
each with its kind 10 record (R337). -/
def State.report (s : State) (p n : Nat) (r : Region) (x : Evolved) (sweep : Bool) : State :=
  let corr := match (s.part p).launch? r.owner with
    | some l => l.eff.corr.toNat
    | none => 0
  if r.rvalid = false then s
  else (x.v.segs.filter fun g => g.e.entry != 0).foldl (fun s g =>
    (s.traceOn p (homeDie g.pa) 10 0 0xFFFFF sweep corr (r.wordAddr g.pa) (BitVec.ofInt 64 g.first).toNat s.now).depart
      { id := 0, sent := 0, kind := .normal, src := r.rcell, dst := r.rcell, seq := 0, part := p, launch := r.owner
        entry := BitVec.ofNat 40 g.e.entry, tag := BitVec.ofNat 16 g.e.tag, coord := 0
        payload := reportPayload n (r.wordAddr g.pa) sweep x.vt g, host := none }) s

end Sys2Proof.Machine
end

