-- ==== Sys2Proof/Machine/Laws.lean ====
section
/-! DEFINITION. Evolving words and law regions (R237-R240): what `swld`, `swst`, `swadd`, `swlaw` and `step` do at their homes,
`swsweep`, SWEEP_PASS and SWEEP_EVOLUTION. -/

namespace Sys2Proof.Machine

/-! ### What an access does at its home (R238, R239) -/

/-- What an access does after the evolution: the evolved word changed, the value for gD, the status. -/
structure SwAct where
  x : Evolved
  res : Int
  status : Option Nat

/-- Does `swadd` with a new value cross (R239)? -/
def swaddHit (e : LawEntry) (x : Evolved) (v : Int) : Bool :=
  match e.short x.val with
  | some up => e.past up v
  | none => false

/-- `swadd` under the entry of the word's law; `n` is the entry of the law that a switch takes. -/
def swaddAct (e n : LawEntry) (d : Int) (x : Evolved) : SwAct :=
  let v := e.clamp (x.val + d)
  if x.place = .y then ⟨x.setVal v, v, some 0⟩
  else if swaddHit e x v then
    let v := if e.act = 1 then e.rest else v
    let pa := if x.place = .odd then x.xpa + 8 else x.xpa
    let y := x.setVal v
    let y := { y with v := { y.v with segs := y.v.segs ++ [⟨pa, v, x.law, e, x.now, x.now, 1⟩] } }
    match e.act with
    | 1 => ⟨if x.place = .first ∧ x.v.osc then { y with v := { y.v with y := 0 } } else y, v, some 1⟩
    | 2 => ⟨y.setLaw e.next n.osc, v, some 1⟩
    | _ => ⟨y, v, some 1⟩
  else ⟨x.setVal v, v, some 0⟩

/-- May the addressed word take a law: an odd word of no pair takes no OSCILLATE law (R229 0x0602)? -/
def oddOsc (pa : Nat) (x : Evolved) (n : LawEntry) : Bool := pa % 16 == 8 && x.place != .y && n.osc

/-- The action of an access after the evolution; `swadd` reads the entry of the word's law, and of the law that a switch
takes. -/
def swAct (i : Instr) (s : State) (c : ErrCtx) (r : Region) (va pa : Nat) (b : Word) (x : Evolved) : Run (SwAct × State) :=
  match i with
  | .swst .. => .ok (⟨x.setVal (signedBits 32 b.toNat), 0, none⟩, s)
  | .swadd .. => do
    let (e, s) ← s.lawEntry c r x.law
    if e.bad then .error (.found s 0x0602 va)
    else
      let d := signedBits 32 b.toNat
      let crosses := x.place != .y && swaddHit e x (e.clamp (x.val + d))
      let (n, s) ← if crosses ∧ e.act = 2 then s.lawEntry c r e.next else .ok (LawEntry.hold, s)
      if oddOsc pa x n then .error (.found s 0x0602 va) else .ok (swaddAct e n d x, s)
  | .swlaw .. => do
    let (n, s) ← s.lawEntry c r (b.toNat % 256)
    if oddOsc pa x n then .error (.found s 0x0602 va) else .ok (⟨x.setLaw (b.toNat % 256) n.osc, x.law, none⟩, s)
  | _ => .ok (⟨x, x.val, none⟩, s)

/-- `swld`, `swst`, `swadd`, `swlaw` at their home (R229, R238): the evolution, the action, the write back, the reports; the
word is met through the region that holds its address. `swld` bumps no knot. -/
def swPerform (s : State) (q : Req) : Run Perf :=
  let a := q.va % 2 ^ 64
  let bump := writesMem q.ins
  match (s.part q.w.part).regionAt q.loc.pa with
  | none => .error (.trap 0x0601 a)
  | some (n, reg) => do
    if bump && q.loc.watched && s.rollFull q.w.part [(q.loc.pa, 8)] then .error (.wait .issue) else .ok ()
    let (ev, s1) ← s.evolve q.w.ctx reg a q.loc.pa
    let (k, s1) ← swAct q.ins s1 q.w.ctx reg a q.loc.pa q.b ev
    let s2 ← putWords s1 s1 q.w bump q.loc.watched a k.x.words
    .ok ⟨s2.report q.w.part n reg k.x false, BitVec.ofInt 64 k.res, k.status, false⟩

/-! ### Sweeps (R237) -/

/-- The offsets in a region of the words whose law is not HOLD, from offset `o` on: the least, if there is one. -/
def Region.nextWord (s : State) (r : Region) (o : Nat) : Option Nat :=
  ((s.mem.filterMap fun c => if c.1 % 8 = 0 then r.offsetOf c.1 else none).filter (o ≤ ·)).min?

/-- Evolves one word for a sweep; a word that an access would fault on is skipped. -/
def State.sweepWord (s : State) (p n : Nat) (r : Region) (o : Nat) : State :=
  let pa := r.addrOf o
  match s.evolve ErrCtx.engine r (r.wordAddr pa) pa with
  | .ok (x, s1) =>
    match putWords s1 s1 ⟨p, ErrCtx.engine, 0, 0⟩ false false 0 x.words with
    | .ok s2 => s2.report p n r x true
    | .error _ => s1
  | .error (.found s1 _ _) => s1
  | .error _ => s

/-- A whole pass over the words from an offset on, `fuel` words at most. -/
def State.sweepAll (s : State) (p n : Nat) (r : Region) (o : Nat) : Nat → State
  | 0 => s
  | fuel + 1 =>
    match Region.nextWord s r o with
    | none => s
    | some w => (s.sweepWord p n r w).sweepAll p n r (w + 8) fuel

/-- A region of a partition. -/
def Part.region? (p : Part) (n : Word) : Option Region :=
  if 64 ≤ n.toNat then none else (p.regions.find? fun e => e.1 == n.toNat).map (·.2)

/-- Changes a region of a partition. -/
def State.modRegion (s : State) (p n : Nat) (f : Region → Region) : State :=
  s.modPart p fun x => { x with regions := x.regions.map fun e => if e.1 = n then (e.1, f e.2) else e }

/-- The dies that home words of a region, ascending. -/
def Region.dies (r : Region) : List Nat := (List.range 4).filter fun d => r.pages.any fun g => homeDie (g * 65536) == d

/-- The kind 11 records of the start or the end of a pass (R337): one for the pass of each die's sweep engine. -/
def State.traceSweep (s : State) (p n : Nat) (fin : Bool) : State :=
  match (s.part p).region? (BitVec.ofNat 64 n) with
  | none => s
  | some r =>
    let corr := match (s.part p).launch? r.owner with
      | some l => l.eff.corr.toNat
      | none => 0
    r.dies.foldl (fun s d => s.traceOn p d 11 0 0xFFFFF fin corr n (r.tick s d) s.now) s

/-! ### step (R240) -/

/-- Where a `step` of a region is performed: at the task unit that homes the region, apart from every home of memory. -/
def State.stepAddr (s : State) (n : Nat) : Nat := s.boot.device.toNat * 2 ^ 48 + 0xFF0000000000 + n

/-- Does a counter that advances by `k` to `new` cross a multiple of 2^21 (R237)? -/
def stepCross (new k : Word) : Bool := (new - k).toNat / 2 ^ 21 != new.toNat / 2 ^ 21

/-- `step` at its region's home: the counter advances, one `step` at a time (R240). A crossing of a multiple of 2^21 starts a
pass, and waits for the end of the one before (R237). -/
def stepPerform (s : State) (q : Req) (n : Nat) : Run Perf :=
  match (s.part q.w.part).region? (BitVec.ofNat 64 n) with
  | none => .error (.trap 0x0601 n)
  | some r =>
    let new := r.ctr + q.b
    if stepCross new q.b then
      if r.pass.isSome then .error (.wait .issue)
      else
        let s1 := s.modRegion q.w.part n fun r => { r with ctr := new, pass := some 0, passStart := s.now }
        .ok ⟨s1.traceSweep q.w.part n false, new, none, false⟩
    else .ok ⟨s.modRegion q.w.part n fun r => { r with ctr := new }, new, none, false⟩

/-- Do the homes of a die hold an older counter than `new`? -/
def Region.behind (r : Region) (new : Word) (die : Nat) : Bool :=
  let k := (new - r.seen.getD die 0).toNat
  k != 0 && decide (k < 2 ^ 63)

/-- The homes of a die hold a counter. -/
def Region.see (r : Region) (new : Word) (die : Nat) : Region := { r with seen := r.seen.set die new }

/-- The counter that a `step` has made reaches the homes of one more die (R240, R255; log entry 119); `none` when every home holds it. -/
def State.stepReach (s : State) (p n : Nat) (new : Word) : Option State :=
  match (s.part p).region? (BitVec.ofNat 64 n) with
  | none => none
  | some r => ((List.range 4).find? (r.behind new)).map fun d => s.modRegion p n fun r => r.see new d

/-- Every home of the partition holds the counter that a `step` has made: what completes the `step` (R240). -/
def State.stepSeen (s : State) (p n : Nat) (new : Word) : State :=
  s.modRegion p n fun r => ((List.range 4).filter (r.behind new)).foldl (fun r d => r.see new d) r

/-- `swsweep` (R237): the whole pass, as one step. A region number that names none is a fault of the home (R317). -/
def execSwsweep (b : Opnd) (s : State) : Out :=
  .next (s.settle (do
    homeTurn (.swsweep b) s
    noMisuse (opMisuse b)
    let (y, t) ← takeOp s s.st b
    poisonCheck y
    match (s.part t.part).region? y.val with
    | none => .error (.trap 0x0601 y.val.toNat)
    | some r =>
      .ok ((((s.done t).traceSweep t.part y.val.toNat false).sweepAll t.part y.val.toNat r 0 (r.size / 8 + 1)).traceSweep
        t.part y.val.toNat true)))

/-- SWEEP_PASS: the sweep engines start a pass over a WALL region (R237). -/
def execSweepPass (p region : Nat) (s : State) : Out :=
  match (s.part p).region? (BitVec.ofNat 64 region) with
  | some r =>
    if r.step = false ∧ r.pass = none then
      .next ((s.modRegion p region fun r => { r with pass := some 0, passStart := s.now }).traceSweep p region false)
    else .next s
  | none => .next s

/-- SWEEP_EVOLUTION: the next word of the lowest-numbered region of a partition with a pass running; a pass with no word
left ends (R237). -/
def execSweepEvolution (p : Nat) (s : State) : Out :=
  match (s.part p).regions.find? fun e => e.2.pass.isSome with
  | none => .next s
  | some (n, r) =>
    match Region.nextWord s r (r.pass.getD 0) with
    | none => .next ((s.modRegion p n fun r => { r with pass := none }).traceSweep p n true)
    | some o => .next ((s.sweepWord p n r o).modRegion p n fun r => { r with pass := some (o + 8) })

end Sys2Proof.Machine
end

