-- ==== Sys2Proof/Machine/Home.lean ====
section
/-! DEFINITION. The instructions that access memory as one access of the scalar stream: loads, stores, `ldc`, the atomics,
exact reductions, ring, barrier and evolving-word operations, `step` (R174-R192, R238-R240). Each is performed at its home at once
with its reply, or sent on its way: ACCESS_PERFORM and ACCESS_REPLY (R257-R263, R270). -/

namespace Sys2Proof.Machine

/-! ### What the homes do -/

/-- The operation of an access at its home. -/
def homeOp (s : State) (q : Req) : Run Perf :=
  match q.ins with
  | .ld f .. => .ok (loadAt s q.w.ctx f q.loc.pa)
  | .ldc f .. => .ok (ldcAt s q.w.ctx f q.loc.pa q.w.ctx.cell
      (((s.strand? q.w.who).map fun t => t.ldcSince (q.loc.pa / 64)).getD 0))
  | .st f .. => storeAt s q f
  | .xred f .. => xredAt s q f
  | .xrd f r _ _ _ => xrdAt s q f (r.mode q.mode)
  | .enq .. => ringAt s q true
  | .deq .. => ringAt s q false
  | .barm .. => barmAt s q
  | .bput .. => bputAt s q
  | .swld .. | .swst .. | .swadd .. | .swlaw .. => swPerform s q
  | .step .. => stepPerform s q (q.loc.pa % 2 ^ 16)
  | i =>
    let (f, _, _) := vmemOf i
    if isLoad i then
      let (x, bad, s) := elemRead s q.w.ctx f q.b.toNat q.loc.pa
      .ok ⟨s, BitVec.ofNat 64 x, none, bad⟩
    else if isStore i then do
      let y := elemBits s f q.b.toNat q.loc.pa q.d.toNat
      s.writeOk q.w q.loc.watched q.loc.pa (elemBytes f) y q.va
      .ok ⟨s.write q.w q.loc.watched q.loc.pa (elemBytes f) y, 0, none, false⟩
    else atomicAt s q (accessFmt i)

/-- The bytes that an access touches. -/
def accessSize : Instr → Nat
  | .xred .. | .xrd .. | .enq .. | .deq .. => 32
  | .barm .. | .bput .. => 16
  | i => if isVectorMem i then elemBytes (vmemOf i).1 else (accessFmt i).size

/-- Does a reply of an access reach its strand: a value, a status or an element? A store is acknowledged and gone. -/
def hasReply (i : Instr) : Bool := (accessDst i).isSome || replyStatus i || isLoad i

/-! ### At issue -/

/-- Must an access to `pa` wait its turn: for the vector stream (R131), for its home (R259, R270), or for an earlier access
that may fault (R318)? A ring operation goes to the home of its element too. Does it leave the device, or is every access of the
model delayed? -/
def State.mustQueue (s : State) (t : Strand) (i : Instr) (pa : Nat) : Bool :=
  s.async || s.remote pa || !t.vq.isEmpty || s.homeBusy t.uid (homeOf pa) || s.pairBusy t.cell pa
    || ((ringPush i).isSome && s.accs.any fun x => x.uid == t.uid && !x.done)
    || (!isLoad i && s.accs.any fun x => x.uid == t.uid && s.mayFault x)

/-- An access performed in the step that issues it, with its reply. `step` is complete once every home has the counter
(R240). -/
def accessNow (s : State) (t : Strand) (i : Instr) (loc : Loc) (va : Nat) (b d : Word) : Run State := do
  if isHomeOp i then s.windowHold t t.wops loc.pa else .ok ()
  let p ← homeOp s ⟨t.writer, i, loc, va, b, d, t.rmode⟩
  let s1 := match i with
    | .step .. => p.s.stepSeen t.part (loc.pa % 2 ^ 16) p.res
    | _ => p.s
  let t := match i with
    | .ldc .. => p.s.seenBy t t.cell loc.pa
    | _ => t
  let t ← replyTo (t.countWrite i) i p.res p.rstat p.poison
  .ok (if isHomeOp i then (s1.done t).windowDone t loc.pa else s1.done t)

/-- An access sent on its way to its home. -/
def State.sendAccess (s : State) (t : Strand) (i : Instr) (loc : Loc) (va : Nat) (b d : Word) : State :=
  let x : Access :=
    { id := s.nextId, uid := t.uid, cell := t.cell, pc := s.st.pc, ckpt := s.st.checkpoint, ins := i, va := va, pa := loc.pa
      b := b, d := d, watched := loc.watched, wno := t.wcount, wop := t.wops, after := t.vnum, done := false, doneAt := 0
      res := 0, rstat := none, poison := false, fault := none, walk := none }
  let t := t.countWrite i
  { s with accs := s.accs ++ [x], nextId := s.nextId + 1 }.done (if isHomeOp i then s.countWindow t loc.pa else t)

/-- The access of a scalar instruction, translated (R177, R182, R261). An `ldc` that hits makes none, so that nothing holds
its value back (R259). -/
def access (s : State) (t : Strand) (i : Instr) (loc : Loc) (va : Nat) (b d : Word) : Run State :=
  if s.mustQueue t i loc.pa && !s.ldcHits t loc.pa i then .ok (s.sendAccess t i loc va b d)
  else accessNow s t i loc va b d

/-- An access takes its turn in the scalar stream: not while a `vrep` loop runs (R149), and after the replies and vector
results that it waits for. -/
def accessTurn (i : Instr) (s : State) : Run Unit := do
  noLoop s.st
  noHazard i s

/-! ### Loads, stores, atomics -/

/-- `ld` and `ldc`: the destination is checked before the access (R102, R177). -/
def loadRun (i : Instr) (s : State) (f : Fmt) (d : SReg) (base : Base) (e : Int) : Run State := do
  accessTurn i s
  noMisuse (baseMisuse base)
  noMisuse (misuseWrite d)
  let (x, t) ← takeBase s s.st base
  hasRoom t d
  let va := accessVa t x.val e
  aligned va f.size
  let loc ← s.locate t va 0 true false false
  poisonCheck x
  access s t i loc va 0 0

/-- `ld` (R177). -/
def execLd (f : Fmt) (d : SReg) (base : Base) (e : Int) (s : State) : Out :=
  .next (s.settle (loadRun (.ld f d base e) s f d base e))

/-- `ldc` (R179). -/
def execLdc (f : Fmt) (d : SReg) (base : Base) (e : Int) (s : State) : Out :=
  .next (s.settle (loadRun (.ldc f d base e) s f d base e))

/-- `st` (R178): reads d after the base, checks it against F. -/
def execSt (f : Fmt) (d : SReg) (base : Base) (e : Int) (s : State) : Out :=
  .next (s.settle (do
    accessTurn (.st f d base e) s
    noMisuse (baseMisuse base)
    noMisuse (misuseRead d)
    let (x, t) ← takeBase s s.st base
    let (z, t) ← takeReg s t d
    tagCheck f z
    let va := accessVa t x.val e
    aligned va f.size
    let loc ← s.locate t va 1 false true false
    poisonCheck x
    poisonCheck z
    access s t (.st f d base e) loc va 0 z.val))

/-- An atomic (R182, R183): `checkB` and `checkD` for operands whose tag is checked against F, `readsD` when the old
destination is read. It needs read and write permission (log entry 32). -/
def atomicRun (i : Instr) (s : State) (f : Fmt) (d : SReg) (base : Base) (b : Opnd) (checkB readsD checkD : Bool) :
    Run State := do
  accessTurn i s
  noMisuse (baseMisuse base)
  noMisuse (opMisuse b)
  noMisuse (if readsD then misuseRead d else none)
  noMisuse (misuseWrite d)
  let (x, t) ← takeBase s s.st base
  let (y, t) ← takeOp s t b
  let (z, t) ← if readsD then takeReg s t d else .ok (Src.zero, t)
  hasRoom t d
  if checkB then tagCheck f y else .ok ()
  if checkD then tagCheck f z else .ok ()
  let va := accessVa t x.val 0
  aligned va f.size
  let loc ← s.locate t va 3 true true false
  poisonCheck x
  poisonCheck y
  poisonCheck z
  access s t i loc va y.val z.val

/-- `aadd` (R183). -/
def execAadd (f : Fmt) (d : SReg) (base : Base) (b : Opnd) (s : State) : Out :=
  .next (s.settle (atomicRun (.aadd f d base b) s f d base b true false false))
/-- `aand` (R183). -/
def execAand (f : Fmt) (d : SReg) (base : Base) (b : Opnd) (s : State) : Out :=
  .next (s.settle (atomicRun (.aand f d base b) s f d base b false false false))
/-- `aor` (R183). -/
def execAor (f : Fmt) (d : SReg) (base : Base) (b : Opnd) (s : State) : Out :=
  .next (s.settle (atomicRun (.aor f d base b) s f d base b false false false))
/-- `axor` (R183). -/
def execAxor (f : Fmt) (d : SReg) (base : Base) (b : Opnd) (s : State) : Out :=
  .next (s.settle (atomicRun (.axor f d base b) s f d base b false false false))
/-- `amin` (R183). -/
def execAmin (f : Fmt) (d : SReg) (base : Base) (b : Opnd) (s : State) : Out :=
  .next (s.settle (atomicRun (.amin f d base b) s f d base b true false false))
/-- `amax` (R183). -/
def execAmax (f : Fmt) (d : SReg) (base : Base) (b : Opnd) (s : State) : Out :=
  .next (s.settle (atomicRun (.amax f d base b) s f d base b true false false))
/-- `axchg` (R183). -/
def execAxchg (f : Fmt) (d : SReg) (base : Base) (b : Opnd) (s : State) : Out :=
  .next (s.settle (atomicRun (.axchg f d base b) s f d base b false false false))
/-- `acas` (R183). -/
def execAcas (f : Fmt) (d : SReg) (base : Base) (b : Opnd) (s : State) : Out :=
  .next (s.settle (atomicRun (.acas f d base b) s f d base b false true false))
/-- `incw` (R184). -/
def execIncw (f : Fmt) (d : SReg) (base : Base) (b : Opnd) (s : State) : Out :=
  .next (s.settle (atomicRun (.incw f d base b) s f d base b true false false))
/-- `bfadd` (R185). -/
def execBfadd (f : Fmt) (d : SReg) (base : Base) (b : Opnd) (s : State) : Out :=
  .next (s.settle (atomicRun (.bfadd f d base b) s f d base b true true true))

/-! ### Exact reductions (R186, R187) -/

/-- `xred` (R186): waits for its reply, so its faults are precise; it is performed in the step that issues it. -/
def execXred (f : Fmt) (base : Base) (b : Opnd) (s : State) : Out :=
  .next (s.settle (do
    noLoop s.st
    homeTurn (.xred f base b) s
    noMisuse (baseMisuse base)
    noMisuse (opMisuse b)
    let (x, t) ← takeBase s s.st base
    let (y, t) ← takeOp s t b
    tagCheck f y
    let va := accessVa t x.val 0
    aligned va 32
    let loc ← s.locate t va 3 false true false
    poisonCheck x
    poisonCheck y
    s.turnAt t.uid t.cell loc.pa
    accessNow s t (.xred f base b) loc va y.val 0))

/-- `xrd` (R187). -/
def execXrd (f : Fmt) (r : Rnd) (d : SReg) (base : Base) (e : Int) (s : State) : Out :=
  .next (s.settle (do
    accessTurn (.xrd f r d base e) s
    noMisuse (baseMisuse base)
    noMisuse (misuseWrite d)
    let (x, t) ← takeBase s s.st base
    hasRoom t d
    let va := accessVa t x.val e
    aligned va 32
    let loc ← s.locate t va 3 true false false
    poisonCheck x
    access s t (.xrd f r d base e) loc va 0 0))

/-! ### Ring queues (R188, R189) -/

/-- The alignment, translation and permission of the element come before poison in an operand (R317), as far as the block
gives the element. -/
def ringElement (s : State) (t : Strand) (va pa : Nat) (push : Bool) : Run Unit :=
  if s.inError pa 32 then .ok ()
  else match ringParts (memRead s.mem pa 32) with
    | none => .ok ()
    | some r =>
      if r.moves push then (s.ringSlot t.part t.asid t.cell va r push).2.map fun _ => () else .ok ()

/-- A ring operation (R189): the block needs read and write permission; what it does is done at the block's home. -/
def ringRun (i : Instr) (s : State) (d : SReg) (base : Base) (b : Option Opnd) (push : Bool) : Run State := do
  noMisuse (baseMisuse base)
  noMisuse (match b with
    | some o => opMisuse o
    | none => none)
  noMisuse (misuseWrite d)
  let (x, t) ← takeBase s s.st base
  let (y, t) ← match b with
    | some o => takeOp s t o
    | none => .ok (Src.zero, t)
  hasRoom t d
  let va := accessVa t x.val 0
  aligned va 32
  let loc ← s.locate t va 3 true true false
  if x.bad || y.bad then ringElement s t va loc.pa push else .ok ()
  poisonCheck x
  poisonCheck y
  access s t i loc va y.val 0

/-- `enq` (R189): waits until the unacknowledged store count is zero. -/
def execEnq (d : SReg) (base : Base) (b : Opnd) (s : State) : Out :=
  .next (s.settle (do
    accessTurn (.enq d base b) s
    noStores s
    ringRun (.enq d base b) s d base (some b) true))

/-- `deq` (R189). -/
def execDeq (d : SReg) (base : Base) (s : State) : Out :=
  .next (s.settle (do
    accessTurn (.deq d base) s
    ringRun (.deq d base) s d base none false))

/-! ### Token barriers (R191, R192) -/

/-- `barm` (R191). -/
def execBarm (base : Base) (b : Opnd) (s : State) : Out :=
  .next (s.settle (do
    accessTurn (.barm base b) s
    noMisuse (baseMisuse base)
    noMisuse (opMisuse b)
    let (x, t) ← takeBase s s.st base
    let (y, t) ← takeOp s t b
    let va := accessVa t x.val 0
    aligned va 16
    let loc ← s.locate t va 3 false true false
    poisonCheck x
    poisonCheck y
    access s t (.barm base b) loc va y.val 0))

/-- `bput` (R192): waits until the unacknowledged store count is zero. -/
def execBput (base : Base) (s : State) : Out :=
  .next (s.settle (do
    accessTurn (.bput base) s
    noStores s
    noMisuse (baseMisuse base)
    let (x, t) ← takeBase s s.st base
    let va := accessVa t x.val 0
    aligned va 16
    let loc ← s.locate t va 3 false true false
    poisonCheck x
    access s t (.bput base) loc va 0 0))

/-! ### Evolving words and step (R238-R240) -/

/-- The shape of the four accesses of evolving words: `dst` or `src` is field d; `r` says whether the page must permit reading
too, beside writing (log entry 32). -/
def swRun (i : Instr) (s : State) (dst src : Option SReg) (base : Base) (e : Int) (b : Option Opnd) (r : Bool) :
    Run State := do
  accessTurn i s
  noMisuse (baseMisuse base)
  noMisuse (match b with
    | some o => opMisuse o
    | none => none)
  noMisuse (match src with
    | some d => misuseRead d
    | none => none)
  noMisuse (match dst with
    | some d => misuseWrite d
    | none => none)
  let (x, t) ← takeBase s s.st base
  let (y, t) ← match b with
    | some o => takeOp s t o
    | none => .ok (Src.zero, t)
  let (z, t) ← match src with
    | some d => takeReg s t d
    | none => .ok (Src.zero, t)
  match dst with
  | some d => hasRoom t d
  | none => .ok ()
  let va := accessVa t x.val e
  aligned va 8
  let loc ← s.locate t va 3 r true false
  poisonCheck x
  poisonCheck y
  poisonCheck z
  access s t i loc va (if src.isSome then z.val else y.val) 0

/-- `swld` (R238). -/
def execSwld (d : SReg) (base : Base) (e : Int) (s : State) : Out :=
  .next (s.settle (swRun (.swld d base e) s (some d) none base e none true))

/-- `swst` (R239). -/
def execSwst (d : SReg) (base : Base) (e : Int) (s : State) : Out :=
  .next (s.settle (swRun (.swst d base e) s none (some d) base e none false))

/-- `swadd` (R239). -/
def execSwadd (d : SReg) (base : Base) (b : Opnd) (s : State) : Out :=
  .next (s.settle (swRun (.swadd d base b) s (some d) none base 0 (some b) true))

/-- `swlaw` (R239). -/
def execSwlaw (d : SReg) (base : Base) (b : Opnd) (s : State) : Out :=
  .next (s.settle (swRun (.swlaw d base b) s (some d) none base 0 (some b) true))

/-- `step` (R240): the kind of the region is checked before n (log entry 40), and a number that names no region is a fault of
the home (R317). It waits until the unacknowledged store count is zero, and goes to the home of the region. -/
def execStep (d : SReg) (a b : Opnd) (s : State) : Out :=
  .next (s.settle (do
    accessTurn (.step d a b) s
    noMisuse (misuseWrite d)
    let (x, y, t) ← takeAB s a b
    hasRoom t d
    let r := (s.part t.part).region? x.val
    if r.any fun r => !r.step then .error (.trap 0x0604 x.val.toNat)
    else if 2 ^ 22 < y.val.toNat then .error (.trap 0x0603 y.val.toNat)
    else .ok ()
    poisonCheck x
    poisonCheck y
    if r.isNone then .error (.trap 0x0601 x.val.toNat) else .ok ()
    noStores s
    access s t (.step d a b) ⟨s.stepAddr x.val.toNat, false⟩ x.val.toNat y.val 0))

/-! ### ACCESS_PERFORM (R257-R261) -/

/-- The writer that an access belongs to. -/
def Access.writer (x : Access) (t : Strand) : Writer := ⟨t.part, { t.ctx with cell := x.cell }, t.uid, x.wno⟩

/-- What an access asks of its home. -/
def Access.req (x : Access) (s : State) (t : Strand) : Req :=
  ⟨x.writer t, x.ins, ⟨x.pa, x.watched || (s.part t.part).watches x.pa (accessSize x.ins)⟩, x.va, x.b, x.d, x.ckpt.rmode⟩

/-- Is an access stalled on a walk (R189, R321)? -/
def State.stalled (s : State) (x : Access) : Bool := x.walk.any fun w => s.walks.any fun y => y.id == w.1

/-- May the home perform the access now? Earlier accesses of the strand to this home come first (R259), and what its pair
carries before it (R270). It has entered the outbound path, it is not stalled, and a replay admits it (R347). The homes of other
devices are not this one's (R274, log entry 9). -/
def State.canPerform (s : State) (x : Access) (t : Strand) : Bool :=
  !x.done && !s.remote x.pa
  && !((s.earlier x).any fun y => !y.done && (s.touches y (homeOf x.pa) || s.touches x (homeOf y.pa)))
  && !(match homeCell x.pa with
    | some b => b != x.cell && s.pathBusy x.cell b x.id
    | none => false)
  && s.entered x t && !s.stalled x
  && (!isHomeOp x.ins || (s.windowHold t x.wop x.pa).toOption.isSome)

/-- An access has been performed: its reply is held for the strand, or it is gone. -/
def State.performed (s : State) (n : Nat) (res : Word) (rstat : Option Nat) (poison : Bool) (fault : Option (Nat × Nat)) : State :=
  { s with
    accs := (s.accs.map fun y => if y.id = n then { y with
      done := true, doneAt := s.nextId, res := res, rstat := rstat.map (BitVec.ofNat 64 ·), poison := poison, fault := fault }
      else y).filter fun y => !(y.id == n && y.fault.isNone && !hasReply y.ins)
    nextId := s.nextId + 1 }

/-- ACCESS_PERFORM. -/
def execAccessPerform (n : Nat) (s : State) : Out :=
  match s.accs.find? fun x => x.id == n with
  | none => .next s
  | some x =>
    match s.strand? x.uid with
    | none => .next { s with accs := s.accs.filter fun y => y.id != n }
    | some t =>
      if s.canPerform x t then
        match homeOp s (x.req s t) with
        | .ok p =>
          let s1 := if isHomeOp x.ins then p.s.windowLog t x.wop x.pa else p.s
          let s1 := match x.ins with
            | .ldc .. => s1.modStrand x.uid fun t => s1.seenBy t x.cell x.pa
            | _ => s1
          .next (s1.performed n p.res p.rstat p.poison none)
        | .error (.trap cause addr) => .next (s.performed n 0 none false (some (cause, addr)))
        | .error (.found s1 cause addr) => .next (s1.performed n 0 none false (some (cause, addr)))
        | .error (.miss va acc) =>
          let (id, s1) := s.startWalk (dieOf x.cell) t.part t.asid va acc false x.cell t.slot
          .next { s1 with accs := s1.accs.map fun y => if y.id = n then { y with walk := some (id, va) } else y }
        | .error _ => .next s
      else .next s

/-! ### ACCESS_REPLY (R260, R263) -/

/-- Is a reply held by what its home sent to the cell that issued the access before it: messages, accesses, replies (R270)? -/
def State.replyHeld (s : State) (x : Access) : Bool :=
  match homeCell x.pa with
  | some b => b != x.cell && s.pathBusy b x.cell x.doneAt
  | none => false

/-- The boundaries after an access keep its reply (R131, R263). -/
def State.replyAfter (s : State) (x : Access) : State :=
  let f (c : Checkpoint) : Checkpoint := c.reply x.ins x.res (x.rstat.map (·.toNat)) x.poison
  let before := (s.accs.takeWhile fun y => y.id != x.id).map (·.id)
  let accs := s.accs.map fun y : Access => if y.uid = x.uid ∧ !before.contains y.id then { y with ckpt := f y.ckpt } else y
  { s with accs := accs }.modStrand x.uid fun t => { t with
    vq := t.vq.map fun e : VEntry => if x.after ≤ e.num then { e with ckpt := f e.ckpt } else e
    undo := t.undo.map f }

/-- May the strand take a fault that a home found for an access: its vector instructions before it have executed, and no
instruction that acts outside it is under way? -/
def Strand.takesLate (t : Strand) (x : Access) : Bool :=
  t.inSlot && !(t.vq.any fun e => decide (e.num < x.after)) && match t.status with
    | .blocked .issue | .blocked (.walk ..) => true
    | .blocked _ => false
    | _ => true

/-- THE FAULT OF A HOME, found for an access whose strand has gone on (R93, R318): the strand is put back to the boundary
before the instruction, and takes the fault there. -/
def State.lateFault (s : State) (x : Access) (cause addr : Nat) : State :=
  let s1 := s.focus x.uid
  let keep := (s1.accs.takeWhile fun y => y.id != x.id).map (·.id)
  let s2 := { s1 with
    accs := s1.accs.filter fun y => y.uid != x.uid || keep.contains y.id
    st := { s1.st.restore x.ckpt with
      pc := x.pc, vq := [], undo := none, saves := []
      status := if s1.st.status = Status.halted then Status.halted else Status.ready } }
  s2.takeFault cause x.pc (BitVec.ofNat 64 addr)

/-- ACCESS_REPLY: the reply reaches the strand, wherever it is (R212): its destination and status, an element of its vector
instruction, or the fault of its home, which a strand stopped for good does not take. A `step`'s counter first reaches the homes, those of one die at a time (R240, R255). -/
def execAccessReply (n : Nat) (s : State) : Out :=
  match s.accs.find? fun x => x.id == n && x.done with
  | none => .next s
  | some x =>
    let gone (s : State) : State := { s with accs := s.accs.filter fun y => y.id != n }
    match s.strand? x.uid with
    | none => .next (gone s)
    | some t =>
      if s.replyHeld x then .next s
      else match x.fault with
        | some (cause, addr) =>
          .next (if t.status = .stopped then gone s else if t.takesLate x then s.lateFault x cause addr else s)
        | none =>
          if isVectorMem x.ins then
            .next ((gone s).modStrand x.uid fun t => t.modEntry (x.after - 1) fun e =>
              { e with got := e.got ++ [(x.b.toNat, x.res.toNat, x.poison)] })
          else
            let reach : Option State := match x.ins with
              | .step .. => s.stepReach t.part (x.pa % 2 ^ 16) x.res
              | _ => none
            match reach, replyTo t x.ins x.res (x.rstat.map (·.toNat)) x.poison with
            | some s1, _ => .next s1
            | none, .ok t' => .next (gone ((s.modStrand x.uid fun _ => t').replyAfter x))
            | none, .error _ => .next s

end Sys2Proof.Machine
end

