-- ==== Sys2Proof/Machine/Knots.lean ====
section
/-! DEFINITION. The watch tree (R241-R249): the instructions on knots, CLOSE_NOTICE and ROLLUP_INCREMENT. -/

namespace Sys2Proof.Machine

/-- Is a knot index in use? `knotTop` bounds the indexes in use. -/
def State.knotLive (s : State) (p n : Nat) : Bool := decide (n < (s.part p).knotTop) && (s.knot p n).live

/-- A live interior knot. -/
def State.knotInterior (s : State) (p n : Nat) : Bool := s.knotLive p n && !(s.knot p n).leaf

/-- The lowest free index of the table (R241), if it is not full. -/
def State.freeKnot (s : State) (p : Nat) : Option Nat :=
  let top := (s.part p).knotTop
  match (List.range top).find? fun n => !s.knotLive p n with
  | some n => some n
  | none => if top < 2 ^ 24 then some top else none

/-- Makes knot `n` live under a parent. -/
def State.makeKnot (s : State) (p n parent : Nat) (leaf : Bool) (obase osize : Nat) : State :=
  (s.putKnot p n ⟨0, parent, (s.knot p parent).depth + 1, true, leaf, obase, osize⟩).modPart p fun x =>
    { x with knotTop := max x.knotTop (n + 1) }

/-- A home reads the second word of some knots' records, with their parent, depth and marks: the errors are met, and a poisoned
one is a fault that names the knot (R313; log entry 106). -/
def State.readLinks (s : State) (p : Nat) : List Nat → Run State
  | [] => .ok s
  | n :: ns =>
    let (_, bad, s) := s.readAt ErrCtx.engine (s.knotAddr p n + 8) 8
    if bad then .error (.found s 0x0B01 n) else s.readLinks p ns

/-- Those of every knot of the table. -/
def State.readTable (s : State) (p : Nat) : Run State := s.readLinks p (List.range (s.part p).knotTop)

/-- The 0x0701 check on a knot (R229), whose record is read. -/
def State.knotCheck (s : State) (p : Nat) (n : Word) (interior : Bool) : Run State := do
  let s ← s.readLinks p ([n.toNat].filter fun m => m < (s.part p).knotTop)
  if (if interior then s.knotInterior p n.toNat else s.knotLive p n.toNat) then .ok s
  else .error (.found s 0x0701 n.toNat)

/-- Writes the second word of a knot's record. -/
def State.putLink (s : State) (p n : Nat) (k : Knot) : State :=
  s.writeAt ErrCtx.engine (s.knotAddr p n + 8) 8 (k.words.getD 1 0).toNat

/-- Waits until the unit of the die that homes a knot has room (R311). -/
def State.rollRoom (s : State) (p n : Nat) : Run Unit :=
  if s.unitRoom (s.knotDie p n) 1 then .ok () else .error (.wait .issue)

/-- A knot's count read by its home (R246): the errors of its word are met, and a poisoned word is a fault that names the knot
(R313; log entry 106). -/
def State.readKnot (s : State) (p n : Nat) : Run (Nat × State) :=
  let (v, bad, s) := s.readAt ErrCtx.engine (s.knotAddr p n) 8
  if bad then .error (.found s 0x0B01 n) else .ok (v, s)

/-- One scalar operand b with no tag check. -/
def takeB (s : State) (b : Opnd) : Run (Src × Strand) := do
  noMisuse (opMisuse b)
  takeOp s s.st b

/-- `knew` (R242). -/
def execKnew (d : SReg) (b : Opnd) (s : State) : Out :=
  .next (s.settle (do
    homeTurn (.knew d b) s
    noMisuse (misuseWrite d)
    let (y, t) ← takeB s b
    hasRoom t d
    poisonCheck y
    let s ← s.knotCheck t.part y.val true
    let parent := y.val.toNat
    if 16 ≤ (s.knot t.part parent).depth then .error (.found s 0x0702 parent) else .ok ()
    let s ← s.readTable t.part
    match s.freeKnot t.part with
    | none => .ok (s.done (t.status? 1))
    | some n => do
      let t ← putReg t d (BitVec.ofNat 64 n) .raw
      .ok ((s.makeKnot t.part n parent false 0 0).done (t.status? 0))))

/-- Drops every translation held for a partition of a page that holds a byte of some fabric ranges, as `tlbinv` does (R333). -/
def State.dropPages (s : State) (p : Nat) (l : List (Nat × Nat)) : State :=
  let f (es : List TlbEntry) : List TlbEntry := es.filter fun e =>
    !((s.asidRoot e.asid).any (fun r => r.2 == p) && l.any fun r => decide (e.pa < r.1 + r.2 ∧ r.1 < e.pa + 2 ^ e.log))
  { s with cells := s.cells.map fun x => (x.1, { x.2 with tlb := f x.2.tlb })
           clusters := s.clusters.map fun x => (x.1, { x.2 with tlb := f x.2.tlb })
           dies := s.dies.map fun x => (x.1, { x.2 with tlb := f x.2.tlb }) }

/-- A translation of a page that the instruction makes itself, with the state after the walk; a page without one is a miss
(R243, R321). -/
def State.pageOf (s : State) (t : Strand) (va : Nat) : Run (Loc × State) :=
  match s.tlbFind t.cell t.asid va with
  | some e => do
    let loc ← s.permit t.part e va false false false
    .ok (loc, s)
  | none =>
    match s.walk t.asid va with
    | (_, none) => .error (.miss va 3)
    | (s, some e) => do
      let loc ← s.permit t.part e va false false false
      .ok (loc, s)

/-- The fabric pieces of an object, page by page: each page must have a translation (R243). -/
def objectPieces (s : State) (t : Strand) (va n : Nat) : Nat → Run (List (Nat × Nat) × State)
  | 0 => .ok ([], s)
  | fuel + 1 =>
    if n = 0 then .ok ([], s)
    else do
      let k := min n (65536 - va % 65536)
      let (loc, s) ← s.pageOf t va
      let (rest, s) ← objectPieces s t (va / 2 ^ 64 * 2 ^ 64 + (va + k) % 2 ^ 64) (n - k) fuel
      .ok ((loc.pa, k) :: rest, s)

/-- Walks the pages of an object: the leaf entries of a watched one are marked (R243, R333), and those of one that has been
freed lose the mark (R249). -/
def walkPages (f : State → Nat → Nat → State) (s : State) (asid va : Nat) : Nat → State
  | 0 => s
  | n + 1 => walkPages f (f s asid va) asid (va + 65536) n

/-- `kenrol` (R243): an object that overlaps a watched one is refused; the ancestors receive +1. A base or size that R229
refuses is a fault of the home (R317), and so is a size that osize cannot hold (log entry 118). The translations of its
pages are dropped, so that each is made again with the watched attribute (R333). -/
def execKenrol (d : SReg) (base : Base) (b : Opnd) (s : State) : Out :=
  .next (s.settle (do
    homeTurn (.kenrol d base b) s
    noMisuse (baseMisuse base)
    noMisuse (opMisuse b)
    noMisuse (misuseRead d)
    noMisuse (misuseWrite d)
    let (x, t) ← takeBase s s.st base
    let (y, t) ← takeOp s t b
    let (z, t) ← takeReg s t d
    hasRoom t d
    let size := y.val.toNat
    let bad : Bool := x.val.toNat % 4096 != 0 || size == 0 || size % 4096 != 0 || decide (2 ^ 48 ≤ size)
    let va := accessVa t x.val 0
    let (l, s) ← if bad then .ok ([], s) else objectPieces s t va size (size / 65536 + 2)
    poisonCheck x
    poisonCheck y
    poisonCheck z
    if bad then .error (.trap 0x0704 x.val.toNat) else .ok ()
    let s ← s.knotCheck t.part z.val true
    let parent := z.val.toNat
    if 16 ≤ (s.knot t.part parent).depth then .error (.found s 0x0702 parent) else .ok ()
    if (s.part t.part).objects.any fun o => l.any fun r => o.touched r.1 r.2 then .error (.found s 0x0705 x.val.toNat) else .ok ()
    let s ← s.readTable t.part
    match s.freeKnot t.part with
    | none => .ok (s.done (t.status? 1))
    | some n => do
      s.rollRoom t.part n
      let t ← putReg t d (BitVec.ofNat 64 n) .raw
      let s1 := s.makeKnot t.part n parent true x.val.toNat size
      let s2 := s1.modPart t.part fun p => { p with objects := p.objects ++ [(⟨n, t.asid, va, size, l⟩ : Watched)] }
      let s3 := walkPages (fun s a v => (s.walk a v).1) s2 t.asid (va / 65536 * 65536) l.length
      .ok (((s3.dropPages t.part l).rollUp t.part n 1).done (t.status? 0))))

/-- Does a knot have children? Knot 0 is nobody's child, whatever its parent field holds (R241). -/
def State.hasChildren (s : State) (p n : Nat) : Bool :=
  (List.range (s.part p).knotTop).any fun m => m != 0 && s.knotLive p m && (s.knot p m).parent == n

/-- `kfree` (R249): the ancestors receive +1 and what the units still held for the knot; the pages of a leaf lose the watched
attribute. A later leaf of the same index starts with no identity taken (R245). -/
def execKfree (b : Opnd) (s : State) : Out :=
  .next (s.settle (do
    homeTurn (.kfree b) s
    let (y, t) ← takeB s b
    poisonCheck y
    let n := y.val.toNat
    let s ← s.knotCheck t.part y.val false
    let s ← s.readTable t.part
    if n = 0 || s.hasChildren t.part n then .error (.found s 0x0706 n) else .ok ()
    s.rollRoom t.part n
    let held := ((s.rollups t.part).filter fun e => e.1 == n).map (·.2)
    let gone := (s.part t.part).objects.filter fun o => o.knot == n
    let s1 := s.rollUp t.part n (1 + held.sum)
    let s2 := { s1 with dies := s1.dies.map fun x : Nat × Die =>
      (x.1, { x.2 with rollups := x.2.rollups.filter fun e => !(e.1 == t.part && e.2.1 == n) }) }
    let s3 := s2.modPart t.part fun p => { p with
      objects := p.objects.filter fun o => o.knot != n, bumps := p.bumps.filter fun b => b.1 != n }
    let s4 := s3.putKnot t.part n ⟨0, 0, 0, false, false, 0, 0⟩
    let s5 := gone.foldl (fun s o =>
      (walkPages State.unwatch s o.asid (o.va / 65536 * 65536) o.ranges.length).dropPages t.part o.ranges) s4
    .ok (s5.done t)))

/-- The chain of a knot: itself and its ancestors. -/
def State.chain (s : State) (p n : Nat) : Nat → List Nat
  | 0 => []
  | fuel + 1 => if n = 0 then [0] else n :: s.chain p (s.knot p n).parent fuel

/-- Is knot `m` in the subtree of `n`? Depth is at most 16 (R241). -/
def State.beneath (s : State) (p n m : Nat) : Bool := (s.chain p m 17).contains n

/-- `kread` (R246). -/
def execKread (d : SReg) (b : Opnd) (s : State) : Out :=
  .next (s.settle (do
    homeTurn (.kread d b) s
    noMisuse (misuseWrite d)
    let (y, t) ← takeB s b
    hasRoom t d
    poisonCheck y
    let s ← s.knotCheck t.part y.val false
    let (n, s1) ← s.readKnot t.part y.val.toNat
    let t ← putReg t d (BitVec.ofNat 64 n) .raw
    .ok (s1.done t)))

/-- The count of a live knot, its record read; what is wrong with it is a fault (R229, R313). -/
def State.countOf (s : State) (p n : Nat) : Run (Nat × State) := do
  let s ← s.knotCheck p (BitVec.ofNat 64 n) false
  s.readKnot p n

/-- Does no roll-up unit hold an increment for the subtree of a knot (R311)? -/
def State.settled (s : State) (p n : Nat) : Bool := !((s.rollups p).any fun e => s.beneath p n e.1)

/-- `ksettle` (R247): waits for the strand's own stores, and for the roll-up of every bump beneath the knot;
a kind 13 record (R337). -/
def execKsettle (d : SReg) (b : Opnd) (s : State) : Out :=
  .next (s.settle (do
    homeTurn (.ksettle d b) s
    noStores s
    noMisuse (misuseWrite d)
    let (y, t) ← takeB s b
    hasRoom t d
    poisonCheck y
    let s ← s.knotCheck t.part y.val false
    if s.settled t.part y.val.toNat then do
      let (n, s1) ← s.readKnot t.part y.val.toNat
      let t ← putReg t d (BitVec.ofNat 64 n) .raw
      .ok ((s1.done t).traceStrand t 13 false y.val.toNat n)
    else .error (.wait .issue)))

/-- `kmove` (R248): every knot of the old and new ancestor chains receives +1 once, and the subtree's depths follow. -/
def execKmove (a b : Opnd) (s : State) : Out :=
  .next (s.settle (do
    homeTurn (.kmove a b) s
    let (x, y, t) ← takeAB s a b
    poisonCheck x
    poisonCheck y
    let p := t.part
    let n := x.val.toNat
    let m := y.val.toNat
    let s ← s.knotCheck p x.val false
    let s ← s.knotCheck p y.val true
    let s ← s.readTable p
    let sub := (List.range (s.part p).knotTop).filter fun k => s.knotLive p k && s.beneath p n k
    let old := (s.knot p n).depth
    let new := (s.knot p m).depth + 1
    if sub.any fun k => decide (16 < (s.knot p k).depth - old + new) then .error (.found s 0x0702 n) else .ok ()
    if n ≠ 0 ∧ sub.contains m then .error (.found s 0x0703 n) else .ok ()
    if n = 0 then .error (.found s 0x0706 0) else .ok ()
    let union := (s.chain p (s.knot p n).parent 17 ++ s.chain p m 17).dedup
    let s1 := union.foldl (fun s k => s.knotAdd p k 1) s
    let s2 := sub.foldl (fun s k =>
      let x := s.knot p k
      s.putLink p k { x with depth := x.depth - old + new, parent := if k = n then m else x.parent }) s1
    .ok (s2.done t)))

/-- ROLLUP_INCREMENT: an increment for knot `n` of partition `p` goes on (R246, R311). A unit of another die forwards what it
holds to the die that homes the knot, when the unit there has room (R308) or holds an increment of the knot already (R311);
that die's unit adds it and hands it to the parent. -/
def execRollupIncrement (p n : Nat) (s : State) : Out :=
  let home := s.knotDie p n
  let holds (d : Nat) : Option (Nat × Nat × Nat) := (s.die d).rollups.find? fun e => e.1 == p && e.2.1 == n
  let from? := (List.range 4).find? fun d => d != home && (holds d).isSome
  let d := from?.getD home
  match holds d with
  | none => .next s
  | some (_, _, k) =>
    let s1 := s.modDie d fun x => { x with rollups := x.rollups.filter fun e => !(e.1 == p && e.2.1 == n) }
    .next (if d = home then (s1.knotAdd p n k).rollUp p n k
      else if s.unitRoom home 1 || (holds home).isSome then s1.rollTo home p n k else s)

/-- Is an identity still writing: an access of its strand not performed, or an engine command not performed (R245)? -/
def State.stillWriting (s : State) (who num : Nat) : Bool :=
  (s.accs.any fun x => !x.done && x.uid == who && x.wno == num)
  || s.cmds.any fun c => who == 0 && decide (c.stage < 2) && c.num == num

/-- CLOSE_NOTICE: the leaf's home forgets identities whose writes are all acknowledged (R245). -/
def execCloseNotice (p : Nat) (s : State) : Out :=
  .next (s.modPart p fun x => { x with bumps := x.bumps.filter fun b => s.stillWriting b.2.1 b.2.2 })

end Sys2Proof.Machine
end

