-- ==== Sys2Proof/Machine/Populations.lean ====
section
/-! DEFINITION. Populations (R250-R254): `pjoin`, `pleave`, `resample`, RESAMPLE_COLLECTIVE and CLONE_PLACEMENT. -/

namespace Sys2Proof.Machine

/-- What `pop.id` reads outside every population (R21). -/
def noPop : Word := BitVec.allOnes 64

/-- A population of a partition, by number. -/
def Part.pop? (p : Part) (k : Nat) : Option Pop := (p.pops.find? fun e => e.1 == k).map (·.2)

/-- `id.lin` of the copy `low` at an index, under a generation (R250, R253). -/
def lineage (gen : Word) (index low : Nat) : Word :=
  BitVec.ofNat 64 (gen.toNat % 2 ^ 16 * 2 ^ 48 + index % 2 ^ 24 * 2 ^ 24 + low % 2 ^ 24)

/-- The population's collective is in progress (R250, R252). -/
def Pop.busy (p : Pop) : Bool := p.fixed || p.members.any fun m => m.waiting.isSome

/-- Has a member the lineage already (R229 0x0803)? -/
def State.repeats (s : State) (pop : Pop) (lin : Word) : Bool :=
  pop.members.any fun m => match s.strand? m.uid with
    | some u => u.lin == lin
    | none => false

/-- `pjoin` (R250). A join that arrives during a collective is tested for a repeated lineage when the collective has ended,
under the generation that it leaves. -/
def execPjoin (a : Opnd) (b : SReg) (s : State) : Out :=
  .next (s.settle (do
    homeTurn (.pjoin a b) s
    noMisuse (opMisuse a)
    let (x, t) ← takeOp s s.st a
    poisonCheck x
    let k := x.val.toNat
    if 256 ≤ k then .error (.trap 0x0801 k) else .ok ()
    if b.num = 0 ∨ 32 ≤ b.num then .error (.trap 0x0801 b.num) else .ok ()
    if t.act ∨ 2 ^ 24 ≤ t.rank.toNat then .error (.trap 0x0801 k) else .ok ()
    if t.popId ≠ noPop then .error (.trap 0x0802 k) else .ok ()
    let pop := match (s.part t.part).pop? k with
      | some p => p
      | none => ⟨s.seedOf t, 0, t.launch, [], false⟩
    let lin := lineage pop.gen t.rank.toNat 0xFFFFFF
    if pop.launch ≠ t.launch then .error (.trap 0x0803 k) else .ok ()
    if pop.busy then .error (.wait .issue) else .ok ()
    if s.repeats pop lin then .error (.trap 0x0803 k)
    else
      let pop := { pop with members := pop.members ++ [(⟨t.uid, 0, none, b.num⟩ : Member)] }
      .ok ((s.modPart t.part fun p => { p with pops := Tab.set p.pops k pop }).done
        { t with popId := x.val, gen := pop.gen, lin := lin })))

/-- `pleave` (R251). -/
def execPleave (s : State) : Out :=
  .next (s.settle (do
    homeTurn .pleave s
    if s.st.popId = noPop then .error (.trap 0x0802 s.st.popId.toNat) else .ok ()
    .ok ((s.leavePop s.st.part s.st.popId s.st.uid).done { s.st with popId := noPop, gen := 0, lin := 0 })))

/-- `resample` (R252): waits as `fence.full` does, then blocks in the population's collective; a clone that has its slot waits until
the collective that made it has completed (R254). -/
def execResample (d a : SReg) (s : State) : Out :=
  .next (s.settle (do
    homeTurn (.resample d a) s
    noStores s
    noLoads s
    noMisuse (misuseRead d)
    noMisuse (misuseWrite a)
    let (z, t) ← takeReg s s.st d
    poisonCheck z
    match (s.part t.part).pop? t.popId.toNat with
    | none => .error (.trap 0x0802 t.popId.toNat)
    | some pop => do
      if pop.fixed then .error (.wait .issue) else .ok ()
      match pop.members.find? fun m => m.uid == t.uid with
      | none => .error (.trap 0x0802 t.popId.toNat)
      | some m => do
        if t.gpois.getLsbD m.wreg then .error (.trap 0x0B01 m.wreg) else .ok ()
        let ms := pop.members.map fun y => if y.uid = t.uid then { y with waiting := some z.val, reg := a.num } else y
        let s1 := s.modPart t.part fun p =>
          { p with pops := Tab.set p.pops t.popId.toNat { pop with members := ms } }
        .ok { s1 with st := { t with status := .blocked (.collective t.popId.toNat), undo := some s.st.checkpoint } }))

/-! ### The collective (R252, R253) -/

/-- A strand whose blocked instruction has completed is ready, or halted again after a step (R13, R344). Its age counts from
here (R300). -/
def Strand.wake (t : Strand) : Strand :=
  { t with status := if t.stepping then .halted else .ready, stepping := false, undo := none, age := 0 }

/-- A strand is ready to issue from now on (R13, R300). -/
def Strand.readied (t : Strand) : Strand := { t with status := .ready, age := 0 }

/-- A member and its strand. -/
abbrev Pair := Member × Strand

/-- Inserts by a key into a list sorted by it. -/
def insertBy {α : Type} (key : α → Nat) (x : α) : List α → List α
  | [] => [x]
  | y :: r => if key x < key y then x :: y :: r else y :: insertBy key x r

/-- A list sorted by a key, equal keys in their order. -/
def sortBy {α : Type} (key : α → Nat) (l : List α) : List α := l.foldl (fun acc x => insertBy key x acc) []

/-- A member's weight register. -/
def Pair.weight (x : Pair) : Nat := lowBits 32 (x.2.g[x.1.wreg]?.getD 0).toNat
def Pair.weightTag (x : Pair) : Fmt := x.2.gtag[x.1.wreg]?.getD .raw

/-- The fault that a member takes at its `resample` (R252 row 1, R229). -/
def Pair.fault (s : State) (x : Pair) : Option (Nat × Nat) :=
  let bad : Bool := match fdecode .f32 (Pair.weight x) with
    | .nan => true
    | .inf _ => true
    | .fin neg m _ => neg && m != 0
  if bad || (Pair.weightTag x != .f32 && Pair.weightTag x != .raw) then some (0x0804, x.1.wreg)
  else if (x.2.q.toList.any fun l => l != []) ∨ x.2.q15 ≠ [] ∨ x.2.tileCount ≠ 0 ∨ (s.cmds.any fun c => c.uid == x.2.uid && decide (c.kind ≤ 4))
  then some (0x0805, 0)
  else none

/-- w_i in units of 2^-96, truncated as R59 truncates a term (R253; DEDUCED, log 54). -/
def Pair.units (x : Pair) : Nat :=
  match fdecode .f32 (Pair.weight x) with
  | .fin _ m e => if -96 ≤ e then m * 2 ^ (e + 96).toNat else m / 2 ^ (-96 - e).toNat
  | _ => 0

/-- ⌊C·N/W + U/2^32⌋ (R253). -/
def share (c n w u : Nat) : Nat := (c * n * 2 ^ 32 + u * w) / (w * 2 ^ 32)

/-- c_i for the members in order; `c` is C_(i-1). -/
def shares (n w u : Nat) (c : Nat) : List Pair → List Nat
  | [] => []
  | x :: r => (share (c + Pair.units x) n w u - share c n w u) :: shares n w u (c + Pair.units x) r

/-- Writes scalar register number `k`: a general register, or a push to a queue register. -/
def Strand.putNum (t : Strand) (k : Nat) (v : Word) (tag : Fmt) : Strand :=
  if h : k < 32 then t.setG ⟨k, h⟩ v tag
  else match putReg t (.q (Fin.ofNat 16 (k - 48))) v tag with
    | .ok t => t
    | .error _ => t

/-- What a copy carries after a resample (R253). -/
def copyOf (gen : Word) (weight index i copy : Nat) (x : Pair) : Strand :=
  { (x.2.putNum x.1.reg (BitVec.ofNat 64 copy) .raw).putNum x.1.wreg (BitVec.ofNat 64 weight) .f32 with
    lin := lineage (gen + 1) index i, gen := gen + 1 }

/-- The image of a clone (R254). -/
def cloneImage (t : Strand) : Strand :=
  { Strand.empty with
    cell := t.cell, status := .moving, part := t.part, launch := t.launch, asid := t.asid, pc := t.npc, npc := t.npc
    g := t.g, gtag := t.gtag, gpois := t.gpois, v := t.v, vtag := t.vtag, vpois := t.vpois, m := t.m
    fc := t.fc, gc := t.gc, vl := t.vl, trapv := t.trapv, wdog := t.wdog, rmode := t.rmode, uab := t.uab, wleft := t.wdog
    rank := t.rank, lin := t.lin, gen := t.gen, popId := t.popId }

/-- The next index of each member with its number i and c_i. -/
def indexed (first i : Nat) : List (Pair × Nat) → List (Pair × Nat × Nat × Nat)
  | [] => []
  | (x, c) :: r => (x, c, i, first) :: indexed (first + c) (i + 1) r

/-- A member's collective ends with a status (R252). -/
def State.endCollective (s : State) (uid status : Nat) : State :=
  s.modStrand uid fun t => { t.wake with pc := t.npc, rstat := BitVec.ofNat 64 status }

/-- The collective of a population is over: nobody waits. -/
def State.clearCollective (s : State) (p k : Nat) : State :=
  s.modPart p fun x => { x with pops := x.pops.map fun e =>
    if e.1 = k then (k, { e.2 with fixed := false, members := e.2.members.map fun m => { m with waiting := none } }) else e }

/-- A strand leaves the machine. -/
def State.dropStrand (s : State) (uid : Nat) : State :=
  { (if s.st.uid = uid then s.clearFocus else s) with parked := s.parked.filter fun t => t.uid != uid }

/-- A member's precise fault at its `resample`: its registers are those of the boundary before it. -/
def State.faultMember (s : State) (uid cause addr : Nat) : State :=
  let s := s.focus uid
  let t := match s.st.undo with
    | some c => s.st.restore c
    | none => s.st
  { s with st := { t with status := .ready, undo := none } }.takeFault cause t.pc (BitVec.ofNat 64 addr)

/-- A resample that succeeds (R253): members without a copy retire, the others take their lineage, weight and copy
number, and the clones wait for placement. -/
def State.resampled (s : State) (p k : Nat) (pop : Pop) (l : List (Pair × Nat × Nat × Nat)) (weight : Nat) : State :=
  let gone := l.filter fun x => x.2.1 == 0
  let s := gone.foldl (fun s x => (s.endStrand x.1.2 false).dropStrand x.1.2.uid) s
  let live := l.filter fun x => x.2.1 != 0
  let s := live.foldl (fun s x => s.modStrand x.1.2.uid fun _ => copyOf pop.gen weight x.2.2.2 x.2.2.1 0 x.1) s
  let clones := live.flatMap fun x => (List.range (x.2.1 - 1)).map fun j =>
    (⟨k, x.2.2.2 + j + 1, x.1.1.wreg, cloneImage (copyOf pop.gen weight (x.2.2.2 + j + 1) x.2.2.1 (j + 1) x.1), false⟩ : Clone)
  let s := s.modPart p fun x =>
    Part.modLaunch { x with
      pops := x.pops.map fun e : Nat × Pop => if e.1 = k then (k, { e.2 with gen := pop.gen + 1, fixed := true }) else e
      clones := x.clones ++ clones } pop.launch fun y => { y with slotsUsed := y.slotsUsed + clones.length }
  if clones = [] then (live.foldl (fun s x => s.endCollective x.1.2.uid 0) s).clearCollective p k else s

/-- Do the slots that the clones add fit the launch's bud.slots (R252 row 4, R283)? Resident strands count, with clones
that still wait for a slot. -/
def State.clonesFit (s : State) (p launch gone added : Nat) : Bool :=
  let x := s.part p
  let mine (t : Strand) : Bool := t.part == p && t.launch == launch
  let held := (s.strands.filter fun t => mine t && !t.act && t.status != .free).length
    + (x.clones.filter fun c => mine c.image).length
  match x.launch? launch with
  | some y => decide (held - gone + added ≤ y.eff.slots)
  | none => false

/-- The kind 12 record of a collective (R337), on the partition's lowest-numbered die. -/
def State.traceResample (s : State) (p k members n status : Nat) : State :=
  match (s.part p).pop? k with
  | none => s
  | some pop =>
    let corr := match (s.part p).launch? pop.launch with
      | some l => l.eff.corr.toNat
      | none => 0
    s.traceOn p (((s.part p).clusters.headD 0) / 64) 12 0 0xFFFFF false corr
      (k % 2 ^ 8 + members % 2 ^ 24 * 2 ^ 8 + n % 2 ^ 24 * 2 ^ 32) (pop.gen.toNat % 2 ^ 16 + status * 2 ^ 16) s.now

/-- RESAMPLE_COLLECTIVE: every live member is blocked in `resample` (R252). -/
def execResampleCollective (p k : Nat) (s : State) : Out :=
  match (s.part p).pop? k with
  | none => .next s
  | some pop =>
    let pairs : List Pair := sortBy (fun x : Pair => x.2.lin.toNat) (pop.members.filterMap fun m =>
      (s.strand? m.uid).map fun t => (m, t))
    let n := match pop.members with
      | m :: _ => (m.waiting.getD 0).toNat
      | [] => 0
    let trace (s : State) (st : Nat) : State := s.traceResample p k pairs.length n st
    let all (s : State) (st : Nat) : State :=
      trace ((pairs.foldl (fun s x => s.endCollective x.2.uid st) s).clearCollective p k) st
    if pop.fixed ∨ pairs = [] ∨ (pop.members.any fun m => m.waiting.isNone) then .next s
    else if pairs.any fun x => (Pair.fault s x).isSome then
      .next (trace ((pairs.foldl (fun s' x => match Pair.fault s x with
        | some (cause, addr) => s'.faultMember x.2.uid cause addr
        | none => s'.endCollective x.2.uid 2) s).clearCollective p k) 2)
    else if (pop.members.any fun m => (m.waiting.getD 0).toNat != n) ∨ n = 0 ∨ 2 ^ 24 ≤ n then .next (all s 2)
    else
      let w := (pairs.map Pair.units).sum
      if w = 0 then .next (all s 1)
      else
        let u := (prv64 pop.seed pop.gen).toNat / 2 ^ 32
        let l := indexed 0 0 (pairs.zip (shares n w u 0 pairs))
        let gone := (l.filter fun x => x.2.1 == 0).length
        if s.clonesFit p pop.launch gone (n - (pairs.length - gone)) then
          .next (trace (s.resampled p k pop l (fdivCode .f32 .rne false (.fin false w (-96)) (.fin false n 0))) 0)
        else .next (all s 2)

/-! ### Placing clones (R254) -/

/-- The cells of a cell set in the order in which a clone of `cell` looks at them. -/
def cloneOrder (cells : List Nat) (cell : Nat) : List Nat :=
  cells.filter (· == cell)
    ++ cells.filter (fun c => clusterOf c == clusterOf cell && c != cell)
    ++ cells.filter (fun c => dieOf c == dieOf cell && clusterOf c != clusterOf cell)
    ++ cells.filter (fun c => dieOf c != dieOf cell)

/-- A clone joins its population in a slot of a cell, ready (R13); the collective completes for all members with the last clone
(R254). -/
def State.joinClone (s : State) (p : Nat) (c : Clone) (cell slot : Nat) : State :=
  let uid := s.nextId
  let join (pop : Pop) : Pop := { pop with members := pop.members ++ [(⟨uid, 0, none, c.wreg⟩ : Member)] }
  let t := { c.image with uid := uid, cell := cell, slot := slot, status := .ready }
  let s := { (s.addStrand t).modPart p fun x =>
    { x with pops := x.pops.map fun e => if e.1 = c.pop then (e.1, join e.2) else e } with nextId := uid + 1 }
  if (s.part p).clones.any fun y => y.pop == c.pop then s
  else
    ((s.strands.filter fun t => t.part == p && t.status == .blocked (.collective c.pop)).foldl
      (fun s t => s.endCollective t.uid 0) s).clearCollective p c.pop

/-- A clone takes a slot (R254): the constant bank of its launch goes to the cell first, and a failed copy is fatal and
starts nothing (R26). -/
def State.placeClone (s : State) (p : Nat) (c : Clone) (cell slot : Nat) : State :=
  let s := s.modPart p fun x => { x with clones := x.clones.filter fun y => !(y.pop == c.pop && y.index == c.index) }
  match (s.part p).launch? c.image.launch with
  | none => s
  | some l => match s.copyBank p l cell with
    | (s, some (cause, addr)) => s.fatal p l.num cell slot 0 cause c.image.pc (BitVec.ofNat 64 addr)
    | (s, none) => s.joinClone p c cell slot

/-- CLONE_PLACEMENT: the first clone that has not looked for a slot looks for one; one that found none takes the first
slot that frees on its parent's cell. -/
def execClonePlacement (p : Nat) (s : State) : Out :=
  let x := s.part p
  match x.clones.find? fun c => !c.waiting with
  | some c =>
    let cells := match x.launch? c.image.launch with
      | some l => cloneOrder l.cellSet c.image.cell
      | none => []
    (match cells.findSome? fun k => (s.freeSlot k).map fun i => (k, i) with
    | some (k, i) => .next (s.placeClone p c k i)
    | none => .next (s.modPart p fun x => { x with clones := x.clones.map fun y =>
        if y.pop = c.pop ∧ y.index = c.index then { y with waiting := true } else y }))
  | none =>
    match x.clones.findSome? fun c => (s.freeSlot c.image.cell).map fun i => (c, i) with
    | some (c, i) => .next (s.placeClone p c c.image.cell i)
    | none => .next s

end Sys2Proof.Machine
end

