-- ==== Sys2Proof/Machine/Starts.lean ====
section
/-! DEFINITION. How strands start: the constant bank of a launch on a cell (R26), starting images (R30, R31, R211),
breakpoints (R340, R343), the activation-order log (R346, R347), and completion entries of the coordinator (R207). -/

namespace Sys2Proof.Machine

/-- The flat number of a cluster's cell 0. -/
def State.cellZero (s : State) (k : Nat) : Nat := s.boot.device.toNat * 4096 + k * 16

/-- The cells of a partition on this device, ascending. -/
def State.cellsOf (s : State) (p : Nat) : List Nat :=
  (s.part p).clusters.flatMap fun k => (List.range 16).map (s.cellZero k + ·)

/-- Applies a drain stop to some cells, or takes it off them. -/
def State.setStops (s : State) (on : Bool) (cells : List Nat) : State :=
  cells.foldl (fun s c => s.modCell c fun x => { x with stopped := on }) s

/-! ### Completion entries of the coordinator and of `tlbinv` (R207) -/

/-- An entry of kind 6, 7 or 8 for a strand: it waits for room in q15, and follows the strand, as an engine's completion
does; it is held as a command that has ended. -/
def State.notify (s : State) (uid kind status w1 w2 : Nat) : State :=
  match s.strand? uid with
  | none => s
  | some t =>
    let c := newCmd s.nextId kind .plain t [] (BitVec.ofNat 64 w1) 0
    { s with cmds := s.cmds ++ [{ c with stage := 3, status := status, w2 := w2 }], nextId := s.nextId + 1 }

/-! ### Breakpoints (R340) -/

/-- The armed breakpoints of a kind that match; none while no debugger is attached. -/
def Part.hits (p : Part) (atPc : Bool) (pc tag coord : Nat) : List Nat :=
  if p.dbg.attach = false then []
  else (List.range 8).filter fun i =>
    let b := p.bps.getD i Breakpoint.reset
    let w3 := b.w3.toNat
    let near (x y m : Nat) : Bool := Nat.land (Nat.xor x y) m == 0
    bitAt w3 48 && bitAt w3 49 == atPc && near pc (bitsOf b.w0.toNat 39 0) (bitsOf b.w2.toNat 39 0)
      && near tag (bitsOf b.w0.toNat 55 40) (bitsOf b.w2.toNat 55 40)
      && near coord (bitsOf b.w1.toNat 47 0) (bitsOf w3 47 0)

/-- The strongest act of some breakpoints: 0 trace, 1 stop the cell, 2 stop the partition. -/
def Part.act (p : Part) (l : List Nat) : Nat :=
  (l.map fun i => min 2 (bitsOf (p.bps.getD i Breakpoint.reset).w3.toNat 51 50)).foldl max 0

/-- A match: the kind 9 record, and the drain stop of the strongest act. -/
def State.hit (s : State) (t : Strand) (pc : Nat) (l : List Nat) : State :=
  let mask := (l.map fun i => 2 ^ i).sum
  let s := s.traceStrand t 9 false (pc + t.tag.toNat * 2 ^ 40) (t.coord.toNat % 2 ^ 48 + mask * 2 ^ 48)
  match (s.part t.part).act l with
  | 0 => s
  | 1 => s.setStops true [t.cell]
  | _ => s.setStops true (s.cellsOf t.part)

/-! ### Images (R30, R31) -/

/-- A strand that starts under a launch: control state as R18 gives, everything else empty. -/
def startImage (s : State) (p : Nat) (l : Launch) (cell slot : Nat) : Strand :=
  { Strand.empty with
    uid := s.nextId, cell := cell, slot := slot, status := .ready, part := p, launch := l.num, asid := l.asid
    trapv := l.eff.trapv &&& ~~~(1 : BitVec 40), wdog := l.eff.wdog, wleft := l.eff.wdog, rmode := l.eff.rmode
    uab := l.uab }

/-- The general registers that a message gives (R30). -/
def Msg.regs (m : Msg) : Vector Word 32 :=
  Vector.ofFn fun i : Fin 32 =>
    if 1 ≤ i.val ∧ i.val ≤ 6 then m.payload.getD (i.val - 1) 0
    else if i.val = 7 then m.coord &&& BitVec.ofNat 64 (2 ^ 48 - 1)
    else if i.val = 8 then BitVec.ofNat 64 (m.tag.toNat + m.src % 2 ^ 20 * 2 ^ 16)
    else 0

/-- y × 2^16 + x of a message (R206, R211), as a rank. -/
def Msg.rank (m : Msg) : BitVec 32 := BitVec.ofNat 32 m.coord.toNat

/-- The strand that a message starts: a resident one for `spawn` (R211), else an activation. -/
def Msg.strand (m : Msg) (s : State) (l : Launch) (cell slot : Nat) : Strand :=
  let t := { startImage s m.part l cell slot with pc := m.entry, npc := m.entry, g := m.regs, entry := m.entry
                                                  origin := (m.src, m.seq) }
  match m.kind with
  | .spawn => { t with rank := m.rank }
  | k => { t with act := true, coord := m.coord &&& BitVec.ofNat 64 (2 ^ 48 - 1), tag := m.tag, src := BitVec.ofNat 20 m.src
                  task := match k with
                    | .task n => some n
                    | _ => none }

/-- The entry of the activation-order log (R346): kind 1 message activation, 2 handler-0 delivery, 3 task activation. -/
def Msg.order (m : Msg) : Nat :=
  m.src % 2 ^ 20 + m.seq % 2 ^ 32 * 2 ^ 20 + 2 ^ 52 * (match m.kind with
    | .task _ => 3
    | _ => if m.entry = 0 then 2 else 1)

/-- A message leaves the inbox. -/
def State.unbox (s : State) (cell id : Nat) : State :=
  s.modCell cell fun c => { c with inbox := c.inbox.filter fun m => m.id != id }

/-- Starts what a message asks for in a slot (R205, R211): the constant bank first, whose failure is fatal and starts
nothing; then the kind 1 record, the order log, the breakpoints. -/
def State.startMsg (s : State) (cell slot : Nat) (m : Msg) (l : Launch) : State :=
  match s.copyBank m.part l cell with
  | (s, some (cause, addr)) => s.fatal m.part l.num cell slot 0 cause m.entry (BitVec.ofNat 64 addr)
  | (s, none) =>
    let t : Strand := m.strand s l cell slot
    let s : State := { (s.unbox cell m.id).addStrand t with nextId := s.nextId + 1 }
    if t.act then
      let s := s.modPart m.part fun p => p.modLaunch l.num fun y => { y with slotsUsed := y.slotsUsed + 1 }
      let s := s.logDone m.part ((s.part m.part).cellIndex cell) 8 m.order
      let s := s.traceStrand t 1 t.task.isSome (t.entry.toNat + t.tag.toNat * 2 ^ 40) t.coord.toNat
      let hits : List Nat := (s.part m.part).hits false t.entry.toNat t.tag.toNat t.coord.toNat
      if hits = [] then s
      else
        let s := s.hit t t.entry.toNat hits
        if (s.part m.part).act hits = 0 then s else s.modStrand t.uid fun t => { t with status := .halted }
    else s

/-- A resident strand of a launch starts (R31): `i` is its index among the launch's resident strands. -/
def State.startResident (s : State) (p : Nat) (l : Launch) (cell slot i : Nat) : State :=
  match s.copyBank p l cell with
  | (s, some (cause, addr)) => s.fatal p l.num cell slot 0 cause l.entry (BitVec.ofNat 64 addr)
  | (s, none) =>
    let n := l.cellSet.length * (l.eff.spc + 1)
    let g : Vector Word 32 := Vector.ofFn fun k : Fin 32 =>
      if k.val = 1 then l.rcb else if k.val = 2 then BitVec.ofNat 64 i else if k.val = 3 then BitVec.ofNat 64 n else 0
    let t := { startImage s p l cell slot with pc := l.entry, npc := l.entry, g := g, rank := BitVec.ofNat 32 i, entry := l.entry }
    { s.addStrand t with nextId := s.nextId + 1 }

end Sys2Proof.Machine
end

