-- ==== Sys2Proof/Machine/Network.lean ====
section
/-! DEFINITION. Events of the network, of inboxes and of blocked strands (R203-R206, R211-R214, R224, R273). -/

namespace Sys2Proof.Machine

/-! ### MESSAGE_DEPARTURE, MESSAGE_ARRIVAL (R204-R206) -/

/-- Messages in the inbox of a cell and on their way to it: an inbox has 64 places (R204). -/
def State.boxed (s : State) (cell : Nat) : Nat :=
  (s.cell cell).inbox.length + (s.flight.filter fun m => m.dst == cell).length

/-- MESSAGE_DEPARTURE: the head of the outbound buffer leaves for a destination whose inbox has room. -/
def execMessageDeparture (cell : Nat) (s : State) : Out :=
  match (s.cell cell).outbox with
  | [] => .next s
  | o :: rest =>
    match o.dests.find? fun d => decide (s.boxed d < 64) with
    | none => .next s
    | some d =>
      let left := o.dests.filter (· != d)
      .next ((s.modCell cell fun c => { c with outbox := if left = [] then rest else { o with dests := left } :: rest }).depart
        { o.msg with dst := d })

/-- The resident strand of a launch on a cell with a rank, the earliest started (R206). -/
def State.rankOn (s : State) (p launch cell : Nat) (rank : BitVec 32) : Option Strand :=
  s.strands.foldl (fun best t =>
    if t.status ≠ .free ∧ t.act = false ∧ t.part = p ∧ t.launch = launch ∧ t.cell = cell ∧ t.rank = rank then
      match best with
      | some b => if t.uid < b.uid then some t else best
      | none => some t
    else best) none

/-- Counts a discarded message (R345). -/
def State.undeliverable (s : State) (cell : Nat) : State :=
  s.modCell cell fun c => { c with undeliverable := if c.undeliverable = BitVec.allOnes 32 then c.undeliverable else c.undeliverable + 1 }

/-- Has the result queue of a function room for an entry (R350)? -/
def HostFn.rqRoom (f : HostFn) : Bool := f.rqSize != 0 && decide ((f.rqTail - f.rqHead).toNat < 2 ^ f.rqSize)

/-- The words of a result entry (R351). -/
def Result.words (r : Result) : List Word :=
  [BitVec.ofNat 64 (r.kind + r.status % 256 * 256), BitVec.ofNat 64 (r.launch % 2 ^ 32), r.htag, r.data]

/-- Writes results in order while the result queue has room, each with its vector 0; the rest stays owed. -/
def State.writeResults (s : State) (p : Nat) : List Result → State
  | [] => s.modPart p fun x => { x with fn := { x.fn with results := [] } }
  | r :: rs =>
    let f := (s.part p).fn
    if f.rqRoom then
      let at32 := f.rqBase.toNat + f.rqTail.toNat % 2 ^ f.rqSize * 32
      let s := { s with hostMem := memPutWords s.hostMem at32 r.words }
      State.writeResults ((s.modPart p fun x => { x with fn := { x.fn with rqTail := x.fn.rqTail + 1 } }).raise p 0) p rs
    else s.modPart p fun x => { x with fn := { x.fn with results := r :: rs } }

/-- Writes what is owed to the host, as far as there is room. -/
def State.flushResults (s : State) (p : Nat) : State := s.writeResults p (s.part p).fn.results

/-- A host result is owed, and written as soon as there is room (R350). -/
def State.owe (s : State) (p : Nat) (r : Result) : State :=
  (s.modPart p fun x => { x with fn := { x.fn with results := x.fn.results ++ [r] } }).flushResults p

/-- The result of a host message (R351). -/
def State.oweMsg (s : State) (m : Msg) (status : Nat) : State :=
  match m.host with
  | none => s
  | some h => s.owe m.part ⟨3, status, m.launch, h, 0⟩

/-- The words of a q15 entry of kind 5 (R207). -/
def Msg.q15Words (m : Msg) : List Word :=
  BitVec.ofNat 64 (5 + m.src % 2 ^ 20 * 2 ^ 16) :: (List.range 6).map (fun i => m.payload.getD i 0)
    ++ [BitVec.ofNat 64 (m.tag.toNat + bitsOf m.coord.toNat 47 32 * 2 ^ 16)]

/-- A siding at a cell for a resident strand that has moved away (R273). -/
def State.sidingFor (s : State) (p launch cell : Nat) (rank : BitVec 32) : Option Siding :=
  s.sidings.find? fun d => d.cell == cell && match s.strand? d.uid with
    | some t => t.part == p && t.launch == launch && t.rank == rank && !t.act
    | none => false

/-- Does something of its pair come before a message: an earlier message, an access of its source cell to the destination's
memory that entered the path before it, or a reply of its source cell's memory to an access of the destination (R204, R270)? -/
def State.behind (s : State) (m : Msg) : Bool :=
  (s.flight.any fun y => y.src == m.src && y.dst == m.dst && decide (y.id < m.id))
  || (m.src != m.dst && (s.accessTo m.src m.dst m.sent || s.replyOn m.src m.dst m.sent))

/-- A siding takes the q15 entry of a message that it will forward (R273). -/
def Siding.take (d : Siding) (m : Msg) : Siding := { d with items := d.items ++ [(some m.order, m.q15Words)] }

def State.modSiding (s : State) (n : Nat) (f : Siding → Siding) : State :=
  { s with sidings := s.sidings.map fun x => if x.id = n then f x else x }

/-- A message or task has arrived for a cluster (R302). -/
def State.arrival (s : State) (k : Nat) : State := s.modCluster k fun c => { c with arrived := true }

/-- MESSAGE_ARRIVAL: the message takes an inbox entry, goes to a siding, or is discarded (R204-R206, R273). A message for a
cell of the partition on another device (R356) leaves this one, and the result of a host's is not known here (log entry 9). -/
def execMessageArrival (n : Nat) (s : State) : Out :=
  match s.flight.find? fun m => m.id == n with
  | none => .next s
  | some m =>
    let gone : State := { s with flight := s.flight.filter fun y => y.id != n }
    let box : State := (gone.modCell m.dst fun c => { c with inbox := c.inbox ++ [m] }).arrival (clusterOf m.dst)
    if s.behind m then .next s
    else if deviceOf m.dst ≠ s.boot.device.toNat then .next gone
    else match (s.part m.part).launch? m.launch with
      | none => .next ((gone.undeliverable m.dst).oweMsg m 2)
      | some _ =>
        if m.entry = 0 ∧ m.kind = .normal then
          match s.rankOn m.part m.launch m.dst m.rank, s.sidingFor m.part m.launch m.dst m.rank with
          | none, some d => .next ((gone.modSiding d.id fun x => x.take m).oweMsg m 0)
          | none, none => .next ((gone.undeliverable m.dst).oweMsg m 0)
          | some _, _ => if (s.cell m.dst).inbox.length < 64 then .next (box.oweMsg m 0) else .next s
        else if (s.cell m.dst).inbox.length < 64 then .next (box.oweMsg m 0)
        else .next s

/-! ### ACTIVATION_START (R205, R211) -/

/-- Is an activation of this launch and tag on the cell, running, halted or spilled (R205)? -/
def State.tagBusy (s : State) (m : Msg) (cell : Nat) : Bool :=
  s.strands.any fun t => t.status != .free && t.act && t.cell == cell && t.part == m.part && t.launch == m.launch && t.tag == m.tag

/-- May a message of the inbox start now; `before` are those that arrived earlier (R205, R211, R343, R347)? -/
def State.eligible (s : State) (cell : Nat) (before : List Msg) (m : Msg) : Bool :=
  match (s.part m.part).launch? m.launch with
  | none => false
  | some l =>
    (s.part m.part).runs l && !s.cellStopped cell && (s.openSlot cell).isSome && match m.kind with
      | .spawn => true
      | _ => m.entry != 0 && !l.noSlot && !s.tagBusy m cell
          && !(before.any fun y => y.part == m.part && y.launch == m.launch && y.tag == m.tag)
          && s.logAdmits m.part ((s.part m.part).cellIndex cell) 8 m.order

/-- The earliest eligible message. -/
def State.firstEligible (s : State) (cell : Nat) (before : List Msg) : List Msg → Option Msg
  | [] => none
  | m :: r => if s.eligible cell before m then some m else s.firstEligible cell (before ++ [m]) r

/-- ACTIVATION_START. -/
def execActivationStart (cell : Nat) (s : State) : Out :=
  match s.firstEligible cell [] (s.cell cell).inbox, s.openSlot cell with
  | some m, some slot =>
    (match (s.part m.part).launch? m.launch with
    | some l => .next (s.startMsg cell slot m l)
    | none => .next s)
  | _, _ => .next s

/-! ### HANDLER0_DELIVERY (R206) -/

/-- Is a handler-0 message deliverable now, or its strand gone from the cell? -/
def State.deliverable (s : State) (cell : Nat) (m : Msg) : Bool :=
  m.entry == 0 && m.kind == .normal && match s.rankOn m.part m.launch cell m.rank with
    | none => true
    | some t => t.inSlot && s.q15Room t && s.logAdmits m.part ((s.part m.part).cellIndex cell) 8 m.order

/-- HANDLER0_DELIVERY: the first deliverable message becomes a q15 entry. One whose strand has moved since it arrived goes to
the siding (R212); one whose strand has ended is discarded and counted (DEDUCED, log entry 107). -/
def execHandler0Delivery (cell : Nat) (s : State) : Out :=
  match (s.cell cell).inbox.find? (s.deliverable cell) with
  | none => .next s
  | some m =>
    let s' := s.unbox cell m.id
    match s.rankOn m.part m.launch cell m.rank with
    | none =>
      (match s.sidingFor m.part m.launch cell m.rank with
      | some d => .next (s'.modSiding d.id fun x => x.take m)
      | none => .next (s'.undeliverable cell))
    | some t => .next ((s'.modStrand t.uid fun t => t.pushQ15 m.q15Words).logDone m.part ((s.part m.part).cellIndex cell) 8 m.order)

/-! ### Moving (R212, R273) -/

/-- MIGRATE_ARRIVAL: the context takes the lowest free slot of its new cell; the constant bank is copied (R26). A context for a
cell of another device (R274, R356) does not arrive on this one (log entry 9). -/
def execMigrateArrival (uid : Nat) (s : State) : Out :=
  match s.parked.find? fun t => t.uid == uid && t.status == .moving with
  | none => .next s
  | some t =>
    if deviceOf t.cell ≠ s.boot.device.toNat then .next s
    else match s.openSlot t.cell, s.launchOf t with
    | some slot, some l =>
      (match s.copyBank t.part l t.cell with
      | (s, some (cause, addr)) => .next (s.fatal t.part l.num t.cell slot uid cause t.pc (BitVec.ofNat 64 addr))
      | (s, none) => .next (s.modStrand uid fun t => { t.wake with slot := slot, waited := 0 }))
    | _, _ => .next s

/-- Does something from before the move still wait for a siding: an access, an engine command, or a message in the inbox? -/
def State.sidingLives (s : State) (d : Siding) (t : Strand) : Bool :=
  (s.accs.any fun x => x.uid == d.uid && decide (x.id < d.id))
  || (s.cmds.any fun c => c.uid == d.uid && c.cell == d.cell && decide (c.num < d.id))
  || (s.cell d.cell).inbox.any fun m =>
      m.entry == 0 && m.kind == .normal && m.part == t.part && m.launch == t.launch && m.rank == t.rank

/-- SIDING_FORWARD: what the siding holds goes on to the strand in order, a message as a handler-0 delivery of the strand's
cell (R346, R347); with every access and engine command from before the move answered and ended, the siding is gone. Messages
held for a strand that has ended are discarded and counted (R206, R345). -/
def execSidingForward (n : Nat) (s : State) : Out :=
  match s.sidings.find? fun d => d.id == n with
  | none => .next s
  | some d =>
    let gone : State := { s with sidings := s.sidings.filter fun x => x.id != n }
    match s.strand? d.uid, d.items with
    | none, l => .next ((l.filter fun x => x.1.isSome).foldl (fun s _ => s.undeliverable d.cell) gone)
    | some t, (order, x) :: r =>
      let k := (s.part t.part).cellIndex t.cell
      if t.inSlot && s.q15Room t && (match order with
        | some o => s.logAdmits t.part k 8 o
        | none => true) then
        let s' := (s.modStrand d.uid fun t => t.pushQ15 x).modSiding n fun y => { y with items := r }
        .next (match order with
          | some o => s'.logDone t.part k 8 o
          | none => s')
      else .next s
    | some t, [] => if s.sidingLives d t then .next s else .next gone

/-! ### Waking (R13, R213, R214) -/

/-- STRAND_WAKE: the condition of a blocked strand is met. A strand that waits to issue takes its instruction again. -/
def execStrandWake (uid : Nat) (s : State) : Out :=
  match s.strand? uid with
  | none => .next s
  | some t =>
    match t.status with
    | .blocked .served => .next (s.modStrand uid fun t => t.wake)
    | .blocked .issue => .next (s.modStrand uid Strand.readied)
    | .blocked (.walk id _) =>
      if s.walks.any fun w => w.id == id then .next s else .next (s.modStrand uid Strand.readied)
    | .blocked (.sleep _) =>
      if t.q15 = [] then .next s else .next (s.modStrand uid fun t => { t.wake with pc := t.npc, rstat := 0 })
    | _ => .next s

/-- SLEEP_TIMEOUT: the deadline has passed: status 1. -/
def execSleepTimeout (uid : Nat) (s : State) : Out :=
  match s.strand? uid with
  | none => .next s
  | some t =>
    match t.status with
    | .blocked (.sleep (some d)) =>
      if d ≤ s.now ∧ t.q15 = [] then .next (s.modStrand uid fun t => { t.wake with pc := t.npc, rstat := 1 }) else .next s
    | _ => .next s

/-! ### TLBINV_COMPLETE (R224) -/

/-- Does a translation touch the pages of a `tlbinv`? Its start names bits [63:0]; count 0 is the whole address space. -/
def Tlbinv.covers (v : Tlbinv) (e : TlbEntry) : Bool :=
  e.asid == v.asid && (v.count == 0 ||
    (let first := v.start.toNat / 65536
     let lo := e.page * 2 ^ e.log % 2 ^ 64 / 65536
     decide (lo < first + v.count ∧ first < lo + 2 ^ e.log / 65536)))

/-- Drops translations everywhere. -/
def State.dropTlb (s : State) (f : TlbEntry → Bool) : State :=
  { s with cells := s.cells.map fun x => (x.1, { x.2 with tlb := x.2.tlb.filter fun e => !f e })
           clusters := s.clusters.map fun x => (x.1, { x.2 with tlb := x.2.tlb.filter fun e => !f e })
           dies := s.dies.map fun x => (x.1, { x.2 with tlb := x.2.tlb.filter fun e => !f e }) }

/-- TLBINV_COMPLETE: every structure has dropped the entries; a kind 8 entry is due. -/
def execTlbinvComplete (n : Nat) (s : State) : Out :=
  match s.invs.find? fun v => v.id == n with
  | none => .next s
  | some v =>
    let s' := { s with invs := s.invs.filter fun x => x.id != n }.dropTlb v.covers
    match v.uid with
    | none => .next s'
    | some uid => .next (s'.notify uid 8 0 v.start.toNat v.count)

end Sys2Proof.Machine
end

