-- ==== Sys2Proof/Machine/Tasks.lean ====
section
/-! DEFINITION. Tasks (R215, R216, R297, R298): TASK_READY, TASK_DISPATCH, STEAL_ATTEMPT. A cluster is named by its
number on the device, a task by its key. -/

namespace Sys2Proof.Machine

/-- Does a launch hold cells of a cluster? -/
def Launch.inCluster (l : Launch) (k : Nat) : Bool := l.cellSet.any fun c => clusterOf c == k

/-- Changes a task by key. -/
def State.modTask (s : State) (p k : Nat) (f : Task → Task) : State :=
  s.modPart p fun x => { x with tasks := x.tasks.map fun t => if t.key = k then f t else t }

/-! ### TASK_READY (R216, R297) -/

/-- The deque that a ready task joins. -/
def dequeOf (l : Launch) (t : Task) : Nat :=
  let hinted := t.die * 64 + bitsOf (t.w 0) 13 8
  if t.pinned || (bitAt (t.w 0) 14 && l.inCluster hinted) then hinted else clusterOf t.cell

/-- Is the skip test of a ready task due: the knot is settled, or there is none (R216, R247)? -/
def State.skipDue (s : State) (p : Nat) (t : Task) : Bool :=
  let n := bitsOf (t.w 2) 23 0
  !t.skips || !s.knotLive p n || s.settled p n

/-- A ready task joins its deque, with its kind 3 record. -/
def State.enqueue (s : State) (p : Nat) (l : Launch) (t : Task) : State :=
  let k := dequeOf l t
  let s := (s.modTask p t.key fun t => { t with stage := .queued, cluster := k }).modCluster k fun c =>
    { c with deque := c.deque ++ [(p, t.key)], arrived := true }
  s.traceTask p { t with cluster := k } 3 t.pinned

/-- TASK_READY: a waiting task with no place in its event's list takes one when there is room; a ready one is
skip-tested and joins a deque. A skipped task leaves the unit as it is taken: its records of kinds 4 and 5 have one time (R339).
A skip test of a knot that is not live is the fault 0x0701, fatal (R320), and one of a poisoned record 0x0B01. -/
def execTaskReady (p n : Nat) (s : State) : Out :=
  match (s.part p).taskAt n with
  | none => .next s
  | some t =>
    match t.stage, (s.part p).launch? t.launch with
    | .waiting, _ => .next (s.placeTask p n)
    | .ready, some l =>
      let k := bitsOf (t.w 2) 23 0
      if s.skipDue p t = false then .next s
      else if t.skips then
        match s.countOf p k with
        | .ok (c, s) =>
          let s := s.traceOn p t.die 13 0 0xFFFFF true l.eff.corr.toNat k c s.now
          if c = t.w 3 then .next ((s.traceTask p t 4 false).retireTask p n true) else .next (s.enqueue p l t)
        | .error (.found s cause addr) => .next (s.fatal p l.num t.cell 0 0 cause 0 (BitVec.ofNat 64 addr))
        | .error _ => .next s
      else .next (s.enqueue p l t)
    | _, _ => .next s

/-! ### Dispatch -/

/-- The message that a kind 0 task becomes (R216). -/
def Task.msg (t : Task) (id part cell : Nat) : Msg where
  id := id
  sent := id
  kind := .task t.key
  src := t.cell
  dst := cell
  seq := t.num
  part := part
  launch := t.launch
  entry := BitVec.ofNat 40 t.entry
  tag := BitVec.ofNat 16 t.rtag
  coord := 0
  payload := [BitVec.ofNat 64 (t.w 4), BitVec.ofNat 64 (t.w 5), BitVec.ofNat 64 (t.w 6), BitVec.ofNat 64 (t.w 7),
    BitVec.ofNat 64 (bitsOf (t.w 2) 63 32), 0]
  host := none

/-- The cell that takes a kind 0 task: the lowest of the launch's cells in the cluster with a free slot and inbox room. -/
def State.taskCell (s : State) (l : Launch) (k : Nat) : Option Nat :=
  l.cellSet.find? fun c => clusterOf c == k && (s.openSlot c).isSome && decide (s.boxed c < 64) && !s.cellStopped c

/-- The engine command of a task of kinds 2-4; `stack` homes a gather's table. -/
def Task.cmd (t : Task) (num cell part : Nat) (ws : List Word) (stack : Nat) : EngCmd :=
  { newCmd num (if t.kind = 2 then 1 else t.kind) .plain
      { Strand.empty with cell := cell, part := part, launch := t.launch, asid := t.asid, uab := t.uab } ws
      (BitVec.ofNat 64 t.entry) stack with
    stage := 1, task := some t.key }

/-- Is the descriptor of a task of kinds 2-4 malformed? -/
def Task.badDesc (t : Task) (ws : List Word) : Bool :=
  if t.kind = 2 then copyBad false .plain ws else if t.kind = 3 then gatherBad ws else routeBad ws

/-- The context of a task's own reads. -/
def Task.unit (t : Task) (k p : Nat) : EngCtx := unitCtx (k / 64) p t.asid t.uab.toNat

/-- A strand image under which the engine of a cluster runs the product of a kind 1 task: g1 and g2 hold gA and the shape
word or gM (R215). Its PC moves when the product is complete. -/
def Task.engineStrand (t : Task) (cell part : Nat) : Strand :=
  { Strand.empty with
    cell := cell, part := part, launch := t.launch, asid := t.asid, uab := t.uab, status := .ready, npc := 2, top := t.top
    g := Vector.ofFn fun i : Fin 32 => if i.val = 1 then BitVec.ofNat 64 (t.w 5) else if i.val = 2 then BitVec.ofNat 64 (t.w 6) else 0 }

/-- The product of a kind 1 task. -/
def Task.product (t : Task) (s : State) : Run State :=
  let m := bitsOf (t.w 4) 11 5
  let f := Fmt.ofCode (m / 8)
  let tb := TileB.ofCode (m / 2 % 4)
  let g4 := m % 2 == 1
  let d : Fin 8 := Fin.ofNat 8 (t.w 4)
  match bitsOf (t.w 4) 4 3 with
  | 0 => productRun (.mma f tb g4 d (.g 1) (.reg (.g 2))) s 128 f tb g4 false false d (.g 1) (.reg (.g 2))
  | 1 => productRun (.mmas f tb g4 d (.g 1) (.g 2)) s 128 f tb g4 true false d (.g 1) (.reg (.g 2))
  | _ => productRun (.mmac f tb g4 d (.g 1) (.reg (.g 2))) s 128 f tb g4 false true d (.g 1) (.reg (.g 2))

/-- A fault of a task of kinds 1-4 is fatal to its launch's domain (R320, R323). -/
def State.taskFault (s : State) (p : Nat) (t : Task) (cause addr : Nat) : State :=
  s.fatal p t.launch t.cell 0 0 cause 0 (BitVec.ofNat 64 addr)

/-- A task leaves the deque that holds it. -/
def State.leaveDeque (s : State) (p key : Nat) : State :=
  { s with clusters := s.clusters.map fun c : Nat × Cluster => (c.1, { c.2 with deque := c.2.deque.filter (· != (p, key)) }) }

/-- A task has been taken up: its kind 4 record is written, unless a thief's has been, or its product has begun. -/
def State.beginTask (s : State) (p : Nat) (t : Task) (k : Nat) : State :=
  let s := s.modTask p t.key fun t => { t with stage := .running, cluster := k }
  if t.stolen || t.stage == .running then s else s.traceTask p { t with cluster := k } 4 false

/-- A task has been taken from its deque. -/
def State.takeTask (s : State) (p : Nat) (t : Task) (k : Nat) : State := (s.leaveDeque p t.key).beginTask p t k

/-- A thief takes a task (R298): the kind 6 record of the successful attempt and the kind 4 record, and the task is the next
that the thief dispatches. -/
def State.steal (s : State) (p : Nat) (t : Task) (k : Nat) : State :=
  (((s.leaveDeque p t.key).modTask p t.key fun t => { t with stolen := true, cluster := k }).modCluster k fun c =>
    { c with deque := (p, t.key) :: c.deque, arrived := true }).traceTask p { t with cluster := k } 4 true

/-- The stack that homes the table of a gather task, or none where it is not in HBM (R201); 0 for the other kinds. -/
def State.taskStack (s : State) (c : EngCtx) (kind : Nat) (ws : List Word) : Run (Option Nat) :=
  if kind = 3 then
    match s.engineLoc c (wordAt ws 1) true false with
    | .error e => .error e
    | .ok loc => .ok (match placeOf loc.pa with
      | .hbm k => some k
      | _ => none)
  else .ok (some 0)

/-- The descriptor of a task of kinds 2-4, read as one access by the unit, and the stack of its engine. -/
def State.taskDesc (s : State) (c : EngCtx) (t : Task) : Run (List Word × Nat × State) := do
  let loc ← s.engineLoc c t.entry true false
  let (_, bad, s1) := s.readAt ErrCtx.engine loc.pa 64
  if bad then .error (.found s1 0x0B01 t.entry) else .ok ()
  let ws := memWords s1.mem loc.pa 8
  if t.badDesc ws then .error (.trap 0x0313 t.entry) else .ok ()
  match (← s1.taskStack c t.kind ws) with
  | some k => .ok (ws, k, s1)
  | none => .error (.trap 0x0313 t.entry)

/-- Dispatches a task on a cluster, if it can be dispatched now (R216, R297). Where the model delays accesses, the product of a
kind 1 task heads its deque while it makes its reads one by one (R276). -/
def State.dispatch (s : State) (p : Nat) (l : Launch) (t : Task) (k : Nat) : State :=
  match t.kind with
  | 0 =>
    match s.taskCell l k with
    | none => s
    | some cell =>
      (({ s.takeTask p t k with nextId := s.nextId + 1 }).modCell cell fun c =>
        { c with inbox := c.inbox ++ [t.msg s.nextId p cell] }).arrival k
  | 1 =>
    let e := t.engineStrand (s.cellZero k) p
    match t.product { s with st := e } with
    | .ok s' =>
      let s1 := { s' with st := s.st }
      if s'.st.pc = e.pc then (s1.beginTask p t k).modTask p t.key fun t => { t with top := s'.st.top }
      else (s1.takeTask p t k).retireTask p t.key false
    | .error (.trap c a) | .error (.after c a) => (s.takeTask p t k).taskFault p t c a
    | .error (.found s' c a) => ({ s' with st := s.st }.takeTask p t k).taskFault p t c a
    | .error (.miss va acc) => (s.startWalk (k / 64) p t.asid va acc true (s.cellZero k) 1).2
    | .error (.wait _) => s
  | _ =>
    match s.taskDesc (t.unit k p) t with
    | .error (.miss va acc) =>
      (s.startWalk (k / 64) p t.asid va acc true (s.cellZero k) (t.cmd 0 (s.cellZero k) p [] 0).kind).2
    | .error (.trap c a) | .error (.after c a) => (s.takeTask p t k).taskFault p t c a
    | .error (.found s' c a) => (s'.takeTask p t k).taskFault p t c a
    | .error (.wait _) => s
    | .ok (ws, stack, s) =>
      let cmd := t.cmd s.nextId (s.cellZero k) p ws stack
      if (s.engineQueue cmd.engine.1 cmd.engine.2.1).length < cmd.engine.2.2 then
        { s.takeTask p t k with cmds := s.cmds ++ [cmd], nextId := s.nextId + 1 }
      else s

/-- Can a task be dispatched on the cluster now, as far as cells, queues and walks say? -/
def State.dispatchable (s : State) (p : Nat) (l : Launch) (t : Task) (k : Nat) : Bool :=
  (s.part p).runs l && match t.kind with
  | 0 => (s.taskCell l k).isSome
  | 1 => !(s.cellStopped (s.cellZero k)) && !(s.walks.any fun w => w.asid == t.asid && w.eng && w.cell == s.cellZero k)
  | n =>
    let stack := match s.taskDesc (t.unit k p) t with
      | .ok (_, stack, _) => stack
      | .error _ => 0
    let cmd := t.cmd 0 (s.cellZero k) p [] stack
    !(s.cellStopped (s.cellZero k)) && !(s.walks.any fun w => w.asid == t.asid && w.eng && w.cell == s.cellZero k)
      && decide (n ≤ 4) && decide ((s.engineQueue cmd.engine.1 cmd.engine.2.1).length < cmd.engine.2.2)

/-- The tasks of the deque of a cluster whose launch is not suspended, with their partitions and launches, oldest first (R297). -/
def State.dequeTasks (s : State) (k : Nat) : List (Nat × Task × Launch) :=
  (s.cluster k).deque.filterMap fun e => match (s.part e.1).taskAt e.2 with
    | none => none
    | some t => match (s.part e.1).launch? t.launch with
      | none => none
      | some l => if (s.part e.1).runs l then some (e.1, t, l) else none

/-- TASK_DISPATCH: the owner takes the oldest task of its deque. -/
def execTaskDispatch (k : Nat) (s : State) : Out :=
  match s.dequeTasks k with
  | [] => .next s
  | (p, t, l) :: _ => if s.dispatchable p l t k then .next (s.dispatch p l t k) else .next s

/-! ### Stealing (R298) -/

/-- Is a cluster idle: no task that it could dispatch, and a cell that could accept an activation? -/
def State.idleCluster (s : State) (k : Nat) : Bool :=
  (match s.dequeTasks k with
    | (p, t, l) :: _ => !s.dispatchable p l t k
    | [] => true)
  && (List.range 16).any fun i => (s.openSlot (s.cellZero k + i)).isSome && !s.cellStopped (s.cellZero k + i)

/-- The victim of attempt a (R298): a cluster of the same die. -/
def victimOf (k : Nat) (a : Word) : Nat :=
  k / 64 * 64 + (k % 64 + 1 + (prv64 (BitVec.ofNat 64 (k % 64)) a).toNat % 63) % 64

/-- The kind 6 record of a cluster (R337). -/
def State.traceSteal (s : State) (p k : Nat) (ok : Bool) : State :=
  let c := s.cluster k
  (s.traceOn p (k / 64) 6 0 0xFFFFF ok 0 (c.failedSince.toNat + k % 64 * 2 ^ 32) c.counter.toNat s.now).modCluster k fun c =>
    { c with failedSince := 0 }

/-- The tail task of a victim's deque, unless it may not be taken (R298). -/
def State.loot (s : State) (k victim : Nat) : Option (Nat × Task × Launch) :=
  match ((s.dequeTasks victim).filter fun e => !e.2.1.stolen).getLast? with
  | some (p, t, l) => if t.pinned || !l.inCluster k then none else some (p, t, l)
  | none => none

/-- STEAL_ATTEMPT: due once for each multiple of 64 that the logical counter has passed. A stolen task that cannot be
dispatched at once heads the thief's deque until it can. -/
def execStealAttempt (k : Nat) (s : State) : Out :=
  let c := s.cluster k
  if c.attempts.toNat < c.counter.toNat / 64 then
    match s.clusterOwner k with
    | none => .next s
    | some own =>
      let s := s.modCluster k fun c => { c with attempts := c.attempts + 1 }
      let fail (s : State) : State :=
        let s := s.modCluster k fun c => { c with failed := c.failed + 1, failedSince := c.failedSince + 1 }
        if (s.cluster k).failed % 65536 = 0 then s.traceSteal own k false else s
      match s.loot k (victimOf k c.attempts) with
      | none => .next (fail s)
      | some (p, t, l) =>
        let s := (s.traceSteal own k true).steal p t k
        let t := { t with stolen := true }
        if s.dispatchable p l t k then .next (s.dispatch p l t k) else .next s
  else .next s

end Sys2Proof.Machine
end

