-- ==== Sys2Proof/Machine/Launches.lean ====
section
/-! DEFINITION. The launch coordinator (R15-R17, R26, R285-R291, R294-R296): LAUNCH_ACCEPT, LAUNCH_PLACEMENT,
PLACEMENT_STEP, WAKE_MESSAGE, RESIDENT_STRAND_START, LAUNCH_END. -/

namespace Sys2Proof.Machine

/-! ### RCBs (R15, R16) -/

/-- Fields of an RCB. -/
def rcbParent (w : List Word) : Nat := wordAt w 0
def rcbEntry (w : List Word) : Nat := bitsOf (wordAt w 1) 39 0
def rcbUab (w : List Word) : Nat := bitsOf (wordAt w 1) 47 40
def rcbOvr (w : List Word) : Nat := bitsOf (wordAt w 1) 63 48
def rcbCells (w : List Word) : Nat := bitsOf (wordAt w 2) 19 0
def rcbSlots (w : List Word) : Nat := bitsOf (wordAt w 2) 43 20
def rcbTasks (w : List Word) : Nat := bitsOf (wordAt w 2) 59 44
def rcbHbm (w : List Word) : Nat := bitsOf (wordAt w 3) 47 0
def rcbEvBase (w : List Word) : Nat := bitsOf (wordAt w 4) 15 0
def rcbEvCount (w : List Word) : Nat := bitsOf (wordAt w 4) 32 16
def rcbPrio (w : List Word) : Nat := bitsOf (wordAt w 4) 34 33
def rcbFdom (w : List Word) : Nat := bitsOf (wordAt w 4) 46 35
def rcbGang (w : List Word) : Nat := bitsOf (wordAt w 4) 50 47
def rcbTiles (w : List Word) : Nat := bitsOf (wordAt w 4) 58 51
def rcbSpc (w : List Word) : Nat := bitsOf (wordAt w 4) 61 59
def rcbRmode (w : List Word) : Nat := bitsOf (wordAt w 4) 63 62
def rcbCbank (w : List Word) : Nat := wordAt w 5
def rcbSeed (w : List Word) : Nat := wordAt w 6
def rcbClmFirst (w : List Word) : Nat := wordAt w 7
def rcbClmLen (w : List Word) : Nat := bitsOf (wordAt w 8) 31 0
def rcbCorr (w : List Word) : Nat := bitsOf (wordAt w 8) 63 32
def rcbTrapv (w : List Word) : Nat := bitsOf (wordAt w 9) 39 0
def rcbWdog (w : List Word) : Nat := bitsOf (wordAt w 10) 47 0

/-- Does an RCB set a reserved bit (R15, R16)? -/
def rcbReserved (w : List Word) : Bool :=
  bitsOf (rcbOvr w) 15 14 != 0 || bitsOf (wordAt w 2) 63 60 != 0 || bitsOf (wordAt w 3) 63 48 != 0
    || bitsOf (wordAt w 9) 63 40 != 0 || bitsOf (wordAt w 10) 63 48 != 0 || (w.drop 11).any fun x => x != 0

/-- A chain of RCBs, the named one first, and how its reading ended: 0 at a root, 1 too deep, 6 at a misaligned pointer,
11 at an RCB that cannot be read (R286). -/
structure Chain where
  rcbs : List (List Word)
  stop : Nat
  deriving DecidableEq, Repr

/-- Reads a chain (R17, R286): each pointer under the uab of the RCB in which it stands. -/
def readChain (s : State) (die p asid va uab : Nat) : Nat → State × Chain
  | 0 => (s, ⟨[], 1⟩)
  | n + 1 =>
    if va % 128 ≠ 0 then (s, ⟨[], 6⟩)
    else match engWords s (unitCtx die p asid uab) va 16 with
      | (s, .error _) => (s, ⟨[], 11⟩)
      | (s, .ok w) =>
        if rcbParent w = 0 then (s, ⟨[w], 0⟩)
        else
          let (s, r) := readChain s die p asid (rcbParent w) (rcbUab w) n
          (s, ⟨w :: r.rcbs, r.stop⟩)

/-- The effective value of a field of the first RCB of a list (R16): none when an RCB that was not read supplies it. -/
def effField (whole : Bool) (bit : Nat) (get : List Word → Nat) : List (List Word) → Option Nat
  | [] => none
  | [w] => if whole || bitAt (rcbOvr w) bit then some (get w) else none
  | w :: r => if bitAt (rcbOvr w) bit then some (get w) else effField whole bit get r

/-- The chain from each RCB on toward the root, the named RCB's first. -/
def tailsOf : List (List Word) → List (List (List Word))
  | [] => []
  | w :: r => (w :: r) :: tailsOf r

/-! ### Acceptance (R286) -/

/-- What a chain gives for a launch. -/
def Chain.get (c : Chain) (bit : Nat) (f : List Word → Nat) : Option Nat := effField (c.stop == 0) bit f c.rcbs

/-- Holds when every value is known and the test succeeds. -/
def both (x y : Option Nat) (f : Nat → Nat → Bool) : Bool :=
  match x, y with
  | some a, some b => f a b
  | _, _ => false

/-- The cells of a fixed cell set (R287). -/
def fixedSet (first n gang : Nat) : List Nat :=
  if gang = 0 then (List.range n).map (first + ·) else (List.range n).map (first / 16 * 16 + ·)

/-- The gangs of 2^g clusters of a partition (R287), by their first cluster. -/
def Part.gangs (p : Part) (g : Nat) : List Nat :=
  (List.range (256 / 2 ^ g)).map (· * 2 ^ g) |>.filter fun k => (List.range (2 ^ g)).all fun i => p.hasCluster (k + i)

/-- Code 0x03: reserved bits and stated ranges (R15), of every RCB's effective fields. -/
def Chain.badField (c : Chain) : Bool :=
  (c.rcbs.any rcbReserved) || (tailsOf c.rcbs).any fun l =>
    effField (c.stop == 0) 0 rcbCells l == some 0
      || ((effField (c.stop == 0) 0 rcbHbm l).getD 0) % 65536 != 0
      || decide (65536 < (effField (c.stop == 0) 1 rcbEvCount l).getD 0)

/-- Code 0x04: the event range. -/
def Chain.badEvents (c : Chain) : Bool :=
  both (c.get 1 rcbEvBase) (c.get 1 rcbEvCount) fun b n =>
    decide (65536 < b + n) || (n != 0 && (tailsOf (c.rcbs.drop 1)).any fun l =>
      both (effField (c.stop == 0) 1 rcbEvBase l) (effField (c.stop == 0) 1 rcbEvCount l) fun x m =>
        decide (b < x ∨ x + m < b + n))

/-- Code 0x07: a budget above an ancestor's. -/
def Chain.overBudget (c : Chain) : Bool :=
  (tailsOf (c.rcbs.drop 1)).any fun l => [rcbCells, rcbSlots, rcbTasks, rcbHbm].any fun f =>
    both (c.get 0 f) (effField (c.stop == 0) 0 f l) fun x y => decide (y < x)

/-- Code 0x09: a request that the partition can never meet. -/
def Chain.unmeetable (c : Chain) (s : State) (p : Nat) (cmd : LaunchCmd) : Bool :=
  let x := s.part p
  decide (x.cellCount < (c.get 0 rcbCells).getD 0) || decide (x.quota < (c.get 0 rcbHbm).getD 0)
    || (cmd.fixed && (!s.hasCell p cmd.first || both (c.get 0 rcbCells) (c.get 4 rcbGang) fun n g =>
        (fixedSet cmd.first n g).any fun k => !s.hasCell p k))
    || (!cmd.fixed && both (c.get 0 rcbCells) (c.get 4 rcbGang) fun n g =>
        g != 0 && decide ((x.gangs g).length * 16 * 2 ^ g < n))

/-- Code 0x0A: the claim (R219). -/
def Chain.badClaim (c : Chain) (p : Part) : Bool :=
  match c.get 9 rcbSeed, c.get 10 rcbClmFirst, c.get 10 rcbClmLen with
  | some k, some f, some n => n != 0 && (decide (2 ^ 64 < f + n) || claimOverlaps p.claims (BitVec.ofNat 64 k) f n)
  | _, _, _ => false

/-- The first code of R286 that applies, from the command and the RCBs read; 0x0B is left to the caller. -/
def Chain.code (c : Chain) (s : State) (p : Nat) (cmd : LaunchCmd) : Nat :=
  let gang := c.get 4 rcbGang
  if c.stop = 1 then 0x01
  else if c.stop = 0 ∧ ((c.rcbs.getLast?.map fun w => bitsOf (rcbOvr w) 13 0) != some 0x3FFF) then 0x02
  else if c.badField ∨ cmd.bad then 0x03
  else if c.badEvents then 0x04
  else if decide (8 < gang.getD 0) || both (c.get 0 rcbCells) gang (fun n g => g != 0 && n % (16 * 2 ^ g) != 0) then 0x05
  else if c.stop = 6 ∨ (c.get 8 rcbCbank).getD 0 % 8 ≠ 0 ∨ (c.rcbs.head?.map rcbEntry).getD 0 % 2 ≠ 0 then 0x06
  else if c.overBudget then 0x07
  else if both ((c.get 0 rcbCells).bind fun n => (c.get 6 rcbSpc).map fun k => n * (k + 1)) (c.get 0 rcbSlots)
      (fun n m => decide (m < n)) then 0x08
  else if c.unmeetable s p cmd then 0x09
  else if c.badClaim (s.part p) then 0x0A
  else 0

/-- The effective fields of a launch from a whole chain. -/
def Chain.eff (c : Chain) : Eff :=
  let g (bit : Nat) (f : List Word → Nat) : Nat := (c.get bit f).getD 0
  { cells := g 0 rcbCells, slots := g 0 rcbSlots, tasks := g 0 rcbTasks, hbm := g 0 rcbHbm
    evBase := g 1 rcbEvBase, evCount := g 1 rcbEvCount, prio := g 2 rcbPrio, fdom := g 3 rcbFdom, gang := g 4 rcbGang
    tiles := BitVec.ofNat 8 (g 5 rcbTiles), spc := g 6 rcbSpc, rmode := RMode.ofCode (g 7 rcbRmode)
    cbank := BitVec.ofNat 64 (g 8 rcbCbank), cbankUab := BitVec.ofNat 8 (g 8 rcbUab), seed := BitVec.ofNat 64 (g 9 rcbSeed)
    clmFirst := BitVec.ofNat 64 (g 10 rcbClmFirst), clmLen := g 10 rcbClmLen, corr := BitVec.ofNat 32 (g 11 rcbCorr)
    trapv := BitVec.ofNat 40 (g 12 rcbTrapv), wdog := BitVec.ofNat 48 (g 13 rcbWdog) }

/-- The launch that an accepted command becomes. -/
def newLaunch (num : Nat) (cmd : LaunchCmd) (c : Chain) : Launch where
  num := num
  rcb := cmd.rcb
  entry := BitVec.ofNat 40 ((c.rcbs.head?.map rcbEntry).getD 0)
  uab := BitVec.ofNat 8 ((c.rcbs.head?.map rcbUab).getD 0)
  asid := cmd.asid
  eff := c.eff
  fdoms := (tailsOf c.rcbs).map fun l => (effField true 3 rcbFdom l).getD 0
  stage := .queued
  fixed := cmd.fixed
  first := cmd.first
  cellSet := []
  placed := 0
  hbmHeld := false
  wakeDue := []
  slotsUsed := 0
  tasksLive := 0
  host := cmd.launcher.isNone
  htag := cmd.htag
  launcher := cmd.launcher
  savedTiles := []

/-- The outcome of an acceptance goes to the launcher's q15 (kind 6) or to the host (R207, R351). -/
def State.answer (s : State) (p : Nat) (cmd : LaunchCmd) (code num : Nat) : State :=
  match cmd.launcher with
  | some uid => s.notify uid 6 code cmd.rcb.toNat num
  | none => s.owe p ⟨1, code, num, cmd.htag, 0⟩

/-- LAUNCH_ACCEPT: the coordinator takes the next command, reads the chain and the constant-bank image, and accepts or
refuses (R286). -/
def execLaunchAccept (p : Nat) (s : State) : Out :=
  let x := s.part p
  match x.pending with
  | [] => .next s
  | cmd :: rest =>
    if x.resetting.isSome then .next s
    else
      let s := s.setPart p { x with pending := rest }
      let die := x.homeDie
      let (s, c) := readChain s die p cmd.asid cmd.rcb.toNat cmd.uab.toNat 8
      let code := c.code s p cmd
      if code ≠ 0 then .next (s.answer p cmd code 0)
      else if c.stop ≠ 0 then .next (s.answer p cmd 0x0B 0)
      else
        let e := c.eff
        match engWords s (unitCtx die p cmd.asid e.cbankUab.toNat) e.cbank.toNat 256 with
        | (s, .error _) => .next (s.answer p cmd 0x0B 0)
        | (s, .ok _) =>
          if cmd.fixed ∧ e.gang ≠ 0 ∧ (cmd.first % 16 ≠ 0 ∨ clusterOf cmd.first % 2 ^ e.gang ≠ 0) then
            .next (s.answer p cmd 0x0C 0)
          else
            let n := (s.part p).nextLaunch
            let s := s.modPart p fun x => { x with
              nextLaunch := n + 1
              launches := x.launches ++ [newLaunch n cmd c]
              claims := if e.clmLen = 0 ∨ 1024 ≤ x.claims.length then x.claims
                else x.claims ++ [(n, e.seed, e.clmFirst, e.clmLen)] }
            .next (s.answer p cmd 0 n)

/-! ### Cell sets and the queue (R287, R288, R291, R294) -/

/-- Does a launch of a partition still hold a slot anywhere? -/
def State.inSlots (s : State) (p n : Nat) : Bool := s.strands.any fun t => t.inSlot && t.part == p && t.launch == n

/-- Has a suspended launch given up its cells: every strand is spilled (R291)? -/
def State.drained (s : State) (p : Nat) (l : Launch) : Bool := l.stage == .suspended && !s.inSlots p l.num

/-- Does a launch hold its cells and tiles? -/
def State.holdsCells (s : State) (p : Nat) (l : Launch) : Bool :=
  match l.stage with
  | .queued => false
  | .suspended => s.inSlots p l.num
  | _ => true

/-- Is a cell eligible for a launch, when the launches of a list are taken as gone (R287)? -/
def State.cellEligible (s : State) (p : Nat) (l : Launch) (gone : List Nat) (cell : Nat) : Bool :=
  let others := (s.part p).launches.filter fun y => y.num != l.num && !gone.contains y.num && s.holdsCells p y
  let residents := s.strands.filter fun t =>
    t.inSlot && t.cell == cell && !t.act && t.launch != l.num && !gone.contains t.launch
  s.hasCell p cell && !(others.any fun y => y.cellSet.contains cell)
    && decide (residents.length + l.eff.spc + 1 ≤ 8)
    && !(others.any fun y => y.inCluster (clusterOf cell) && (y.eff.tiles &&& l.eff.tiles) != 0)

/-- The cell set that a launch can have now: its former one, its fixed one, or the lowest eligible cells or gangs. -/
def State.chooseSet (s : State) (p : Nat) (l : Launch) (gone : List Nat) : Option (List Nat) :=
  let ok := s.cellEligible p l gone
  let want := if l.stage = .suspended then some l.cellSet
    else if l.fixed then some (fixedSet l.first l.eff.cells l.eff.gang) else none
  match want with
  | some cs => if cs.all ok then some cs else none
  | none =>
    let pool := if l.eff.gang = 0 then (s.cellsOf p).filter ok
      else ((s.part p).gangs l.eff.gang).flatMap fun k =>
        let cs := (List.range (16 * 2 ^ l.eff.gang)).map (s.cellZero k + ·)
        if cs.all ok then cs else []
    if l.eff.cells ≤ pool.length then some (pool.take l.eff.cells) else none

/-- The head of the queue: highest class, then lowest number; a suspended launch is in it once it is drained (R288, R294). -/
def State.queueHead (s : State) (p : Nat) : Option Launch :=
  ((s.part p).launches.filter fun l => l.stage == .queued || s.drained p l).foldl (fun best l =>
    match best with
    | none => some l
    | some b => if b.eff.prio < l.eff.prio ∨ (b.eff.prio = l.eff.prio ∧ l.num < b.num) then some l else best) none

/-- The launches that a class c may pre-empt, in the order in which victims are chosen (R291). -/
def Part.preemptible (p : Part) (c : Nat) : List Launch :=
  ([0, 1, 2].filter (· < c)).flatMap fun k => ((p.launches.filter fun l =>
    l.eff.prio == k && (match l.stage with
      | .placing | .woken | .running => true
      | _ => false)).reverse)

/-- The fewest victims, in order, whose suspension makes the set eligible. -/
def State.victims (s : State) (p : Nat) (l : Launch) (gone : List Nat) : List Launch → Option (List Nat)
  | [] => none
  | v :: r =>
    if (s.chooseSet p l (gone ++ [v.num])).isSome then some [v.num]
    else (s.victims p l (gone ++ [v.num]) r).map (v.num :: ·)

/-- The lowest number that a list does not use. -/
def unusedFrom (used : List Nat) : Nat := ((List.range (used.length + 1)).find? fun n => !used.contains n).getD 0

/-- Frames in the unit of the spill area behind the frames of the partition's slots: an image fits in one (log entry 68). -/
def unitFrames : Nat := 49

/-- Fabric address of a unit of the spill area behind the frames of the partition's slots. -/
def State.spillUnit (s : State) (p n : Nat) : Nat :=
  (s.part p).w 17 + 4096 * (8 * (s.part p).cellCount + unitFrames * n)

/-- Fabric address of a place for a tile image in the spill area: the units of even number (log entry 68). -/
def State.imageAddr (s : State) (p place : Nat) : Nat := s.spillUnit p (2 * place)

/-- Writes the image of a tile (R167): poisoned elements are stored as poisoned words. -/
def State.putImage (s : State) (a : Nat) (x : Tile) : State :=
  (List.range (imageBytes / 64)).foldl (fun s n =>
    let s := s.writeAt ErrCtx.engine (a + 64 * n) 64 (x.piece n)
    { s with poison := ((List.range 8).filter (x.pieceBad n)).map (fun j => a / 8 + 8 * n + j) ++ s.poison }) s

/-- Reads a tile image: the tile, or the cause of a fault where the image is not valid or its header is poisoned. -/
def State.getImage (s : State) (a : Nat) : Except Nat Tile × State :=
  let (got, s) := makeReads s ErrCtx.engine
    (imageReads ((List.range (imageBytes / 64)).map fun n => (n, (⟨a + 64 * n, false⟩ : Loc), a + 64 * n)))
  let (img, bads) := joinImage 0 got
  if bads.any (· < 8) then (.error 0x0B01, s)
  else match tileFrom img Tile.zero with
    | none => (.error 0x0408, s)
    | some x => (.ok (if bads = [] then x else { x with poison := poisonParts bads }), s)

/-- The tiles that a launch's `tiles` field names, as (cluster, tile). -/
def Launch.heldTiles (l : Launch) : List (Nat × Nat) :=
  (l.cellSet.map clusterOf).dedup.flatMap fun k => ((List.range 8).filter fun n => bitAt l.eff.tiles.toNat n).map fun n => (k, n)

/-- The places of tile images in use in a partition's spill area. -/
def Part.imagesUsed (x : Part) : List Nat := x.launches.flatMap fun l => l.savedTiles.map (·.2.2)

/-- Saves one tile of a launch in an unused place. -/
def State.saveTile (s : State) (p num : Nat) (e : Nat × Nat) : State :=
  let place := unusedFrom (s.part p).imagesUsed
  let s := s.tileFind ErrCtx.engine e.1 e.2 allElems
  (s.putImage (s.imageAddr p place) ((s.cluster e.1).tile e.2)).modPart p fun x => x.modLaunch num fun y =>
    { y with savedTiles := y.savedTiles ++ [(e.1, e.2, place)] }

/-- Saves the tiles of a suspended launch whose strands are all spilled as images in the spill area (R293). -/
def State.saveTiles (s : State) (p : Nat) (l : Launch) : State :=
  if s.drained p l ∧ l.savedTiles = [] then l.heldTiles.foldl (fun s e => s.saveTile p l.num e) s else s

/-- A victim is suspended; one that is only partly placed loses its steps and is back in the queue (R291, R295). A product of a
task under way is left between two of its steps (R154). -/
def State.suspend (s : State) (p n : Nat) : State :=
  let s := s.modPart p fun x =>
    { x.modLaunch n (fun l =>
        if l.stage = .placing then { l with stage := .queued, cellSet := [], placed := 0, hbmHeld := false }
        else { l with stage := .suspended }) with
      tasks := x.tasks.map fun t => if t.launch = n then { t with top := none } else t }
  match (s.part p).launch? n with
  | some l => s.saveTiles p l
  | none => s

/-- HBM bytes reserved by the launches of a partition. -/
def Part.hbmUsed (p : Part) : Nat := (p.launches.map fun l => if l.hbmHeld then l.eff.hbm else 0).sum

/-- Is the kind 6 entry of a launch still to be pushed: it goes before any placement (R286)? -/
def State.accepting (s : State) (p num : Nat) : Bool := s.cmds.any fun c => c.part == p && c.kind == 6 && c.w2 == num

/-- LAUNCH_PLACEMENT: the head of the queue takes its cell set and its HBM, or pre-empts, or waits (R288, R291), once its
launcher's q15 has the entry of its acceptance (R286). A suspended head is placed by LAUNCH_RESTORE. -/
def execLaunchPlacement (p : Nat) (s : State) : Out :=
  match s.queueHead p with
  | none => .next s
  | some l =>
    let x := s.part p
    let leaving := (x.launches.filter fun y => y.stage == .suspended && !s.drained p y && decide (y.eff.prio < l.eff.prio)).map (·.num)
    if x.resetting.isSome ∨ x.ending l ∨ s.accepting p l.num then .next s
    else match s.chooseSet p l [] with
      | some cs =>
        if l.stage = .suspended ∨ x.quota < x.hbmUsed + l.eff.hbm then .next s
        else .next (s.modPart p fun x => x.modLaunch l.num fun y =>
          { y with stage := .placing, cellSet := cs, placed := 0, hbmHeld := true })
      | none =>
        if (s.chooseSet p l leaving).isSome then .next s
        else match s.victims p l leaving (x.preemptible l.eff.prio) with
          | none => .next s
          | some vs => .next (vs.foldl (fun s n => s.suspend p n) s)

/-! ### Placing and starting (R289, R290) -/

/-- The number of placement steps of a cell set. -/
def Launch.steps (l : Launch) : Nat :=
  if l.eff.gang = 0 then (l.cellSet.map clusterOf).dedup.length else l.cellSet.length / (16 * 2 ^ l.eff.gang)

/-- The homes of a list of cells: their SRAM and their clusters' B-stores. -/
def homesOf (cells : List Nat) : List Nat :=
  cells.map (fun c => homeOf (sramBase c)) ++ ((cells.map fun c => homeOf (bstoreBase (deviceOf c) (clusterOf c))).dedup)

/-- PLACEMENT_STEP: the next step of the launch being placed; after the last the wake message is sent. The homes of the
cells answer again (R327). -/
def execPlacementStep (p : Nat) (s : State) : Out :=
  match (s.part p).launches.find? fun l => l.stage == .placing with
  | none => .next s
  | some l =>
    if l.placed + 1 < l.steps then
      .next (s.modPart p fun x => x.modLaunch l.num fun y => { y with placed := y.placed + 1 })
    else
      let back := homesOf l.cellSet
      .next (s.modPart p fun x => { x.modLaunch l.num fun y => { y with
          placed := l.steps, stage := .woken, wakeDue := l.cellSet
          slotsUsed := y.slotsUsed + l.cellSet.length * (l.eff.spc + 1) } with
        dead := x.dead.filter fun h => !back.contains h })

/-- The residents of a launch on a cell, as indexes, from start order `i` on: each takes the lowest free slot or waits for
one (R290). -/
def State.startResidents (s : State) (p : Nat) (l : Launch) (cell base : Nat) : List Nat → State
  | [] => s
  | i :: r =>
    let s := match s.openSlot cell with
      | some slot => s.startResident p l cell slot (base + i)
      | none => s.modCell cell fun c => { c with toStart := c.toStart ++ [(l.num, base + i)] }
    s.startResidents p l cell base r

/-- WAKE_MESSAGE: a cell starts the launch's resident strands in start order (R290). -/
def execWakeMessage (p n cell : Nat) (s : State) : Out :=
  match (s.part p).launch? n with
  | none => .next s
  | some l =>
    if l.stage = .woken ∧ l.wakeDue.contains cell ∧ (s.part p).ending l = false ∧ (s.part p).resetting = none then
      let left := l.wakeDue.filter (· != cell)
      let s := s.modPart p fun x => x.modLaunch n fun y => { y with wakeDue := left, stage := if left = [] then .running else .woken }
      let pos := (l.cellSet.filter (· < cell)).length
      .next (s.startResidents p l cell (pos * (l.eff.spc + 1)) (List.range (l.eff.spc + 1)))
    else .next s

/-- RESIDENT_STRAND_START: a resident that had no slot at the wake starts when one is free. -/
def execResidentStrandStart (cell : Nat) (s : State) : Out :=
  match s.clusterOwner (clusterOf cell), s.openSlot cell with
  | some p, some slot =>
    (match (s.cell cell).toStart.find? fun e => match (s.part p).launch? e.1 with
        | some l => (s.part p).runs l
        | none => false with
    | none => .next s
    | some e =>
      let s := s.modCell cell fun c => { c with toStart := c.toStart.filter (· != e) }
      match (s.part p).launch? e.1 with
      | some l => .next (s.startResident p l cell slot e.2)
      | none => .next s)
  | _, _ => .next s

/-! ### LAUNCH_END (R296) -/

/-- Is a message of the launch in an inbox, or a spawned strand's message anywhere? -/
def State.launchMail (s : State) (p n : Nat) : Bool :=
  (s.cells.any fun c => (c.2.inbox.any fun m => m.part == p && m.launch == n)
      || c.2.outbox.any fun o => o.msg.part == p && o.msg.launch == n && o.msg.kind == .spawn)
  || s.flight.any fun m => m.part == p && m.launch == n && m.kind == .spawn

/-- Has a launch nothing left that keeps it alive (R296)? A suspended one can end too. -/
def State.launchOver (s : State) (p : Nat) (l : Launch) : Bool :=
  (l.stage == .running || l.stage == .suspended) && !(s.strands.any fun t => t.status != .free && t.part == p && t.launch == l.num)
    && l.tasksLive == 0 && !s.launchMail p l.num && !(s.cells.any fun c => c.2.toStart.any fun e => e.1 == l.num && l.cellSet.contains c.1)

/-- A launch ends: its claims and its cells' copies of its constant bank go, the regions that it owns lose their owner, and
its launcher or the host is told (R217, R219, R230, R296). Tiles keep their contents (R369). -/
def State.endLaunch (s : State) (p : Nat) (l : Launch) : State :=
  let key := p * 2 ^ 32 + l.num
  let s := { s with cells := s.cells.map fun c : Nat × Cell => (c.1, { c.2 with cbank := Tab.erase c.2.cbank key }) }
  let s := s.modPart p fun x => { x with
    launches := x.launches.filter fun y => y.num != l.num
    claims := x.claims.filter fun c => c.1 != l.num
    regions := x.regions.map fun e : Nat × Region => (e.1, { e.2 with ownerLive := e.2.ownerLive && e.2.owner != l.num }) }
  match l.launcher with
  | some uid => s.notify uid 7 0 l.rcb.toNat l.num
  | none => if l.host then s.owe p ⟨2, 0, l.num, l.htag, 0⟩ else s

/-- LAUNCH_END. -/
def execLaunchEnd (p n : Nat) (s : State) : Out :=
  match (s.part p).launch? n with
  | none => .next s
  | some l => if s.launchOver p l ∧ (s.part p).ending l = false then .next (s.endLaunch p l) else .next s

end Sys2Proof.Machine
end

