-- ==== Sys2Proof/Machine/Frames.lean ====
section
/-! DEFINITION. Taking back a blocked instruction (R292), context frames (R328), STRAND_SPILL, CONTEXT_RESTORE and
LAUNCH_RESTORE (R13, R293, R294). -/

namespace Sys2Proof.Machine

/-! ### Boundaries of a strand that stops (R292) -/

/-- May the strand be stopped now (R292): not while a wake or the reply of a `sysc` is on its way, a collective whose
membership is fixed is under way, a vector store has been made past loads that have not completed (R261), or some of the pieces
of a tile image have been stored and not all (R93)? -/
def State.canStop (s : State) (t : Strand) : Bool :=
  !t.passed && !t.midStore && match t.status with
    | .blocked .served | .blocked (.sysc _) => false
    | .blocked (.collective k) => (match (s.part t.part).pop? k with
      | some pop => !pop.fixed
      | none => true)
    | _ => true

/-- The strand in focus with its blocked instruction taken back and its registers as they were before it. The home operation that
it was has been performed and counted (R346). -/
def Strand.rewind (t : Strand) : Strand :=
  { (match t.undo with
    | some c => t.restore { c with wops := t.wops }
    | none => t) with undo := none, status := .ready }

/-- A member of a population no longer waits in `resample`. -/
def Pop.withdraw (p : Pop) (uid : Nat) : Pop :=
  { p with members := p.members.map fun m => if m.uid = uid then { m with waiting := none } else m }

/-- Takes a blocked instruction of the strand in focus back (R292): waiters are withdrawn, a sleep keeps its deadline. -/
def State.withdraw (s : State) : State :=
  let t := s.st
  match t.status with
  | .blocked (.token pa) =>
    { s.setWaiters t.part pa ((s.waitersAt t.part pa).filter fun w => w.1 != t.uid) with st := t.rewind }
  | .blocked (.event e) => { s.dropWaiter t.part e t.uid with st := t.rewind }
  | .blocked (.sleep d) => { s with st := t.rewind.keep d }
  | .blocked (.collective k) =>
    { s.modPart t.part fun x => { x with pops := x.pops.map fun e : Nat × Pop =>
        if e.1 = k then (k, e.2.withdraw t.uid) else e } with st := t.rewind }
  | .blocked _ => { s with st := { t with status := .ready } }
  | _ => s

/-- The strand in focus at its boundary (R131, R292): the blocked instruction, the vector instructions that have not executed, and
the reads of a tile instruction under way are taken back. -/
def State.takeBack (s : State) : State :=
  let s := s.withdraw.pullBack
  { s with st := { s.st with top := none } }

/-- Is the strand at rest once taken back: no access outstanding, and a tile wait count of zero (R263, R292)? -/
def State.atRest (s : State) (t : Strand) : Bool := !(s.accs.any fun x => x.uid == t.uid) && t.tileCount == 0

/-! ### Context frames (R328) -/

/-- Nibbles packed into words, 16 to a word. -/
def nibbles (n : Nat) (f : Nat → Nat) : List Word :=
  (List.range n).map fun w => BitVec.ofNat 64 ((List.range 16).map fun i => f (16 * w + i) % 16 * 16 ^ i).sum

/-- The eight words of a 512-bit register. -/
def words512 (x : BitVec 512) : List Word := (List.range 8).map fun i => BitVec.ofNat 64 (x.toNat / 2 ^ (64 * i))

/-- The 512 words of a strand's frame. A deadline is that of the level, handler or not, at which the strand runs. -/
def Strand.frameWords (t : Strand) : List Word :=
  let w (n : Nat) : Word := BitVec.ofNat 64 n
  let l := t.loop
  let qn (n : Nat) : List QVal := t.q[n]?.getD []
  [ w (t.pc.toNat + bitOf t.act * 2 ^ 40 + bitOf t.handler * 2 ^ 41 + t.qpos % 8 * 2 ^ 42 + t.rmode.code * 2 ^ 45 + t.uab.toNat * 2 ^ 47),
    w t.trapv.toNat, w t.wdog.toNat, w t.wleft.toNat, w t.fcause.toNat, w t.fpc.toNat, t.faddr, t.rstat, w (t.rank.toNat % 2 ^ 24),
    t.lin, t.gen, t.popId, t.coord, w (t.tag.toNat + t.src.toNat * 2 ^ 16), w (t.launch % 2 ^ 32),
    w ((t.terr.map (·.toNat)).getD 0 + bitOf t.terr.isSome * 2 ^ 40 + t.tileCount % 64 * 2 ^ 41),
    w (t.fc.code + Nat.log2 t.gc % 4 * 2 ^ 4 + t.vl % 1024 * 2 ^ 6 + l.idx % 16 * 2 ^ 16 + (l.k - 1) % 16 * 2 ^ 20
      + bitOf (l.active || l.suspended) * 2 ^ 24),
    l.count, l.iter,
    w (((List.range 8).map fun n => (qn n).length % 8 * 8 ^ n).sum + t.q15.length % 32 * 2 ^ 24) ]
    ++ nibbles 2 (fun i => (t.gtag[i]?.getD .raw).code)
    ++ nibbles 2 (fun i => (t.vtag[i]?.getD .raw).code)
    ++ nibbles 2 (fun i => match (qn (i / 4))[i % 4]? with
      | some e => e.tag.code
      | none => 0)
    ++ List.replicate 6 0
    ++ (List.range 32).map (fun i => if i = 0 then 0 else t.g[i]?.getD 0)
    ++ (List.range 32).map (fun i => match (qn (i / 4))[i % 4]? with
      | some e => e.val
      | none => 0)
    ++ (List.range 32).flatMap (fun i => words512 (t.v[i]?.getD 0))
    ++ (List.range 8).flatMap (fun i => words512 (t.m[i]?.getD 0))
    ++ [ t.kept.elim 0 w, w (bitOf t.kept.isSome),
         w ((l.srpc.map (·.toNat)).getD 0 + bitOf l.srpc.isSome * 2 ^ 40) ]
    ++ List.replicate 93 0

/-- The words of a strand's frame that hold poisoned data (R147, R174): registers, queue entries, and the words of vector
registers. -/
def Strand.badWords (t : Strand) : List Nat :=
  ((List.range 32).filter fun i => t.gpois.getLsbD i).map (32 + ·)
    ++ ((List.range 32).filter fun i => ((t.q[i / 4]?.getD [])[i % 4]?).any (·.bad)).map (64 + ·)
    ++ ((List.range 256).filter fun i => ((t.vpois[i / 8]?.getD 0).toNat / 2 ^ (16 * (i % 8)) % 2 ^ 16) != 0).map (96 + ·)

/-- Words written at an address, those with the given indexes poisoned. -/
def State.putWords (s : State) (a : Nat) (ws : List Word) (bad : List Nat) : State :=
  let s := s.writeWords a ws
  if bad = [] then s else { s with poison := bad.map (a / 8 + ·) ++ s.poison }

/-- The context of a strand written as a frame: data that is poisoned stays so (R313; log entry 67). -/
def State.putFrame (s : State) (a : Nat) (t : Strand) : State := s.putWords a t.frameWords t.badWords

/-- A strand loaded from a frame, some words of which are poisoned: registers, queue entries and words of vector registers are
marked; `none` when it is another word. -/
def Strand.markBad (t : Strand) (bad : List Nat) : Option Strand :=
  if bad = [] then some t
  else if bad.any fun i => decide (i < 32 ∨ 352 ≤ i) then none
  else some { t with
    gpois := BitVec.ofNat 32 ((List.range 32).map fun i => bitOf (bad.contains (32 + i)) * 2 ^ i).sum
    q := Vector.ofFn fun n : Fin 8 => (t.q.get n).zipIdx.map fun e =>
      { e.1 with bad := bad.contains (64 + 4 * n.val + e.2) }
    vpois := Vector.ofFn fun i : Fin 32 => BitVec.ofNat 128
      ((List.range 8).map fun j => if bad.contains (96 + 8 * i.val + j) then (2 ^ 16 - 1) * 2 ^ (16 * j) else 0).sum }

/-- How many low bits of word `i` of a frame are defined. -/
def frameBits (i : Nat) : Nat :=
  match i with
  | 0 => 55 | 1 => 40 | 2 => 48 | 3 => 48 | 4 => 16 | 5 => 40 | 8 => 24 | 13 => 36 | 14 => 32 | 15 => 47 | 16 => 25 | 19 => 29
  | 417 => 1 | 418 => 41
  | n => if n < 26 ∨ (32 ≤ n ∧ n ≤ 416) then 64 else 0

/-- Does a frame set a reserved bit? -/
def frameBad (ws : List Word) : Bool := ws.zipIdx.any fun e => decide (2 ^ frameBits e.2 ≤ e.1.toNat)

/-- Nibble `i` of words from word `base` on. -/
def frameTag (ws : List Word) (base i : Nat) : Fmt := Fmt.ofCode (wordAt ws (base + i / 16) / 16 ^ (i % 16) % 16)

/-- A 512-bit register from words. -/
def join512 (ws : List Word) (base : Nat) : BitVec 512 :=
  BitVec.ofNat 512 ((List.range 8).map fun i => wordAt ws (base + i) * 2 ^ (64 * i)).sum

/-- A code address of a frame: bit 0 of a PC is 0 (R12, R25). -/
def framePc (x : Nat) : BitVec 40 := BitVec.ofNat 40 (x % 2 ^ 40 / 2 * 2)

/-- The loop state that a frame holds, suspended, within the ranges of R149. -/
def frameLoop (ws : List Word) : Loop :=
  let w (i : Nat) : Nat := wordAt ws i
  if bitAt (w 16) 24 then
    let k := min 15 (bitsOf (w 16) 23 20 + 1)
    ⟨false, true, framePc (w 0), k, ws.getD 17 0, ws.getD 18 0, min (k - 1) (bitsOf (w 16) 19 16),
      if bitAt (w 418) 40 then some (framePc (w 418)) else none, none⟩
  else Loop.idle

/-- The context that a frame holds, laid into a strand (R328, R32): everything that the frame does not hold is empty, but for
the entries of q15, the commands in q8, and the bits of `id.rank` above 23 (log entry 108). The body of the loop that the strand
left suspended keeps the operands that it captured (R149; log entry 66). -/
def Strand.load (t : Strand) (ws : List Word) : Strand :=
  let w (i : Nat) : Nat := wordAt ws i
  let sleep := if bitAt (w 417) 0 then some (w 416) else none
  { t with
    pc := framePc (w 0), act := bitAt (w 0) 40, handler := bitAt (w 0) 41, qpos := bitsOf (w 0) 44 42
    rmode := RMode.ofCode (bitsOf (w 0) 46 45), uab := BitVec.ofNat 8 (bitsOf (w 0) 54 47), trapv := framePc (w 1)
    wdog := BitVec.ofNat 48 (w 2), wleft := BitVec.ofNat 48 (w 3), fcause := BitVec.ofNat 16 (w 4), fpc := framePc (w 5)
    faddr := ws.getD 6 0, rstat := ws.getD 7 0, rank := BitVec.ofNat 32 (t.rank.toNat / 2 ^ 24 * 2 ^ 24 + w 8 % 2 ^ 24)
    lin := ws.getD 9 0, gen := ws.getD 10 0, popId := ws.getD 11 0, coord := ws.getD 12 0
    tag := BitVec.ofNat 16 (w 13), src := BitVec.ofNat 20 (w 13 / 2 ^ 16), launch := bitsOf (w 14) 31 0
    terr := if bitAt (w 15) 40 then some (framePc (w 15)) else none
    twc := bitsOf (w 15) 46 41 - t.tileq.length
    fc := Fmt.ofCode (w 16 % 16), gc := 2 ^ bitsOf (w 16) 5 4, vl := min 512 (bitsOf (w 16) 15 6)
    loop := frameLoop ws
    lbody := if (frameLoop ws).suspended ∧ t.loop.suspended ∧ (frameLoop ws).pc = t.loop.pc ∧ (frameLoop ws).k = t.loop.k then t.lbody
      else []
    top := none
    bpDone := false
    g := Vector.ofFn fun i : Fin 32 => if i.val = 0 then 0 else ws.getD (32 + i.val) 0
    gtag := Vector.ofFn fun i : Fin 32 => if i.val = 0 then .raw else frameTag ws 20 i.val
    vtag := Vector.ofFn fun i : Fin 32 => frameTag ws 22 i.val
    q := Vector.ofFn fun n : Fin 8 => (List.range (min 4 (w 19 / 8 ^ n.val % 8))).map fun e =>
      ⟨ws.getD (64 + 4 * n.val + e) 0, frameTag ws 24 (4 * n.val + e), false⟩
    gpois := 0
    vpois := Vector.replicate 32 0
    v := Vector.ofFn fun i : Fin 32 => join512 ws (96 + 8 * i.val)
    m := Vector.ofFn fun i : Fin 8 => if i.val = 0 then BitVec.allOnes 512 else join512 ws (352 + 8 * i.val)
    sleepUntil := if bitAt (w 0) 41 then none else sleep
    sleepTrap := if bitAt (w 0) 41 then sleep else none }

/-! ### Spilling and restoring -/

/-- The frame of the spill area that belongs to a slot (R292). -/
def State.slotFrame (s : State) (t : Strand) : Nat := (s.part t.part).cellIndex t.cell * 8 + t.slot

/-- The frame that a context takes: that of the slot it leaves, or the lowest unused one when a context that an earlier
suspension spilled from that slot still holds it (R292, log entry 109). -/
def State.chooseFrame (s : State) (t : Strand) : Nat :=
  let used := (s.strands.filter fun x => x.part == t.part && x.uid != t.uid).filterMap (·.frame)
  if used.contains (s.slotFrame t) then unusedFrom used else s.slotFrame t

/-- Fabric address of frame `n` of a partition's spill area (R292, R356): those of the slots come first; the others stand in the
units of odd number behind them, between the tile images (log entries 68, 109). -/
def State.frameAt (s : State) (p n : Nat) : Nat :=
  let slots := 8 * (s.part p).cellCount
  if n < slots then (s.part p).w 17 + 4096 * n
  else s.spillUnit p (2 * ((n - slots) / unitFrames) + 1) + 4096 * ((n - slots) % unitFrames)

/-- Fabric address of the frame of a strand's context in the spill area. -/
def State.frameAddr (s : State) (t : Strand) : Nat := s.frameAt t.part (t.frame.getD (s.slotFrame t))

/-- The strand in focus leaves its slot: its context goes to a frame of the spill area, and an activation no longer counts
against its launch's bud.slots (R13, R18). -/
def State.spillFocus (s : State) (halted : Bool) : State :=
  let t := { s.st with frame := some (s.chooseFrame s.st) }
  let s := s.putFrame (s.frameAddr t) t
  let s := { s with st := { t with status := .spilled halted } }
  if t.act then s.modPart t.part fun x => x.modLaunch t.launch fun l => { l with slotsUsed := l.slotsUsed - 1 } else s

/-- STRAND_SPILL: a strand of a suspended launch leaves its slot at a boundary, once it is at rest; with the last one the
launch's tiles are saved (R291-R293). -/
def execStrandSpill (uid : Nat) (s : State) : Out :=
  match s.strand? uid with
  | none => .next s
  | some t =>
    match s.launchOf t with
    | none => .next s
    | some l =>
      if l.stage = .suspended ∧ t.inSlot ∧ s.canStop t then
        let s' := (s.focus uid).takeBack
        if s'.atRest s'.st then .next ((s'.spillFocus (decide (t.status = Status.halted))).saveTiles t.part l) else .next s
      else .next s

/-- The words of a frame that are poisoned. -/
def State.frameBads (s : State) (a : Nat) : List Nat := (List.range 512).filter fun i => s.poison.contains (a / 8 + i)

/-- A spilled strand takes a slot of its cell again with the context that its frame holds. A frame with a reserved bit set is
a fatal fault (R328), and so is one with a poisoned word that holds no register's data (log entry 67). -/
def State.restoreStrand (s : State) (t : Strand) (halted : Bool) (slot : Nat) : State :=
  let a := s.frameAddr t
  let s := s.meet a 4096
  let ws := memWords s.mem a 512
  if frameBad ws then s.fatal t.part t.launch t.cell t.slot t.uid 0x0303 t.pc (BitVec.ofNat 64 a)
  else match (t.load ws).markBad (s.frameBads a) with
  | none => s.fatal t.part t.launch t.cell t.slot t.uid 0x0B01 t.pc (BitVec.ofNat 64 a)
  | some u =>
    let t' := { u with
      status := if halted then .halted else .ready, slot := slot, frame := none, age := 0, waited := 0, bpDone := halted && t.bpDone }
    let s := s.modStrand t.uid fun _ => t'
    if t'.act then s.modPart t.part fun x => x.modLaunch t'.launch fun l => { l with slotsUsed := l.slotsUsed + 1 } else s

/-- CONTEXT_RESTORE: the strand of a launch that runs again takes the lowest free slot of its cell. -/
def execContextRestore (uid : Nat) (s : State) : Out :=
  match s.strand? uid with
  | none => .next s
  | some t =>
    match t.status, s.openSlot t.cell, s.launchOf t with
    | .spilled h, some slot, some l => if (s.part t.part).runs l then .next (s.restoreStrand t h slot) else .next s
    | _, _, _ => .next s

/-- A saved tile of a launch goes back to its cluster (R293). An image that something has made invalid is a fatal fault of the
launch's domain, with the causes of `tld` (log entry 68). -/
def State.restoreTile (s : State) (p : Nat) (l : Launch) (e : Nat × Nat × Nat) : State :=
  let a := s.imageAddr p e.2.2
  match s.getImage a with
  | (.ok x, s) => s.tilePut e.1 e.2.1 x allElems |>.modCluster e.1 fun c => c.setTile e.2.1 x
  | (.error cause, s) => s.fatal p l.num (s.cellZero e.1) 0 0 cause l.entry (BitVec.ofNat 64 a)

/-- LAUNCH_RESTORE: the head of the queue, suspended before, gets its cells and tiles back; its strands return to the
states they were spilled from, as far as slots are free (R294). The homes of the cells answer again (R327). -/
def execLaunchRestore (p n : Nat) (s : State) : Out :=
  match s.queueHead p with
  | none => .next s
  | some l =>
    if l.num = n ∧ l.stage = .suspended ∧ (s.chooseSet p l []).isSome ∧ (s.part p).ending l = false
        ∧ (s.part p).resetting = none then
      let s := l.savedTiles.foldl (fun s e => s.restoreTile p l e) s
      let back := homesOf l.cellSet
      let s := s.modPart p fun x => { x.modLaunch n fun y =>
          { y with savedTiles := [], stage := if y.wakeDue = [] then .running else .woken } with
        dead := x.dead.filter fun h => !back.contains h }
      .next ((s.strands.filter fun t => t.part == p && t.launch == n).foldl (fun s t =>
        match t.status, s.openSlot t.cell with
        | .spilled h, some slot => s.restoreStrand t h slot
        | _, _ => s) s)
    else .next s

end Sys2Proof.Machine
end

