-- ==== Sys2Proof/Machine/Domains.lean ====
section
/-! DEFINITION. The end of a fault domain (R323-R327): FATAL_FAULT_STOP, DUMP_WRITE, TEARDOWN_POINT, DOMAIN_RELEASE; and
PARTITION_RESET (R357, R359). -/

namespace Sys2Proof.Machine

/-! ### The subtree of a domain (R323) -/

/-- The live launches of the subtree of a fault domain. -/
def Part.subtree (p : Part) (fdom : Nat) : List Launch := p.launches.filter fun l => l.fdoms.contains fdom

/-- Does a strand belong to one of some launches of a partition? -/
def Strand.ofAny (t : Strand) (p : Nat) (ls : List Launch) : Bool :=
  t.status != .free && t.part == p && ls.any fun l => l.num == t.launch

/-- The strands of some launches, in ascending cell and slot. -/
def State.strandsOf (s : State) (p : Nat) (ls : List Launch) : List Strand :=
  sortBy (fun t : Strand => t.cell * 8 + t.slot) (s.strands.filter fun t => t.ofAny p ls)

/-- The first end of a partition in a phase. -/
def Part.inPhase (p : Part) (k : Nat) : Option DomainEnd := p.ends.find? fun e => e.phase == k

/-- Changes the end of a domain. -/
def State.modEnd (s : State) (p fdom : Nat) (f : DomainEnd → DomainEnd) : State :=
  s.modPart p fun x => { x with ends := x.ends.map fun e => if e.fdom = fdom then f e else e }

/-! ### FATAL_FAULT_STOP -/

/-- Halts a strand at its boundary (R343): the breakpoints at its next instruction are tested when it goes on (R340). -/
def State.halt (s : State) (uid : Nat) : State :=
  let s := (s.focus uid).takeBack
  { s with st := { s.st with status := .halted, stepping := false, bpDone := false } }

/-- Stops a strand at its boundary for good: its slot is free, and its context is kept for the dump (R13, R323). -/
def State.stopStrand (s : State) (uid : Nat) : State :=
  let s := (s.focus uid).takeBack
  { s with st := { s.st with status := .stopped, stepping := false } }

/-- Can every strand of the list be stopped at rest, and is each that a fatal fault has stopped at rest? -/
def State.allStop (s : State) (l : List Strand) : Bool :=
  l.all fun t => if t.status = .stopped then s.atRest t else !t.inSlot || (s.canStop t && (let s' := (s.focus t.uid).takeBack; s'.atRest s'.st))

/-- FATAL_FAULT_STOP: every strand of the subtree is stopped; the dump is queued, unless 4 dumps of the partition wait
already (R323, R326). A reset that has begun stops the strands itself (R359). -/
def execFatalFaultStop (p : Nat) (s : State) : Out :=
  match (s.part p).inPhase 0 with
  | none => .next s
  | some e =>
    if (s.part p).resetting.isSome then .next s
    else
    let ls := (s.part p).subtree e.fdom
    let ts := s.strandsOf p ls
    if s.allStop ts then
      let s := (ts.filter (·.inSlot)).foldl (fun s t => s.stopStrand t.uid) s
      let full := decide (4 ≤ ((s.part p).ends.filter fun e => e.phase == 1).length)
      let s := s.modPart p fun x => { x with
        launches := x.launches.map fun l => if l.fdoms.contains e.fdom then { l with stage := .ending } else l
        dumpLost := if full then x.dumpLost + 1 else x.dumpLost }
      .next (s.modEnd p e.fdom fun e => { e with phase := if full then 2 else 1, dumped := !full })
    else .next s

/-! ### DUMP_WRITE (R324, R325) -/

/-- A record of a dump: kind, cell, slot or tile, body, and the indexes of its words that are poisoned. -/
structure DumpRec where
  kind : Nat
  cell : Nat
  slot : Nat
  body : List Word
  bad : List Nat
  deriving DecidableEq, Repr

/-- A message as its 64 bytes, with the source in the dest field (R203). -/
def Msg.image (m : Msg) : List Word :=
  [BitVec.ofNat 64 (m.src % 2 ^ 20 + m.entry.toNat * 2 ^ 20), BitVec.ofNat 64 (m.tag.toNat + m.coord.toNat % 2 ^ 48 * 2 ^ 16)]
    ++ (List.range 6).map fun i => m.payload.getD i 0

/-- A tile's image as words. -/
def Tile.imageWords (x : Tile) : List Word :=
  (List.range (imageBytes / 8)).map fun i => BitVec.ofNat 64 (((List.range 8).map fun j => (x.imageByte (8 * i + j)).toNat * 256 ^ j).sum)

/-- The words of a tile's image that hold poisoned elements. -/
def Tile.badWords (x : Tile) : List Nat :=
  if x.poison = [] then []
  else (List.range (imageBytes / 64)).flatMap fun n => ((List.range 8).filter (x.pieceBad n)).map (8 * n + ·)

/-- A record that copies `n` words of memory. -/
def State.copyRec (s : State) (kind cell slot a n : Nat) : DumpRec :=
  ⟨kind, cell, slot, memWords s.mem a n, if s.poison = [] then [] else (List.range n).filter fun i => s.poison.contains (a / 8 + i)⟩

/-- The context of a stopped strand as a frame: that of the spill area for one that is spilled. -/
def State.contextRec (s : State) (t : Strand) : DumpRec :=
  if t.frame.isSome then s.copyRec 1 t.cell t.slot (s.frameAddr t) 512 else ⟨1, t.cell, t.slot, t.frameWords, t.badWords⟩

/-- The images of the tiles that a launch holds, by cluster and tile: those of the spill area while it is suspended. -/
def State.tileRecs (s : State) (p : Nat) (l : Launch) : List DumpRec :=
  if l.savedTiles = [] then
    (sortBy (fun e : Nat × Nat => e.1 * 8 + e.2) l.heldTiles).map fun e =>
      ⟨2, s.cellZero e.1, e.2, ((s.cluster e.1).tile e.2).imageWords, ((s.cluster e.1).tile e.2).badWords⟩
  else
    (sortBy (fun e : Nat × Nat × Nat => e.1 * 8 + e.2.1) l.savedTiles).map fun e =>
      s.copyRec 2 (s.cellZero e.1) e.2.1 (s.imageAddr p e.2.2) (imageBytes / 8)

/-- The records of a dump in their order (R325): every strand of the subtree is stopped, spilled ones too. -/
def State.dumpRecs (s : State) (p : Nat) (e : DomainEnd) : List DumpRec :=
  let ls := (s.part p).subtree e.fdom
  let ts := s.strandsOf p ls
  let ts := ts.filter (fun t => t.uid == e.uid) ++ ts.filter (fun t => t.uid != e.uid)
  let tiles := ls.flatMap (s.tileRecs p)
  let mail := s.cells.flatMap fun c => (c.2.inbox.filter fun m => m.part == p && ls.any fun l => l.num == m.launch).map fun m =>
    (⟨3, c.1, 0, BitVec.ofNat 64 (m.src % 2 ^ 20 + m.seq % 2 ^ 32 * 2 ^ 20) :: m.image, []⟩ : DumpRec)
  ts.map s.contextRec ++ tiles ++ mail
    ++ ts.flatMap (fun t => t.q15.map fun q => ⟨5, t.cell, t.slot, q.words, []⟩)
    ++ e.secondary.map (fun ws => ⟨4, 0, 0, ws, []⟩)

/-- Writes records from an offset until one does not fit whole: the state, the end of what was written, whether one was
dropped. Poisoned words are written as poisoned words (R313). -/
def putRecs (s : State) (base size off fin : Nat) : List DumpRec → State × Nat × Bool
  | [] => (s, fin, false)
  | r :: rs =>
    let n := 16 + 8 * r.body.length
    if size < off + n then (s, fin, true)
    else
      let head := [BitVec.ofNat 64 (r.kind + r.cell % 2 ^ 20 * 2 ^ 8 + r.slot % 16 * 2 ^ 28), BitVec.ofNat 64 (8 * r.body.length)]
      putRecs (s.putWords (base + off) (head ++ r.body) (r.bad.map (2 + ·))) base size ((off + n + 63) / 64 * 64) (off + n) rs

/-- The dump of a domain begins: the header shows state 1, the first fault, and the dump-lost count (R324). -/
def State.beginDump (s : State) (p : Nat) (e : DomainEnd) : State :=
  (s.writeWords ((s.part p).w 15) (1 :: faultWords e.fdom e.launch e.cause e.cell e.slot e.pc e.addr e.time
    ++ [0, (s.part p).dumpLost.zeroExtend 64])).modEnd p e.fdom fun e => { e with writing := true }

/-- The records have been written: the header is completed with state 2, and vector 3 raised (R325). -/
def State.endDump (s : State) (p : Nat) (e : DomainEnd) : State :=
  let base := (s.part p).w 15
  let (s, fin, trunc) := putRecs s base ((s.part p).w 16 % 2 ^ 48) 64 64 (s.dumpRecs p e)
  let s := s.writeWords (base + 48) [BitVec.ofNat 64 fin]
  let s := s.writeWords base [BitVec.ofNat 64 (2 + bitOf trunc * 2 ^ 2 + min 255 e.secondary.length * 2 ^ 8)]
  (s.modEnd p e.fdom fun e => { e with phase := 2, writing := false }).raise p 3

/-- DUMP_WRITE: with the buffer free a dump begins; a dump that has begun is written whole. A reset that has begun abandons
it (R359). -/
def execDumpWrite (p : Nat) (s : State) : Out :=
  match (s.part p).ends.find? fun e => e.writing, (s.part p).inPhase 1 with
  | some e, _ => .next (if (s.part p).resetting.isSome then s else s.endDump p e)
  | none, some e =>
    .next (if (s.part p).resetting.isSome ∨ memRead s.mem ((s.part p).w 15) 1 % 4 ≠ 0 then s else s.beginDump p e)
  | none, none => .next s

/-! ### TEARDOWN_POINT, DOMAIN_RELEASE (R323, R327) -/

/-- The launches outside a subtree that hold cells. -/
def State.outside (s : State) (p fdom : Nat) : List Launch :=
  (s.part p).launches.filter fun l => !l.fdoms.contains fdom && s.holdsCells p l

/-- The cells of a subtree (R323): a launch outside may hold the former cells of one that was suspended. -/
def State.subtreeCells (s : State) (p fdom : Nat) : List Nat :=
  ((s.part p).subtree fdom).flatMap fun l => l.cellSet.filter fun c => !(s.outside p fdom).any fun y => y.cellSet.contains c

/-- The clusters of a subtree whose B-store no live launch outside shares. -/
def State.ownClusters (s : State) (p fdom : Nat) : List Nat :=
  ((s.subtreeCells p fdom).map clusterOf).dedup.filter fun k => !(s.outside p fdom).any fun l => l.inCluster k

/-- The tiles of a subtree, as (cluster, tile), but for those that a launch outside holds. -/
def State.subtreeTiles (s : State) (p fdom : Nat) : List (Nat × Nat) :=
  ((s.part p).subtree fdom).flatMap fun l => l.heldTiles.filter fun e => !(s.outside p fdom).any fun y => y.heldTiles.contains e

/-- The homes of a subtree (R327). -/
def State.subtreeHomes (s : State) (p fdom : Nat) : List Nat :=
  (s.subtreeCells p fdom).map (fun c => homeOf (sramBase c))
    ++ (s.ownClusters p fdom).map fun k => homeOf (bstoreBase s.boot.device.toNat k)

/-- TEARDOWN_POINT: placed once the dump has finished and every access issued toward these homes has been performed. -/
def execTeardownPoint (p : Nat) (s : State) : Out :=
  match (s.part p).inPhase 2 with
  | none => .next s
  | some e =>
    let hs := s.subtreeHomes p e.fdom
    if s.accs.any fun a => !a.done && hs.contains (homeOf a.pa) then .next s
    else .next ((s.modPart p fun x => { x with dead := x.dead ++ hs }).modEnd p e.fdom fun e => { e with phase := 3 })

/-- Zeroes a range of one array's memory with its poison and its errors; the array's injection register fires on it (R315). -/
def State.zeroRange (s : State) (a n : Nat) : State :=
  { s with mem := memZero s.mem a n
           poison := s.poison.filter fun w => decide (w * 8 < a ∨ a + n ≤ w * 8)
           flips := s.flips.filter fun f => decide (f.addr * 8 < a ∨ a + n ≤ f.addr * 8) }.inject a n

/-- Zeroes a tile with its errors, as a write of its words (R315). -/
def State.zeroTile (s : State) (k n : Nat) : State := s.tilePut k n Tile.zero allElems

/-- Takes everything of some launches off the machine but the launches themselves: strands, messages, tasks, residents not
started, clones. Waiters behind them are served as far as their events let them (R214). -/
def State.clearLaunches (s : State) (p : Nat) (ls : List Launch) : State :=
  let mine (n : Nat) : Bool := ls.any fun l => l.num == n
  let s := (s.strandsOf p ls).foldl (fun s t => (s.endStrand t true).dropStrand t.uid) s
  let gone := ((s.part p).tasks.filter fun t => mine t.launch).map Task.key
  let s := gone.foldl (fun s k => s.leaveDeque p k) s
  let s := { s with cells := s.cells.map fun c : Nat × Cell => (c.1, { c.2 with
    inbox := c.2.inbox.filter fun m => !(m.part == p && mine m.launch)
    toStart := if s.hasCell p c.1 then c.2.toStart.filter fun e => !mine e.1 else c.2.toStart }) }
  let s := s.modPart p fun x => { x with
    tasks := x.tasks.filter fun t => !mine t.launch
    clones := x.clones.filter fun c => !mine c.image.launch
    events := x.events.map fun e : Nat × Event => (e.1, { e.2 with waiters := e.2.waiters.filter fun w => match w with
      | .task k _ => !gone.contains k
      | .strand .. => true }) }
  (s.part p).events.foldl (fun s e => s.serveWaiters p e.1) s

/-- DOMAIN_RELEASE: SRAM, tiles and unshared B-stores are zeroed, the launches of the subtree end (R323). What is zeroed is behind
its teardown point, so that no peer sees it (R327). -/
def execDomainRelease (p : Nat) (s : State) : Out :=
  match (s.part p).inPhase 3 with
  | none => .next s
  | some e =>
    let ls := (s.part p).subtree e.fdom
    let d := (s.part p).dead
    let own := (s.ownClusters p e.fdom).filter fun k => d.contains (homeOf (bstoreBase s.boot.device.toNat k))
    let cells := (s.subtreeCells p e.fdom).filter fun c => d.contains (homeOf (sramBase c))
    let tiles := s.subtreeTiles p e.fdom
    let s := s.clearLaunches p ls
    let s := cells.foldl (fun s c => s.zeroRange (sramBase c) (2 ^ 18)) s
    let s := own.foldl (fun s k => s.zeroRange (bstoreBase s.boot.device.toNat k) (2 ^ 22)) s
    let s := tiles.foldl (fun s e => s.zeroTile e.1 e.2) s
    let s := ls.foldl (fun s l => s.endLaunch p l) s
    .next (s.modPart p fun x => { x with ends := x.ends.filter fun y => y.fdom != e.fdom })

/-! ### Resets (R357, R359) -/

/-- A reset of a partition is requested; requests during a reset join it (R359). -/
def State.requestReset (s : State) (p : Nat) : State :=
  if (s.part p).live ∧ (s.part p).resetting = none then
    s.modPart p fun x => { x with resetting := some 1, fn := { x.fn with pstate := 2 } }
  else s

/-- The state in which a partition's clusters and units start (R357, and step 3 of R359): SRAM, B-stores and tiles zero,
caches and TLBs empty, the units' tables cleared. -/
def State.scrub (s : State) (p : Nat) : State :=
  let ks := (s.part p).clusters
  let d := s.boot.device.toNat
  let s := ks.foldl (fun s k =>
    let s := (List.range 16).foldl (fun s i => s.zeroRange (sramBase (s.cellZero k + i)) (2 ^ 18)) s
    let s := s.zeroRange (bstoreBase d k) (2 ^ 22)
    (List.range 8).foldl (fun s n => s.zeroTile k n) s) s
  let s := ks.foldl (fun s k => (s.modCluster k fun c =>
    { c with ldc := [], filled := [], flawed := [], counter := 0, attempts := 0, failed := 0, failedSince := 0 })) s
  let s := { s with clusters := s.clusters.map fun c : Nat × Cluster => (c.1, { c.2 with deque := c.2.deque.filter (·.1 != p) }) }
  let clean (c : Nat × Cell) : Nat × Cell :=
    if ks.contains (clusterOf c.1) then (c.1, { c.2 with ldc := [], filled := [], fetch := [], flawed := [], undeliverable := 0, cbank := [], toStart := [] }) else c
  let s := { s with cells := s.cells.map clean }
  let lo := bitsOf ((s.part p).w 0) 36 24
  let n := bitsOf ((s.part p).w 0) 50 37
  let s := { s with dies := s.dies.map fun d : Nat × Die => (d.1, { d.2 with rollups := d.2.rollups.filter fun r => r.1 != p }) }
  let s := s.dropTlb fun e => decide (lo ≤ e.asid ∧ e.asid < lo + n)
  let s := s.modPart p fun x => { x with
    pending := [], launches := [], nextLaunch := 1, tasks := [], nextTask := [], events := [], claims := [], regions := []
    bumps := [], pops := [], clones := [], objects := [], knotTop := 1, ends := [], dead := [], seqs := []
    tokenWaiters := [], wdLeft := x.w 19
    log := { x.log with pos := [], free := [], lastTime := [] } }
  s.putKnot p 0 ⟨0, noParent, 0, true, false, 0, 0⟩

/-- The host's entries of a queue still to be taken: their htags, which stand in word `w` of entries of `size` bytes. -/
def queueTags (host : List Host.Cell) (base log head count size w : Nat) : List Word :=
  (List.range count).map fun i => BitVec.ofNat 64 (memRead host (base + (head + i) % 2 ^ log * size + 8 * w) 8)

/-- Results with status 0xFF for the host commands that a reset meets (R359 step 2): launches that live, commands at the
coordinator, messages on their way, and both queues. -/
def State.resetResults (s : State) (p : Nat) : List Result :=
  let x := s.part p
  let f := x.fn
  (x.launches.filter (·.host)).map (fun l => ⟨2, 0xFF, l.num, l.htag, 0⟩)
    ++ (x.pending.filter fun c => c.launcher.isNone).map (fun c => ⟨1, 0xFF, 0, c.htag, 0⟩)
    ++ (s.flight.filter fun m => m.part == p).filterMap (fun m => m.host.map fun h => ⟨3, 0xFF, m.launch, h, 0⟩)
    ++ (queueTags s.hostMem f.lqBase.toNat f.lqSize f.lqHead.toNat (f.lqTail - f.lqHead).toNat 64 3).map (fun h => ⟨1, 0xFF, 0, h, 0⟩)
    ++ (queueTags s.hostMem f.mqBase.toNat f.mqSize f.mqHead.toNat (f.mqTail - f.mqHead).toNat 128 9).map (fun h => ⟨3, 0xFF, 0, h, 0⟩)

/-- Have the partition's accesses been performed and its engine commands run to their end, but for those that stall on a
translation miss (R359 steps 1 and 2)? What homes of other devices do is not known here (log entry 9). -/
def State.quiet (s : State) (p : Nat) : Bool :=
  !(s.accs.any fun a => !a.done && !s.remote a.pa && match s.strand? a.uid with
    | some t => t.part == p
    | none => false)
  && !(s.cmds.any fun c => c.part == p && (c.stage == 1 || c.stage == 2) && c.walk.isNone)

/-- PARTITION_RESET: strands are gone, messages and commands discarded, the partition scrubbed; pstate is 1 again and
vector 4 is raised once (R359), before vector 0 for the result entries (R353). -/
def execPartitionReset (p : Nat) (s : State) : Out :=
  if (s.part p).resetting.isNone ∨ s.quiet p = false then .next s
  else
    let results := s.resetResults p
    let uids := (s.strands.filter fun t => t.status != .free && t.part == p).map (·.uid)
    let s := uids.foldl (fun s u => s.dropStrand u) s
    let s := { s with
      accs := s.accs.filter fun a => !uids.contains a.uid
      sidings := s.sidings.filter fun d => !uids.contains d.uid
      cmds := s.cmds.filter fun c => c.part != p
      flight := s.flight.filter fun m => m.part != p
      walks := s.walks.filter fun w => w.part != p
      invs := s.invs.filter fun v => v.part != p
      cells := s.cells.map fun c : Nat × Cell => (c.1, { c.2 with
        inbox := c.2.inbox.filter fun m => m.part != p
        outbox := c.2.outbox.filter fun o => o.msg.part != p }) }
    let base := (s.part p).w 15
    let s := if memRead s.mem base 1 % 4 = 1 then s.writeAt ErrCtx.engine base 8 0 else s
    let s := s.scrub p
    let s := s.modPart p fun x => { x with resetting := none, fn := { x.fn with
      pstate := 1, lqHead := x.fn.lqTail, mqHead := x.fn.mqTail, results := x.fn.results ++ results } }
    .next ((s.raise p 4).flushResults p)

end Sys2Proof.Machine
end

