-- ==== Sys2Proof/Machine/Translations.lean ====
section
/-! DEFINITION. Walks and misses (R321, R322, R330-R334): TRANSLATION_WALK, TRANSLATION_MISS, TRANSLATION_FAULT_ANSWER;
watchdogs (R303, R304); ILLEGAL_ENCODING; LDC_LINE_EVICTION. -/

namespace Sys2Proof.Machine

/-! ### TRANSLATION_WALK (R334) -/

/-- The walks that occupy the 64 walkers of a die: the oldest that have not been posted. -/
def State.walking (s : State) (die : Nat) : List Walk :=
  (s.walks.filter fun w => w.die == die && w.record.isNone).take 64

/-- The strands stalled on a walk. -/
def State.stalledOn (s : State) (id : Nat) : List Strand :=
  s.strands.filter fun t => match t.status with
    | .blocked (.walk i _) => i == id
    | _ => false

/-- A leaf enters the die's service, and the TLBs of some cells and of their clusters. -/
def State.fillTlbs (s : State) (die : Nat) (cells : List Nat) (e : TlbEntry) : State :=
  let s := s.modDie die fun d => { d with tlb := (e :: d.tlb).take 16384 }
  let s := (cells.map clusterOf).dedup.foldl (fun s k => s.modCluster k fun c => { c with tlb := (e :: c.tlb).take 512 }) s
  cells.dedup.foldl (fun s c => s.modCell c fun x => { x with tlb := (e :: x.tlb).take 32 }) s

/-- Everything that stalls on a walk goes on, and the walk is gone. -/
def State.releaseWalk (s : State) (id : Nat) : State :=
  let s := (s.stalledOn id).foldl (fun s t => s.modStrand t.uid Strand.readied) s
  { s with walks := s.walks.filter fun w => w.id != id
           cmds := s.cmds.map fun c => if (c.walk.map (·.1)) = some id then { c with walk := none } else c }

/-- TRANSLATION_WALK: a walk on one of the die's walkers ends with a leaf, which is kept and serves all that stall on it,
or with a miss. -/
def execTranslationWalk (n : Nat) (s : State) : Out :=
  match s.walks.find? fun w => w.id == n && !w.miss with
  | none => .next s
  | some w =>
    if (s.walking w.die).any (fun x => x.id == n) then
      match s.walk w.asid w.va with
      | (s, none) => .next { s with walks := s.walks.map fun x => if x.id = n then { x with miss := true } else x }
      | (s, some e) =>
        let cells := (s.stalledOn n).map (·.cell) ++ (s.accs.filter fun x => (x.walk.map (·.1)) = some n).map (·.cell) ++ (if w.eng then [] else [w.cell])
        .next ((s.fillTlbs w.die cells e).releaseWalk n)
    else .next s

/-! ### TRANSLATION_MISS (R321) -/

/-- The first sequence number of a partition's records that is still pending: the head of the queue. -/
def State.faultHead (s : State) (p : Nat) : Nat :=
  ((s.walks.filter fun w => w.part == p).filterMap (·.record)).foldl min (s.part p).tfSeq

/-- Fabric address of the record with a sequence number (R321, R356). -/
def State.recordAddr (s : State) (p seq : Nat) : Nat := (s.part p).w 18 + 32 * (seq % 256)

/-- The words of a translation fault record. -/
def Walk.words (w : Walk) (seq : Nat) : List Word :=
  [BitVec.ofNat 64 w.va,
   BitVec.ofNat 64 (bitsOf w.va 71 64 + w.asid % 2 ^ 13 * 2 ^ 8 + w.acc % 4 * 2 ^ 21 + bitOf w.eng * 2 ^ 23
     + w.cell % 2 ^ 20 * 2 ^ 24 + w.slot % 8 * 2 ^ 44),
   BitVec.ofNat 64 (seq % 2 ^ 32), 0]

/-- May the miss of a walk be posted: fewer than 256 records are pending, and no reset has begun (R359)? -/
def State.canPost (s : State) (w : Walk) : Bool :=
  w.miss && w.record.isNone && (s.part w.part).resetting.isNone && decide ((s.part w.part).tfSeq < s.faultHead w.part + 256)

/-- TRANSLATION_MISS: the record is posted and vector 1 raised. -/
def execTranslationMiss (n : Nat) (s : State) : Out :=
  match s.walks.find? fun w => w.id == n with
  | none => .next s
  | some w =>
    if s.canPost w then
      let seq := (s.part w.part).tfSeq
      let s := s.writeWords (s.recordAddr w.part seq) (w.words seq)
      let s := { s with walks := s.walks.map fun x : Walk => if x.id = n then { x with record := some seq, ans := none } else x }
      .next ((s.modPart w.part fun x => { x with tfSeq := seq + 1 }).raise w.part 1)
    else .next s

/-! ### TRANSLATION_FAULT_ANSWER (R322) -/

/-- A vector instruction of a strand that stalls on a walk, and the address that missed. -/
def Strand.entryStall (t : Strand) (id : Nat) : Option (VEntry × Nat) :=
  t.vq.findSome? fun e => match e.walk with
    | some (w, va) => if w = id then some (e, va) else none
    | none => none

/-- Where a strand stalls on a walk: at a vector instruction (R131) or at its blocked one, and the address that missed. -/
def Strand.stall (t : Strand) (id : Nat) : Option (Option VEntry × Nat) :=
  match t.entryStall id with
  | some (e, va) => some (some e, va)
  | none => match t.status with
    | .blocked (.walk i va) => if i = id then some (none, va) else none
    | _ => none

/-- Is an access of a strand that stands before its vector instruction number `num` not settled, but for those that stall on a
walk? -/
def State.unsettledBut (s : State) (uid num id : Nat) : Bool :=
  s.accs.any fun x => x.uid == uid && decide (x.after ≤ num) && s.unsettled x && (x.walk.map (·.1)) != some id

/-- A stalled strand takes 0x0302 at B: for a vector instruction, at the boundary before it (R131, R322). Behind an access that
takes the same fault it takes its instruction again. -/
def State.deny (s : State) (uid id : Nat) : State :=
  let s := s.focus uid
  match s.st.stall id with
  | some (some e, va) => if s.entryTurn e then s.entryFault e 0x0302 va else s
  | some (none, va) =>
    if s.risky then s else { s with st := { s.st with status := .ready } }.takeFault 0x0302 s.st.pc (BitVec.ofNat 64 va)
  | none => s

/-- An access stalled on a denied walk is answered with 0x0302 (R322). -/
def State.denyAccesses (s : State) (id : Nat) : State :=
  s.accs.foldl (fun s x => match x.walk with
    | some (w, va) => if w = id then s.performed x.id 0 none false (some (0x0302, va)) else s
    | none => s) s

/-- Must the denial of a strand wait: vector instructions before the stalled one have not executed, accesses of vector
instructions have been sent (R131), or an earlier access may still fault (R318)? -/
def State.denyWaits (s : State) (id : Nat) : Bool :=
  s.strands.any fun t => match t.stall id with
    | some (some e, _) =>
      t.vectorSent || (t.vq.head?.any fun h => h.num != e.num && !h.body) || s.unsettledBut t.uid e.num id
    | some (none, _) => t.vq != [] || s.unsettledBut t.uid t.vnum id
    | none => false

/-- The address at which the dispatch of a task by its cluster stalls. -/
def State.taskMiss (s : State) (p k : Nat) (t : Task) : Option Nat :=
  match t.kind with
  | 0 => none
  | 1 =>
    (match t.product { s with st := t.engineStrand (s.cellZero k) p } with
    | .error (.miss va _) => some va
    | _ => none)
  | _ =>
    (match s.taskDesc (t.unit k p) t with
    | .error (.miss va _) => some va
    | _ => none)

/-- Tasks at the heads of the die's deques that stall on a page, with their addresses. -/
def State.taskStalls (s : State) (w : Walk) : List (Task × Nat) :=
  ((s.part w.part).clusters.filter fun k => k / 64 == w.die).filterMap fun k =>
    match s.dequeTasks k with
    | [] => none
    | (p, t, _) :: _ =>
      if p = w.part ∧ t.asid = w.asid then
        match s.taskMiss w.part k t with
        | some va => if va / 65536 = w.page then some (t, va % 2 ^ 64) else none
        | none => none
      else none

/-- An engine command stalled on a denied walk ends with status bit 2 and cause 0x0302 (R322). -/
def EngCmd.denied (c : EngCmd) : EngCmd :=
  let va := (c.walk.map (·.2)).getD 0
  let c := { c with walk := none }
  if c.stage = 1 then c.failed 0x0302 (va % 2 ^ 64)
  else { c.flag 2 with stage := 3, w5 := BitVec.ofNat 64 va, w6 := 0x0302 }

/-- The walk of a pending record. -/
def State.recordWalk (s : State) (p seq : Nat) : Option Walk := s.walks.find? fun w => w.part == p && w.record == some seq

/-- The answer that stands in word 3 of a record, if it is one (R322). -/
def State.answerOf (s : State) (p seq : Nat) : Option MissAnswer :=
  match memRead s.mem (s.recordAddr p seq + 24) 1 % 4 with
  | 1 => some .retry
  | 3 => some .deny
  | _ => none

/-- The posting service acts on the first write of 1 or 3 to word 3 of a pending record (R322): it reads the word and keeps the
answer. A poisoned word is none (R313). -/
def State.latchAnswer (s : State) (w : Walk) : State :=
  match w.record, w.ans with
  | some r, none =>
    match s.answerOf w.part r with
    | none => s
    | some a =>
      let s := s.meet (s.recordAddr w.part r + 24) 8
      if s.inError (s.recordAddr w.part r + 24) 8 then s
      else { s with walks := s.walks.map fun x : Walk => if x.id = w.id then { x with ans := some a } else x }
  | _, _ => s

/-- The answers of every pending record. -/
def State.latchAnswers (s : State) : State := s.walks.foldl State.latchAnswer s

/-- A walk that has been answered: its record is no longer pending, and the queue's head follows (R321). -/
def State.answered (s : State) (w : Walk) : State := s.modPart w.part fun x => { x with tfHead := s.faultHead w.part }

/-- The page of a walk is walked again, and what stalls is replayed (R322). -/
def State.retryWalk (s : State) (w : Walk) : State :=
  { s with walks := s.walks.map fun x : Walk =>
      if x.id = w.id then { x with miss := false, record := none, ans := none } else x }.answered w

/-- What a walk stalls is denied (R322). -/
def State.denyWalk (s : State) (w : Walk) : State :=
  let strands : List Nat := (s.strands.filter fun t => (t.stall w.id).isSome).map (·.uid)
  let tasks := s.taskStalls w
  let s : State := s.denyAccesses w.id
  let s : State := strands.foldl (fun s u => s.deny u w.id) s
  let s : State := { s with
    cmds := s.cmds.map fun c : EngCmd => if (c.walk.map (·.1)) = some w.id then c.denied else c
    walks := s.walks.filter fun x : Walk => x.id != w.id }
  (tasks.foldl (fun (s : State) (e : Task × Nat) => (s.leaveDeque w.part e.1.key).taskFault w.part e.1 0x0302 e.2) s).answered w

/-- TRANSLATION_FAULT_ANSWER: the system image writes an answer to word 3 of a pending record; the first one counts. Retry
walks again; deny faults what stalls, once the vector instructions before it have executed (R131). -/
def execTranslationFaultAnswer (p rec : Nat) (ans : MissAnswer) (s : State) : Out :=
  match s.recordWalk p rec with
  | none => .next s
  | some w =>
    let code : Nat := match ans with
      | .retry => 1
      | .deny => 3
    let s := s.writeWords (s.recordAddr p rec + 24) [BitVec.ofNat 64 code]
    match w.ans.getD ans with
    | .retry => .next (s.retryWalk w)
    | .deny => .next (if s.denyWaits w.id then s.latchAnswers else s.denyWalk w)

/-! ### Watchdogs (R303, R304) -/

/-- Is a strand's watchdog fault due at the boundary where it stands? An earlier access that may still fault comes first (R318). -/
def State.watchdogDue (s : State) (t : Strand) : Bool :=
  t.wdue && t.inSlot && t.status != .halted && s.canStop t && !(s.accs.any fun x => x.uid == t.uid && s.mayFault x)
    && !(match s.launchOf t with
      | some l => (s.part t.part).ending l
      | none => false)

/-- STRAND_WATCHDOG_EXPIRY: the strand, its blocked and unfinished instructions taken back, takes 0x0901. -/
def execStrandWatchdogExpiry (uid : Nat) (s : State) : Out :=
  match s.strand? uid with
  | none => .next s
  | some t =>
    if s.watchdogDue t then
      let s := (s.focus uid).takeBack
      let s := { s with st := { s.st with wdue := false, status := .ready } }
      .next (s.takeFault 0x0901 s.st.pc 0)
    else .next s

/-- PARTITION_WATCHDOG_EXPIRY: the hypervisor resets the partition; a period of 0 counts nothing. -/
def execPartitionWatchdogExpiry (p : Nat) (s : State) : Out :=
  if (s.part p).w 19 ≠ 0 ∧ (s.part p).wdLeft = 0 then .next (s.requestReset p) else .next s

/-! ### ILLEGAL_ENCODING (R97, R98), LDC_LINE_EVICTION (R99, R179) -/

/-- ILLEGAL_ENCODING: the strand in focus takes the encoding fault of the words at its PC. -/
def execIllegalEncoding (cause : BitVec 16) (addr : Word) (s : State) : Out := .next (s.stop (.trap cause.toNat addr.toNat))

/-- LDC_LINE_EVICTION: a line leaves the ldc cache of a cell or of its cluster. -/
def execLdcLineEviction (cell : Nat) (cluster : Bool) (line : Nat) (s : State) : Out :=
  .next (if cluster then s.modCluster (clusterOf cell) fun k => k.drop (· == line)
    else s.modCell cell fun c => (c.drop (· == line)).dropFetch (· == line))

end Sys2Proof.Machine
end

