-- ==== Sys2Proof/Machine/Services.lean ====
section
/-! DEFINITION. SYSC_REPLY: what the system image does for `sysc n` (R220, R361), law regions among it (R230). -/

namespace Sys2Proof.Machine

/-! ### Installing a law region (R230) -/

/-- Fabric pages of 64 KiB that `n` bytes at an address touch, each translated with read, and with write permission if
asked; none where one cannot be. -/
def regionPages (s : State) (c : EngCtx) (a : Nat) (write : Bool) : Nat → State × Option (List Nat)
  | 0 => (s, some [])
  | n + 1 =>
    match s.engineFind c.die c.asid (c.va a) with
    | (s, none) => (s, none)
    | (s, some e) =>
      match s.permit c.part e (c.va a) true write false with
      | .error _ => (s, none)
      | .ok loc =>
        match regionPages s c ((a / 65536 + 1) * 65536) write n with
        | (s, none) => (s, none)
        | (s, some gs) => (s, some (loc.pa / 65536 :: gs))

/-- Number of 64 KiB pages that `n` bytes at an address touch. -/
def pageSpan (a n : Nat) : Nat := if n = 0 then 0 else (a % 65536 + n - 1) / 65536 + 1

/-- Is a region descriptor malformed, but for the overlap and the report cell (R230)? -/
def regionBad (ws : List Word) : Bool :=
  let w (i : Nat) : Nat := wordAt ws i
  let base := bitsOf (w 0) 1 0
  let n := bitsOf (w 0) 6 2
  let size := bitsOf (w 3) 47 0
  decide (2 ^ 7 ≤ w 0) || decide (1 < base) || (base == 0 && decide (24 < n)) || (base == 1 && n != 0)
    || w 1 % 32 != 0 || w 2 % 4096 != 0 || decide (2 ^ 48 ≤ w 3) || size == 0 || size % 4096 != 0
    || decide (2 ^ 28 < size) || (base == 0 && w 4 != 0) || decide (2 ^ 21 ≤ w 5) || w 6 != 0 || w 7 != 0

/-- The fabric ranges of a region: one for each page that it touches. -/
def Region.ranges (r : Region) : List (Nat × Nat) :=
  r.pages.zipIdx.map fun e =>
    let lo := max (e.2 * 65536) r.off
    let hi := min ((e.2 + 1) * 65536) (r.off + r.size)
    (e.1 * 65536 + lo - e.2 * 65536, hi - lo)

/-- Do the physical bytes of two regions overlap? -/
def Region.overlaps (a b : Region) : Bool :=
  a.ranges.any fun x => b.ranges.any fun y => decide (x.1 < y.1 + y.2 ∧ y.1 < x.1 + x.2)

/-- Is a word poisoned in the law table or the range of a region? -/
def State.regionPoisoned (s : State) (r : Region) : Bool :=
  let table : Region := { r with pages := r.ltPages, off := r.ltOff, size := 8192 }
  s.poison.any fun w => (r.ranges ++ table.ranges).any fun x => decide (x.1 ≤ w * 8 ∧ w * 8 < x.1 + x.2)

/-- The region of a descriptor, once its pages are known. -/
def regionOf (s : State) (t : Strand) (ws : List Word) (lt pages : List Nat) : Region where
  step := bitAt (wordAt ws 0) 0
  n := bitsOf (wordAt ws 0) 6 2
  lt := ws.getD 1 0
  start := ws.getD 2 0
  ltPages := lt
  ltOff := wordAt ws 1 % 65536
  pages := pages
  off := wordAt ws 2 % 65536
  size := bitsOf (wordAt ws 3) 47 0
  ctr := ws.getD 4 0
  seen := List.replicate 4 (ws.getD 4 0)
  rcell := bitsOf (wordAt ws 5) 19 0
  rvalid := bitAt (wordAt ws 5) 20
  owner := t.launch
  ownerLive := true
  pass := none
  passStart := s.now

/-- `sysc 3` (R230): installs or removes the region g1 by the descriptor at g2; the state and `ret.status`. -/
def State.lawService (s : State) (t : Strand) : State × Nat :=
  let n := (t.g.get 1).toNat
  let a := (t.g.get 2).toNat
  let x := s.part t.part
  if 64 ≤ n then (s, 2)
  else if (a == 0) != Tab.has x.regions n then (s, 1)
  else if a = 0 then (s.modPart t.part fun x => { x with regions := Tab.erase x.regions n }, 0)
  else
    let c : EngCtx := unitCtx (dieOf t.cell) t.part t.asid t.uab.toNat
    match engWords s c a 8 with
    | (s, .error _) => (s, 3)
    | (s, .ok ws) =>
      match regionPages s c (wordAt ws 1) false (pageSpan (wordAt ws 1) 8192) with
      | (s, none) => (s, 3)
      | (s, some lt) =>
        match regionPages s c (wordAt ws 2) true (pageSpan (wordAt ws 2) (bitsOf (wordAt ws 3) 47 0)) with
        | (s, none) => (s, 3)
        | (s, some pages) =>
          let r := regionOf s t ws lt pages
          if s.regionPoisoned r then (s, 3)
          else if regionBad ws || (r.rvalid && !s.hasCell t.part r.rcell) || x.regions.any (fun e => e.2.overlaps r) then (s, 2)
          else (s.modPart t.part fun x => { x with regions := Tab.set x.regions n r }, 0)

/-! ### Replies -/

/-- Writes g1, g2, … of a strand with tag raw. -/
def Strand.putReply (t : Strand) (ws : List Word) : Strand :=
  { t with
    g := Vector.ofFn fun i : Fin 32 => if i.val = 0 then t.g.get i else ws.getD (i.val - 1) (t.g.get i)
    gtag := Vector.ofFn fun i : Fin 32 => if 1 ≤ i.val ∧ i.val ≤ ws.length then .raw else t.gtag.get i
    gpois := t.gpois &&& ~~~(BitVec.ofNat 32 (2 * (2 ^ ws.length - 1))) }

/-- The reply reaches the strand, which goes on after `sysc`. -/
def State.reply (s : State) (uid : Nat) (ws : List Word) (status : Word) : State :=
  s.modStrand uid fun t => { (t.putReply ws).wake with pc := t.npc, rstat := status }

/-- The digest of the identity public key in six words (R361, R365). -/
def identityWords : List Word :=
  (List.range 6).map fun w => BitVec.ofNat 64 ((List.range 8).map fun i => (Config.identityDigest (8 * w + i)).toNat * 256 ^ i).sum

/-- SYSC_REPLY: the service that a blocked strand asked for is done, and its reply arrives (R361). Service 4 replies once its
result entry is written; service 5 never does. -/
def execSyscReply (uid : Nat) (s : State) : Out :=
  match s.strand? uid with
  | none => .next s
  | some t =>
    match t.status with
    | .blocked (.sysc n) =>
      let x := s.part t.part
      if x.resetting.isSome then .next s
      else match n with
        | 0 => .next (s.reply uid [] 0)
        | 1 =>
          .next ((s.modPart t.part fun y => { y with wdLeft := y.w 19 }).reply uid [BitVec.ofNat 64 (x.w 19)] 0)
        | 2 =>
          .next (s.reply uid [BitVec.ofNat 64 t.part, BitVec.ofNat 64 s.boot.device.toNat, BitVec.ofNat 64 x.clusters.length,
            BitVec.ofNat 64 x.quota, BitVec.ofNat 64 (bitsOf (x.w 0) 36 24), BitVec.ofNat 64 (bitsOf (x.w 0) 50 37)] 0)
        | 3 =>
          let (s', status) := s.lawService t
          .next (s'.reply uid [] (BitVec.ofNat 64 status))
        | 4 =>
          if x.fn.rqRoom ∧ x.fn.results = [] then
            .next ((s.owe t.part ⟨4, 0, t.launch, t.g.get 1, t.g.get 2⟩).reply uid [] 0)
          else .next s
        | 5 => .next (s.requestReset t.part)
        | 6 => .next (s.reply uid identityWords 0)
        | _ => .next (s.reply uid [] (BitVec.allOnes 64))
    | _ => .next s

end Sys2Proof.Machine
end

