-- ==== Sys2Proof/Machine/HostSide.lean ====
section
/-! DEFINITION. The host interface and the hypervisor's part in it (R285, R348-R360): BAR2, the queues of a virtual function,
interrupts' registers, partitions that become live, partition events, link planes. -/

namespace Sys2Proof.Machine

/-! ### HOST_BAR2_ACCESS (R348, R352, R364) -/

/-- The context of a host access. -/
def hostCtx (s : State) (p : Nat) : EngCtx :=
  ⟨(s.part p).homeDie, p, (s.part p).fn.hasid, 0, ⟨p, ErrCtx.engine, 0, s.nextId⟩⟩

/-- One piece of a host access at its home: the value read, or none when it misses or lacks permission. -/
def hostLoad (s : State) (c : EngCtx) (a n : Nat) : State × Option Nat :=
  match s.engineFind c.die c.asid (c.va a) with
  | (s, none) => (s, none)
  | (s, some e) =>
    match s.permit c.part e (c.va a) true false false with
    | .error _ => (s, none)
    | .ok loc =>
      if s.remote loc.pa then ({ s with free := s.free + 1 }, some (lowBits (8 * n) (Config.remoteData s.free).toNat))
      else
        let (x, _, s) := s.readAt ErrCtx.engine loc.pa n
        (s, some x)

/-- One piece of a host write; dropped when it misses, lacks permission, or would overload the sweep engine (R312). It is none
of the writes that bump a watched object (R244). One for another device's memory leaves this device. -/
def hostStore (s : State) (c : EngCtx) (a n x : Nat) : State :=
  match s.engineFind c.die c.asid (c.va a) with
  | (s, none) => s
  | (s, some e) =>
    match s.permit c.part e (c.va a) false true false with
    | .error _ => s
    | .ok loc => if s.remote loc.pa || s.overload loc.pa n x then s else s.writeAt c.w.ctx loc.pa n x

/-- A host read of `n` bytes by single bytes; all ones where one has no translation or permission. -/
def hostLoads (s : State) (c : EngCtx) (a : Nat) : Nat → State × Nat
  | 0 => (s, 0)
  | n + 1 =>
    let (s, b) := hostLoad s c a 1
    let (s, r) := hostLoads s c (a + 1) n
    (s, b.getD 0xFF + 256 * r)

/-- A host write of `n` bytes by single bytes. -/
def hostStores (s : State) (c : EngCtx) (a x : Nat) : Nat → State
  | 0 => s
  | n + 1 => hostStores (hostStore s c a 1 (x % 256)) c (a + 1) (x / 256) n

/-- Is an access of `n` bytes one piece: naturally aligned, of at most 8 bytes? -/
def onePiece (a n : Nat) : Bool := (n == 1 || n == 2 || n == 4 || n == 8) && a % n == 0

/-- A host access of at most 8 bytes at offset `off` of a partition's window. -/
def State.barAccess (s : State) (p : Nat) (write : Bool) (off n : Nat) (x : Nat) : State :=
  let c := hostCtx s p
  let s := { s with nextId := s.nextId + 1 }
  if write then
    if onePiece off n then hostStore s c off n x else hostStores s c off x n
  else
    let (s, v) := if onePiece off n then
        (let (s, v) := hostLoad s c off n
         (s, v.getD (2 ^ (8 * n) - 1)))
      else hostLoads s c off n
    s.modPart p fun y => { y with fn := { y.fn with barRead := BitVec.ofNat 64 v } }

/-- HOST_BAR2_ACCESS: through the window of partition p's function; p = 16 is the staging window of physical function 0.
A function whose partition does not exist reads 0 and ignores writes. -/
def execHostBar2Access (p : Nat) (write : Bool) (off size : Nat) (data : Word) (s : State) : Out :=
  let n := min size 8
  if p = 16 then
    if write ∧ off + n ≤ 2 ^ 26 then
      .next { s with boot := { s.boot with staging := memWrite s.boot.staging off n data.toNat } }
    else .next s
  else if (s.part p).live then
    if off + n ≤ 2 ^ 44 then .next (s.barAccess p write off n data.toNat) else .next s
  else .next (if write then s else s.modPart p fun y => { y with fn := { y.fn with barRead := 0 } })

/-! ### Queue registers (R349, R350) -/

/-- Changes BAR0 of a partition's function, if the partition exists. -/
def State.modFn (s : State) (p : Nat) (f : HostFn → HostFn) : State :=
  if (s.part p).live then s.modPart p fun x => { x with fn := f x.fn } else s

/-- A register of BAR0 of a virtual function as the host reads it (R349): 0 at any other offset, and 0 while the function's
partition does not exist (R348). -/
def State.bar0 (s : State) (p off : Nat) : Word :=
  let f := (s.part p).fn
  if (s.part p).live = false then 0
  else match off with
    | 0x000 => f.lqBase
    | 0x008 => BitVec.ofNat 64 f.lqSize
    | 0x010 => f.lqTail.zeroExtend 64
    | 0x018 => f.lqHead.zeroExtend 64
    | 0x020 => f.mqBase
    | 0x028 => BitVec.ofNat 64 f.mqSize
    | 0x030 => f.mqTail.zeroExtend 64
    | 0x038 => f.mqHead.zeroExtend 64
    | 0x040 => f.rqBase
    | 0x048 => BitVec.ofNat 64 f.rqSize
    | 0x050 => f.rqHead.zeroExtend 64
    | 0x058 => f.rqTail.zeroExtend 64
    | 0x060 => BitVec.ofNat 64 f.hasid
    | 0x068 => f.ipend.zeroExtend 64
    | 0x070 => f.imask.zeroExtend 64
    | 0x078 => BitVec.ofNat 64 (f.pstate.toNat + 4 * bitOf f.qerr)
    | _ => 0

/-- May a tail be written: no more than 2^size entries behind it? -/
def tailOk (size : Nat) (tail head : BitVec 32) : Bool := decide ((tail - head).toNat ≤ 2 ^ size)

/-- LAUNCH_QUEUE_DOORBELL. -/
def execLaunchQueueDoorbell (p : Nat) (tail : BitVec 32) (s : State) : Out :=
  .next (s.modFn p fun f => if tailOk f.lqSize tail f.lqHead then { f with lqTail := tail } else { f with qerr := true })

/-- MESSAGE_QUEUE_DOORBELL. -/
def execMessageQueueDoorbell (p : Nat) (tail : BitVec 32) (s : State) : Out :=
  .next (s.modFn p fun f => if tailOk f.mqSize tail f.mqHead then { f with mqTail := tail } else { f with qerr := true })

/-- RESULT_QUEUE_HEAD_WRITE: room for results that are owed. -/
def execResultQueueHeadWrite (p : Nat) (head : BitVec 32) (s : State) : Out :=
  .next (if (s.part p).live then (s.modFn p fun f => { f with rqHead := head }).flushResults p else s)

/-- Is it a size that a queue can have? -/
def sizeOk (n : Nat) : Bool := n == 0 || decide (4 ≤ n ∧ n ≤ 12)

/-- Do the head and tail of a queue differ? -/
def HostFn.busyQueue (f : HostFn) : HostQueue → Bool
  | .launch => f.lqHead != f.lqTail
  | .message => f.mqHead != f.mqTail
  | .result => f.rqHead != f.rqTail

/-- QUEUE_SIZE_WRITE: a write while the queue holds entries, or of a size that is none, is ignored and sets qerr. -/
def execQueueSizeWrite (p : Nat) (q : HostQueue) (size : Word) (s : State) : Out :=
  let n := size.toNat % 32
  let s' := s.modFn p fun f =>
    if f.busyQueue q || !sizeOk n then { f with qerr := true }
    else match q with
      | .launch => { f with lqSize := n }
      | .message => { f with mqSize := n }
      | .result => { f with rqSize := n }
  .next (if (s.part p).live then s'.flushResults p else s')

/-- IPEND_CLEAR: writing 1 clears a bit. -/
def execIpendClear (p : Nat) (bits : BitVec 6) (s : State) : Out := .next (s.modFn p fun f => { f with ipend := f.ipend &&& ~~~bits })

/-- The vectors that a new mask lets through: pending, masked before and not now; a message goes for each (R353). -/
def unmasked (f : HostFn) (m : BitVec 6) : List Nat :=
  (List.range 6).filter fun n => bitAt f.ipend.toNat n && bitAt f.imask.toNat n && !bitAt m.toNat n

/-- IMASK_WRITE. -/
def execImaskWrite (p : Nat) (bits : BitVec 6) (s : State) : Out :=
  .next (s.modFn p fun f => { f with imask := bits, sent := (unmasked f bits).reverse ++ f.sent })

/-- QERR_CLEAR: writing 1 clears it. -/
def execQerrClear (p : Nat) (s : State) : Out := .next (s.modFn p fun f => { f with qerr := false })

/-- RSTREQ: the host asks for a reset (R359). -/
def execRstreq (p : Nat) (s : State) : Out := .next (s.requestReset p)

/-! ### Entries (R285, R350, R351) -/

/-- May the device take an entry of a queue: the result queue has room and owes nothing, and no reset is in progress? -/
def Part.takes (x : Part) (size : Nat) (head tail : BitVec 32) : Bool :=
  x.live && x.resetting.isNone && size != 0 && head != tail && x.fn.rqRoom && x.fn.results.isEmpty

/-- The words of entry `i` of a queue in host memory. -/
def State.queueEntry (s : State) (base : Word) (log : Nat) (i : BitVec 32) (words : Nat) : List Word :=
  memWords s.hostMem (base.toNat + i.toNat % 2 ^ log * (8 * words)) words

/-- The command of a launch queue entry (R285). -/
def launchCmdOf (ws : List Word) : LaunchCmd where
  rcb := ws.getD 0 0
  uab := BitVec.ofNat 8 (wordAt ws 1)
  asid := bitsOf (wordAt ws 1) 20 8
  fixed := bitAt (wordAt ws 1) 21
  first := bitsOf (wordAt ws 2) 19 0
  htag := ws.getD 3 0
  bad := bitsOf (wordAt ws 1) 63 22 != 0 || bitsOf (wordAt ws 2) 63 20 != 0
    || wordAt ws 4 != 0 || wordAt ws 5 != 0 || wordAt ws 6 != 0 || wordAt ws 7 != 0
  launcher := none

/-- May the next launch queue entry be taken: the one before it has been processed? -/
def Part.launchEntryDue (x : Part) : Bool :=
  x.takes x.fn.lqSize x.fn.lqHead x.fn.lqTail && x.pending.all fun c => c.launcher.isSome

/-- HOST_LAUNCH_ENTRY: the next entry goes to the coordinator. -/
def execHostLaunchEntry (p : Nat) (s : State) : Out :=
  let x := s.part p
  if x.launchEntryDue then
    let ws := s.queueEntry x.fn.lqBase x.fn.lqSize x.fn.lqHead 8
    .next (s.setPart p { x with pending := x.pending ++ [launchCmdOf ws], fn := { x.fn with lqHead := x.fn.lqHead + 1 } })
  else .next s

/-- May the next message queue entry be taken: the message of the one before it has its outcome? -/
def State.messageEntryDue (s : State) (p : Nat) : Bool :=
  let x := s.part p
  x.takes x.fn.mqSize x.fn.mqHead x.fn.mqTail && !(s.flight.any fun m => m.part == p && m.host.isSome)

/-- HOST_MESSAGE_ENTRY: the message goes to its destination as if from there, or a result says why not (R351), the first that
applies of the status codes in the order 2, 3, 4. A nonzero reserved field of the entry, w8 [63:32] or w10-w15, for which R351
names no status, gives status 3 (log entry 86). -/
def execHostMessageEntry (p : Nat) (s : State) : Out :=
  if s.messageEntryDue p then
    let x := s.part p
    let ws := s.queueEntry x.fn.mqBase x.fn.mqSize x.fn.mqHead 16
    let s := s.setPart p { x with fn := { x.fn with mqHead := x.fn.mqHead + 1 } }
    let n := bitsOf (wordAt ws 8) 31 0
    let htag := ws.getD 9 0
    let reserved := bitsOf (wordAt ws 8) 63 32 != 0 || (List.range 6).any fun i => wordAt ws (10 + i) != 0
    let dest := imageDest ws
    if (x.launch? n).isNone then .next (s.owe p ⟨3, 2, n, htag, 0⟩)
    else if imageBad ws || reserved then .next (s.owe p ⟨3, 3, n, htag, 0⟩)
    else if s.hasCell p dest = false then .next (s.owe p ⟨3, 4, n, htag, 0⟩)
    else .next (s.depart { imageMsg 0 .normal dest p n (ws.take 8) with host := some htag })
  else .next s

/-! ### PARTITION_LIVE (R356, R357) -/

/-- The defined bits of descriptor word `w` (R356). -/
def descriptorMask (w : Nat) : Nat :=
  match w with
  | 0 => 0x7FFFFFFFFFF07
  | 16 => 2 ^ 48 - 1
  | n => if n ≤ 19 then 2 ^ 64 - 1 else 0

/-- Do two descriptors of a device overlap, the first with word 0 = w0: in clusters, HBM gibibytes or ASIDs (R356)? -/
def descOverlap (w0 : Nat) (a b : List Word) : Bool :=
  let w (l : List Word) (i : Nat) : Nat := (l.getD i 0).toNat
  let lo := bitsOf w0 36 24
  let l := bitsOf (w b 0) 36 24
  (List.range 12).any (fun i => Nat.land (w a (1 + i)) (w b (1 + i)) != 0)
    || decide (lo < l + bitsOf (w b 0) 50 37 ∧ l < lo + bitsOf w0 50 37)

/-- Would the descriptor of `p` with word 0 = w0 overlap another live partition? -/
def State.clashes (s : State) (p w0 : Nat) : Bool :=
  s.parts.any fun e => e.1 != p && e.2.live && descOverlap w0 (s.part p).desc e.2.desc

/-- A word of the descriptor of partition `p` on another device (R356): ignored while that share is live, and a live bit that
would make it overlap the share of another partition there, or pass the last ASID. -/
def State.writePeer (s : State) (p dev w : Nat) (value : Word) : State :=
  let ws := Tab.get (s.part p).peers (List.replicate 20 0) dev
  let v := Nat.land value.toNat (descriptorMask w)
  let bad : Bool := w == 0 && bitAt v 0 && (decide (8192 < bitsOf v 36 24 + bitsOf v 50 37)
    || s.parts.any fun e => e.1 != p && (s.share e.1 dev != []) && descOverlap v ws (s.share e.1 dev))
  if 16 ≤ p ∨ dev = s.boot.device.toNat ∨ 256 ≤ dev ∨ descLive ws ∨ bad then s
  else s.modPart p fun x => { x with peers := Tab.set x.peers dev (ws.set w (BitVec.ofNat 64 v)) }

/-- Does a ring of a partition of the ready device take power records? -/
def State.sampling (s : State) : Bool :=
  s.boot.ready && s.parts.any fun e => e.2.live && e.2.rings.any fun r => r.2.en && r.2.takes 7

/-- The multiples of 1,000 ns that have passed while no ring took samples are gone (R338). -/
def State.skipSamples (s : State) : State :=
  if s.sampling then s
  else { s with power := { s.power with sampled := s.power.sampled.map fun _ => s.now / 1000 * 1000 } }

/-- PARTITION_LIVE: the hypervisor's write of word 0 with live set; ignored when the partition is live, when it would
overlap another, when asb + asn exceeds 8,192, or while no hypervisor runs (R362, R364). -/
def execPartitionLive (p : Nat) (w0 : Word) (s : State) : Out :=
  let w := Nat.land w0.toNat (descriptorMask 0)
  if 16 ≤ p ∨ s.boot.serving = false ∨ (s.part p).live ∨ bitAt w 0 = false ∨ 8192 < bitsOf w 36 24 + bitsOf w 50 37 ∨ s.clashes p w then .next s
  else
    let s := s.skipSamples.modPart p fun x => { x with desc := x.desc.set 0 (BitVec.ofNat 64 w), fn := { HostFn.reset with pstate := 1 } }
    .next (s.scrub p)

/-! ### Links (R274, R354, R355) -/

/-- Another device can no longer be reached: each partition that spans it raises vector 5 and is reset. -/
def State.loseDevice (s : State) (dev : Nat) : State :=
  (List.range 16).foldl (fun s p =>
    if (s.part p).live && (s.part p).peerDevices.contains dev then (s.raise p 5).requestReset p else s) s

/-- PARTITION_EVENT: no live plane is left to a device. -/
def execPartitionEvent (dev : Nat) (s : State) : Out := .next (s.loseDevice dev)

/-- PLANE_CHANGE: the live planes of this device change, within those that the configuration record lists. With the last
one gone no other device can be reached. In minimal mode every link is down (R364). -/
def execPlaneChange (planes : BitVec 32) (s : State) : Out :=
  let live := if s.boot.minimal then 0 else planes &&& s.boot.planes
  let s' := { s with power := { s.power with livePlanes := live } }
  if live = 0 ∧ s.power.livePlanes ≠ 0 then
    .next (((s.parts.flatMap fun e => e.2.peerDevices).dedup).foldl (fun s d => s.loseDevice d) s')
  else .next s'

/-- FLIT_RESEND: a lost flit goes again, in the order of its pair; no state of the machine's own changes (R274). -/
def execFlitResend (_port : Nat) (s : State) : Out := .next s

end Sys2Proof.Machine
end

