-- ==== Sys2Proof/Machine/Debugger.lean ====
section
/-! DEFINITION. Trace rings' registers (R335), the debugger (R341-R344), replay divergence (R347). -/

namespace Sys2Proof.Machine

/-! ### Trace rings (R335) -/

/-- Changes the ring of partition `p` on die `d`. -/
def State.modRing (s : State) (p d : Nat) (f : Ring → Ring) : State :=
  s.modPart p fun x => { x with rings := Tab.set x.rings d (f (Tab.get x.rings Ring.reset d)) }

/-- TRACE_RING_CONTROL_WRITE: w0 or w1 of a control block. Base, size and wrap keep their values while en is 1; setting en
resets wr and rd. -/
def execTraceRingControlWrite (p d : Nat) (w : Fin 2) (value : Word) (s : State) : Out :=
  .next (s.skipSamples.modRing p d fun r =>
    if w = 0 then (if r.en then r else { r with base := value })
    else
      let en := bitAt value.toNat 32
      let r' := { r with en := en, kmask := BitVec.ofNat 16 (bitsOf value.toNat 49 34) }
      if r.en then r'
      else
        let r' := { r' with size := BitVec.ofNat 32 value.toNat, wrap := bitAt value.toNat 33 }
        if en then { r' with wr := 0, rd := 0 } else r')

/-- TRACE_RING_RD_ADVANCE: software has read records. -/
def execTraceRingRdAdvance (p d : Nat) (rd : BitVec 48) (s : State) : Out := .next (s.modRing p d fun r => { r with rd := rd.toNat })

/-! ### Stops (R343) -/

/-- Changes a partition's debug registers. -/
def State.modDebug (s : State) (p : Nat) (f : Debug → Debug) : State := s.modPart p fun x => { x with dbg := f x.dbg }

/-- Can the strand halt at a boundary now (R292)? A debugger's stop waits for no access (R263). -/
def State.canHalt (s : State) (t : Strand) : Bool := t.inSlot && t.status != .halted && s.canStop t

/-- Halts the strands of a partition that `f` picks and that can halt. -/
def State.haltWhere (s : State) (p : Nat) (f : Strand → Bool) : State :=
  (s.strands.filter fun t => t.part == p && f t && s.canHalt t).foldl (fun s t => s.halt t.uid) s

/-- Is the command in progress finished (R343, R344)? A stop: no activation of its cells is running but halted ones. A
hardening: nothing is left that it halts. A step: its strand has halted again or is gone. -/
def State.commandOver (s : State) (p : Nat) : Bool :=
  let d := (s.part p).dbg
  let live := s.strands.filter fun t => t.part == p && t.inSlot && t.status != .halted
  d.busy && match d.op.toNat with
    | 6 => !live.any (·.stepping)
    | 3 => !live.any s.hardens
    | _ => !live.any fun t => t.act && d.targets t.cell

/-- STOP_COMPLETE: what halts under a stop has halted as far as it can, and a command in progress that is finished reports
res 0. -/
def State.completeStop (s : State) (p : Nat) : State :=
  let s := s.haltWhere p fun t => s.residentStops t || s.hardens t
  if s.commandOver p then s.modDebug p fun d => { d with busy := false, res := 0 } else s

/-- STOP_COMPLETE. -/
def execStopComplete (p : Nat) (s : State) : Out := .next (s.completeStop p)

/-- Makes every halted strand of the partition that `f` picks ready again; a step in progress goes on as an ordinary run. -/
def State.resumeWhere (s : State) (p : Nat) (f : Strand → Bool) : State :=
  (s.strands.filter fun t => t.part == p && f t).foldl (fun s t =>
    match t.status with
    | .halted => s.modStrand t.uid fun t => { t.readied with stepping := false }
    | .spilled true => s.modStrand t.uid fun t => { t with status := .spilled false }
    | _ => s.modStrand t.uid fun t => { t with stepping := false }) s

/-- Command 5: every stop of the partition is taken off. -/
def State.resumeAll (s : State) (p : Nat) : State := (s.setStops false (s.cellsOf p)).resumeWhere p fun _ => true

/-! ### The command block (R342) -/

/-- The kind 14 record of a command. -/
def State.traceCommand (s : State) (p op cell slot : Nat) : State :=
  let die := if cell = 0xFFFFF then (s.part p).homeDie else dieOf cell
  s.traceOn p die 14 slot cell (op == 4 || op == 5) 0 op cell s.now

/-- The fields of w0 of the command block take the values written (R342). -/
def State.named (s : State) (p op cell slot : Nat) : State :=
  s.modDebug p fun d => { d with op := BitVec.ofNat 4 op, cell := BitVec.ofNat 20 cell, slot := BitVec.ofNat 3 slot }

/-- Does an op 3 harden the stop in progress, or take back the step in progress: has it the same target, or the whole partition
for a step (R342-R344; log entry 50)? -/
def Debug.hardenedBy (d : Debug) (op cell : Nat) : Bool :=
  op == 3 && match d.op.toNat with
    | 1 => cell == d.cell.toNat
    | 2 => cell == 0xFFFFF
    | 6 => cell == d.cell.toNat || cell == 0xFFFFF
    | _ => false

/-- Starts a command (R342): ignored while another is in progress (res 5), but for an op 3 that hardens or takes back what is in
progress; ignored without a debugger (res 2). -/
def State.command (s : State) (p op cell slot target : Nat) (f : State → State) : State :=
  let d := (s.part p).dbg
  if d.busy ∧ d.hardenedBy op cell = false then s.modDebug p fun d => { d with res := 5 }
  else
    let s := s.named p op cell slot
    if d.attach = false then s.modDebug p fun d => { d with res := 2 }
    else f (if op ≤ 6 then s.traceCommand p op target (if op = 6 then slot else 0) else s)

/-- The result of a command that is over. -/
def State.answerCommand (s : State) (p res : Nat) : State := s.modDebug p fun d => { d with busy := false, res := BitVec.ofNat 4 res }

/-- A stop is applied to cells of the partition, and is complete at once if nothing runs there. -/
def State.applyStop (s : State) (p : Nat) (cells : List Nat) : State :=
  ((s.setStops true (cells.filter fun c => s.hasCell p c)).modDebug p fun d => { d with busy := true }).completeStop p

/-- The strand in a slot of a cell of the partition. -/
def State.inSlotOf (s : State) (p cell slot : Nat) : Option Strand :=
  s.strands.find? fun t => t.inSlot && t.part == p && t.cell == cell && t.slot == slot

/-- A command on a halted strand: res 4 with no such strand, res 1 when it is not halted. Accesses that it has outstanding
reach it halted. -/
def State.onHalted (s : State) (p cell slot : Nat) (f : Strand → State) : State :=
  match s.inSlotOf p cell slot with
  | none => s.answerCommand p 4
  | some t => if t.status = .halted then f t else s.answerCommand p 1

/-- Is the frame address an aligned one in the partition's HBM? -/
def State.frameOk (s : State) (p a : Nat) : Bool :=
  a % 4096 == 0 && s.mayName p a && match placeOf a with
    | .hbm _ => true
    | _ => false

/-- Op 1. -/
def State.opStopCell (s : State) (p cell slot : Nat) : State := s.command p 1 cell slot cell fun s => s.applyStop p [cell]
/-- Op 2. -/
def State.opStopPartition (s : State) (p cell slot : Nat) : State :=
  s.command p 2 cell slot 0xFFFFF fun s => s.applyStop p (s.cellsOf p)
/-- Op 3. -/
def State.opHarden (s : State) (p cell slot : Nat) : State :=
  s.command p 3 cell slot cell fun s => (s.modDebug p fun d => { d with busy := true }).completeStop p
/-- Op 4. -/
def State.opResumeCell (s : State) (p cell slot : Nat) : State :=
  s.command p 4 cell slot cell fun s =>
    (((if s.hasCell p cell then s.setStops false [cell] else s).resumeWhere p fun t => t.cell == cell)).answerCommand p 0
/-- Op 5. -/
def State.opResumePartition (s : State) (p cell slot : Nat) : State :=
  s.command p 5 cell slot 0xFFFFF fun s => (s.resumeAll p).answerCommand p 0
/-- Op 6: the strand is ready for one instruction. -/
def State.opStep (s : State) (p cell slot : Nat) : State :=
  s.command p 6 cell slot cell fun s => s.onHalted p cell slot fun t =>
    (s.modStrand t.uid fun t => { t.readied with stepping := true }).modDebug p fun d => { d with busy := true }
/-- Op 7. -/
def State.opSave (s : State) (p cell slot : Nat) : State :=
  s.command p 7 cell slot cell fun s => s.onHalted p cell slot fun t =>
    let a := (s.part p).dbg.frame.toNat
    if s.frameOk p a then (s.putFrame a t).answerCommand p 0 else s.answerCommand p 3
/-- Op 8: a frame with a reserved bit set, or with a poisoned word that holds no register's data, leaves the strand unchanged. -/
def State.opLoad (s : State) (p cell slot : Nat) : State :=
  s.command p 8 cell slot cell fun s => s.onHalted p cell slot fun t =>
    let a := (s.part p).dbg.frame.toNat
    if s.frameOk p a then
      let s := s.meet a 4096
      let ws := memWords s.mem a 512
      if frameBad ws then s.answerCommand p 3
      else match (t.load ws).markBad (s.frameBads a) with
        | none => s.answerCommand p 3
        | some u => (s.modStrand t.uid fun _ => u).answerCommand p 0
    else s.answerCommand p 3

/-- DEBUG_STOP_CELL (op 1). -/
def execDebugStopCell (p cell : Nat) (s : State) : Out := .next (s.opStopCell p cell 0)
/-- DEBUG_STOP_PARTITION (op 2). -/
def execDebugStopPartition (p : Nat) (s : State) : Out := .next (s.opStopPartition p 0 0)
/-- DEBUG_HARDEN_STOP (op 3): a cell, or 0xF_FFFF for the partition. -/
def execDebugHardenStop (p cell : Nat) (s : State) : Out := .next (s.opHarden p cell 0)
/-- DEBUG_RESUME_CELL (op 4). -/
def execDebugResumeCell (p cell : Nat) (s : State) : Out := .next (s.opResumeCell p cell 0)
/-- DEBUG_RESUME_PARTITION (op 5). -/
def execDebugResumePartition (p : Nat) (s : State) : Out := .next (s.opResumePartition p 0 0)
/-- DEBUG_STEP (op 6). -/
def execDebugStep (p cell slot : Nat) (s : State) : Out := .next (s.opStep p cell slot)
/-- DEBUG_CONTEXT_SAVE (op 7). -/
def execDebugContextSave (p cell slot : Nat) (s : State) : Out := .next (s.opSave p cell slot)
/-- DEBUG_CONTEXT_LOAD (op 8). -/
def execDebugContextLoad (p cell slot : Nat) (s : State) : Out := .next (s.opLoad p cell slot)

/-- A write of w0 of the command block (R342): any other op is ignored with res 0, but the fields that the block gives as
writable hold what was written. -/
def State.commandWrite (s : State) (p w0 : Nat) : State :=
  let cell := bitsOf w0 23 4
  let slot := bitsOf w0 26 24
  match w0 % 16 with
  | 1 => s.opStopCell p cell slot
  | 2 => s.opStopPartition p cell slot
  | 3 => s.opHarden p cell slot
  | 4 => s.opResumeCell p cell slot
  | 5 => s.opResumePartition p cell slot
  | 6 => s.opStep p cell slot
  | 7 => s.opSave p cell slot
  | 8 => s.opLoad p cell slot
  | op => if (s.part p).dbg.busy then s.modDebug p fun d => { d with res := 5 }
    else (s.named p op cell slot).modDebug p fun d => { d with res := 0 }

/-! ### DEBUG_CONTROL_WRITE (R341), REPLAY_DIVERGENCE (R347) -/

/-- The log points of a partition: its cells, then eight windows. -/
def Part.points (x : Part) : Nat := x.cellCount + 8

/-- DEBUG_CONTROL_WRITE: attach, rec, rep, and div, which a write of 0 clears. Setting rep starts enforcement at the first
entry of every point; clearing attach resumes every stop and halt. -/
def execDebugControlWrite (p : Nat) (value : BitVec 4) (s : State) : Out :=
  let d := (s.part p).dbg
  let v := value.toNat
  let s := s.modDebug p fun d => { d with
    attach := bitAt v 0, recording := bitAt v 1, replaying := bitAt v 2, diverged := d.diverged && bitAt v 3 }
  let s := if bitAt v 2 && !d.replaying then
      s.modPart p fun x => { x with log := { x.log with
        pos := [], free := [], lastTime := (List.range x.points).map fun i => (i, s.now) } }
    else s
  .next (if d.attach && !bitAt v 0 then s.resumeAll p else s)

/-- Address of the next entry that a log point enforces, and its size; none when the point enforces none. -/
def State.nextLogged (s : State) (p point : Nat) : Option (Nat × Nat) :=
  let x := s.part p
  let size := if point < x.cellCount then 8 else 16
  let base := x.log.base.toNat + point * x.log.seg.toNat
  let i := Tab.get x.log.pos 0 point
  if x.dbg.replaying = false ∨ x.points ≤ point ∨ x.log.free.contains point ∨ memRead s.mem base 8 ≤ i then none
  else some (base + 16 + i * size, size)

/-- Has the next entry of a point failed to arrive for 2^30 ns? -/
def State.diverges (s : State) (p point : Nat) : Bool :=
  (s.nextLogged p point).isSome && decide (Tab.get (s.part p).log.lastTime 0 point + 2 ^ 30 ≤ s.now)

/-- REPLAY_DIVERGENCE: the point goes on in free order, with div set and a kind 15 record that names the entry (point kind
0 a cell, 1 a window: log entry 51). -/
def execReplayDivergence (p point : Nat) (s : State) : Out :=
  match s.nextLogged p point with
  | none => .next s
  | some (a, _) =>
    if s.diverges p point then
      let x := s.part p
      let isCell := decide (point < x.cellCount)
      let cell := if isCell then (s.cellsOf p).getD point 0 else 0xFFFFF
      let die := if isCell then dieOf cell else x.homeDie
      let w := if isCell then 0 else 1 + (point - x.cellCount) * 2 ^ 4
      let s := s.modPart p fun x => { x with log := { x.log with free := point :: x.log.free }, dbg := { x.dbg with diverged := true } }
      .next (s.traceOn p die 15 0 cell false 0 w (memRead s.mem a 8) s.now)
    else .next s

end Sys2Proof.Machine
end

