-- ==== Sys2Proof/Machine/Power.lean ====
section
/-! DEFINITION. Boot, identity, power and temperature (R362-R368, R302, R338); errors of the arrays (R313-R315); and
REGISTER_WRITE, for the registers that have no step of their own (R9). -/

namespace Sys2Proof.Machine

/-! ### Errors (R313-R315) -/

/-- The number under which an error of a protected word is held: its fabric word, or that of a tile word. -/
def flipAddr (s : State) (a : ArrayId) (word : Nat) : Nat :=
  match a with
  | .tiles k => tileWord k (word / 2 ^ 15) (word % 2 ^ 15)
  | _ => s.boot.device.toNat * 2 ^ 45 + word / 8

/-- Does the address name a protected word of the array? -/
def holdsWord (a : ArrayId) (word : Nat) : Bool :=
  match a with
  | .tiles _ => decide (word < 2 ^ 18)
  | .sram c => decide (placeOf word = .sram (cellOnDevice c))
  | .bstore k => decide (placeOf word = .bstore k)
  | .hbm n => decide (placeOf word = .hbm n)
  | _ => false

/-- PATROL_SCRUB: the scrubber reads a word, with the actions of any read. -/
def execPatrolScrub (a : ArrayId) (word : Nat) (s : State) : Out :=
  if holdsWord a word then
    match a with
    | .tiles k => .next (s.tileFind ErrCtx.engine k (word / 2 ^ 15) fun i => i == word % 2 ^ 15 / 2)
    | _ => .next (s.findError (flipAddr s a word) ErrCtx.engine)
  else .next s

/-- A parity error in a line of a cell's ldc cache or fetch path, or of a cluster's ldc cache: the next read of the line meets
it (R313). -/
def State.parityError (s : State) (cell : Option Nat) (k line : Nat) : State :=
  match cell with
  | some c => s.modCell c fun x =>
      if Tab.has x.ldc line ∨ Tab.has x.fetch line then { x with flawed := line :: x.flawed.filter (· != line) } else x
  | none => s.modCluster k fun x => if Tab.has x.ldc line then { x with flawed := line :: x.flawed.filter (· != line) } else x

/-- SOFT_ERROR: bits of a stored word, or of its check bits, or of a cached line, flip; the next read finds it (R313). -/
def execSoftError (a : ArrayId) (word : Nat) (dmask : BitVec 64) (cmask : BitVec 8) (s : State) : Out :=
  match a with
  | .cellCache c => .next (s.parityError (some c) 0 word)
  | .clusterCache k => .next (s.parityError none k word)
  | _ =>
    if holdsWord a word then
      let w := flipAddr s a word
      let old := match s.flips.find? fun f => f.addr == w with
        | some f => f
        | none => ⟨w, 0, 0, false⟩
      let new : Flip := { old with dmask := old.dmask ^^^ dmask, cmask := old.cmask ^^^ cmask }
      .next { s with flips := new :: s.flips.filter fun f => f.addr != w }
    else .next s

/-- ERROR_LOG_ENTRY_CLEAR: a write to w0 of an entry makes it empty (R314). -/
def execErrorLogEntryClear (a : ArrayId) (n : Fin 16) (s : State) : Out :=
  let r := s.arrayRegs a
  .next (s.setArray a { r with entries := r.entries.set n.val ⟨0, 0, 0⟩ })

/-- INJECTION_REGISTER_WRITE (R315). -/
def execInjectionRegisterWrite (a : ArrayId) (w : Fin 4) (value : Word) (s : State) : Out :=
  let r := s.arrayRegs a
  .next (s.setArray a (match w.val with
    | 0 => { r with inj0 := BitVec.ofNat 64 (lowBits 50 value.toNat) }
    | 1 => { r with inj1 := value }
    | 2 => { r with inj2 := BitVec.ofNat 64 (lowBits 8 value.toNat) }
    | _ => r))

/-! ### Clocks (R366) -/

/-- The least core voltage, in millivolts, that supports a clock (R366); the table gives none for 0.9, 1.0, 1.2 and 1.4 GHz,
where it is a value from 550 to 800 that is free (log entry 25). -/
def coreMillivolts (clock : Nat) : Nat :=
  if clock ≤ 8 then 550 else if clock = 11 then 650 else if clock = 13 then 720 else if clock = 15 then 800
  else 550 + Config.coreVoltage clock % 251

/-- A cluster runs at a clock, at the voltage that supports it. -/
def Cluster.runAt (c : Cluster) (clock : Nat) : Cluster := { c with clock := clock, millivolts := coreMillivolts clock }

/-! ### Boot (R362-R365) -/

/-- Everything but the IO die goes off: no strand, partition, memory or queue is left. A cluster that is too hot stays so (R368). -/
def State.off (s : State) (boot : Boot) : State :=
  { State.reset with
    clusters := (s.clusters.filter fun e => e.2.hot).map fun e => (e.1, { Cluster.empty with hot := true }.runAt 5)
    now := s.now, phase := s.phase, agenda := s.agenda, async := s.async, free := s.free, nextId := s.nextId
    hostMem := s.hostMem, boot := boot
    power := { Power.reset with
      livePlanes := 0, limit := s.power.limit, sensors := s.power.sensors, sampled := List.replicate 18 (s.now / 1000 * 1000)
      managed := s.now / 1000 * 1000 } }

/-- May a boot begin: the next after a thermal shutdown, only with every sensor below 85 °C (R368)? -/
def State.coolEnough (s : State) : Bool := !s.boot.shut || s.power.sensors.all fun e => decide (e.2 < 85)

/-- A boot begins at stage 1. -/
def Boot.begin (b : Boot) : Boot := { b with powered := true, shut := false, ready := false, minimal := false, stage := 1 }

/-- POWER_ON: the boot ROM begins its stages, with every register at its reset value. -/
def execPowerOn (s : State) : Out :=
  if s.coolEnough then
    .next (s.off { s.boot with starts := 0, reason := 0, nonce := 0, signed := false, staging := [] }.begin)
  else .next s

/-- BOOT_RESTART: the boot begins again and starts is cleared (R363); after a thermal shutdown only once every sensor reads
below 85 °C (R368). -/
def execBootRestart (s : State) : Out :=
  if s.boot.stage ≠ 0 ∧ s.coolEnough then .next (s.off { s.boot with starts := 0 }.begin) else .next s

/-- Is a boot under way? -/
def Boot.starting (b : Boot) : Bool := b.powered && !b.ready && !b.minimal

/-- BOOT_FAILED_START: a stage fails or 2 s have passed. The third failure in a row enters minimal mode (R362, R364). -/
def execBootFailedStart (reason : BitVec 8) (s : State) : Out :=
  if s.boot.starting then
    let b := { s.boot with starts := s.boot.starts + 1, reason := reason }
    if b.starts = 3 then .next (s.off { b with minimal := true, ready := false }) else .next (s.off b.begin)
  else .next s

/-- The stage that runs ends well: the next begins. Stage 2 leaves all memory zero; stage 5 sets ready and clears starts. -/
def State.bootStage (s : State) : State :=
  let n := s.boot.stage + 1
  if n = 3 then { s with mem := [], poison := [], flips := [], boot := { s.boot with stage := n } }
  else if n = 5 then
    { s.skipSamples with
             boot := { s.boot with stage := n, ready := true, starts := 0 }
             power := { s.skipSamples.power with livePlanes := s.boot.planes, limit := min s.power.limit s.boot.maxPower } }
  else { s with boot := { s.boot with stage := n } }

/-- IDENTITY_CHALLENGE: the nonce is kept and its signature stands at 0x180 (R365; the signature is Config.signature). -/
def execIdentityChallenge (nonce : BitVec 256) (s : State) : Out :=
  if s.boot.powered then .next { s with boot := { s.boot with nonce := nonce, signed := true } } else .next s

/-- The boot status register (R363). -/
def Boot.status (b : Boot) : Word :=
  BitVec.ofNat 64 (bitOf b.ready + bitOf b.minimal * 2 + b.stage.toNat * 4 + b.starts.toNat * 32 + b.reason.toNat * 256)

/-- The bytes that a challenge signs (R365): the nonce, then the SHAKE256 digest of the configuration record. -/
def Boot.signedBytes (b : Boot) : List (BitVec 8) :=
  (List.range 32).map (fun i => BitVec.ofNat 8 (b.nonce.toNat / 256 ^ i))
    ++ (List.range 32).map (Config.recordDigest b.device b.domain b.planes b.maxPower)

/-- Byte `i` of the signature at 0x180 of physical function 0. -/
def Boot.signatureByte (b : Boot) (i : Nat) : BitVec 8 := if b.signed then Config.signature b.signedBytes i else 0

/-! ### POWER_SAMPLE (R338) -/

/-- Is a cell in the domain of a rail? -/
def railHas (rail cell : Nat) : Bool :=
  if rail < 8 then dieOf cell == rail % 4 else if rail < 16 then dieOf cell == (rail - 8) / 2 else true

/-- The collector of a rail. -/
def railDie (rail : Nat) : Nat := if rail < 8 then rail % 4 else if rail < 16 then (rail - 8) / 2 else 0

/-- The correlation numbers of the two launches, placed and not suspended, that hold the most cells of a rail's domain. -/
def Part.railCorrs (x : Part) (rail : Nat) : Nat × Nat :=
  let n (l : Launch) : Nat := (l.cellSet.filter (railHas rail)).length
  let ls := x.launches.filter fun l => l.stage != .queued && l.stage != .placing && l.stage != .suspended && n l != 0
  let sorted := sortBy (fun l : Launch => (4096 - n l) * 2 ^ 32 + l.num) ls
  let corr (i : Nat) : Nat := match sorted[i]? with
    | some l => l.eff.corr.toNat
    | none => 0
  (corr 0, corr 1)

/-- Has the count passed a multiple of 1,000 ns at which a rail has not been sampled? -/
def State.sampleDue (s : State) (rail : Nat) : Bool := decide (s.power.sampled.getD rail 0 + 1000 ≤ s.now)

/-- The multiple of 1,000 ns of a rail's next sample: the first since its latest; the latest while no ring takes samples. -/
def State.sampleTime (s : State) (rail : Nat) : Nat :=
  if s.sampling then s.power.sampled.getD rail 0 + 1000 else s.now / 1000 * 1000

/-- A sample of a rail at a multiple of 1,000 ns that the count has passed, one for each: a record for every partition with
a cell in the rail's domain. -/
def State.sample (s : State) (rail : Nat) (mA : BitVec 32) (mV : BitVec 16) : State :=
  if s.sampleDue rail then
    let time := s.sampleTime rail
    let s := { s with power := { s.power with
      rails := s.power.rails.set rail (mA, mV), sampled := s.power.sampled.set rail time } }
    (List.range 16).foldl (fun s p =>
      let x := s.part p
      if x.live && (s.cellsOf p).any (railHas rail) then
        let (a, b) := x.railCorrs rail
        s.traceOn p (railDie rail) 7 0 rail false a (mA.toNat + mV.toNat * 2 ^ 32) b time
      else s) s
  else s

/-- POWER_SAMPLE: a rail's current and voltage. -/
def execPowerSample (rail : Fin 18) (mA : BitVec 32) (mV : BitVec 16) (s : State) : Out := .next (s.sample rail.val mA mV)

/-- The rail whose sample is due, where a ring takes it. -/
def State.sampleRail (s : State) : Option (Fin 18) :=
  if s.sampling then (List.finRange 18).find? fun r => s.sampleDue r.val else none

/-- The sample of a rail that no POWER_SAMPLE has given: its values are free (log entry 24). -/
def State.sampleFree (s : State) (rail : Fin 18) : State :=
  let (mA, mV) := Config.railSample (s.sampleTime rail.val / 1000) rail
  s.sample rail.val mA mV

/-! ### The power manager (R302, R366, R367) -/

/-- Do a cluster's strands and engines let it be gated (R302)? -/
def State.gateable (s : State) (k : Nat) : Bool :=
  let c := s.cellZero k
  !(s.strands.any fun t => t.inSlot && clusterOf t.cell == k && (match t.status with
      | .blocked (.token _) | .blocked (.event _) | .blocked (.collective _) => false
      | _ => true))
    && !(s.strands.any fun t => t.status != .free && clusterOf t.cell == k && t.tileCount != 0)
    && !(s.cmds.any fun x => decide (x.kind ≤ 2 ∧ x.stage ≤ 1) && clusterOf x.cell == k && x.cell / 16 * 16 == c)

/-- CLUSTER_UNGATE: a waiter has been served, or a message or task has arrived (R302). -/
def execClusterUngate (cluster : Nat) (s : State) : Out :=
  if (s.cluster cluster).gated ∧ (s.gateable cluster = false ∨ (s.cluster cluster).arrived) then
    .next (s.modCluster cluster fun c => { c with gated := false })
  else .next s

/-- One 100 MHz step of clocks within 0.5-1.5 GHz; a hot cluster stays at 0.5 GHz (R368). -/
def Cluster.speed (c : Cluster) (up : Bool) : Cluster :=
  c.runAt (if c.hot then 5 else if up then min 15 (c.clock + 1) else max 5 (c.clock - 1))

/-- The clusters of a die. -/
def dieClusters (d : Nat) : List Nat := (List.range 64).map (d * 64 + ·)

/-- Does a cluster belong to a launch that has a gated cluster on the die (R302)? -/
def State.sharesGated (s : State) (d k : Nat) : Bool :=
  match s.clusterOwner k with
  | none => false
  | some p => (s.part p).launches.any fun l => l.inCluster k && (dieClusters d).any fun j => l.inCluster j && (s.cluster j).gated

/-- The clocks of a die whose core rail draws `used` of a budget: over it, the clusters above 1.1 GHz are lowered, or else all
of them; within it, with gated clusters, those are raised that R302 serves first, and without, each moves towards 1.1 GHz. -/
def State.setClocks (s : State) (d used budget : Nat) : State :=
  let ks := dieClusters d
  let change (s : State) (l : List Nat) (up : Bool) : State := l.foldl (fun s k => s.modCluster k fun c => c.speed up) s
  if budget < used then
    let fast := ks.filter fun k => 11 < (s.cluster k).clock
    if fast ≠ [] then change s fast false
    else if ks.all fun k => (s.cluster k).clock == 5 then
      { s with power := { s.power with hbmPaced := (s.power.hbmPaced ++ [2 * d, 2 * d + 1]).dedup } }
    else change s ks false
  else
    let s := { s with power := { s.power with hbmPaced := s.power.hbmPaced.filter fun h => h / 2 != d } }
    let run := ks.filter fun k => !(s.cluster k).gated
    if ks.any fun k => (s.cluster k).gated then
      let first := run.filter fun k => s.sharesGated d k && decide ((s.cluster k).clock < 15)
      change s (if first ≠ [] then first else run) true
    else
      let s := change s (run.filter fun k => 11 < (s.cluster k).clock) false
      change s (run.filter fun k => (s.cluster k).clock < 11) true

/-- Gates the clusters of a live partition that can be gated. -/
def State.gateClusters (s : State) : State :=
  (List.range 16).foldl (fun s p =>
    if (s.part p).live then
      (s.part p).clusters.foldl (fun s k =>
        if s.gateable k && !(s.cluster k).gated then s.modCluster k fun c => { c with gated := true, arrived := false } else s) s
    else s) s

/-- POWER_MANAGER_UPDATE: the manager has read the rails, in mW; the core rails get their budgets, and clocks follow. It reads
them once at each multiple of 1,000 ns. -/
def execPowerManagerUpdate (mW : Vector Nat 18) (s : State) : Out :=
  if s.now < s.power.managed + 1000 then .next s
  else
    let others := (List.range 14).foldl (fun n i => n + mW[4 + i]?.getD 0) 0
    let budget := (s.power.limit * 1000 - others) / 4
    let s := { s.gateClusters with power := { s.power with
      budgets := List.replicate 4 budget, managed := s.now / 1000 * 1000 } }
    .next ((List.range 4).foldl (fun s d => s.setClocks d (mW[d]?.getD 0) budget) s)

/-! ### Temperature (R368) -/

/-- CLUSTER_THERMAL_THROTTLE: a cluster's sensor reads a temperature. -/
def execClusterThermalThrottle (cluster : Nat) (celsius : Int) (s : State) : Out :=
  let s := { s with power := { s.power with sensors := Tab.set s.power.sensors cluster celsius } }
  .next (if 100 < celsius then s.modCluster cluster fun c => { c with hot := true }.runAt 5
    else if celsius < 95 ∧ (s.cluster cluster).hot then
      s.modCluster cluster fun c => { c with hot := false }.runAt Config.nominalClock
    else s)

/-- THERMAL_SHUTDOWN: a die's sensor reads a temperature; above 110 °C the module shuts down. -/
def execThermalShutdown (die : Nat) (celsius : Int) (s : State) : Out :=
  let s := { s with power := { s.power with sensors := Tab.set s.power.sensors (256 + die) celsius } }
  if 110 < celsius then .next (s.off { s.boot with powered := false, ready := false, shut := true, reason := 0x0B }) else .next s

/-! ### REGISTER_WRITE (R9) -/

/-- A queue's base (R349): ignored while head and tail differ. -/
def HostFn.setBase (f : HostFn) (q : HostQueue) (x : Word) : HostFn :=
  if f.busyQueue q then f
  else match q with
    | .launch => { f with lqBase := x }
    | .message => { f with mqBase := x }
    | .result => { f with rqBase := x }

/-- The defined bits of the words of a breakpoint register (R340). -/
def breakpointMask (w : Nat) : Nat :=
  match w with
  | 0 => 2 ^ 56 - 1
  | 1 => 2 ^ 48 - 1
  | 2 => 2 ^ 56 - 1
  | _ => 2 ^ 52 - 1

/-- A word of a breakpoint register. -/
def Breakpoint.put (b : Breakpoint) (w : Nat) (x : Word) : Breakpoint :=
  let v := BitVec.ofNat 64 (Nat.land x.toNat (breakpointMask w))
  match w with
  | 0 => { b with w0 := v }
  | 1 => { b with w1 := v }
  | 2 => { b with w2 := v }
  | 3 => { b with w3 := v }
  | _ => b

/-- A word of the order log's control block (R346): 0 base, 1 segment size, 2-9 the windows. -/
def OrderLog.put (l : OrderLog) (w : Nat) (x : Word) : OrderLog :=
  if w = 0 then { l with base := x } else if w = 1 then { l with seg := x } else { l with windows := l.windows.set (w - 2) x }

/-- The defined bits of an ASID table entry (R330): valid, partition, table address. -/
def asidMask : Nat := 0x00FFFFFFFFFE001F

/-- A write to word 0 of a partition's dump buffer (R324): it sets state, and no other bit. -/
def State.writeDumpState (s : State) (p v : Nat) : State :=
  let a := (s.part p).w 15
  let s := s.meet a 8
  s.writeAt ErrCtx.engine a 8 (memRead s.mem a 8 / 4 * 4 + v % 4)

/-- REGISTER_WRITE: the writable fields of the register take their values; reserved bits stay 0 (R9). -/
def execRegisterWrite (r : CtlReg) (value : Word) (s : State) : Out :=
  let v := value.toNat
  if s.boot.serving = false then .next s
  else match r with
  | .queueBase p q => .next (s.modFn p fun f => f.setBase q value)
  | .hasid p =>
    let lo := bitsOf ((s.part p).w 0) 36 24
    let n := v % 2 ^ 13
    .next (s.modFn p fun f => if lo ≤ n ∧ n < lo + bitsOf ((s.part p).w 0) 50 37 then { f with hasid := n } else f)
  | .descriptor p w =>
    if w = 0 ∧ bitAt v 0 then execPartitionLive p value s
    else if (s.part p).live ∨ 16 ≤ p then .next s
    else .next (s.modPart p fun x => { x with desc := x.desc.set w (BitVec.ofNat 64 (Nat.land v (descriptorMask w))) })
  | .peer p dev w => .next (s.writePeer p dev w value)
  | .asidEntry a => .next { s with asids := Tab.set s.asids (a % 8192) (BitVec.ofNat 64 (Nat.land v asidMask)) }
  | .breakpoint p n w => .next (s.modPart p fun x => { x with bps := x.bps.modify n fun b => b.put w value })
  | .debugFrame p => .next (s.modDebug p fun d => { d with frame := value })
  | .debugCommand p => .next (s.commandWrite p v)
  | .errLost a => .next (s.setArray a { s.arrayRegs a with lost := v / 2 ^ 4 % 2 ^ 28 })
  | .undeliverable c => .next (s.modCell c fun x => { x with undeliverable := BitVec.ofNat 32 v })
  | .ringLost p d => .next (s.modRing p d fun r => { r with lost := BitVec.ofNat 32 v })
  | .orderLog p w => .next (s.modPart p fun x => { x with log := x.log.put w value })
  | .dumpState p => .next (s.writeDumpState p v)
  | .powerLimit =>
    .next (if 600 ≤ v ∧ v ≤ min 1600 s.boot.maxPower then { s with power := { s.power with limit := v } } else s)

end Sys2Proof.Machine
end

