-- ==== Sys2Proof/Machine/Clock.lean ====
section
/-! DEFINITION. Time: the device nanosecond count (R22, R275), the clk of each cluster (R8, R366), and what counts clk:
ages (R300, R301), strand watchdogs (R303), partition watchdogs (R304), logical counters (R298). -/

namespace Sys2Proof.Machine

/-- `n` clk pass for the watchdog of a checkpoint of a strand that counts. -/
def Checkpoint.pass (c : Checkpoint) (n : Nat) : Checkpoint :=
  if c.wdog = 0 ∨ c.wleft = 0 then c
  else { c with wleft := BitVec.ofNat 48 (c.wleft.toNat - n), wdue := c.wdue || decide (c.wleft.toNat ≤ n) }

/-- Does the watchdog of a strand count: it holds a slot and is not halted (R303)? -/
def Strand.counts (t : Strand) : Bool := t.inSlot && t.status != .halted

/-- `n` clk pass for a strand: `wdog.left` counts down while it counts, and it ages while it is ready, but for the clk in which
it issued, which `waits` leaves out (R300, R301). -/
def Strand.pass (t : Strand) (n waits : Nat) : Strand :=
  let ready := decide (t.status = .ready)
  let counts := t.counts && t.wdog != 0 && t.wleft != 0
  let left := t.wleft.toNat - n
  { t with
    age := if ready then t.age + waits else t.age
    waited := if ready then t.waited + waits else t.waited
    clks := t.clks + n
    wleft := if counts then BitVec.ofNat 48 left else t.wleft
    wdue := t.wdue || (counts && left == 0)
    vq := if t.counts then t.vq.map fun e => { e with ckpt := e.ckpt.pass n } else t.vq
    undo := if t.counts then t.undo.map fun c => c.pass n else t.undo }

/-- Does a time lie in the present clk of a cluster? -/
def State.sameClk (s : State) (k : Nat) : Option Nat → Bool
  | none => false
  | some u => clksTo (s.cluster k).clock u == clksTo (s.cluster k).clock s.units

/-- Has the strand's slot issued in the present clk (R300)? -/
def State.issuedNow (s : State) (t : Strand) : Bool :=
  (s.cell t.cell).lastSlot == t.slot && s.sameClk (clusterOf t.cell) (s.cell t.cell).issuedAt

/-- The clk of a cluster that begin until a time. -/
def State.clksUntil (s : State) (k t1 : Nat) : Nat :=
  clksTo (s.cluster k).clock t1 - clksTo (s.cluster k).clock s.units

/-- A strand as time passes until `t1`. -/
def State.passStrand (s : State) (t1 : Nat) (t : Strand) : Strand :=
  let n := s.clksUntil (clusterOf t.cell) t1
  t.pass n (if s.issuedNow t then n - 1 else n)

/-- An access as time passes: the boundary before it counts for its strand's watchdog as the strand does. -/
def State.passAccess (s : State) (t1 : Nat) (x : Access) : Access :=
  match s.strand? x.uid with
  | some t => if t.counts then { x with ckpt := x.ckpt.pass (s.clksUntil (clusterOf t.cell) t1) } else x
  | none => x

/-- Nanoseconds pass for a partition's watchdog: not while a debugger has stopped every cell. -/
def State.passPart (s : State) (p ns : Nat) (x : Part) : Part :=
  if x.live && x.resetting.isNone && x.w 19 != 0
      && !(x.dbg.attach && (s.cellsOf p).all fun c => s.cellStopped c) then { x with wdLeft := x.wdLeft - ns }
  else x

/-- The logical counters of the idle clusters of a list advance. -/
def State.countIdle (s : State) (p t1 : Nat) : List Nat → State
  | [] => s
  | k :: ks =>
    let n := s.clksUntil k t1
    (if n ≠ 0 ∧ s.idleCluster k then s.modCluster k fun c => { c with counter := c.counter + BitVec.ofNat 64 n }
      else s).countIdle p t1 ks

/-- Time passes until `t1`. -/
def State.passTo (s : State) (t1 : Nat) : State :=
  let ns := t1 / 360360 - s.now
  let s := s.parts.foldl (fun s e => if e.2.live then s.countIdle e.1 t1 e.2.clusters else s) s
  { s with
    now := t1 / 360360
    phase := t1 % 360360
    st := s.passStrand t1 s.st
    parked := s.parked.map (s.passStrand t1)
    accs := s.accs.map (s.passAccess t1)
    parts := s.parts.map fun e : Nat × Part => (e.1, s.passPart e.1 ns e.2) }

/-- Time passes until the next clk of any cluster begins; a boot under way goes on by a stage. -/
def State.tick (s : State) : State :=
  let t := s.units
  let t1 := (s.clusters.map fun e => nextClk e.2.clock t).foldl min (nextClk Config.nominalClock t)
  (if s.boot.starting then s.bootStage else s).passTo t1

/-- `n` clk of the nominal clock pass. -/
def State.idle (s : State) (n : Nat) : State := s.passTo (s.units + n * (clkUnits / Config.nominalClock))

/-- Time passes to the next clk of a cluster if something was done in the present one. -/
def State.freshClk (s : State) (k : Nat) (last : Option Nat) : State :=
  if s.sameClk k last then s.passTo (nextClk (s.cluster k).clock s.units) else s

end Sys2Proof.Machine
end

