-- ==== Sys2Proof/Machine/Dispatch.lean ====
section
/-! DEFINITION. The dispatch of every step of the part to its meaning: one arm per constructor of Instr. -/

namespace Sys2Proof.Machine

/-- The effect of one instruction or event on the machine. -/
def exec (i : Instr) (s : State) : Host.Outcome State Fault Refusal :=
  match i with
  | .nop => Sys2Proof.Machine.execNop s
  | .done => Sys2Proof.Machine.execDone s
  | .yield => Sys2Proof.Machine.execYield s
  | .jr b => Sys2Proof.Machine.execJr b s
  | .add f d a b => Sys2Proof.Machine.execAdd f d a b s
  | .sub f d a b => Sys2Proof.Machine.execSub f d a b s
  | .mul f d a b => Sys2Proof.Machine.execMul f d a b s
  | .and d a b => Sys2Proof.Machine.execAnd d a b s
  | .or d a b => Sys2Proof.Machine.execOr d a b s
  | .xor d a b => Sys2Proof.Machine.execXor d a b s
  | .shl f d a b => Sys2Proof.Machine.execShl f d a b s
  | .shr f d a b => Sys2Proof.Machine.execShr f d a b s
  | .sra f d a b => Sys2Proof.Machine.execSra f d a b s
  | .slt f d a b => Sys2Proof.Machine.execSlt f d a b s
  | .sltn f d a b => Sys2Proof.Machine.execSltn f d a b s
  | .seq f d a b => Sys2Proof.Machine.execSeq f d a b s
  | .min f d a b => Sys2Proof.Machine.execMin f d a b s
  | .max f d a b => Sys2Proof.Machine.execMax f d a b s
  | .sel f d a b => Sys2Proof.Machine.execSel f d a b s
  | .mov d b => Sys2Proof.Machine.execMov d b s
  | .li d e => Sys2Proof.Machine.execLi d e s
  | .lea d base e => Sys2Proof.Machine.execLea d base e s
  | .b off => Sys2Proof.Machine.execB off s
  | .bc c a b off => Sys2Proof.Machine.execBc c a b off s
  | .loop c off => Sys2Proof.Machine.execLoop c off s
  | .jal d off => Sys2Proof.Machine.execJal d off s
  | .bm v m off => Sys2Proof.Machine.execBm v m off s
  | .andn d a b => Sys2Proof.Machine.execAndn d a b s
  | .rotl f d a b => Sys2Proof.Machine.execRotl f d a b s
  | .mulh f d a b => Sys2Proof.Machine.execMulh f d a b s
  | .mulhn f d a b => Sys2Proof.Machine.execMulhn f d a b s
  | .div f d a b => Sys2Proof.Machine.execDiv f d a b s
  | .divn f d a b => Sys2Proof.Machine.execDivn f d a b s
  | .rem f d a b => Sys2Proof.Machine.execRem f d a b s
  | .remn f d a b => Sys2Proof.Machine.execRemn f d a b s
  | .minn f d a b => Sys2Proof.Machine.execMinn f d a b s
  | .maxn f d a b => Sys2Proof.Machine.execMaxn f d a b s
  | .clz d b => Sys2Proof.Machine.execClz d b s
  | .ctz d b => Sys2Proof.Machine.execCtz d b s
  | .popc d b => Sys2Proof.Machine.execPopc d b s
  | .bext d a b => Sys2Proof.Machine.execBext d a b s
  | .bins d a b => Sys2Proof.Machine.execBins d a b s
  | .fadd f r d a b => Sys2Proof.Machine.execFadd f r d a b s
  | .fsub f r d a b => Sys2Proof.Machine.execFsub f r d a b s
  | .fmul f r d a b => Sys2Proof.Machine.execFmul f r d a b s
  | .fma f r d a b => Sys2Proof.Machine.execFma f r d a b s
  | .fdiv f r d a b => Sys2Proof.Machine.execFdiv f r d a b s
  | .fsqrt f r d b => Sys2Proof.Machine.execFsqrt f r d b s
  | .fmin f d a b => Sys2Proof.Machine.execFmin f d a b s
  | .fmax f d a b => Sys2Proof.Machine.execFmax f d a b s
  | .fcmp f c d a b => Sys2Proof.Machine.execFcmp f c d a b s
  | .fcvt f r sat d b => Sys2Proof.Machine.execFcvt f r sat d b s
  | .fclass f d b => Sys2Proof.Machine.execFclass f d b s
  | .sget d sel => Sys2Proof.Machine.execSget d sel s
  | .sset sel a => Sys2Proof.Machine.execSset sel a s
  | .vsetvl d a b => Sys2Proof.Machine.execVsetvl d a b s
  | .vsetvli f grp d b => Sys2Proof.Machine.execVsetvli f grp d b s
  | .vadd f k d a b => Sys2Proof.Machine.execVadd f k d a b s
  | .vsub f k d a b => Sys2Proof.Machine.execVsub f k d a b s
  | .vmul f k d a b => Sys2Proof.Machine.execVmul f k d a b s
  | .vmulh f k d a b => Sys2Proof.Machine.execVmulh f k d a b s
  | .vmacc f k d a b => Sys2Proof.Machine.execVmacc f k d a b s
  | .vand f k d a b => Sys2Proof.Machine.execVand f k d a b s
  | .vor f k d a b => Sys2Proof.Machine.execVor f k d a b s
  | .vxor f k d a b => Sys2Proof.Machine.execVxor f k d a b s
  | .vshl f k d a b => Sys2Proof.Machine.execVshl f k d a b s
  | .vshr f k d a b => Sys2Proof.Machine.execVshr f k d a b s
  | .vsra f k d a b => Sys2Proof.Machine.execVsra f k d a b s
  | .vmin f k d a b => Sys2Proof.Machine.execVmin f k d a b s
  | .vmax f k d a b => Sys2Proof.Machine.execVmax f k d a b s
  | .vminn f k d a b => Sys2Proof.Machine.execVminn f k d a b s
  | .vmaxn f k d a b => Sys2Proof.Machine.execVmaxn f k d a b s
  | .vabs f k d b => Sys2Proof.Machine.execVabs f k d b s
  | .vnarrow f k d a b => Sys2Proof.Machine.execVnarrow f k d a b s
  | .vwiden f k d b => Sys2Proof.Machine.execVwiden f k d b s
  | .vfadd f r k d a b => Sys2Proof.Machine.execVfadd f r k d a b s
  | .vfsub f r k d a b => Sys2Proof.Machine.execVfsub f r k d a b s
  | .vfmul f r k d a b => Sys2Proof.Machine.execVfmul f r k d a b s
  | .vfma f r k d a b => Sys2Proof.Machine.execVfma f r k d a b s
  | .vfdiv f r k d a b => Sys2Proof.Machine.execVfdiv f r k d a b s
  | .vfmin f k d a b => Sys2Proof.Machine.execVfmin f k d a b s
  | .vfmax f k d a b => Sys2Proof.Machine.execVfmax f k d a b s
  | .vcmp f c k d a b => Sys2Proof.Machine.execVcmp f c k d a b s
  | .vfcmp f c k d a b => Sys2Proof.Machine.execVfcmp f c k d a b s
  | .vsel f k d a b => Sys2Proof.Machine.execVsel f k d a b s
  | .vmv f k d b => Sys2Proof.Machine.execVmv f k d b s
  | .vslide f down k d a b => Sys2Proof.Machine.execVslide f down k d a b s
  | .vperm f k d a b => Sys2Proof.Machine.execVperm f k d a b s
  | .vcompress f k d b => Sys2Proof.Machine.execVcompress f k d b s
  | .vredsum f r k d a b => Sys2Proof.Machine.execVredsum f r k d a b s
  | .vredmax f k d a b => Sys2Proof.Machine.execVredmax f k d a b s
  | .vredmin f k d a b => Sys2Proof.Machine.execVredmin f k d a b s
  | .vdotx f r k d a b => Sys2Proof.Machine.execVdotx f r k d a b s
  | .vdeq f r k d a b => Sys2Proof.Machine.execVdeq f r k d a b s
  | .vprune4 f k d a b => Sys2Proof.Machine.execVprune4 f k d a b s
  | .mand k d a b => Sys2Proof.Machine.execMand k d a b s
  | .mor k d a b => Sys2Proof.Machine.execMor k d a b s
  | .mxor k d a b => Sys2Proof.Machine.execMxor k d a b s
  | .mset d b => Sys2Proof.Machine.execMset d b s
  | .vexp2 k d b => Sys2Proof.Machine.execVexp2 k d b s
  | .vlog2 k d b => Sys2Proof.Machine.execVlog2 k d b s
  | .vrcp k d b => Sys2Proof.Machine.execVrcp k d b s
  | .vrsq k d b => Sys2Proof.Machine.execVrsq k d b s
  | .vsigm k d b => Sys2Proof.Machine.execVsigm k d b s
  | .vtanh k d b => Sys2Proof.Machine.execVtanh k d b s
  | .vcvt f r k d b => Sys2Proof.Machine.execVcvt f r k d b s
  | .mnot k d b => Sys2Proof.Machine.execMnot k d b s
  | .mpop d m => Sys2Proof.Machine.execMpop d m s
  | .mfirst d m => Sys2Proof.Machine.execMfirst d m s
  | .vrep k1 c => Sys2Proof.Machine.execVrep k1 c s
  | .vld f k d base e => Sys2Proof.Machine.execVld f k d base e s
  | .vlds f k d base b => Sys2Proof.Machine.execVlds f k d base b s
  | .vldx f k d base b => Sys2Proof.Machine.execVldx f k d base b s
  | .vldff f k d base e => Sys2Proof.Machine.execVldff f k d base e s
  | .vst f k d base e => Sys2Proof.Machine.execVst f k d base e s
  | .vsts f k d base b => Sys2Proof.Machine.execVsts f k d base b s
  | .vstx f k d base b => Sys2Proof.Machine.execVstx f k d base b s
  | .mma f tb g4 d a b => Sys2Proof.Machine.execMma f tb g4 d a b s
  | .mmas f tb g4 d a b => Sys2Proof.Machine.execMmas f tb g4 d a b s
  | .mmac f tb g4 d a b => Sys2Proof.Machine.execMmac f tb g4 d a b s
  | .trd f d a b => Sys2Proof.Machine.execTrd f d a b s
  | .twr f d a b => Sys2Proof.Machine.execTwr f d a b s
  | .tgate v d a b => Sys2Proof.Machine.execTgate v d a b s
  | .tscan pair m d a b => Sys2Proof.Machine.execTscan pair m d a b s
  | .tcvt f r sat d a b => Sys2Proof.Machine.execTcvt f r sat d a b s
  | .tst d base e => Sys2Proof.Machine.execTst d base e s
  | .tld d base e => Sys2Proof.Machine.execTld d base e s
  | .tzero a => Sys2Proof.Machine.execTzero a s
  | .twait n => Sys2Proof.Machine.execTwait n s
  | .ld f d base e => Sys2Proof.Machine.execLd f d base e s
  | .st f d base e => Sys2Proof.Machine.execSt f d base e s
  | .ldc f d base e => Sys2Proof.Machine.execLdc f d base e s
  | .aadd f d base b => Sys2Proof.Machine.execAadd f d base b s
  | .aand f d base b => Sys2Proof.Machine.execAand f d base b s
  | .aor f d base b => Sys2Proof.Machine.execAor f d base b s
  | .axor f d base b => Sys2Proof.Machine.execAxor f d base b s
  | .amin f d base b => Sys2Proof.Machine.execAmin f d base b s
  | .amax f d base b => Sys2Proof.Machine.execAmax f d base b s
  | .axchg f d base b => Sys2Proof.Machine.execAxchg f d base b s
  | .acas f d base b => Sys2Proof.Machine.execAcas f d base b s
  | .incw f d base b => Sys2Proof.Machine.execIncw f d base b s
  | .bfadd f d base b => Sys2Proof.Machine.execBfadd f d base b s
  | .xred f base b => Sys2Proof.Machine.execXred f base b s
  | .xrd f r d base e => Sys2Proof.Machine.execXrd f r d base e s
  | .enq d base b => Sys2Proof.Machine.execEnq d base b s
  | .deq d base => Sys2Proof.Machine.execDeq d base s
  | .barm base b => Sys2Proof.Machine.execBarm base b s
  | .bput base => Sys2Proof.Machine.execBput base s
  | .btake base b => Sys2Proof.Machine.execBtake base b s
  | .cpy v base => Sys2Proof.Machine.execCpy v base s
  | .cpyb v base => Sys2Proof.Machine.execCpyb v base s
  | .gath base => Sys2Proof.Machine.execGath base s
  | .route base => Sys2Proof.Machine.execRoute base s
  | .inv sc b => Sys2Proof.Machine.execInv sc b s
  | .fence kind sc => Sys2Proof.Machine.execFence kind sc s
  | .send rel base => Sys2Proof.Machine.execSend rel base s
  | .sendn rel base => Sys2Proof.Machine.execSendn rel base s
  | .mcast rel base b => Sys2Proof.Machine.execMcast rel base b s
  | .spawn base => Sys2Proof.Machine.execSpawn base s
  | .migrate b => Sys2Proof.Machine.execMigrate b s
  | .sleep b => Sys2Proof.Machine.execSleep b s
  | .tsub base => Sys2Proof.Machine.execTsub base s
  | .evsig a b => Sys2Proof.Machine.execEvsig a b s
  | .evwait a b => Sys2Proof.Machine.execEvwait a b s
  | .launch base => Sys2Proof.Machine.execLaunch base s
  | .rand d b => Sys2Proof.Machine.execRand d b s
  | .claim a b => Sys2Proof.Machine.execClaim a b s
  | .tlbinv a b => Sys2Proof.Machine.execTlbinv a b s
  | .tmark a b => Sys2Proof.Machine.execTmark a b s
  | .wdog d => Sys2Proof.Machine.execWdog d s
  | .trap n => Sys2Proof.Machine.execTrap n s
  | .sysc n => Sys2Proof.Machine.execSysc n s
  | .eret => Sys2Proof.Machine.execEret s
  | .bkpt => Sys2Proof.Machine.execBkpt s
  | .swld d base e => Sys2Proof.Machine.execSwld d base e s
  | .swst d base e => Sys2Proof.Machine.execSwst d base e s
  | .swadd d base b => Sys2Proof.Machine.execSwadd d base b s
  | .swlaw d base b => Sys2Proof.Machine.execSwlaw d base b s
  | .step d a b => Sys2Proof.Machine.execStep d a b s
  | .swsweep b => Sys2Proof.Machine.execSwsweep b s
  | .knew d b => Sys2Proof.Machine.execKnew d b s
  | .kenrol d base b => Sys2Proof.Machine.execKenrol d base b s
  | .kfree b => Sys2Proof.Machine.execKfree b s
  | .kread d b => Sys2Proof.Machine.execKread d b s
  | .ksettle d b => Sys2Proof.Machine.execKsettle d b s
  | .kmove a b => Sys2Proof.Machine.execKmove a b s
  | .pjoin a b => Sys2Proof.Machine.execPjoin a b s
  | .resample d a => Sys2Proof.Machine.execResample d a s
  | .messageDeparture cell => Sys2Proof.Machine.execMessageDeparture cell s
  | .messageArrival n => Sys2Proof.Machine.execMessageArrival n s
  | .activationStart cell => Sys2Proof.Machine.execActivationStart cell s
  | .handler0Delivery cell => Sys2Proof.Machine.execHandler0Delivery cell s
  | .accessPerform n => Sys2Proof.Machine.execAccessPerform n s
  | .accessReply n => Sys2Proof.Machine.execAccessReply n s
  | .closeNotice p => Sys2Proof.Machine.execCloseNotice p s
  | .rollupIncrement p n => Sys2Proof.Machine.execRollupIncrement p n s
  | .strandWake uid => Sys2Proof.Machine.execStrandWake uid s
  | .sleepTimeout uid => Sys2Proof.Machine.execSleepTimeout uid s
  | .syscReply uid => Sys2Proof.Machine.execSyscReply uid s
  | .tlbinvComplete n => Sys2Proof.Machine.execTlbinvComplete n s
  | .engineAcceptCommand uid => Sys2Proof.Machine.execEngineAcceptCommand uid s
  | .copyPlain cluster => Sys2Proof.Machine.execCopyPlain cluster s
  | .copyEncode cluster => Sys2Proof.Machine.execCopyEncode cluster s
  | .copyDecode cluster => Sys2Proof.Machine.execCopyDecode cluster s
  | .q4gUnpack cluster => Sys2Proof.Machine.execQ4gUnpack cluster s
  | .gather stack => Sys2Proof.Machine.execGather stack s
  | .routeAssign die => Sys2Proof.Machine.execRouteAssign die s
  | .engineCredit n => Sys2Proof.Machine.execEngineCredit n s
  | .completionEntryPush n => Sys2Proof.Machine.execCompletionEntryPush n s
  | .tileCommandExecute uid => Sys2Proof.Machine.execTileCommandExecute uid s
  | .taskReady p n => Sys2Proof.Machine.execTaskReady p n s
  | .taskDispatch cluster => Sys2Proof.Machine.execTaskDispatch cluster s
  | .stealAttempt cluster => Sys2Proof.Machine.execStealAttempt cluster s
  | .launchAccept p => Sys2Proof.Machine.execLaunchAccept p s
  | .launchPlacement p => Sys2Proof.Machine.execLaunchPlacement p s
  | .placementStep p => Sys2Proof.Machine.execPlacementStep p s
  | .wakeMessage p l cell => Sys2Proof.Machine.execWakeMessage p l cell s
  | .residentStrandStart cell => Sys2Proof.Machine.execResidentStrandStart cell s
  | .strandSpill uid => Sys2Proof.Machine.execStrandSpill uid s
  | .contextRestore uid => Sys2Proof.Machine.execContextRestore uid s
  | .launchRestore p l => Sys2Proof.Machine.execLaunchRestore p l s
  | .launchEnd p l => Sys2Proof.Machine.execLaunchEnd p l s
  | .migrateArrival uid => Sys2Proof.Machine.execMigrateArrival uid s
  | .sidingForward n => Sys2Proof.Machine.execSidingForward n s
  | .resampleCollective p pop => Sys2Proof.Machine.execResampleCollective p pop s
  | .clonePlacement p => Sys2Proof.Machine.execClonePlacement p s
  | .sweepPass p region => Sys2Proof.Machine.execSweepPass p region s
  | .sweepEvolution p => Sys2Proof.Machine.execSweepEvolution p s
  | .strandWatchdogExpiry uid => Sys2Proof.Machine.execStrandWatchdogExpiry uid s
  | .partitionWatchdogExpiry p => Sys2Proof.Machine.execPartitionWatchdogExpiry p s
  | .translationMiss n => Sys2Proof.Machine.execTranslationMiss n s
  | .translationFaultAnswer p rec ans => Sys2Proof.Machine.execTranslationFaultAnswer p rec ans s
  | .fatalFaultStop p => Sys2Proof.Machine.execFatalFaultStop p s
  | .dumpWrite p => Sys2Proof.Machine.execDumpWrite p s
  | .teardownPoint p => Sys2Proof.Machine.execTeardownPoint p s
  | .domainRelease p => Sys2Proof.Machine.execDomainRelease p s
  | .partitionReset p => Sys2Proof.Machine.execPartitionReset p s
  | .hostLaunchEntry p => Sys2Proof.Machine.execHostLaunchEntry p s
  | .hostMessageEntry p => Sys2Proof.Machine.execHostMessageEntry p s
  | .clusterUngate cluster => Sys2Proof.Machine.execClusterUngate cluster s
  | .stopComplete p => Sys2Proof.Machine.execStopComplete p s
  | .replayDivergence p point => Sys2Proof.Machine.execReplayDivergence p point s
  | .sequencerExecute cell => Sys2Proof.Machine.execSequencerExecute cell s
  | .translationWalk n => Sys2Proof.Machine.execTranslationWalk n s
  | .hostBar2Access p write off size data => Sys2Proof.Machine.execHostBar2Access p write off size data s
  | .launchQueueDoorbell p tail => Sys2Proof.Machine.execLaunchQueueDoorbell p tail s
  | .messageQueueDoorbell p tail => Sys2Proof.Machine.execMessageQueueDoorbell p tail s
  | .resultQueueHeadWrite p head => Sys2Proof.Machine.execResultQueueHeadWrite p head s
  | .queueSizeWrite p q size => Sys2Proof.Machine.execQueueSizeWrite p q size s
  | .ipendClear p bits => Sys2Proof.Machine.execIpendClear p bits s
  | .imaskWrite p bits => Sys2Proof.Machine.execImaskWrite p bits s
  | .qerrClear p => Sys2Proof.Machine.execQerrClear p s
  | .rstreq p => Sys2Proof.Machine.execRstreq p s
  | .partitionLive p w0 => Sys2Proof.Machine.execPartitionLive p w0 s
  | .powerOn => Sys2Proof.Machine.execPowerOn s
  | .bootFailedStart reason => Sys2Proof.Machine.execBootFailedStart reason s
  | .bootRestart => Sys2Proof.Machine.execBootRestart s
  | .identityChallenge nonce => Sys2Proof.Machine.execIdentityChallenge nonce s
  | .powerSample rail mA mV => Sys2Proof.Machine.execPowerSample rail mA mV s
  | .powerManagerUpdate mW => Sys2Proof.Machine.execPowerManagerUpdate mW s
  | .clusterThermalThrottle cluster celsius => Sys2Proof.Machine.execClusterThermalThrottle cluster celsius s
  | .thermalShutdown die celsius => Sys2Proof.Machine.execThermalShutdown die celsius s
  | .patrolScrub a word => Sys2Proof.Machine.execPatrolScrub a word s
  | .errorLogEntryClear a n => Sys2Proof.Machine.execErrorLogEntryClear a n s
  | .injectionRegisterWrite a w value => Sys2Proof.Machine.execInjectionRegisterWrite a w value s
  | .traceRingControlWrite p d w value => Sys2Proof.Machine.execTraceRingControlWrite p d w value s
  | .traceRingRdAdvance p d rd => Sys2Proof.Machine.execTraceRingRdAdvance p d rd s
  | .debugControlWrite p value => Sys2Proof.Machine.execDebugControlWrite p value s
  | .debugStopCell p cell => Sys2Proof.Machine.execDebugStopCell p cell s
  | .debugStopPartition p => Sys2Proof.Machine.execDebugStopPartition p s
  | .debugHardenStop p cell => Sys2Proof.Machine.execDebugHardenStop p cell s
  | .debugResumeCell p cell => Sys2Proof.Machine.execDebugResumeCell p cell s
  | .debugResumePartition p => Sys2Proof.Machine.execDebugResumePartition p s
  | .debugStep p cell slot => Sys2Proof.Machine.execDebugStep p cell slot s
  | .debugContextSave p cell slot => Sys2Proof.Machine.execDebugContextSave p cell slot s
  | .debugContextLoad p cell slot => Sys2Proof.Machine.execDebugContextLoad p cell slot s
  | .registerWrite r value => Sys2Proof.Machine.execRegisterWrite r value s
  | .ldcLineEviction cell cluster line => Sys2Proof.Machine.execLdcLineEviction cell cluster line s
  | .softError a word dmask cmask => Sys2Proof.Machine.execSoftError a word dmask cmask s
  | .partitionEvent dev => Sys2Proof.Machine.execPartitionEvent dev s
  | .planeChange planes => Sys2Proof.Machine.execPlaneChange planes s
  | .flitResend port => Sys2Proof.Machine.execFlitResend port s
  | .macroOpStep uid => Sys2Proof.Machine.execMacroOpStep uid s
  | .illegalEncoding cause addr => Sys2Proof.Machine.execIllegalEncoding cause addr s
  | .pleave => Sys2Proof.Machine.execPleave s

end Sys2Proof.Machine
end

