-- ==== Sys2Proof/Machine/Schedule.lean ====
section
/-! DEFINITION. What a step does: the issue of a strand's next instruction (R13, R92, R300, R301, R344), the events of the
part, each when it is due, and time. The agenda, plain data, chooses; without it the order is fixed (log entry 5). -/

namespace Sys2Proof.Machine

/-! ### Issue -/

/-- The instruction at the strand's PC: fetched, decoded and executed, or what stops it (R92, R97). A suspended loop goes on
instead, outside a handler (R151). -/
def State.issue (s : State) : Out :=
  let pc := s.st.pc.toNat
  if s.st.loop.suspended && !s.st.handler then .next (s.settle (resumeLoop s))
  else match s.fetchAt s.st pc with
    | .error e => .next (s.stop e)
    | .ok (.ok i len, s) => exec i { s with st := { s.st with npc := s.st.pc + BitVec.ofNat 40 (2 * len) } }
    | .ok (.bad f w, s) => execIllegalEncoding (BitVec.ofNat 16 f.cause) (BitVec.ofNat 64 ((pc + 2 * w) % 2 ^ 40)) s
    | .ok (.short, s) => execIllegalEncoding 0x0101 (BitVec.ofNat 64 pc) s

/-- The strand in focus after an issue: ready again, unless it has blocked, ended, moved or halted; it waits anew (R300, R301).
One that still waits to issue has not issued. A single step is over, but for a tile instruction whose accesses are not all made,
and for a vector instruction that is still to execute; a `vrep` that has its count is over with its body whole (R344). `resumed`:
a suspended loop has been taken up. -/
def State.issued (s : State) (resumed : Bool) : State :=
  let t := s.st
  match t.status with
  | .running =>
    let t := { t with age := 0, waited := 0, bpDone := t.top.isSome }
    if t.stepping = false || t.top.isSome then { s with st := { t with status := .ready } }
    else if t.vq = [] || (!resumed && t.loop.active && t.loop.due.isNone) then
      let s := { s with st := t }.pullBack
      { s with st := { s.st with status := .halted, stepping := false } }
    else { s with st := { t with status := .blocked .issue } }
  | .blocked .issue | .blocked (.walk ..) => s
  | .halted => { s with st := { t with age := 0, waited := 0, bpDone := false, stepping := false } }
  | _ => { s with st := { t with age := 0, waited := 0, bpDone := false } }

/-- Records the issue at its cell's port (R300). -/
def State.markIssue (s : State) (cell slot : Nat) : State :=
  s.modCell cell fun c => { c with lastSlot := slot, issuedAt := some s.units }

/-- What follows an issue. -/
def afterIssue (cell slot : Nat) (resumed : Bool) : Out → Out
  | .next s => .next ((s.issued resumed).markIssue cell slot)
  | o => o

/-- The breakpoints that a strand's next instruction matches and that are still to be tested (R340). -/
def State.bpHits (s : State) (t : Strand) : List Nat :=
  if t.bpDone then [] else (s.part t.part).hits true t.pc.toNat t.tag.toNat t.coord.toNat

/-- Does a breakpoint that halts the strand before its next instruction wait for the vector instructions before it (R343)? A loop
that runs is suspended instead, with its scalar resume point there (R151; log entry 120). -/
def State.bpWaits (s : State) (t : Strand) : Bool :=
  t.vq != [] && !t.stepping && (s.part t.part).act (s.bpHits t) != 0
    && (t.vq.any (fun e => !e.body) || t.loop.due.isSome || t.passed)

/-- The strand in focus issues: the breakpoints at its PC are tested once (R340, R343), then the instruction. A single step
records a match and its stop, and issues its one instruction (R344, log entry 110). -/
def State.runFocus (s : State) : Out :=
  let t := s.st
  let hits := s.bpHits t
  let resumed := t.loop.suspended && !t.handler
  let s := { s with st := { t with status := .running, bpDone := true } }
  if hits = [] then afterIssue t.cell t.slot resumed s.issue
  else
    let s := s.hit s.st t.pc.toNat hits
    if (s.part t.part).act hits = 0 ∨ t.stepping then afterIssue t.cell t.slot resumed s.issue
    else
      let s := s.pullBack
      .next { s with st := { s.st with status := .halted } }

/-- Does a strand that waits to issue have its condition now: would its instruction not wait again (R13)? -/
def State.canIssue (s : State) (t : Strand) : Bool :=
  s.mayIssue t && !s.bpWaits t && match ({ s.focus t.uid with st := { (s.focus t.uid).st with status := .running } }).issue with
    | .next s' => s'.st.status != .blocked .issue
    | _ => true

/-- The strand that an issue turn names: ready, or waiting to issue. -/
def State.turnStrand (s : State) (cell slot : Nat) : Option Strand :=
  s.strands.find? fun t => t.cell == cell && t.slot == slot && (t.status == .ready || t.status == .blocked .issue)
    && s.mayIssue t && !s.bpWaits t

/-- An issue turn of the agenda: the port issues once a clk. The strand's watchdog may come due with the clk (R303). -/
def State.issueTurn (s : State) (cell slot : Nat) : Out :=
  match s.turnStrand cell slot with
  | none => .next s
  | some t =>
    let s := (s.freshClk (clusterOf cell) (s.cell cell).issuedAt).focus t.uid
    if s.mayIssue s.st then s.runFocus else .next s

/-- The strand that issues next: of the first cell with a ready strand whose port has not issued in this clk, the one that
R300 chooses. -/
def State.nextIssue (s : State) : Option Strand :=
  let l := s.strands.filter fun t =>
    t.status == .ready && !s.sameClk (clusterOf t.cell) (s.cell t.cell).issuedAt && s.mayIssue t && !s.bpWaits t
  match l with
  | [] => none
  | a :: _ => s.firstOf (l.filter fun t => t.cell == a.cell)

/-! ### Events -/

/-- Is it an event that the agenda may name? -/
def isEvent : Instr → Bool
  | .messageDeparture .. | .messageArrival .. | .activationStart .. | .handler0Delivery .. | .accessPerform ..
  | .accessReply .. | .closeNotice .. | .rollupIncrement .. | .strandWake .. | .sleepTimeout .. | .syscReply ..
  | .tlbinvComplete .. | .engineAcceptCommand .. | .copyPlain .. | .copyEncode .. | .copyDecode .. | .q4gUnpack ..
  | .gather .. | .routeAssign .. | .engineCredit .. | .completionEntryPush .. | .macroOpStep .. | .tileCommandExecute ..
  | .taskReady .. | .taskDispatch .. | .stealAttempt .. | .launchAccept .. | .launchPlacement .. | .placementStep ..
  | .wakeMessage .. | .residentStrandStart .. | .strandSpill .. | .contextRestore .. | .launchRestore .. | .launchEnd ..
  | .migrateArrival .. | .sidingForward .. | .resampleCollective .. | .clonePlacement .. | .sweepPass ..
  | .sweepEvolution .. | .strandWatchdogExpiry .. | .partitionWatchdogExpiry .. | .translationMiss ..
  | .translationFaultAnswer .. | .fatalFaultStop .. | .dumpWrite .. | .teardownPoint .. | .domainRelease ..
  | .partitionReset .. | .partitionEvent .. | .planeChange .. | .flitResend .. | .hostBar2Access ..
  | .launchQueueDoorbell .. | .messageQueueDoorbell .. | .resultQueueHeadWrite .. | .queueSizeWrite .. | .ipendClear ..
  | .imaskWrite .. | .qerrClear .. | .rstreq .. | .hostLaunchEntry .. | .hostMessageEntry .. | .partitionLive ..
  | .powerOn | .bootFailedStart .. | .bootRestart | .identityChallenge .. | .powerSample .. | .powerManagerUpdate ..
  | .clusterUngate .. | .clusterThermalThrottle .. | .thermalShutdown .. | .patrolScrub .. | .errorLogEntryClear ..
  | .injectionRegisterWrite .. | .traceRingControlWrite .. | .traceRingRdAdvance .. | .debugControlWrite ..
  | .debugStopCell .. | .debugStopPartition .. | .debugHardenStop .. | .debugResumeCell .. | .debugResumePartition ..
  | .debugStep .. | .debugContextSave .. | .debugContextLoad .. | .stopComplete .. | .replayDivergence ..
  | .registerWrite .. | .sequencerExecute .. | .translationWalk .. | .ldcLineEviction .. | .softError .. => true
  | _ => false

/-- What follows the work of a cell's sequencer: its clk is used (R130). -/
def afterSequencer (cell : Nat) : Out → Out
  | .next s => .next (s.markSequencer cell)
  | o => o

/-- An event of the part. -/
def State.event (s : State) (i : Instr) : Out :=
  match i with
  | .sequencerExecute cell => afterSequencer cell (exec i (s.freshClk (clusterOf cell) (s.cell cell).seqAt))
  | _ => if isEvent i then exec i s else .next s

/-- Does an event change what `m` compares? -/
def State.moves (s : State) (i : Instr) (m : State → State → Bool) : Bool :=
  match exec i s with
  | .next s' => m s s'
  | _ => false

/-- An event for the first of a list that is due. -/
def due {α : Type} (l : List α) (p : α → Bool) (f : α → Instr) : Option Instr := (l.find? p).map f

/-- Events of the network and of homes that are due. -/
def State.netEvent (s : State) : Option Instr :=
  due s.cells (fun c => match c.2.outbox with
    | o :: _ => o.dests.any fun d => decide (s.boxed d < 64)
    | [] => false) (fun c => .messageDeparture c.1)
  <|> due s.flight (fun m => s.moves (.messageArrival m.id) fun a b => a.flight.length != b.flight.length) (fun m => .messageArrival m.id)
  <|> due s.cells (fun c => (s.firstEligible c.1 [] c.2.inbox).isSome && (s.openSlot c.1).isSome) (fun c => .activationStart c.1)
  <|> due s.cells (fun c => c.2.inbox.any (s.deliverable c.1)) (fun c => .handler0Delivery c.1)
  <|> due s.accs (fun x => !x.done && s.moves (.accessPerform x.id) fun a b => a.accs != b.accs) (fun x => .accessPerform x.id)
  <|> due s.accs (fun x => x.done && s.moves (.accessReply x.id) fun a b => a.accs.length != b.accs.length) (fun x => .accessReply x.id)
  <|> due s.parts (fun e => e.2.bumps.any fun b => !s.stillWriting b.2.1 b.2.2) (fun e => .closeNotice e.1)
  <|> (s.dies.findSome? fun d => d.2.rollups.head?.map fun r => Instr.rollupIncrement r.1 r.2.1)
  <|> due s.sidings (fun d => s.moves (.sidingForward d.id) fun a b => a.sidings != b.sidings) (fun d => .sidingForward d.id)
  <|> due s.invs (fun _ => true) (fun v => .tlbinvComplete v.id)

/-- Has a strand's wake come (R13)? -/
def State.wakes (s : State) (t : Strand) : Bool :=
  match t.status with
  | .blocked .served => true
  | .blocked .issue => s.canIssue t
  | .blocked (.walk id _) => !(s.walks.any fun w => w.id == id)
  | .blocked (.sleep _) => t.q15 != []
  | _ => false

/-- Has a `sleep` passed its deadline? -/
def State.sleepOver (s : State) (t : Strand) : Bool :=
  match t.status with
  | .blocked (.sleep (some d)) => decide (d ≤ s.now) && t.q15 == []
  | _ => false

/-- Can the service that a strand asked for be done? -/
def State.syscDue (s : State) (t : Strand) : Bool :=
  match t.status with
  | .blocked (.sysc n) =>
    (s.part t.part).resetting.isNone && (n != 4 || ((s.part t.part).fn.rqRoom && (s.part t.part).fn.results.isEmpty))
  | _ => false

/-- Is the launch of a strand in a domain that is ending, or gone? -/
def State.doomed (s : State) (t : Strand) : Bool :=
  match s.launchOf t with
  | some l => (s.part t.part).ending l
  | none => true

/-- Is the strand spilled, with its launch running again and a slot free? -/
def State.restorable (s : State) (t : Strand) : Bool :=
  match t.status, s.launchOf t with
  | .spilled _, some l => (s.openSlot t.cell).isSome && (s.part t.part).runs l
  | _, _ => false

/-- Events of strands that are due. -/
def State.strandEvent (s : State) : Option Instr :=
  due s.strands s.watchdogDue (fun t => .strandWatchdogExpiry t.uid)
  <|> due s.strands (fun t => (!s.doomed t || t.status == .blocked .served || t.midStore) && s.wakes t) (fun t => .strandWake t.uid)
  <|> due s.strands s.sleepOver (fun t => .sleepTimeout t.uid)
  <|> due s.strands s.syscDue (fun t => .syscReply t.uid)
  <|> due s.strands (fun t => t.tileq != [] && s.moves (.tileCommandExecute t.uid) fun a b =>
      (a.strand? t.uid).map (·.tileq.length) != (b.strand? t.uid).map (·.tileq.length)) (fun t => .tileCommandExecute t.uid)
  <|> due s.strands (fun t => t.status == .moving && deviceOf t.cell == s.boot.device.toNat && (s.openSlot t.cell).isSome && !s.doomed t) (fun t => .migrateArrival t.uid)
  <|> due s.strands (fun t => t.inSlot && ((s.launchOf t).any fun l => l.stage == .suspended)
      && s.moves (.strandSpill t.uid) fun _ b => ((b.strand? t.uid).any fun t => !t.inSlot)) (fun t => .strandSpill t.uid)
  <|> due s.strands s.restorable (fun t => .contextRestore t.uid)
  <|> due s.strands (fun t => t.vectorReady && !s.sameClk (clusterOf t.cell) (s.cell t.cell).seqAt
      && ((s.focus t.uid).execEntry).isSome) (fun t => .sequencerExecute t.cell)

/-- The event that performs an engine command at the head of its queue. -/
def EngCmd.event (c : EngCmd) : Instr :=
  match c.kind with
  | 3 => .gather c.engine.2.1
  | 4 => .routeAssign c.engine.2.1
  | _ => match c.var with
    | .plain => .copyPlain (clusterOf c.cell)
    | .enc => .copyEncode (clusterOf c.cell)
    | .dec => .copyDecode (clusterOf c.cell)
    | .q4g => .q4gUnpack (clusterOf c.cell)

/-- Can an engine go on with a command: it heads its queue, does not stall, and no home holds it back? -/
def State.engineDue (s : State) (c : EngCmd) : Bool :=
  c.stage == 1 && c.walk.isNone && ((s.engineQueue c.engine.1 c.engine.2.1).head?.any fun x => x.num == c.num)
    && s.moves c.event fun a b => a.cmds != b.cmds

/-- The answer of a walk's record that can be acted on now (R322, R131). -/
def State.answerDue (s : State) (w : Walk) : Option Instr :=
  match w.record, w.ans with
  | some r, some .retry => some (.translationFaultAnswer w.part r .retry)
  | some r, some .deny => if s.denyWaits w.id then none else some (.translationFaultAnswer w.part r .deny)
  | _, _ => none

/-- Events of engines and of translation that are due. -/
def State.unitEvent (s : State) : Option Instr :=
  due s.cmds (fun c => c.stage == 0 && (s.nextAccept c.uid).isSome) (fun c => .engineAcceptCommand c.uid)
  <|> due s.cmds s.engineDue EngCmd.event
  <|> due s.cmds (fun c => c.stage == 2 && c.walk.isNone) (fun c => .engineCredit c.num)
  <|> due s.cmds (fun c => c.stage == 3 && s.moves (.completionEntryPush c.num) fun a b => a.cmds.length != b.cmds.length)
      (fun c => .completionEntryPush c.num)
  <|> due s.walks (fun w => !w.miss && (s.walking w.die).any fun x => x.id == w.id) (fun w => .translationWalk w.id)
  <|> due s.walks s.canPost (fun w => .translationMiss w.id)
  <|> s.walks.findSome? s.answerDue
  <|> due s.clusters (fun e => e.2.deque != [] && s.moves (.taskDispatch e.1) fun a b =>
      (a.cluster e.1).deque != (b.cluster e.1).deque || a.walks.length != b.walks.length) (fun e => .taskDispatch e.1)
  <|> due s.clusters (fun e => e.2.gated && (!s.gateable e.1 || e.2.arrived)) (fun e => .clusterUngate e.1)

/-- Is a task's TASK_READY due? -/
def State.taskDue (s : State) (p : Nat) (x : Part) (t : Task) : Bool :=
  match t.stage, x.launch? t.launch with
  | .waiting, some l => !x.ending l && s.moves (.taskReady p t.key) fun a b =>
      ((a.part p).taskAt t.key).map (fun t => (t.stage, t.placed)) != ((b.part p).taskAt t.key).map (fun t => (t.stage, t.placed))
  | .ready, some l => !x.ending l && s.skipDue p t
  | _, _ => false

/-- Is a pass over a WALL region due (R237): 2^21 ticks since the last began? -/
def State.passDue (s : State) (r : Region) : Bool :=
  !r.step && r.pass.isNone && decide (2 ^ 21 ≤ s.now / 2 ^ r.n - r.passStart / 2 ^ r.n)

/-- Events of a partition's units that are due. -/
def State.partEvent (s : State) (p : Nat) (x : Part) : Option Instr :=
  (if x.inPhase 0 ≠ none ∧ s.moves (.fatalFaultStop p) (fun a b => (a.part p).ends.map (·.phase) != (b.part p).ends.map (·.phase))
    then some (Instr.fatalFaultStop p) else none)
  <|> (if x.resetting.isNone ∧ (x.ends.any (·.writing) ∨ (x.inPhase 1 ≠ none ∧ memRead s.mem (x.w 15) 1 % 4 = 0)) then
    some (.dumpWrite p) else none)
  <|> (if x.inPhase 2 ≠ none ∧ s.moves (.teardownPoint p) (fun a b => (a.part p).ends.map (·.phase) != (b.part p).ends.map (·.phase))
    then some (.teardownPoint p) else none)
  <|> (if x.inPhase 3 ≠ none then some (.domainRelease p) else none)
  <|> (if x.resetting.isSome ∧ s.quiet p then some (.partitionReset p) else none)
  <|> (if x.live ∧ x.resetting.isNone ∧ x.w 19 ≠ 0 ∧ x.wdLeft = 0 then some (.partitionWatchdogExpiry p) else none)
  <|> due x.tasks (s.taskDue p x) (fun t => .taskReady p t.key)
  <|> due x.clusters (fun k => decide ((s.cluster k).attempts.toNat < (s.cluster k).counter.toNat / 64)) (fun k => .stealAttempt k)
  <|> (if x.pending ≠ [] ∧ x.resetting.isNone then some (.launchAccept p) else none)
  <|> (match s.queueHead p with
    | none => none
    | some l => if l.stage = .suspended ∧ (s.chooseSet p l []).isSome ∧ x.ending l = false ∧ x.resetting.isNone then
        some (.launchRestore p l.num) else none)
  <|> (if s.moves (.launchPlacement p) (fun a b => (a.part p).launches.map (fun l => (l.num, l.stage)) != (b.part p).launches.map (fun l => (l.num, l.stage)))
    then some (.launchPlacement p) else none)
  <|> (if x.resetting.isNone ∧ x.launches.any (fun l => l.stage == .placing && !x.ending l) then some (.placementStep p) else none)
  <|> (if x.resetting.isSome then none
    else x.launches.findSome? fun l =>
      if l.stage = .woken ∧ x.ending l = false then l.wakeDue.head?.map fun c => Instr.wakeMessage p l.num c else none)
  <|> due x.launches (fun l => s.launchOver p l && !x.ending l) (fun l => .launchEnd p l.num)
  <|> due x.pops (fun e => s.moves (.resampleCollective p e.1) fun a b => (a.part p).pops != (b.part p).pops)
      (fun e => .resampleCollective p e.1)
  <|> (if x.clones.any (fun c => !c.waiting || (s.freeSlot c.image.cell).isSome) then some (.clonePlacement p) else none)
  <|> (if x.regions.any (fun e => e.2.pass.isSome) then some (.sweepEvolution p) else none)
  <|> due x.regions (fun e => s.passDue e.2) (fun e => .sweepPass p e.1)
  <|> (if x.launchEntryDue then some (.hostLaunchEntry p) else none)
  <|> (if s.messageEntryDue p then some (.hostMessageEntry p) else none)
  <|> (if s.commandOver p ∨ s.strands.any (fun t => t.part == p && (s.residentStops t || s.hardens t) && s.canHalt t)
    then some (.stopComplete p) else none)
  <|> (if x.dbg.replaying then due (List.range x.points) (s.diverges p) (fun i => .replayDivergence p i) else none)

/-- The first event that is due, in the model's fixed order (log entry 5). -/
def State.nextEvent (s : State) : Option Instr :=
  s.strandEvent <|> s.netEvent <|> s.unitEvent
  <|> (s.parts.findSome? fun e => s.partEvent e.1 e.2)
  <|> due s.cells (fun c => c.2.toStart != [] && s.moves (.residentStrandStart c.1) fun a b =>
      (a.cell c.1).toStart != (b.cell c.1).toStart) (fun c => .residentStrandStart c.1)

/-! ### A step -/

/-- An idle turn of `n` clk, with `r` after it: a rail's sample that is due comes first, and while a ring takes samples the clk
pass one by one (R338). -/
def State.idleTurn (s : State) (n : Nat) (r : List Turn) : State :=
  match s.sampleRail with
  | some rail => s.sampleFree rail
  | none => if s.sampling && decide (1 < n) then { s with agenda := .idle (n - 1) :: r }.idle 1 else { s with agenda := r }.idle n

/-- What the machine does by itself: a sample that is due, an event, the next issue, or time. -/
def State.ownTurn (s : State) : Out :=
  match s.sampleRail with
  | some rail => .next (s.sampleFree rail)
  | none =>
    match s.nextEvent with
    | some i => s.event i
    | none =>
      match s.nextIssue with
      | some t => (s.focus t.uid).runFocus
      | none => .next s.tick

/-- The agenda's next turn; without one what the machine does by itself. -/
def State.turn (s : State) : Out :=
  match s.agenda with
  | .issue cell slot :: r => { s with agenda := r }.issueTurn cell slot
  | .event i :: r => { s with agenda := r }.event i
  | .idle n :: r => .next (s.idleTurn n r)
  | .delay on :: r => .next { s with agenda := r, async := on }
  | .favour n :: r => .next ({ s with agenda := r }.favour n)
  | [] => s.ownTurn

/-- What follows every turn at once: homes serve the waiters of tokens (R192), and the posting services take the answers that
have been written (R322). -/
def State.react (s : State) : State := s.serveAll.latchAnswers

/-- What follows a turn. -/
def afterTurn : Out → Out
  | .next s => .next s.react
  | o => o

/-! ### A program placed from outside (log entry 8) -/

/-- The launch under which a placed instruction runs. -/
def placedLaunch (t : Strand) : Launch where
  num := t.launch
  rcb := 0
  entry := t.pc
  uab := t.uab
  asid := t.asid
  eff := ⟨1, 1, 0, 0, 0, 0, 0, 0, 0, 0xFF, 0, .rne, 0, 0, 0, 0, 0, 0, 0, 0⟩
  fdoms := [0]
  stage := .running
  fixed := true
  first := t.cell
  cellSet := [t.cell]
  placed := 1
  hbmHeld := true
  wakeDue := []
  slotsUsed := 1
  tasksLive := 0
  host := false
  htag := 0
  launcher := none
  savedTiles := []

/-- A partition in which strand `t` runs: live, with the strand's cluster and HBM gibibyte 0, its launch running. -/
def Part.placed (x : Part) (t : Strand) : Part :=
  let k := clusterOf t.cell
  let bit (ws : List Word) (i b : Nat) : List Word := ws.modify i fun w => w ||| BitVec.ofNat 64 (2 ^ b)
  { x with
    desc := bit (bit (bit x.desc 0 0) (1 + k / 64) (k % 64)) 5 0
    resetting := none
    ends := []
    dead := []
    launches := placedLaunch t :: x.launches.filter fun l => l.num != t.launch }

/-- The fabric address at which page `page` of a placed program stands: in HBM gibibyte 0. -/
def placedPage (s : State) (page : Nat) : Nat := s.boot.device.toNat * 2 ^ 48 + page % 2 ^ 14 * 65536

/-- The translation of page `page` of a placed program. -/
def placedEntry (s : State) (asid page : Nat) : TlbEntry := ⟨asid, page, 16, placedPage s page, true, true, true, false⟩

/-- Bytes written at the addresses from `a` on of a placed program. -/
def State.putCode (s : State) (a : Nat) : List Byte → State
  | [] => s
  | b :: bs =>
    let pa := placedPage s (a % 2 ^ 40 / 65536) + a % 65536
    { s with mem := memSet s.mem pa b, poison := s.poison.filter (· != pa / 8)
             flips := s.flips.filter fun f => f.addr != pa / 8 }.putCode (a + 1) bs

/-- The state in which the strand in focus issues next, with the bytes of an instruction at its PC. -/
def State.placeCode (s : State) (bytes : List Byte) : State :=
  let t := { s.st with status := .ready, stepping := false, loop := Loop.idle, vq := [], lbody := [], top := none, bpDone := true }
  let a := t.pc.toNat
  let pages := [a / 65536, (a + 9) % 2 ^ 40 / 65536].dedup
  let s := ({ s with st := t, agenda := .issue t.cell t.slot :: s.agenda, boot := { s.boot with powered := true, ready := true, stage := 5 }
                     parked := s.parked.filter fun x => !(x.inSlot && x.cell == t.cell && x.slot == t.slot) })
  let s := (s.modPart t.part fun x => x.placed t).modCluster (clusterOf t.cell) fun c => { c with gated := false }
  let s := s.modCell t.cell fun c => { c with
    stopped := false
    issuedAt := none
    tlb := pages.map (placedEntry s t.asid) ++ c.tlb.filter fun e => !(e.asid == t.asid && pages.any fun g => e.page == g * 65536 / 2 ^ e.log)
    fetch := c.fetch.filter fun l => !(pages.any fun g => l.1 / 1024 == t.asid * 2 ^ 54 + g) }
  s.putCode a bytes

end Sys2Proof.Machine
end

