-- ==== Sys2Proof/Machine/Step.lean ====
section
/-! DEFINITION. One step of the machine, and placing an instruction where the next step fetches it. -/

namespace Sys2Proof.Machine

/-- One step: a turn, and what follows it at once. -/
def step (s : State) : Host.Outcome State Fault Refusal := afterTurn s.turn

/-- `s` with the instruction of an opcode-table row (its bits as the table numbers them, zeros above) where the strand in
focus issues in the very next step. -/
def State.withFetchWord (s : State) (nbits w : Nat) : State :=
  s.placeCode (bytesOfWords ((tableWords nbits w ++ [0, 0, 0, 0, 0]).take 5))

end Sys2Proof.Machine
end

