-- ==== Sys2Proof/Safety.lean ====
section
/-! DEFINITION. What the statements assume and what they promise: the canonical form of memory, when an instruction of a
shape completes with its own effect (conditions on the state and the operands alone), and what its frame keeps. -/

namespace Sys2Proof.Safety

open Sys2Proof.Machine

/-- Both memories are in the canonical form: rising addresses, no entry equal to what an unlisted address reads as. -/
def Canonical (s : State) : Prop := memWf s.mem = true ∧ memWf s.hostMem = true

/-- An operand passes the tag check of R29: no format is named, or its tag is the format or raw. -/
def TagOk (f : Option Fmt) (x : Src) : Prop :=
  match f with
  | none => True
  | some k => x.tag = k ∨ x.tag = .raw

/-- A scalar instruction with sources a, b and, if `readsD`, d completes: no reply or vector instruction holds it back,
no queue is misused, the sources read as `x`, `y`, `z` and leave the strand as `t` (a queue read pops), the destination
has room, tags and poison are in order (R29, R102, R103, R174). -/
structure ScalarReady (i : Instr) (s : State) (d : SReg) (readsD : Bool) (a b : Opnd) (fa fb fd : Option Fmt)
    (x y z : Src) (t : Strand) : Prop where
  free : hazard i s = false
  legal : opMisuse a = none ∧ opMisuse b = none ∧ (if readsD then misuseRead d else none) = none ∧ misuseWrite d = none
  reads : ∃ t1 t2, takeOp s s.st a = .ok (x, t1) ∧ takeOp s t1 b = .ok (y, t2)
    ∧ (if readsD then takeReg s t2 d else .ok (Src.zero, t2)) = .ok (z, t)
  room : hasRoom t d = .ok ()
  tags : TagOk fa x ∧ TagOk fb y ∧ TagOk fd z
  clean : x.bad = false ∧ y.bad = false ∧ z.bad = false

/-- Instruction `i` answers the next state in which the strand `t` has `v` with `tag` written to `d`, and the PC is past
the instruction. -/
def Writes (i : Instr) (s : State) (t : Strand) (d : SReg) (v : Word) (tag : Fmt) : Prop :=
  ∃ t', putReg t d v tag = .ok t' ∧ exec i s = .next (s.done t')

/-- As `Writes`, with a code written to `ret.status` too. -/
def WritesStatus (i : Instr) (s : State) (t : Strand) (d : SReg) (v : Word) (tag : Fmt) (status : Nat) : Prop :=
  ∃ t', putReg t d v tag = .ok t' ∧ exec i s = .next (s.done { t' with rstat := BitVec.ofNat 64 status })

/-- The register-only instructions of the scalar stream, with the scalar destination that each writes, if any. -/
def registerOnly : Instr → Option (Option SReg)
  | .nop | .yield | .jr _ | .b _ | .bc .. | .bm .. | .sset .. => some none
  | .add _ d _ _ | .sub _ d _ _ | .mul _ d _ _ | .and d _ _ | .or d _ _ | .xor d _ _ | .shl _ d _ _ | .shr _ d _ _
  | .sra _ d _ _ | .slt _ d _ _ | .sltn _ d _ _ | .seq _ d _ _ | .min _ d _ _ | .max _ d _ _ | .sel _ d _ _ | .mov d _
  | .li d _ | .lea d _ _ | .loop d _ | .jal d _ | .andn d _ _ | .rotl _ d _ _ | .mulh _ d _ _ | .mulhn _ d _ _
  | .div _ d _ _ | .divn _ d _ _ | .rem _ d _ _ | .remn _ d _ _ | .minn _ d _ _ | .maxn _ d _ _ | .clz d _ | .ctz d _
  | .popc d _ | .bext d _ _ | .bins d _ _ | .fadd _ _ d _ _ | .fsub _ _ d _ _ | .fmul _ _ d _ _ | .fma _ _ d _ _
  | .fdiv _ _ d _ _ | .fsqrt _ _ d _ | .fmin _ d _ _ | .fmax _ d _ _ | .fcmp _ _ d _ _ | .fcvt _ _ _ d _
  | .fclass _ d _ | .sget d _ | .wdog d => some (some d)
  | _ => none

/-! ### Vector instructions -/

/-- A vector instruction executes at issue with the operands `c`: no earlier vector instruction stands before it, no reply, no
access that may fault and no row of a tile holds it back, an entry and the sequencer are free, no queue is misused, and its queue
operands hold values (R23, R128, R130, R131, R153). -/
structure VectorReady (i : Instr) (s : State) (c : VIn) : Prop where
  free : hazard i s = false ∧ tilesClear s.st i = .ok () ∧ s.st.vq = [] ∧ s.async = false
  settled : ∀ y ∈ s.accs, y.uid = s.st.uid → s.unsettled y = false
  room : s.seqCount s.st.cell < 16 ∧ s.seqFree s.st.cell = true
  reads : entryIn s (newEntry s i s.st.pc s.st.npc false) = .ok c

/-- The group of `eg` registers from `reg` holds vl elements of width `w` and starts at a multiple of its size (R126). -/
def GroupOk (t : Strand) (eg w reg : Nat) : Prop := eg ≤ 8 ∧ t.vl ≤ eg * 512 / w ∧ reg % eg = 0

/-- Every register of the group that holds an element below vl has the format's tag or raw (R29, R127). -/
def GroupTagsOk (t : Strand) (eg w reg : Nat) (f : Fmt) : Prop :=
  ∀ r ∈ liveRegs t eg w reg, t.vtag[r]?.getD .raw = f ∨ t.vtag[r]?.getD .raw = .raw

/-- No element below vl with `p i` is poisoned (R147). -/
def Clean (x : VSrc) (vl : Nat) (p : Nat → Bool) : Prop := ∀ i, i < vl → p i = true → x.isBad i = false

/-- A source group: tags, group and poison in order. -/
def SourceOk (c : VIn) (eg w reg : Nat) (f : Option Fmt) (p : Nat → Bool) : Prop :=
  (∀ g, f = some g → GroupTagsOk c.t eg w reg g) ∧ GroupOk c.t eg w reg ∧ Clean (c.t.vsrc eg w reg) c.t.vl p

/-- Operand b, a group or a scalar. -/
def OperandOk (c : VIn) (eg w : Nat) (b : Opnd) (f : Option Fmt) (p : Nat → Bool) : Prop :=
  match b with
  | .vec n => SourceOk c eg w n.val f p
  | _ => TagOk f c.b ∧ c.b.bad = false

/-- The operands of an element instruction va, b and, if it reads vd, vd are in order. -/
structure ElementsOk (c : VIn) (f : Fmt) (k : Keys) (d a : Nat) (b : Opnd) (fa fb fd : Option Fmt) (useD : Bool) : Prop where
  srcA : SourceOk c (groupSize c.t k f f.bits) f.bits a fa (c.t.activeAt k)
  srcB : OperandOk c (groupSize c.t k f f.bits) f.bits b fb (c.t.activeAt k)
  dst : GroupOk c.t (groupSize c.t k f f.bits) f.bits d
  dTags : ∀ g, fd = some g → GroupTagsOk c.t (groupSize c.t k f f.bits) f.bits d g
  dClean : useD = true → Clean (c.t.vsrc (groupSize c.t k f f.bits) f.bits d) c.t.vl (c.t.activeAt k)

/-- Vector instruction `i` answers the next state in which the strand is `t`, the PC is past the instruction, and the cell's
sequencer has executed in this clk. -/
def Becomes (i : Instr) (s : State) (t : Strand) : Prop :=
  exec i s = .next (({ s with st := t }.finish).markSequencer s.st.cell)

/-- Instruction `i` answers the next state in which each active element j of the group of vd is `g j`, under the mask and
tail policies, with the tag on every register of the group (R127). -/
def WritesElements (i : Instr) (s : State) (c : VIn) (f : Fmt) (k : Keys) (d : Nat) (tag : Fmt) (g : Nat → Fill) : Prop :=
  Becomes i s (c.t.vwrite k (groupSize c.t k f f.bits) f.bits d tag (c.t.activeAt k) g)

/-! ### Memory -/

/-- No word of memory is in error or poisoned, and no injection register is set up (R313-R315). -/
def Quiet (s : State) : Prop := s.flips = [] ∧ s.poison = [] ∧ s.arrays = []

/-- An access of `n` bytes at base + off goes ahead at once: nothing holds the instruction back, the base reads as `x`,
every source read leaves the strand as `t`, the address is aligned, its translation permits it, its home is on this device, the
unacknowledged store count is zero, and nothing is on its way between the cell and the home (R174, R261, R270, R274, R321, R331). -/
structure AccessReady (i : Instr) (s : State) (base : Base) (off : Int) (n acc : Nat) (r w : Bool) (x : Src)
    (t1 t : Strand) (loc : Loc) : Prop where
  free : hazard i s = false ∧ s.st.loop.active = false ∧ s.st.vq = []
  legal : baseMisuse base = none
  reads : takeBase s s.st base = .ok (x, t1) ∧ x.bad = false
  inLine : accessVa t x.val off % n = 0
  located : s.locate t (accessVa t x.val off) acc r w false = .ok loc
  turn : s.async = false ∧ (∀ y ∈ s.accs, y.uid ≠ s.st.uid) ∧ s.pairBusy s.st.cell loc.pa = false
  home : s.remote loc.pa = false ∧ s.storesDue s.st.uid = 0
  quiet : Quiet s

/-- A write there meets no watched object, no law region under the sweep load, and no window of the order log. -/
def Unwatched (s : State) (loc : Loc) : Prop :=
  loc.watched = false ∧ s.sweepWeight (loc.pa / 8 * 8) = 0 ∧ (s.part s.st.part).log.window loc.pa = none

/-- The operands b and, if it is read, d of a home operation, after its base: legal, read as `y` and `z`, tags and poison
in order, and room in the destination. -/
structure OperandsReady (s : State) (d : SReg) (b : Opnd) (readsD : Bool) (fb fd : Option Fmt) (t1 : Strand) (y z : Src)
    (t : Strand) : Prop where
  legal : opMisuse b = none ∧ (if readsD then misuseRead d else none) = none ∧ misuseWrite d = none
  reads : ∃ t2, takeOp s t1 b = .ok (y, t2) ∧ (if readsD then takeReg s t2 d else .ok (Src.zero, t2)) = .ok (z, t)
  room : hasRoom t d = .ok ()
  tags : TagOk fb y ∧ TagOk fd z
  clean : y.bad = false ∧ z.bad = false

/-! ### Home operations and messages -/

/-- Nothing holds a home operation or a message back: no vector instruction and no access of the strand is unfinished, no loop
runs, and the unacknowledged store count is zero. -/
def HomeReady (i : Instr) (s : State) : Prop :=
  hazard i s = false ∧ s.st.vq = [] ∧ s.st.loop.active = false ∧ s.storesDue s.st.uid = 0 ∧ ∀ y ∈ s.accs, y.uid ≠ s.st.uid

/-- No word of `n` bytes at `pa` counts in the sweep load (R312). -/
def Unloaded (s : State) (pa n : Nat) : Prop := ∀ a, pa / 8 * 8 ≤ a → a < pa + n → s.sweepWeight a = 0

/-- No word of a record counts in the sweep load, and no window of the order log holds it (R346). -/
def NoWatch (s : State) (pa n : Nat) : Prop := Unloaded s pa n ∧ (s.part s.st.part).log.window pa = none

/-- The record of `n` bytes at base + off is aligned, translated to `pa` with the permissions asked, and its base reads as
`x` and leaves the strand as `t1`; `t` is the strand with every operand read; its home is on this device, and nothing is on its way
between the cell and the home (R270, R274). -/
structure RecordOff (i : Instr) (s : State) (base : Base) (off : Int) (n acc : Nat) (r w : Bool) (x : Src) (t1 t : Strand)
    (pa : Nat) : Prop where
  ready : HomeReady i s
  legal : baseMisuse base = none
  reads : takeBase s s.st base = .ok (x, t1) ∧ x.bad = false
  inLine : accessVa t x.val off % n = 0
  located : ∃ o, s.locate t (accessVa t x.val off) acc r w false = .ok ⟨pa, o⟩
  turn : s.pairBusy s.st.cell pa = false ∧ s.remote pa = false
  quiet : Quiet s

/-- A record at the base itself. -/
abbrev RecordAt (i : Instr) (s : State) (base : Base) (n acc : Nat) (r w : Bool) (x : Src) (t1 t : Strand) (pa : Nat) : Prop :=
  RecordOff i s base 0 n acc r w x t1 t pa

/-- Two scalar operands a and b of a message or event instruction. -/
structure OperandsAB (s : State) (a b : Opnd) (x y : Src) (t : Strand) : Prop where
  legal : opMisuse a = none ∧ opMisuse b = none
  reads : ∃ t1, takeOp s s.st a = .ok (x, t1) ∧ takeOp s t1 b = .ok (y, t)
  clean : x.bad = false ∧ y.bad = false

/-! ### Tiles -/

/-- Nothing holds a synchronous tile instruction back, no tile command of the strand is unfinished, and no word is in error. -/
def TileReady (i : Instr) (s : State) : Prop :=
  HomeReady i s ∧ s.st.tileCount = 0 ∧ s.async = false ∧ Quiet s

/-- Tile `n` is held by the strand's launch, carries one of the tags or raw, and has no poisoned element (R27, R152). -/
def TileOk (s : State) (n : Nat) (tags : List Fmt) : Prop :=
  s.holds s.st (clusterOf s.st.cell) n = true ∧ ((s.tileOf s.st n).tag ∈ tags ∨ (s.tileOf s.st n).tag = .raw)
    ∧ (s.tileOf s.st n).poison = []

/-- Operand b of a tile instruction: a group of eight registers of f32 codes, or a scalar f32 (R166, R169). -/
def TileOperandOk (t : Strand) (b : Opnd) (y : Src) : Prop :=
  match b with
  | .vec n => tileGroup 8 n.val = .ok () ∧ tileGroupTags t 8 n.val .f32 = .ok () ∧ Clean (t.vsrc 8 32 n.val) 128 allElems
  | .lit _ => True
  | _ => TagOk (some .f32) y ∧ y.bad = false

end Sys2Proof.Safety
end

