-- ==== Sys2Proof/Certificates/Slice0/Obligations.lean ====
section
/-! DEFINITION. The statements about the model, for the provers. Each docstring names the rules of spec/ that it
formalises. -/

open Sys2Proof Sys2Proof.Machine Sys2Proof.Safety

/-! ### The scalar stream -/

/-- R105: what `add`, `sub`, `mul`, `mulh` and `mulhn` write; they report no status, and overflow wraps. R100: an
operand is read at its low n bits, sign- or zero-extended, and a result is reduced modulo 2^n and written
sign-extended for an s format and zero-extended for an n format (`raw` is n64). R106: the quotient and remainder of
`div`, `divn`, `rem` and `remn`, and the status that each reports. -/
def Obligations.IntegerArithmetic : Prop :=
  (∀ (s : State) (t : Strand) (f : Fmt) (d : SReg) (a b : Opnd) (x y z : Src) (i : Instr) (g : Int → Int → Int),
    (i, g) ∈ [(Instr.add f d a b, fun p q => p + q), (.sub f d a b, fun p q => p - q), (.mul f d a b, fun p q => p * q),
      (.mulh f d a b, fun p q => p * q / 2 ^ f.bits), (.mulhn f d a b, fun p q => p * q / 2 ^ f.bits)] →
    ScalarReady i s d false a b (some f) (some f) none x y z t →
    Writes i s t d (BitVec.ofNat 64 (f.put (g (f.intVal x.val.toNat) (f.intVal y.val.toNat)))) f) ∧
  (∀ (f : Fmt), f.isInt = true → ∀ (v : Word) (r : Int),
    (f.isS = true → f.intVal v.toNat = (v.truncate f.bits).toInt
      ∧ BitVec.ofNat 64 (f.put r) = (BitVec.ofInt f.bits r).signExtend 64) ∧
    (f.isS = false → f.intVal v.toNat = (v.truncate f.bits).toNat
      ∧ BitVec.ofNat 64 (f.put r) = (BitVec.ofInt f.bits r).zeroExtend 64)) ∧
  (∀ (s : State) (t : Strand) (f : Fmt) (d : SReg) (a b : Opnd) (x y z : Src) (i : Instr) (rem : Bool),
    (i, rem) ∈ [(Instr.div f d a b, false), (.divn f d a b, false), (.rem f d a b, true), (.remn f d a b, true)] →
    ScalarReady i s d false a b (some f) (some f) none x y z t →
    let p := f.intVal x.val.toNat
    let q := f.intVal y.val.toNat
    let out (quo r : Int) (st : Nat) := WritesStatus i s t d (BitVec.ofNat 64 (f.put (if rem then r else quo))) f st
    if q = 0 then out (-1) p 1
    else if f.isS = true ∧ p = -2 ^ (f.bits - 1) ∧ q = -1 then out p 0 2
    else out (Int.tdiv p q) (p - Int.tdiv p q * q) 0)

/-- R107: the shifted fields of `shl`, `shr`, `sra` and `rotl`, for every count. R108: the bitwise instructions act on
all 64 bits, ignore tags and write tag raw; `bext` and `bins` act on bits [h:lo], h = min(lo + w, 64) - 1. -/
def Obligations.ShiftsAndBits : Prop :=
  (∀ (s : State) (t : Strand) (f : Fmt) (d : SReg) (a b : Opnd) (x y z : Src) (i : Instr) (g : Fin 4),
    f.isInt = true →
    (i, g) ∈ [(Instr.shl f d a b, 0), (.shr f d a b, 1), (.sra f d a b, 2), (.rotl f d a b, 3)] →
    ScalarReady i s d false a b (some f) none none x y z t →
    ∃ r : BitVec f.bits, Writes i s t d (BitVec.ofNat 64 (f.extend r.toNat)) f ∧
      ∀ j, j < f.bits →
        let v := x.val.truncate f.bits
        let c := y.val.toNat
        r.getLsbD j = (if g = 0 then decide (c ≤ j) && v.getLsbD (j - c)
          else if g = 1 then decide (j + c < f.bits) && v.getLsbD (j + c)
          else if g = 2 then (if j + c < f.bits then v.getLsbD (j + c) else v.getLsbD (f.bits - 1))
          else v.getLsbD ((j + (f.bits - c % f.bits)) % f.bits))) ∧
  (∀ (s : State) (t : Strand) (d : SReg) (a b : Opnd) (x y z : Src),
    (∀ i g, (i, g) ∈ [(Instr.and d a b, fun p q : Word => p &&& q), (.or d a b, fun p q => p ||| q),
        (.xor d a b, fun p q => p ^^^ q), (.andn d a b, fun p q => p &&& ~~~q)] →
      ScalarReady i s d false a b none none none x y z t → Writes i s t d (g x.val y.val) .raw) ∧
    (ScalarReady (.mov d b) s d false (.lit 0) b none none none x y z t → Writes (.mov d b) s t d y.val .raw) ∧
    (ScalarReady (.clz d b) s d false (.lit 0) b none none none x y z t →
      ∃ n : Nat, n ≤ 64 ∧ Writes (.clz d b) s t d (BitVec.ofNat 64 n) .raw
        ∧ (∀ j, j < n → y.val.getLsbD (63 - j) = false) ∧ (n < 64 → y.val.getLsbD (63 - n) = true)) ∧
    (ScalarReady (.ctz d b) s d false (.lit 0) b none none none x y z t →
      ∃ n : Nat, n ≤ 64 ∧ Writes (.ctz d b) s t d (BitVec.ofNat 64 n) .raw
        ∧ (∀ j, j < n → y.val.getLsbD j = false) ∧ (n < 64 → y.val.getLsbD n = true)) ∧
    (ScalarReady (.popc d b) s d false (.lit 0) b none none none x y z t →
      Writes (.popc d b) s t d (BitVec.ofNat 64 ((List.range 64).countP fun j => y.val.getLsbD j)) .raw) ∧
    (ScalarReady (.bext d a b) s d false a b none none none x y z t →
      ∃ r : Word, Writes (.bext d a b) s t d r .raw ∧
        let lo := y.val.toNat % 64
        let n := min (lo + (y.val.toNat / 64 % 64 + 1)) 64 - lo
        ∀ j, j < 64 → r.getLsbD j = (decide (j < n) && x.val.getLsbD (lo + j))) ∧
    (ScalarReady (.bins d a b) s d true a b none none none x y z t →
      ∃ r : Word, Writes (.bins d a b) s t d r .raw ∧
        let lo := y.val.toNat % 64
        let top := min (lo + (y.val.toNat / 64 % 64 + 1)) 64
        ∀ j, j < 64 → r.getLsbD j = if lo ≤ j ∧ j < top then x.val.getLsbD (j - lo) else z.val.getLsbD j))

/-- R109: comparisons write 1 or 0 with tag raw; selections write F; `sel` copies a whole word. -/
def Obligations.ComparisonsAndSelections : Prop :=
  ∀ (s : State) (t : Strand) (f : Fmt) (d : SReg) (a b : Opnd) (x y z : Src),
    let p := f.intVal x.val.toNat
    let q := f.intVal y.val.toNat
    (∀ i, i ∈ [Instr.slt f d a b, .sltn f d a b] → ScalarReady i s d false a b (some f) (some f) none x y z t →
      Writes i s t d (if p < q then 1 else 0) .raw) ∧
    (ScalarReady (.seq f d a b) s d false a b (some f) (some f) none x y z t →
      Writes (.seq f d a b) s t d (if x.val.toNat % 2 ^ f.bits = y.val.toNat % 2 ^ f.bits then 1 else 0) .raw) ∧
    (∀ i, i ∈ [Instr.min f d a b, .minn f d a b] → ScalarReady i s d false a b (some f) (some f) none x y z t →
      Writes i s t d (BitVec.ofNat 64 (f.put (if p ≤ q then p else q))) f) ∧
    (∀ i, i ∈ [Instr.max f d a b, .maxn f d a b] → ScalarReady i s d false a b (some f) (some f) none x y z t →
      Writes i s t d (BitVec.ofNat 64 (f.put (if p ≤ q then q else p))) f) ∧
    (ScalarReady (.sel f d a b) s d true a b (some f) (some f) none x y z t →
      Writes (.sel f d a b) s t d (if z.val = 0 then y.val else x.val) f)

/-- R110: `li` writes the sign-extended immediate; `lea` the base plus the immediate, with no access and no tag check.
The base `pc` is the address of the instruction's first word. -/
def Obligations.LiAndLea : Prop :=
  ∀ (s : State) (t : Strand) (d : SReg) (base : Base) (e : Int) (x : Src),
    (hazard (.li d e) s = false → misuseWrite d = none → hasRoom s.st d = .ok () →
      Writes (.li d e) s s.st d (BitVec.ofInt 64 e) .raw) ∧
    (hazard (.lea d base e) s = false → baseMisuse base = none → misuseWrite d = none →
      takeBase s s.st base = .ok (x, t) → hasRoom t d = .ok () → x.bad = false →
      Writes (.lea d base e) s t d (x.val + BitVec.ofInt 64 e) .raw) ∧
    takeBase s s.st .pc = .ok (⟨s.st.pc.zeroExtend 64, .raw, 0, false⟩, s.st)

/-- R111, R112, R113, R114, R115: scalar floating point. The operands' exact values are combined and rounded once,
under the `rnd` key or the strand's rmode. -/
def Obligations.ScalarFloat : Prop :=
  ∀ (s : State) (t : Strand) (f : Fmt) (r : Rnd) (sat : Bool) (c : FCond) (d : SReg) (a b : Opnd) (x y z : Src),
    let m := r.mode s.st.rmode
    let p := fdecode f x.val.toNat
    let q := fdecode f y.val.toNat
    (∀ i v, (i, v) ∈ [(Instr.fadd f r d a b, (p.add m q).toCode f m false), (.fsub f r d a b, (p.add m q.neg).toCode f m false),
        (.fmul f r d a b, (p.mul q).toCode f m false), (.fdiv f r d a b, fdivCode f m false p q),
        (.fmin f d a b, fminCode f x.val.toNat y.val.toNat), (.fmax f d a b, fmaxCode f x.val.toNat y.val.toNat)] →
      ScalarReady i s d false a b (some f) (some f) none x y z t → Writes i s t d (BitVec.ofNat 64 v) f) ∧
    (ScalarReady (.fma f r d a b) s d true a b (some f) (some f) (some f) x y z t →
      Writes (.fma f r d a b) s t d
        (BitVec.ofNat 64 (((p.mul q).add m (fdecode f z.val.toNat)).toCode f m false)) f) ∧
    (ScalarReady (.fsqrt f r d b) s d false (.lit 0) b (some f) (some f) none x y z t →
      Writes (.fsqrt f r d b) s t d (BitVec.ofNat 64 (fsqrtCode f m q)) f) ∧
    (ScalarReady (.fcmp f c d a b) s d false a b (some f) (some f) none x y z t →
      Writes (.fcmp f c d a b) s t d (if fcmpHolds f c x.val.toNat y.val.toNat then 1 else 0) .raw) ∧
    (ScalarReady (.fclass f d b) s d false (.lit 0) b (some f) (some f) none x y z t →
      Writes (.fclass f d b) s t d (BitVec.ofNat 64 (fclassBits f y.val.toNat)) .raw) ∧
    (ScalarReady (.fcvt f r sat d b) s d false (.lit 0) b none none none x y z t →
      let v := convert y.tag f m sat (lowBits y.tag.bits y.val.toNat)
      Writes (.fcvt f r sat d b) s t d (BitVec.ofNat 64 (if f.isInt then f.extend v else v)) f)

/-- R116, R119: where `b`, `bc` and `bm` go. The target is the address of the instruction's first word plus twice the
offset, modulo 2^40 (R92); a branch that is not taken goes past the instruction. R117, R118: `loop` counts down modulo
2^64 and branches while the count is not 0 (with g0 it always branches); `jal` links the address after its base word;
`jr` goes to the value of its register, or raises 0x0304 at a value that is no code address. -/
def Obligations.BranchesAndJumps : Prop :=
  (∀ (s : State) (t1 t : Strand) (c : BCond) (v : BmVar) (m : Fin 8) (a b : Opnd) (x y : Src) (off : Int),
    let goal : BitVec 40 := s.st.pc + BitVec.ofInt 40 (2 * off)
    exec (.b off) s = .next { s with st := { s.st with pc := goal } } ∧
    (hazard (.bc c a b off) s = false → opMisuse a = none → opMisuse b = none → takeOp s s.st a = .ok (x, t1) →
      takeOp s t1 b = .ok (y, t) → x.bad = false → y.bad = false →
      let holds : Bool := match c with
        | .eq => x.val = y.val
        | .ne => x.val ≠ y.val
        | .lt => x.val.slt y.val
        | .ge => y.val.sle x.val
        | .ltn => x.val.ult y.val
        | .gen => y.val.ule x.val
      exec (.bc c a b off) s = .next { s with st := { t with pc := if holds then goal else s.st.npc } }) ∧
    (hazard (.bm v m off) s = false →
      let any := ∃ i, i < s.st.vl ∧ (s.st.m.get m).getLsbD i = true
      let all := ∀ i, i < s.st.vl → (s.st.m.get m).getLsbD i = true
      let goes (p : Prop) := (p → exec (.bm v m off) s = .next { s with st := { s.st with pc := goal } })
        ∧ (¬p → exec (.bm v m off) s = .next { s with st := { s.st with pc := s.st.npc } })
      match v with
      | .any => goes any
      | .none => goes (¬any)
      | .all => goes all)) ∧
  (∀ (s : State) (t t' : Strand) (n : Fin 32) (d : SReg) (b : SReg) (x : Src) (off : Int),
    let goal : BitVec 40 := s.st.pc + BitVec.ofInt 40 (2 * off)
    (hazard (.loop (.g n) off) s = false → s.st.gpois.getLsbD n.val = false →
      let pc := if s.st.g.get n = 1 then s.st.npc else goal
      exec (.loop (.g n) off) s = .next { s with st := { s.st.setG n (s.st.g.get n - 1) .raw with pc := pc } }) ∧
    (hazard (.jal d off) s = false → misuseWrite d = none → hasRoom s.st d = .ok () →
      putReg s.st d (s.st.npc.zeroExtend 64) .raw = .ok t' →
      exec (.jal d off) s = .next { s with st := { t' with pc := goal } }) ∧
    (hazard (.jr b) s = false → misuseRead b = none → takeReg s s.st b = .ok (x, t) →
      (x.val.getLsbD 0 = false → x.val.toNat < 2 ^ 40 → x.bad = false →
        exec (.jr b) s = .next { s with st := { t with pc := x.val.truncate 40 } }) ∧
      (x.val.getLsbD 0 = true ∨ 2 ^ 40 ≤ x.val.toNat → s.faultTurn = true →
        exec (.jr b) s = .next (s.takeFault 0x0304 s.st.pc x.val))))

/-- R120, R122, R223: `nop`, `yield`; what `sget` reads and `sset` writes of the control state (R25); `wdog` reads
`wdog.left` and reloads it from the budget. -/
def Obligations.ControlState : Prop :=
  ∀ (s : State) (t : Strand) (d : SReg) (a : Opnd) (x z : Src),
    exec .nop s = .next { s with st := { s.st with pc := s.st.npc } } ∧
    exec .yield s = .next { s with st := { s.st with pc := s.st.npc, age := 0 } } ∧
    (∀ sel (v : Word), (sel, v) ∈ [(Sel.trapv, s.st.trapv.zeroExtend 64), (.wdog, s.st.wdog.zeroExtend 64),
        (.rmode, BitVec.ofNat 64 s.st.rmode.code), (.uab, s.st.uab.zeroExtend 64)] →
      ScalarReady (.sget d sel) s d false (.lit 0) (.lit 0) none none none Src.zero Src.zero z t →
      Writes (.sget d sel) s t d v .raw) ∧
    (∀ sel, s.st.loop.active = false → hazard (.sset sel a) s = false → opMisuse a = none →
      takeOp s s.st a = .ok (x, t) → x.bad = false →
      let t' : Strand := match sel with
        | .trapv => { t with trapv := x.val.truncate 40 &&& (BitVec.allOnes 40 <<< 1) }
        | .wdog => { t with wdog := x.val.truncate 48, wleft := x.val.truncate 48, wdue := false }
        | .rmode => { t with rmode := RMode.ofCode (x.val.toNat % 4) }
        | .uab => { t with uab := x.val.truncate 8 }
      exec (.sset sel a) s = .next { s with st := { t' with pc := s.st.npc } }) ∧
    (s.st.loop.active = false → hazard (.wdog d) s = false → misuseWrite d = none → hasRoom s.st d = .ok () →
      putReg s.st d (s.st.wleft.zeroExtend 64) .raw = .ok t →
      exec (.wdog d) s = .next (s.done { t with wleft := t.wdog, wdue := false }))

/-- R22, R23, R24: what reading and writing a scalar register does. g0 discards writes; a queue write appends and a
queue read takes the head; q15 is read word by word and its entry is freed by the eighth read. -/
def Obligations.ScalarRegisters : Prop :=
  ∀ (s : State) (t : Strand) (v : Word) (tag : Fmt) (n : Fin 32) (q : Fin 16) (hq : q.val < 8) (e : QVal) (es : List QVal)
    (c : Q15) (cs : List Q15),
    (putReg t (.g 0) v tag = .ok t) ∧
    (n ≠ 0 → ∃ t', putReg t (.g n) v tag = .ok t' ∧ t'.g.get n = v ∧ t'.gtag.get n = tag ∧ t'.gpois.getLsbD n.val = false ∧
      (∀ k, k ≠ n → t'.g.get k = t.g.get k ∧ t'.gtag.get k = t.gtag.get k ∧ t'.gpois.getLsbD k.val = t.gpois.getLsbD k.val) ∧
      { t' with g := t.g, gtag := t.gtag, gpois := t.gpois } = t) ∧
    ((t.q[q.val]).length < 4 →
      putReg t (.q q) v tag = .ok { t with q := t.q.set q.val (t.q[q.val] ++ [⟨v, tag, false⟩]) }) ∧
    (t.q[q.val] = e :: es →
      takeReg s t (.q q) = .ok (⟨e.val, e.tag, 48 + q.val, e.bad⟩, { t with q := t.q.set q.val es })) ∧
    (t.q[q.val] = [] → takeReg s t (.q q) = .error (.wait .issue)) ∧
    (t.q15 = c :: cs → takeReg s t (.q 15) = .ok (⟨c.words.getD t.qpos 0, .raw, 63, false⟩,
      if t.qpos = 7 then { t with qpos := 0, q15 := cs } else { t with qpos := t.qpos + 1 }))

/-! ### Faults, traps and the return from them -/

/-- R319: a fault that is not fatal writes `fault.cause`, `fault.pc` and `fault.addr`, sets the handler bit and makes
the PC trapv; nothing else of the strand or the machine changes. (A single step of the debugger that takes a trap ends
there, R344.) R320, R323: a fault with trapv 0 or with the handler bit set is fatal: the strand stops at its boundary,
and its slot is free; the end of its launch's fault domain is open with the fault as its first record or, until its dump is
complete, as a later one; and no register but the fault registers changes. R318, R13: an instruction that stops has no effect: a fault changes what taking it changes;
an instruction that waits or misses leaves every register, queue and memory byte as it was. -/
def Obligations.TakingAFault : Prop :=
  (∀ (s : State) (cause : Nat) (pc : BitVec 40) (addr : Word), s.st.trapv ≠ 0 → s.st.handler = false →
    s.takeFault cause pc addr = { s with st := { s.st with
      fcause := BitVec.ofNat 16 cause, fpc := pc, faddr := addr, handler := true, pc := s.st.trapv, bpDone := false, top := none
      status := if s.st.stepping then .halted else s.st.status, stepping := false } }) ∧
  (∀ (s : State) (cause : Nat) (pc : BitVec 40) (addr : Word) (l : Launch), s.st.trapv = 0 ∨ s.st.handler = true →
    s.launchOf s.st = some l →
    let s' := s.takeFault cause pc addr
    let ends := (s.part s.st.part).ends
    let words := faultWords l.eff.fdom s.st.launch cause s.st.cell s.st.slot pc.toNat addr s.now
    s'.st = { s.st with
      status := .stopped, stepping := false, top := none, fcause := BitVec.ofNat 16 cause, fpc := pc, faddr := addr } ∧
    s'.st.inSlot = false ∧ s'.mem = s.mem ∧ s'.parked = s.parked ∧
    ((∀ e ∈ ends, e.fdom ≠ l.eff.fdom) → ∃ e, (s'.part s.st.part).ends = ends ++ [e] ∧ e.fdom = l.eff.fdom ∧ e.phase = 0 ∧
      e.uid = s.st.uid ∧ e.secondary = []) ∧
    ((∃ e ∈ ends, e.fdom = l.eff.fdom) → (s'.part s.st.part).ends = ends.map fun e =>
      if e.fdom = l.eff.fdom ∧ e.phase < 2 then { e with secondary := e.secondary ++ [words] } else e)) ∧
  (∀ (s : State) (w : Wait) (va acc : Nat),
    s.stop (.wait w) = { s with st := { s.st with status := .blocked w } } ∧
    (∃ id, (s.stop (.miss va acc)).st = { s.st with status := .blocked (.walk id va) } ∧ (s.stop (.miss va acc)).mem = s.mem
      ∧ (s.stop (.miss va acc)).parts = s.parts ∧ (s.stop (.miss va acc)).parked = s.parked
      ∧ ∃ k ∈ (s.stop (.miss va acc)).walks, k.id = id ∧ k.page = va / 65536 ∧ k.asid = s.st.asid ∧ k.die = dieOf s.st.cell))

/-- R220, R221, R222: `trap n` enters the handler with cause 0x8000 + n and the next instruction as `fault.pc`; `eret`
leaves it and goes on at `fault.pc`, whatever accesses are outstanding (R263), and outside a handler raises 0x0507; `bkpt` halts
the strand under a debugger and otherwise raises 0x0508. (A fault is taken once the vector instructions before it have executed
and no access before it may still fault, R131, R318: `State.faultTurn`.) -/
def Obligations.TrapReturnBreakpoint : Prop :=
  ∀ (s : State) (n : Int),
    (s.st.handler = true → s.st.loop.active = false →
      exec .eret s = .next { s with st := { s.st with handler := false, pc := s.st.fpc } }) ∧
    (s.faultTurn = true → exec (.trap n) s = .next (s.takeFault (0x8000 + n.toNat) s.st.npc 0)) ∧
    (s.faultTurn = true → s.st.handler = true → s.st.loop.active = false → exec .eret s = .next { s with st := { s.st with handler := false, pc := s.st.fpc } }) ∧
    (s.faultTurn = true → s.st.handler = false → s.st.loop.active = false → exec .eret s = .next (s.takeFault 0x0507 s.st.pc 0)) ∧
    (s.faultTurn = true → (s.part s.st.part).dbg.attach = true → ∃ t, exec .bkpt s = .next t ∧
      t.st = { s.st with pc := s.st.npc, status := .halted }) ∧
    (s.faultTurn = true → (s.part s.st.part).dbg.attach = false →
      exec .bkpt s = .next (s.takeFault 0x0508 s.st.npc (BitVec.ofNat 64 s.st.pc.toNat)))

/-- R22, R25, R106, R318, R319: the frame of the register-only instructions of the scalar stream. Either the
instruction stopped with no effect of its own, or everything but the strand in focus is as it was; and of the strand:
every general register but the destination with its tag, every vector and mask register, the vector configuration, the
fault registers, the handler bit and the identity are as they were; the control state changes by `sset` (and
`wdog.left` by `wdog`) alone, `ret.status` by a division alone. -/
def Obligations.ScalarFrame : Prop :=
  ∀ (s s' : State) (i : Instr) (d : Option SReg), registerOnly i = some d → exec i s = .next s' →
    (∃ e, s' = s.stop e) ∨
    ({ s' with st := s.st } = s ∧
      (∀ n : Fin 32, d ≠ some (.g n) → s'.st.g.get n = s.st.g.get n ∧ s'.st.gtag.get n = s.st.gtag.get n) ∧
      s'.st.v = s.st.v ∧ s'.st.vtag = s.st.vtag ∧ s'.st.m = s.st.m ∧ s'.st.vl = s.st.vl ∧ s'.st.fc = s.st.fc ∧
      s'.st.gc = s.st.gc ∧ s'.st.fcause = s.st.fcause ∧ s'.st.fpc = s.st.fpc ∧ s'.st.faddr = s.st.faddr ∧
      s'.st.handler = s.st.handler ∧ s'.st.rank = s.st.rank ∧ s'.st.lin = s.st.lin ∧ s'.st.gen = s.st.gen ∧
      s'.st.popId = s.st.popId ∧ s'.st.coord = s.st.coord ∧ s'.st.tag = s.st.tag ∧ s'.st.src = s.st.src ∧
      ((∀ sel a, i ≠ .sset sel a) → s'.st.trapv = s.st.trapv ∧ s'.st.wdog = s.st.wdog ∧ s'.st.rmode = s.st.rmode ∧
        s'.st.uab = s.st.uab ∧ ((∀ d, i ≠ .wdog d) → s'.st.wleft = s.st.wleft)) ∧
      ((∀ f d a b, i ≠ .div f d a b ∧ i ≠ .divn f d a b ∧ i ≠ .rem f d a b ∧ i ≠ .remn f d a b) →
        s'.st.rstat = s.st.rstat))

/-! ### The vector stream -/

/-- R126, R127: what the write of a destination group does: an active element receives its result, an inactive one
follows `mpol`, a tail one `tpol`; every register of the group takes the tag; no other register changes; with vl = 0
nothing does. -/
def Obligations.VectorWrite : Prop :=
  ∀ (t : Strand) (k : Keys) (eg reg : Nat) (f tag : Fmt) (act : Nat → Bool) (g : Nat → Nat),
    let w := f.bits
    let t' := t.vwrite k eg w reg tag act fun j => .new (g j) false
    reg + eg ≤ 32 →
    (t.vl = 0 → t' = t) ∧
    (t.vl ≠ 0 →
      (∀ j, j < eg * 512 / w → (t'.vsrc eg w reg).get j =
        if j < t.vl then (if act j then g j % 2 ^ w else if k.mz then 0 else (t.vsrc eg w reg).get j)
        else if k.tz then 0 else (t.vsrc eg w reg).get j) ∧
      (∀ r : Fin 32, reg ≤ r.val → r.val < reg + eg → t'.vtag.get r = tag)) ∧
    (∀ r : Fin 32, r.val < reg ∨ reg + eg ≤ r.val →
      t'.v.get r = t.v.get r ∧ t'.vtag.get r = t.vtag.get r ∧ t'.vpois.get r = t.vpois.get r) ∧
    { t' with v := t.v, vtag := t.vtag, vpois := t.vpois } = t

/-- R133: the integer element operations, wrapped or clamped under `.sat` (R52), with tag F. R107, R134: the bitwise
and shift element operations, bit by bit; a bitwise result has tag raw, a shift's has tag F, and the count is
width-only. -/
def Obligations.VectorIntegersAndBits : Prop :=
  (∀ (s : State) (c : VIn) (f : Fmt) (k : Keys) (d a : Fin 32) (b : Opnd) (i : Instr) (acc : Bool) (g : Int → Int → Int → Int),
    (i, acc, g) ∈ [(Instr.vadd f k d a b, false, fun x y _ => x + y), (.vsub f k d a b, false, fun x y _ => x - y),
      (.vmul f k d a b, false, fun x y _ => x * y), (.vmulh f k d a b, false, fun x y _ => x * y / 2 ^ f.bits),
      (.vmin f k d a b, false, fun x y _ => if x ≤ y then x else y), (.vminn f k d a b, false, fun x y _ => if x ≤ y then x else y),
      (.vmax f k d a b, false, fun x y _ => if x ≤ y then y else x), (.vmaxn f k d a b, false, fun x y _ => if x ≤ y then y else x),
      (.vmacc f k d a b, true, fun x y z => z + x * y)] →
    VectorReady i s c → ElementsOk c f k d a b (some f) (some f) (if acc then some f else none) acc →
    let eg := groupSize c.t k f f.bits
    let x j := f.intVal ((c.t.vsrc eg f.bits a).get j)
    let y j := f.intVal ((bRead c eg f.bits b).get j)
    let z j := f.intVal ((c.t.vsrc eg f.bits d).get j)
    WritesElements i s c f k d f fun j =>
      let r := g (x j) (y j) (z j)
      .new (((if k.sat then max f.minInt (min f.maxInt r) else r) % 2 ^ f.bits).toNat) false) ∧
  (∀ (s : State) (c : VIn) (f : Fmt) (k : Keys) (d a : Fin 32) (b : Opnd),
    let n := f.bits
    let eg := groupSize c.t k f n
    let x j (h : Nat) := bitAt ((c.t.vsrc eg n a).get j) h
    let y j := (bRead c eg n b).get j
    (∀ (i : Instr) (g : Bool → Bool → Bool),
      (i, g) ∈ [(Instr.vand f k d a b, fun p q => p && q), (.vor f k d a b, fun p q => p || q), (.vxor f k d a b, fun p q => p != q)] →
      VectorReady i s c → ElementsOk c f k d a b none none none false →
      ∃ r : Nat → Nat, WritesElements i s c f k d .raw (fun j => .new (r j) false) ∧
        ∀ j h, h < n → bitAt (r j) h = g (x j h) (bitAt (y j) h)) ∧
    (∀ (i : Instr) (m : Fin 3), (i, m) ∈ [(Instr.vshl f k d a b, 0), (.vshr f k d a b, 1), (.vsra f k d a b, 2)] →
      VectorReady i s c → ElementsOk c f k d a b (some f) none none false →
      ∃ r : Nat → Nat, WritesElements i s c f k d f (fun j => .new (r j) false) ∧
        ∀ j h, h < n → bitAt (r j) h =
          if m = 0 then decide (y j ≤ h) && x j (h - y j)
          else if m = 1 then decide (h + y j < n) && x j (h + y j)
          else if h + y j < n then x j (h + y j) else x j (n - 1)))

/-- R133, R135: `vabs`, `vwiden` (which reads at half the width) and `vnarrow` (which reads at twice the width and
shifts right by its count). R137, R143, R144: the special functions on FP32 elements, `vcvt` from the format that the
source's tag names (raw: from Fc), and `vdeq` from raw Q4 codes times an FP32 scale. -/
def Obligations.VectorWidthsAndConversions : Prop :=
  (∀ (s : State) (c : VIn) (f : Fmt) (k : Keys) (d a : Fin 32) (b : Opnd),
    let n := f.bits
    let eg := groupSize c.t k f n
    let act := c.t.activeAt k
    let put (v : Int) := ((if k.sat then max f.minInt (min f.maxInt v) else v) % 2 ^ n).toNat
    (VectorReady (.vabs f k d a) s c → SourceOk c eg n a (some f) act → GroupOk c.t eg n d →
      WritesElements (.vabs f k d a) s c f k d f fun j => .new (put (f.intVal ((c.t.vsrc eg n a).get j)).natAbs) false) ∧
    (∀ p, (f, p) ∈ [(Fmt.s16, Fmt.s8), (.s32, .s16), (.s64, .s32), (.n16, .n8), (.n32, .n16), (.raw, .n32)] →
      VectorReady (.vwiden f k d a) s c → SourceOk c (groupSize c.t k f p.bits) p.bits a (some p) act → GroupOk c.t eg n d →
      WritesElements (.vwiden f k d a) s c f k d f fun j =>
        .new (p.intVal ((c.t.vsrc (groupSize c.t k f p.bits) p.bits a).get j) % 2 ^ n).toNat false) ∧
    (∀ p, (f, p) ∈ [(Fmt.s8, Fmt.s16), (.s16, .s32), (.s32, .s64), (.n8, .n16), (.n16, .n32), (.n32, .raw)] →
      VectorReady (.vnarrow f k d a b) s c → SourceOk c (groupSize c.t k f p.bits) p.bits a (some p) act →
      OperandOk c eg n b none act → GroupOk c.t eg n d →
      WritesElements (.vnarrow f k d a b) s c f k d f fun j =>
        .new (put (p.intVal ((c.t.vsrc (groupSize c.t k f p.bits) p.bits a).get j) / 2 ^ (min ((bRead c eg n b).get j) (2 * n))))
          false)) ∧
  (∀ (s : State) (c : VIn) (f : Fmt) (r : Rnd) (k : Keys) (d a : Fin 32) (b : Opnd),
    let act := c.t.activeAt k
    let m := r.mode s.st.rmode
    (∀ (i : Instr) (g : Nat → Nat), (i, g) ∈ [(Instr.vexp2 k d a, exp2Code), (.vlog2 k d a, log2Code), (.vrcp k d a, rcpCode),
        (.vrsq k d a, rsqCode), (.vsigm k d a, sigmCode), (.vtanh k d a, tanhCode)] →
      let eg := groupSize c.t k .f32 32
      VectorReady i s c → SourceOk c eg 32 a (some .f32) act → GroupOk c.t eg 32 d →
      WritesElements i s c .f32 k d .f32 fun j => .new (g ((c.t.vsrc eg 32 a).get j)) false) ∧
    (VectorReady (.vcvt f r k d a) s c →
      let p := if c.t.vtag.get a = .raw then c.t.fc else c.t.vtag.get a
      let es := groupSize c.t k f p.bits
      SourceOk c es p.bits a (some p) act → GroupOk c.t (groupSize c.t k f f.bits) f.bits d →
      WritesElements (.vcvt f r k d a) s c f k d f fun j => .new (convert p f m k.sat ((c.t.vsrc es p.bits a).get j)) false) ∧
    (VectorReady (.vdeq f r k d a b) s c →
      let es := groupSize c.t k f 4
      (∀ n ∈ liveRegs c.t es 4 a, c.t.vtag[n]?.getD .raw = .raw) → SourceOk c es 4 a none act →
      GroupOk c.t (groupSize c.t k f f.bits) f.bits d → TagOk (some .f32) c.b → c.b.bad = false →
      WritesElements (.vdeq f r k d a b) s c f k d f fun j =>
        .new ((q4Value ((c.t.vsrc es 4 a).get j) (fdecode .f32 (c.b.val.toNat % 2 ^ 32))).toCode f m false) false))

/-- R69, R136: the floating-point element operations: exact values combined and rounded once, under the `rnd` key or
the rmode in force at issue. -/
def Obligations.VectorFloat : Prop :=
  ∀ (s : State) (c : VIn) (f : Fmt) (r : Rnd) (k : Keys) (d a : Fin 32) (b : Opnd),
    let eg := groupSize c.t k f f.bits
    let m := r.mode s.st.rmode
    let x j := (c.t.vsrc eg f.bits a).get j
    let y j := (bRead c eg f.bits b).get j
    let z j := (c.t.vsrc eg f.bits d).get j
    let e := fdecode f
    (∀ (i : Instr) (g : Nat → Nat), (i, g) ∈ [
        (Instr.vfadd f r k d a b, fun j => ((e (x j)).add m (e (y j))).toCode f m k.sat),
        (.vfsub f r k d a b, fun j => ((e (x j)).add m (e (y j)).neg).toCode f m k.sat),
        (.vfmul f r k d a b, fun j => ((e (x j)).mul (e (y j))).toCode f m k.sat),
        (.vfdiv f r k d a b, fun j => fdivCode f m k.sat (e (x j)) (e (y j))),
        (.vfmin f k d a b, fun j => fminCode f (x j) (y j)), (.vfmax f k d a b, fun j => fmaxCode f (x j) (y j))] →
      VectorReady i s c → ElementsOk c f k d a b (some f) (some f) none false →
      WritesElements i s c f k d f fun j => .new (g j) false) ∧
    (VectorReady (.vfma f r k d a b) s c → ElementsOk c f k d a b (some f) (some f) (some f) true →
      WritesElements (.vfma f r k d a b) s c f k d f fun j =>
        .new ((((e (x j)).mul (e (y j))).add m (e (z j))).toCode f m k.sat) false)

/-- R138, R139, R140: compares write one bit of md for each active element; `vsel` and the moves. R140: the permutes.
An active element that `vslide.up` gives no source keeps its value; `vslide.down` and `vperm` give 0 beyond vl;
`vcompress` packs the active elements and the rest of the group follows `tpol`. -/
def Obligations.VectorMovesAndPermutes : Prop :=
  (∀ (s : State) (c : VIn) (f : Fmt) (v : VCond) (u : FCond) (md : Fin 8) (k : Keys) (d a : Fin 32) (b : Opnd),
    let n := f.bits
    let eg := groupSize c.t k f n
    let act := c.t.activeAt k
    let x j := (c.t.vsrc eg n a).get j
    let y j := (bRead c eg n b).get j
    (VectorReady (.vcmp f v k md a b) s c → SourceOk c eg n a (some f) act → OperandOk c eg n b (some f) act →
      Becomes (.vcmp f v k md a b) s (c.t.mwrite k md act fun j => match v with
        | .eq => f.intVal (x j) = f.intVal (y j)
        | .ne => f.intVal (x j) ≠ f.intVal (y j)
        | .lt => f.intVal (x j) < f.intVal (y j)
        | .ge => f.intVal (y j) ≤ f.intVal (x j))) ∧
    (VectorReady (.vfcmp f u k md a b) s c → SourceOk c eg n a (some f) act → OperandOk c eg n b (some f) act →
      Becomes (.vfcmp f u k md a b) s (c.t.mwrite k md act fun j => fcmpHolds f u (x j) (y j))) ∧
    (VectorReady (.vsel f k d a b) s c → SourceOk c eg n a (some f) act → OperandOk c eg n b (some f) (fun j => !act j) →
      GroupOk c.t eg n d →
      Becomes (.vsel f k d a b) s (c.t.vwrite k eg n d f (fun _ => true) fun j => .new (if act j then x j else y j) false)) ∧
    (VectorReady (.vmv f k d b) s c → OperandOk c eg n b none act → GroupOk c.t eg n d →
      WritesElements (.vmv f k d b) s c f k d .raw fun j => .new (y j) false)) ∧
  (∀ (s : State) (c : VIn) (f : Fmt) (k : Keys) (d a b : Fin 32) (o : Opnd),
    let n := f.bits
    let eg := groupSize c.t k f n
    let act := c.t.activeAt k
    let x j := (c.t.vsrc eg n a).get j
    let off := c.b.val.toNat
    (VectorReady (.vslide f false k d a o) s c → GroupOk c.t eg n a → GroupOk c.t eg n d → c.b.bad = false →
      Clean (c.t.vsrc eg n a) c.t.vl (fun j => act (j + off)) →
      WritesElements (.vslide f false k d a o) s c f k d .raw fun j => if off ≤ j then .new (x (j - off)) false else .keep) ∧
    (VectorReady (.vslide f true k d a o) s c → GroupOk c.t eg n a → GroupOk c.t eg n d → c.b.bad = false →
      Clean (c.t.vsrc eg n a) c.t.vl (fun j => decide (off ≤ j) && act (j - off)) →
      WritesElements (.vslide f true k d a o) s c f k d .raw fun j =>
        if j + off < c.t.vl then .new (x (j + off)) false else .zero) ∧
    (VectorReady (.vperm f k d a b) s c → GroupOk c.t eg n a → SourceOk c eg n b none act → GroupOk c.t eg n d →
      Clean (c.t.vsrc eg n a) c.t.vl (fun j => (List.range c.t.vl).any fun h => act h && (c.t.vsrc eg n b).get h == j) →
      WritesElements (.vperm f k d a b) s c f k d .raw fun j =>
        if (c.t.vsrc eg n b).get j < c.t.vl then .new (x ((c.t.vsrc eg n b).get j)) false else .zero) ∧
    (VectorReady (.vcompress f k d a) s c → SourceOk c eg n a none act → GroupOk c.t eg n d →
      let kept := ((List.range c.t.vl).filter act).map x
      Becomes (.vcompress f k d a) s (if c.t.vl = 0 then c.t else c.t.fillGroup eg n d .raw fun j =>
        if h : j < kept.length then .new kept[j] false else if k.tz then .zero else .keep)))

/-- R70, R141, R142, R146: what reductions, `vdotx`, `mpop` and `mfirst` write to their scalar destination. R145:
`vprune4` keeps, of each eight elements, those that fewer than four others beat: by magnitude, or by a lower index
among equals. It packs them in order, and writes their places as four 3-bit fields of a 16-bit element, tag n16. -/
def Obligations.VectorReductionsAndPruning : Prop :=
  (∀ (s : State) (c : VIn) (f : Fmt) (r : Rnd) (k : Keys) (d : SReg) (a b : Fin 32) (o : Opnd) (md : Fin 8),
    let n := f.bits
    let eg := groupSize c.t k f n
    let act := c.t.activeAt k
    let m := r.mode s.st.rmode
    let x j := (c.t.vsrc eg n a).get j
    let y j := (c.t.vsrc eg n b).get j
    let live := (List.range c.t.vl).filter act
    let start := c.b.val.toNat % 2 ^ n
    let gives (i : Instr) (v : Nat) (tag : Fmt) := ∃ t', putReg c.t d (BitVec.ofNat 64 v) tag = .ok t' ∧ Becomes i s t'
    hasRoom c.t d = .ok () →
    (∀ (i : Instr) (v : Nat), (i, v) ∈ [
        (Instr.vredsum f r k d a o, if f.isFloat then (sumExact (fdecode f start :: live.map fun j => fdecode f (x j))).toCode f m false
          else f.put (f.intVal start + (live.map fun j => f.intVal (x j)).sum)),
        (.vredmax f k d a o, if f.isFloat then (live.map x).foldl (fmaxCode f) (fmaxCode f start start)
          else f.put ((live.map fun j => f.intVal (x j)).foldl max (f.intVal start))),
        (.vredmin f k d a o, if f.isFloat then (live.map x).foldl (fminCode f) (fminCode f start start)
          else f.put ((live.map fun j => f.intVal (x j)).foldl min (f.intVal start)))] →
      VectorReady i s c → SourceOk c eg n a (some f) act → TagOk (some f) c.b → c.b.bad = false → gives i v f) ∧
    (let tag : Fmt := if f.isFloat then .f32 else if f.isS then .s64 else .raw
     let reads : Bool := match d with
       | .g j => j ≠ 0
       | _ => false
     VectorReady (.vdotx f r k d a b) s c → SourceOk c eg n a (some f) act → SourceOk c eg n b (some f) act →
      (reads = true → TagOk (some tag) c.d ∧ c.d.bad = false) →
      gives (.vdotx f r k d a b) (if f.isFloat then
          (sumExact ((if reads then [fdecode .f32 (c.d.val.toNat % 2 ^ 32)] else [])
            ++ live.map fun j => (fdecode f (x j)).mul (fdecode f (y j)))).toCode .f32 m false
        else (((if reads then (c.d.val.toNat : Int) else 0) + (live.map fun j => f.intVal (x j) * f.intVal (y j)).sum)
          % 2 ^ 64).toNat) tag) ∧
    (VectorReady (.mpop d md) s c →
      gives (.mpop d md) ((List.range c.t.vl).countP fun j => (c.t.m.get md).getLsbD j) .raw) ∧
    (VectorReady (.mfirst d md) s c →
      (∀ j, j < c.t.vl → (c.t.m.get md).getLsbD j = true → (∀ h, h < j → (c.t.m.get md).getLsbD h = false) →
        gives (.mfirst d md) j .raw) ∧
      ((∀ j, j < c.t.vl → (c.t.m.get md).getLsbD j = false) → gives (.mfirst d md) (2 ^ 64 - 1) .raw))) ∧
  (∀ (s : State) (c : VIn) (f : Fmt) (k : Keys) (d a b : Fin 32),
    let w := f.bits
    let eg := groupSize c.t k f w
    let groups := (c.t.vl + 7) / 8
    let em := max 1 ((groups * 16 + 511) / 512)
    let x j := if j < c.t.vl then (c.t.vsrc eg w a).get j else 0
    let beats (g h j : Nat) : Bool := magGreater f (x (8 * g + h)) (x (8 * g + j))
      || (h < j && !magGreater f (x (8 * g + j)) (x (8 * g + h)))
    let kept (g : Nat) := (List.range 8).filter fun j => (List.range 8).countP (fun h => beats g h j) < 4
    let fill (l : List Nat) (j : Nat) : Fill := if h : j < l.length then .new l[j] false else if k.tz then .zero else .keep
    VectorReady (.vprune4 f k d a b) s c → SourceOk c eg w a (some f) (fun _ => true) → b.val % em = 0 → GroupOk c.t eg w d →
    (b.val + em ≤ d.val ∨ d.val + eg ≤ b.val) →
    Becomes (.vprune4 f k d a b) s (if c.t.vl = 0 then c.t else
      (c.t.fillGroup eg w d f (fill ((List.range groups).flatMap fun g => (kept g).map fun j => x (8 * g + j)))).fillGroup
        em 16 b .n16 (fill ((List.range groups).map fun g =>
          let p (q : Nat) := (kept g).getD q 0
          p 0 + p 1 * 2 ^ 3 + p 2 * 2 ^ 6 + p 3 * 2 ^ 9))))

/-- R125: `vsetvl` and `vsetvli` grant min(len, min(512, G × 512 / ew(F))) elements; an invalid configuration word
raises 0x0213 with itself as `fault.addr` and changes no configuration. R138, R146: the mask instructions, bit by bit.
Below vl the result; from vl on kept, or zero under `tpol=zero`; m0 discards; `mset` writes its whole mask whatever vl
is. -/
def Obligations.VectorConfigurationAndMasks : Prop :=
  (∀ (s : State) (c : VIn) (f : Fmt) (grp : Grp) (d : SReg) (a b : Opnd),
    hasRoom c.t d = .ok () → c.a.bad = false → c.b.bad = false →
    let grant (i : Instr) (g : Fmt) (size : Nat) (len : Word) :=
      let vl := min len.toNat (min 512 (size * 512 / g.bits))
      ∃ t', putReg { c.t with fc := g, gc := size, vl := vl } d (BitVec.ofNat 64 vl) .raw = .ok t' ∧ Becomes i s t'
    (VectorReady (.vsetvl d a b) s c →
      let w := c.b.val
      if w >>> 10 ≠ 0 ∨ w.extractLsb' 4 4 ≠ 0 ∨ 14 ≤ (w.extractLsb' 0 4).toNat then
        exec (.vsetvl d a b) s = .next (s.takeFault 0x0213 s.st.pc w)
      else grant (.vsetvl d a b) (Fmt.ofCode (w.extractLsb' 0 4).toNat) (2 ^ (w.extractLsb' 8 2).toNat) c.a.val) ∧
    (VectorReady (.vsetvli f grp d b) s c →
      grant (.vsetvli f grp d b) f (match grp with
        | .g1 => 1
        | .g2 => 2
        | .g4 => 4
        | .g8 => 8) c.b.val)) ∧
  (∀ (s : State) (c : VIn) (k : Keys) (d a b : Fin 8) (o : Opnd),
    let x h := (c.t.m.get a).getLsbD h
    let y h := (c.t.m.get b).getLsbD h
    let sets (i : Instr) (g : Nat → Bool) := ∃ w : BitVec 512, Becomes i s { c.t with m := c.t.m.set d w } ∧
      (d = 0 → w = c.t.m.get 0) ∧ (d ≠ 0 → ∀ h, h < 512 → w.getLsbD h = g h)
    (∀ (i : Instr) (g : Nat → Bool), (i, g) ∈ [(Instr.mand k d a b, fun h => x h && y h), (.mor k d a b, fun h => x h || y h),
        (.mxor k d a b, fun h => x h != y h), (.mnot k d b, fun h => !y h)] →
      VectorReady i s c →
      sets i fun h => if h < c.t.vl then g h else if k.tz && c.t.vl ≠ 0 then false else (c.t.m.get d).getLsbD h) ∧
    (VectorReady (.mset d o) s c → c.b.bad = false → sets (.mset d o) fun h => h < c.b.val.toNat))

/-- R12, R147: a vector load reads element j, at the address its form gives it, when every active element is aligned
and permitted; inactive elements are not accessed. A vector store writes the active elements in ascending order and
counts as a writing instruction. (That a strided or indexed h4 element is nibble j mod 2 of its byte, and that an h4 store keeps
the other nibble, are the model's choices, log entries 103 and 74.) R148: `vldff` takes the fault of element 0; a later active element at fault makes vl
its index, and the elements below it are loaded. -/
def Obligations.VectorMemory : Prop :=
  (∀ (s : State) (c : VIn) (f : Fmt) (k : Keys) (d n : Fin 32) (base : Base) (e : Int) (o : Opnd) (loc : Nat → Loc),
    let eg := groupSize c.t k f f.bits
    let act := c.t.activeAt k
    let size := max 1 (f.bits / 8)
    let index := c.t.vsrc (groupSize c.t k f 32) 32 n
    let run (st : Bool) (i : Instr) (g : Nat → Word) (done : Prop) : Prop :=
      VectorReady i s c → GroupOk c.t eg f.bits d → c.a.bad = false → Quiet s → (∀ y ∈ s.accs, y.uid ≠ s.st.uid) →
      (∀ j, j < c.t.vl → act j = true →
        let va := c.t.uab.toNat * 2 ^ 64 + (c.a.val + g j).toNat
        va % size = 0 ∧ s.locate c.t va (if st then 1 else 0) (!st) st false = .ok (loc j)
          ∧ s.pairBusy c.t.cell (loc j).pa = false ∧ s.remote (loc j).pa = false) → done
    let byIndex := SourceOk c (groupSize c.t k f 32) 32 n (some .n32) act
    let got (j : Nat) : Fill := .new (if f = .h4 then (memRead s.mem (loc j).pa 1) / 16 ^ (j % 2) % 16
      else memRead s.mem (loc j).pa size) false
    let loads (i : Instr) := WritesElements i s c f k d f got
    let unit (j : Nat) : Word := BitVec.ofInt 64 (e + ((j * f.bits / 8 : Nat) : Int))
    let stride (j : Nat) : Word := BitVec.ofNat 64 j * c.b.val
    let idx (j : Nat) : Word := BitVec.ofNat 64 (index.get j)
    let x j := (c.t.vsrc eg f.bits d).get j
    let put (m : List Host.Cell) (j : Nat) : List Host.Cell := memWrite m (loc j).pa size (if f = .h4 then
        (let old := memRead m (loc j).pa 1
         if j % 2 = 0 then old / 16 * 16 + x j else old % 16 + 16 * x j)
      else x j)
    let stores (i : Instr) : Prop := GroupTagsOk c.t eg f.bits d f → Clean (c.t.vsrc eg f.bits d) c.t.vl act →
      (∀ j, j < c.t.vl → act j = true → Unwatched s (loc j)) →
      exec i s = .next ({ s with
        mem := ((List.range c.t.vl).filter act).foldl put s.mem
        st := { c.t with wcount := c.t.wcount + 1 } }.finish.markSequencer s.st.cell)
    run false (.vld f k d base e) unit (loads (.vld f k d base e)) ∧
    (c.b.bad = false → run false (.vlds f k d base o) stride (loads (.vlds f k d base o))) ∧
    (byIndex → run false (.vldx f k d base n) idx (loads (.vldx f k d base n))) ∧
    run true (.vst f k d base e) unit (stores (.vst f k d base e)) ∧
    (c.b.bad = false → run true (.vsts f k d base o) stride (stores (.vsts f k d base o))) ∧
    (byIndex → run true (.vstx f k d base n) idx (stores (.vstx f k d base n)))) ∧
  (∀ (s : State) (c : VIn) (f : Fmt) (k : Keys) (d : Fin 32) (base : Base) (e : Int) (loc : Nat → Loc) (m : Nat),
    let i := Instr.vldff f k d base e
    let size := max 1 (f.bits / 8)
    let va (j : Nat) := c.t.uab.toNat * 2 ^ 64 + (c.a.val + BitVec.ofInt 64 (e + ((j * f.bits / 8 : Nat) : Int))).toNat
    let good (j : Nat) := va j % size = 0 ∧ ∃ g, s.tlbFind c.t.cell c.t.asid (va j) = some g
      ∧ s.permit c.t.part g (va j) true false false = .ok (loc j) ∧ s.pairBusy c.t.cell (loc j).pa = false ∧ s.remote (loc j).pa = false
    let got (j : Nat) : Fill := .new (if f = .h4 then (memRead s.mem (loc j).pa 1) / 16 ^ (j % 2) % 16
      else memRead s.mem (loc j).pa size) false
    VectorReady i s c → GroupOk c.t (groupSize c.t k f f.bits) f.bits d → c.a.bad = false → Quiet s →
    (∀ y ∈ s.accs, y.uid ≠ s.st.uid) →
    (c.t.vl ≠ 0 → c.t.activeAt k 0 = true → va 0 % size ≠ 0 →
      exec i s = .next (s.takeFault 0x0301 s.st.pc (BitVec.ofNat 64 (va 0 % 2 ^ 64)))) ∧
    ((∀ j, j < c.t.vl → c.t.activeAt k j = true → good j) → WritesElements i s c f k d f got) ∧
    (∀ g, 0 < m → m < c.t.vl → c.t.activeAt k m = true → s.tlbFind c.t.cell c.t.asid (va m) = some g →
      (g.r = false ∨ s.mayName c.t.part (g.pa + va m % 2 ^ g.log) = false) →
      (∀ j, j < m → c.t.activeAt k j = true → good j) →
      let t := { c.t with vl := m }
      Becomes i s (t.vwrite k (groupSize c.t k f f.bits) f.bits d f (t.activeAt k) got)))

/-- R149, R150, R151: `vrep` with its body fetched and allowed. A count of 0 goes past the body; another enters the body
whole, with the loop state, when its entries are free at once, and the scalar stream goes on after the body; else the
strand waits. A body that cannot be decoded or is not allowed faults at the vrep with the address of the word. With its count in
a queue that holds none for it yet the body enters and waits, and the scalar stream, which pushes the count, goes on (R23, R128);
SEQUENCER_EXECUTE takes the count when it is there. SEQUENCER_EXECUTE
executes the body instruction that is due and makes the next one due: the body's instructions in order, and the body as often
as the count says. A fault inside a body leaves the loop suspended, with the `vrep` as the PC and the scalar stream's PC kept,
and is taken with the body instruction's address. (A `vrep` while a loop is suspended raises 0x0212 and names itself, and one
while a loop runs waits: the model's choice, log entry 104.) -/
def Obligations.VectorLoops : Prop :=
  (∀ (s s1 : State) (k : Fin 15) (c : SReg) (x : Src) (t : Strand) (es : List VEntry) (fin : Nat),
    let i := Instr.vrep k c
    let free := s.st.loop.suspended = false ∧ s.st.loop.active = false ∧ hazard i s = false ∧
      vectorMisuse (some (.reg c)) = none
    (s.st.loop.suspended = true → s.faultTurn = true → exec i s = .next (s.takeFault 0x0212 s.st.pc (s.st.pc.zeroExtend 64))) ∧
    (s.st.loop.suspended = false → s.st.loop.active = true →
      exec i s = .next { s with st := { s.st with status := .blocked .issue } }) ∧
    (∀ cause addr, free → s.faultTurn = true → fetchBody s s.st.npc.toNat s.st.vnum (k.val + 1) = .error (.trap cause addr) →
      exec i s = .next (s.takeFault cause s.st.pc (BitVec.ofNat 64 addr))) ∧
    (free → fetchBody s s.st.npc.toNat s.st.vnum (k.val + 1) = .ok (es, fin, s1) →
      (∀ e ∈ es, hazard e.ins s = false ∧ tilesClear s.st e.ins = .ok ()) →
      (∀ n : Fin 4, c = .q (n.castLE (by decide)) →
        (∃ e ∈ s.st.vq, e.pops c = true) ∨ s.st.q.get (n.castLE (by decide)) = [] →
        (s1.seqCount s1.st.cell + es.length ≤ 16 → exec i s = .next { s1 with st := { s1.st with
          vq := s1.st.vq ++ es, vnum := s1.st.vnum + es.length, lbody := [], pc := BitVec.ofNat 40 fin
          loop := ⟨true, false, s.st.pc, k.val + 1, 0, 0, 0, none, some n⟩ } }) ∧
        (16 < s1.seqCount s1.st.cell + es.length →
          exec i s = .next { s with st := { s.st with status := .blocked .issue } })) ∧
      ((∀ e ∈ s.st.vq, e.pops c = false) → takeReg s s.st c = .ok (x, t) → x.bad = false →
      es.length = k.val + 1 ∧ (∀ e ∈ es, bodyAllowed e.ins = true ∧ e.body = true) ∧
      (x.val = 0 → exec i s = .next { s1 with st := { t with pc := BitVec.ofNat 40 fin } }) ∧
      (x.val ≠ 0 → { s1 with st := t }.seqCount s.st.cell + (k.val + 1) ≤ 16 →
        t.cell = s.st.cell ∧ exec i s = .next { s1 with st := { t with
          vq := t.vq ++ es, vnum := t.vnum + (k.val + 1), lbody := [], pc := BitVec.ofNat 40 fin
          loop := ⟨true, false, s.st.pc, k.val + 1, x.val, 0, 0, none, none⟩ } }) ∧
      (x.val ≠ 0 → 16 < { s1 with st := t }.seqCount s.st.cell + (k.val + 1) →
        exec i s = .next { s with st := { s.st with status := .blocked .issue } })))) ∧
  (∀ (s s1 : State) (h e : VEntry) (r : List VEntry),
    let l := s.st.loop
    s.st.vq = h :: r → h.body = true → s.st.vq[l.idx]? = some e → e.body = true → (∀ y ∈ s.st.vq, y.started = false) →
    e.walk = none → s.parked = [] → s.st.status = .ready → s.st.stepping = false → s.async = false →
    (∀ y ∈ s.accs, y.uid ≠ s.st.uid) → s.st.saves = [] →
    (∀ (n : Fin 4) (x : QVal) (q : List QVal), l.due = some n → s.st.q.get (n.castLE (by decide)) = x :: q → x.bad = false →
      ∃ s', exec (.sequencerExecute s.st.cell) s = .next s' ∧ s'.mem = s.mem ∧ s'.st.g = s.st.g ∧ s'.st.pc = s.st.pc ∧
        s'.st.q = s.st.q.set (n.val) q (by omega) ∧
        (if x.val = 0 then s'.st.loop = Loop.idle ∧ ∀ y ∈ s'.st.vq, y.body = false
         else s'.st.loop = { l with count := x.val, due := none } ∧ s'.st.vq.length = s.st.vq.length)) ∧
    (l.due = none → runEntry s e = .ok s1 → s1.st.loop = l → s1.st.vq = s.st.vq → s1.st.stepping = false →
      ∃ s', exec (.sequencerExecute s.st.cell) s = .next s' ∧ s'.mem = s1.mem ∧ s'.st.v = s1.st.v ∧ s'.st.m = s1.st.m ∧
        s'.st.g = s1.st.g ∧ s'.st.q = s1.st.q ∧ s'.st.pc = s1.st.pc ∧
        (if l.idx + 1 < l.k then s'.st.loop = { l with idx := l.idx + 1 } ∧ s'.st.vq.length = s.st.vq.length
         else if l.iter + 1 = l.count then s'.st.loop = Loop.idle ∧ s'.st.vq.length = s.st.vq.length - l.k
         else s'.st.loop = { l with idx := 0, iter := l.iter + 1 } ∧ s'.st.vq.length = s.st.vq.length)) ∧
    (∀ cause addr, l.due = none → (∀ y ∈ s.st.vq, y.body = true) → runEntry s e = .error (.trap cause addr) →
      exec (.sequencerExecute s.st.cell) s = .next (State.takeFault { s with st := { s.st with
        lbody := s.st.vq.map VEntry.fresh, vq := [], pc := l.pc, status := .ready
        loop := { l with active := false, suspended := true, srpc := some s.st.pc } } } cause e.pc (BitVec.ofNat 64 addr))))

/-! ### Memory -/

/-- R7: bytes of a number are stored little-endian: after a write each byte of the written span holds its byte of the
value, and every other byte is as it was; memory stays in its canonical form, and a read of the span gives the value.
-/
def Obligations.ReadAfterWrite : Prop :=
  ∀ (m : List Host.Cell) (a n x b : Nat), memWf m = true →
    let m' := memWrite m a n x
    (a ≤ b → b < a + n → memGet m' b = BitVec.ofNat 8 (x / 256 ^ (b - a) % 256)) ∧
    (b < a ∨ a + n ≤ b → memGet m' b = memGet m b) ∧
    memWf m' = true ∧ memRead m' a n = x % 256 ^ n

/-- R174, R177, R178, R179: `ld`, `ldc` and `st` when their access goes ahead at once: the value loaded, sign- or
zero-extended with tag F; the bytes stored; and what the ldc caches give and keep. No other byte of memory and no
other register changes; a hit in an ldc cache changes nothing but the strand's mark of the fill that it has seen, and no line
filled before that answers it any more. R259, R261: an access that has to wait for its turn at
its home is sent on its way, and the strand goes on. R174: a misaligned scalar access raises 0x0301 with the address, and an
access with no translation blocks the strand on the walk of its page (R321, R334): neither has another effect. -/
def Obligations.LoadsAndStores : Prop :=
  (∀ (s : State) (f : Fmt) (d : SReg) (base : Base) (e : Int) (x z : Src) (t1 t t' : Strand) (loc : Loc),
    (AccessReady (.ld f d base e) s base e f.size 0 true false x t t loc → misuseWrite d = none → hasRoom t d = .ok () →
      putReg t d (BitVec.ofNat 64 (f.extend (memRead s.mem loc.pa f.size))) f = .ok t' →
      exec (.ld f d base e) s = .next (s.done t')) ∧
    (AccessReady (.ldc f d base e) s base e f.size 0 true false x t t loc → misuseWrite d = none → hasRoom t d = .ok () →
      s.st.status ≠ .free →
      let line := loc.pa / 64
      let since := Tab.get s.st.ldcSeen 0 line
      let mark := s.ldcStamp t.cell line since
      let value (bytes : List Byte) := BitVec.ofNat 64 (f.extend (lineValue bytes (loc.pa % 64) f.size))
      (∀ bytes, s.ldcLine t.cell line since = some bytes → s.ldcFlawed t.cell line since = false →
        putReg { t with ldcSeen := Tab.set t.ldcSeen line mark } d (value bytes) f = .ok t' → since ≤ mark ∧
        exec (.ldc f d base e) s = .next (s.done t')) ∧
      (s.ldcLine t.cell line since = none → s.ldcFlawed t.cell line since = false →
        putReg ((s.ldcFill t.cell line (memBytes s.mem (line * 64) 64)).seenBy t t.cell loc.pa) d
          (value (memBytes s.mem (line * 64) 64)) f = .ok t' →
        exec (.ldc f d base e) s = .next ((s.ldcFill t.cell line (memBytes s.mem (line * 64) 64)).done t'))) ∧
    (AccessReady (.st f d base e) s base e f.size 1 false true x t1 t loc → Unwatched s loc → misuseRead d = none →
      takeReg s t1 d = .ok (z, t) → TagOk (some f) z → z.bad = false →
      exec (.st f d base e) s = .next ({ s with mem := memWrite s.mem loc.pa f.size (z.val.toNat % 2 ^ f.bits) }.done
        { t with wcount := t.wcount + 1 }))) ∧
  (∀ (s : State) (f : Fmt) (d : SReg) (base : Base) (e : Int) (x : Src) (t : Strand),
    let va := accessVa t x.val e
    hazard (.ld f d base e) s = false → s.st.loop.active = false → baseMisuse base = none → misuseWrite d = none →
    s.faultTurn = true →
    takeBase s s.st base = .ok (x, t) → hasRoom t d = .ok () →
    (va % f.size ≠ 0 → exec (.ld f d base e) s = .next (s.takeFault 0x0301 s.st.pc (x.val + BitVec.ofInt 64 e))) ∧
    (va % f.size = 0 → s.tlbFind t.cell t.asid va = none →
      ∃ s', exec (.ld f d base e) s = .next s' ∧ s'.mem = s.mem ∧ s'.parts = s.parts ∧ s'.parked = s.parked ∧
        (∃ id, s'.st = { s.st with status := .blocked (.walk id va) } ∧ ∃ w ∈ s'.walks, w.id = id ∧ w.page = va / 65536)) ∧
    (∀ g, va % f.size = 0 → s.tlbFind t.cell t.asid va = some g →
      (g.r = false ∨ s.mayName t.part (g.pa + va % 2 ^ g.log) = false) →
      exec (.ld f d base e) s = .next (s.takeFault 0x0303 s.st.pc (x.val + BitVec.ofInt 64 e))) ∧
    (∀ loc, va % f.size = 0 → s.locate t va 0 true false false = .ok loc → x.bad = false →
      s.mustQueue t (.ld f d base e) loc.pa = true →
      exec (.ld f d base e) s = .next ({ s with
        accs := s.accs ++ [({
          id := s.nextId, uid := t.uid, cell := t.cell, pc := s.st.pc, ckpt := s.st.checkpoint, ins := .ld f d base e, va := va
          pa := loc.pa, b := 0, d := 0, watched := loc.watched, wno := t.wcount, wop := t.wops, after := t.vnum
          done := false, doneAt := 0, res := 0, rstat := none, poison := false, fault := none, walk := none } : Access)]
        nextId := s.nextId + 1 }.done t)))

/-- R174, R182, R183, R184, R185: an atomic returns the old value with tag F, writes the new one, and `acas` and
`bfadd` report in `ret.status` whether they wrote. -/
def Obligations.Atomics : Prop :=
  ∀ (s : State) (f : Fmt) (d : SReg) (base : Base) (b : Opnd) (x y z : Src) (t1 t t' : Strand) (loc : Loc) (i : Instr)
    (checkB readsD checkD : Bool) (new : Option Int) (status : Option Nat),
    let old := memRead s.mem loc.pa f.size
    let o := f.intVal old
    let p := f.intVal y.val.toNat
    let q := f.intVal z.val.toNat
    (i, checkB, readsD, checkD, new, status) ∈ [
      (Instr.aadd f d base b, true, false, false, some (o + p), none),
      (.aand f d base b, false, false, false, some (Nat.land o.toNat p.toNat), none),
      (.aor f d base b, false, false, false, some (Nat.lor o.toNat p.toNat), none),
      (.axor f d base b, false, false, false, some (Nat.xor o.toNat p.toNat), none),
      (.amin f d base b, true, false, false, some (min o p), none),
      (.amax f d base b, true, false, false, some (max o p), none),
      (.axchg f d base b, false, false, false, some p, none),
      (.acas f d base b, false, true, false, if o = q then some p else none, some (if o = q then 1 else 0)),
      (.incw f d base b, true, false, false, some (if p ≤ o then 0 else o + 1), none),
      (.bfadd f d base b, true, true, true, if o ≤ p ∧ q ≤ p - o then some (o + q) else none,
        some (if o ≤ p ∧ q ≤ p - o then 1 else 0))] →
    AccessReady i s base 0 f.size 3 true true x t1 t loc → Unwatched s loc →
    OperandsReady s d b readsD (if checkB then some f else none) (if checkD then some f else none) t1 y z t →
    putReg { t with wcount := t.wcount + 1 } d (BitVec.ofNat 64 (f.extend old)) f = .ok t' →
    exec i s = .next ({ s with mem := match new with
        | some v => memWrite s.mem loc.pa f.size (v % 2 ^ f.bits).toNat
        | none => s.mem }.done (match status with
          | some n => { t' with rstat := BitVec.ofNat 64 n }
          | none => t'))

/-- R58, R59, R60, R186, R187: `xred` adds a term to a 256-bit XA word: the exact value truncated to units of 2^-96,
with the range-lost and nan-seen flags and the saturating count; `xrd` reads the word out rounded once and reports the
flags; a malformed word raises 0x0310 and stays as it is. -/
def Obligations.ExactReductions : Prop :=
  ∀ (s : State) (f : Fmt) (r : Rnd) (d : SReg) (base : Base) (b : Opnd) (e : Int) (x y : Src) (t1 t t' : Strand) (loc : Loc),
    let old := memRead s.mem loc.pa 32
    let sum : Int := if old / 2 ^ 255 % 2 = 1 then (old / 2 ^ 64 % 2 ^ 192 : Nat) - 2 ^ 192 else (old / 2 ^ 64 % 2 ^ 192 : Nat)
    let lost := bitAt old 63
    let nan := bitAt old 62
    let count := old % 2 ^ 48
    let wellFormed := old / 2 ^ 48 % 2 ^ 14 = 0
    (AccessReady (.xred f base b) s base 0 32 3 false true x t1 t loc → Unwatched s loc → opMisuse b = none →
      takeOp s t1 b = .ok (y, t) → TagOk (some f) y → y.bad = false →
      (wellFormed →
        let v := valueOf f (y.val.toNat % 2 ^ f.bits)
        let n := min (count + 1) (2 ^ 48 - 1)
        let new := if v.isNan then xaJoin sum lost true n else match xaTerm v with
          | none => xaJoin sum true nan n
          | some w => xaJoin (sum + w) lost nan n
        exec (.xred f base b) s = .next ({ s with mem := memWrite s.mem loc.pa 32 new }.done
          { t with wcount := t.wcount + 1 })) ∧
      (¬wellFormed → exec (.xred f base b) s = .next (s.takeFault 0x0310 s.st.pc x.val))) ∧
    (AccessReady (.xrd f r d base e) s base e 32 3 true false x t t loc →
      (s.part s.st.part).log.window loc.pa = none → misuseWrite d = none → hasRoom t d = .ok () → wellFormed →
      let c := xaRead f (r.mode s.st.rmode) sum (lost || nan)
      putReg t d (BitVec.ofNat 64 (if f.isInt then f.extend c else c)) f = .ok t' →
      exec (.xrd f r d base e) s = .next (s.done { t' with rstat := BitVec.ofNat 64 (bitOf lost + 2 * bitOf nan) }))

/-- R180, R181: `fence` waits for the strand's stores and home operations (rel), for its loads and home operations (acq), or
for both (full), and for its vector accesses; then all but rel empty the ldc caches of its scope. `inv` drops one line, as the
translation in force names it, from the caches of its scope and from the fetch path; neither changes memory or a register.
R149: both wait while a `vrep` loop runs. The model's own choice: the fetch path's lines are held by ASID and virtual address
(log entry 73). -/
def Obligations.FencesAndInvalidation : Prop :=
  ∀ (s : State) (kind : FenceKind) (sc : Scope) (b : SReg) (x : Src) (t : Strand),
    let reach : Bool × Bool := match sc with
      | .strand => (false, false)
      | .cell => (true, false)
      | _ => (true, true)
    let waits (i : Instr) := exec i s = .next { s with st := { s.st with status := .blocked .issue } }
    let stores := ∃ y ∈ s.accs, y.uid = s.st.uid ∧ (y.done = false ∨ y.fault.isSome = true) ∧ isLoad y.ins = false
    let loads := ∃ y ∈ s.accs, y.uid = s.st.uid ∧ isStore y.ins = false
    (s.st.loop.active = true ∨ (∃ e ∈ s.st.vq, isVectorMem e.ins = true) → waits (.fence kind sc)) ∧
    (s.st.loop.active = false → (∀ e ∈ s.st.vq, isVectorMem e.ins = false) → (∀ t ∈ s.parked, t.uid ≠ s.st.uid) →
      ((kind ≠ .acq ∧ stores) ∨ (kind ≠ .rel ∧ loads) → waits (.fence kind sc)) ∧
      ((kind = .acq ∨ ¬stores) → (kind = .rel ∨ ¬loads) →
        exec (.fence kind sc) s = .next { (if kind = .rel then s else s.dropLdc s.st.cell reach) with
          st := { s.st with pc := s.st.npc } })) ∧
    (s.st.loop.active = true ∨ hazard (.inv sc b) s = true → waits (.inv sc b)) ∧
    (s.st.loop.active = false → hazard (.inv sc b) s = false → misuseRead b = none → takeReg s s.st b = .ok (x, t) →
      x.bad = false → exec (.inv sc b) s = .next ((s.dropLine t x.val.toNat reach).done t)) ∧
    (∀ (cell : Nat) (r : Bool × Bool),
      let s' := s.dropLdc cell r
      (s'.cell cell).ldc = (if r.1 then [] else (s.cell cell).ldc) ∧
      (s'.cluster (clusterOf cell)).ldc = (if r.2 then [] else (s.cluster (clusterOf cell)).ldc) ∧
      (∀ c, c ≠ cell → s'.cell c = s.cell c) ∧ (∀ k, k ≠ clusterOf cell → s'.cluster k = s.cluster k) ∧
      s'.mem = s.mem ∧ s'.st = s.st ∧ s'.parts = s.parts) ∧
    (∀ (t : Strand) (a : Nat) (r : Bool × Bool) (g : TlbEntry),
      let va := t.uab.toNat * 2 ^ 64 + a
      let line := (g.pa + va % 2 ^ g.log) / 64
      let s' := s.dropLine t a r
      s.tlbFind t.cell t.asid va = some g →
      (s'.cell t.cell).ldc = (if r.1 then Tab.erase (s.cell t.cell).ldc line else (s.cell t.cell).ldc) ∧
      (s'.cluster (clusterOf t.cell)).ldc =
        (if r.2 then Tab.erase (s.cluster (clusterOf t.cell)).ldc line else (s.cluster (clusterOf t.cell)).ldc) ∧
      (s'.cell t.cell).fetch = Tab.erase (s.cell t.cell).fetch (t.asid * 2 ^ 64 + a / 64) ∧
      (∀ c, c ≠ t.cell → s'.cell c = s.cell c) ∧ (∀ k, k ≠ clusterOf t.cell → s'.cluster k = s.cluster k) ∧
      s'.mem = s.mem ∧ s'.st = s.st ∧ s'.parts = s.parts)

/-! ### Rings, barriers, events, messages -/

/-- R188, R189: `enq` and `deq` on a ring block: full and empty give status 1 and change no memory; otherwise the
element moves and its index advances. A malformed block raises 0x0311. R190, R191, R192: `barm`, `bput` and `btake` on
a barrier object. The home serves the first waiter whose phase is the object's while there are tokens: a served waiter takes a
token and turns the phase. `bput` waits for the strand's stores, adds a token, and the waiters that it serves are served at
once. A `btake` joins the waiters; if that serves it at once it completes, and otherwise its strand blocks. A malformed object
raises 0x0312. -/
def Obligations.RingsAndBarriers : Prop :=
  (∀ (s : State) (d : SReg) (base : Base) (b : Opnd) (x y : Src) (t1 t t' : Strand) (pa : Nat) (q : Loc),
    let w := memRead s.mem pa 32
    let head := w % 2 ^ 64
    let tail := w / 2 ^ 64 % 2 ^ 64
    let cap := w / 2 ^ 128 % 2 ^ 32 + 1
    let size := 2 ^ (w / 2 ^ 160 % 4)
    let ring := w / 2 ^ 192 % 2 ^ 64
    let n := (tail + 2 ^ 64 - head) % 2 ^ 64
    let wellFormed := w / 2 ^ 162 % 2 ^ 30 = 0 ∧ (∃ j, cap = 2 ^ j) ∧ ring % size = 0 ∧ n ≤ cap
    let slot (j : Nat) := t.uab.toNat * 2 ^ 64 + (ring + j % cap * size) % 2 ^ 64
    misuseWrite d = none → hasRoom t d = .ok () → NoWatch s pa 32 →
    (RecordAt (.enq d base b) s base 32 3 true true x t1 t pa → opMisuse b = none → takeOp s t1 b = .ok (y, t) → y.bad = false →
      (s.async = true → ∃ o, exec (.enq d base b) s = .next (s.sendAccess t (.enq d base b) ⟨pa, o⟩ (accessVa t x.val 0) y.val 0)) ∧
      (s.async = false → ¬wellFormed → exec (.enq d base b) s = .next (s.takeFault 0x0311 s.st.pc x.val)) ∧
      (s.async = false → wellFormed → putReg t d (BitVec.ofNat 64 tail) .raw = .ok t' →
        (n = cap → exec (.enq d base b) s = .next (s.done { t' with rstat := 1 })) ∧
        (n ≠ cap → s.locate t (slot tail) 3 false true false = .ok q → s.remote q.pa = false →
          Unloaded s q.pa size →
          exec (.enq d base b) s = .next ({ s with
            mem := memWrite (memWrite s.mem q.pa size (y.val.toNat % 2 ^ (8 * size))) (pa + 8) 8 ((tail + 1) % 2 ^ 64) }.done
            { t' with rstat := 0 })))) ∧
    (RecordAt (.deq d base) s base 32 3 true true x t t pa →
      (s.async = true → ∃ o, exec (.deq d base) s = .next (s.sendAccess t (.deq d base) ⟨pa, o⟩ (accessVa t x.val 0) 0 0)) ∧
      (s.async = false → ¬wellFormed → exec (.deq d base) s = .next (s.takeFault 0x0311 s.st.pc x.val)) ∧
      (s.async = false → wellFormed →
        (n = 0 → putReg t d 0 .raw = .ok t' → exec (.deq d base) s = .next (s.done { t' with rstat := 1 })) ∧
        (n ≠ 0 → s.locate t (slot head) 3 true false false = .ok q → s.remote q.pa = false →
          putReg t d (BitVec.ofNat 64 (memRead s.mem q.pa size)) .raw = .ok t' →
          exec (.deq d base) s = .next ({ s with mem := memWrite s.mem pa 8 ((head + 1) % 2 ^ 64) }.done
            { t' with rstat := 0 }))))) ∧
  (∀ (s : State) (base : Base) (b : Opnd) (x y : Src) (t1 t : Strand) (pa : Nat),
    let w := memRead s.mem pa 16
    let o : Barrier := ⟨w % 2 ^ 16, w / 2 ^ 16 % 2 ^ 16, bitAt w 32, w / 2 ^ 64 % 2 ^ 48, bitAt w 112⟩
    let wellFormed := w / 2 ^ 33 % 2 ^ 31 = 0 ∧ w / 2 ^ 113 % 2 ^ 15 = 0
    let c := y.val.toNat
    let keeps (i : Instr) (status : Word) := exec i s = .next (s.done { t with rstat := status })
    NoWatch s pa 16 →
    (∀ i, i = Instr.barm base b → RecordAt i s base 16 3 false true x t1 t pa → s.async = false → s.st.loop.active = false →
      opMisuse b = none → takeOp s t1 b = .ok (y, t) → y.bad = false →
      let writes (o' : Barrier) := exec i s = .next (State.done { s with mem := memWrite s.mem pa 16 o'.word } { t with rstat := 0 })
      (¬wellFormed → exec i s = .next (s.takeFault 0x0312 s.st.pc x.val)) ∧
      (wellFormed →
        (c = 0 → keeps i 0) ∧
        (2 ^ 48 - 1 < c → keeps i 2) ∧
        (0 < c → c ≤ 2 ^ 48 - 1 → o.expect = 0 → o.permits = 0 → keeps i 1) ∧
        (0 < c → c ≤ 2 ^ 48 - 1 → o.expect = 0 → o.permits ≠ 0 → writes { o with permits := o.permits - 1, expect := c }) ∧
        (0 < c → c ≤ 2 ^ 48 - 1 → o.expect ≠ 0 → 2 ^ 48 - 1 < o.expect + c → keeps i 2) ∧
        (0 < c → o.expect ≠ 0 → o.expect + c ≤ 2 ^ 48 - 1 → writes { o with expect := o.expect + c }))) ∧
    (∀ i, i = Instr.bput base →
      (s.st.loop.active = false → hazard i s = false → s.storesDue s.st.uid ≠ 0 →
        exec i s = .next { s with st := { s.st with status := .blocked .issue } }) ∧
      (RecordAt i s base 16 3 false true x t t pa → s.async = false → s.st.loop.active = false →
        (¬wellFormed → exec i s = .next (s.takeFault 0x0312 s.st.pc x.val)) ∧
        (wellFormed → o.permits = 0 → keeps i 1) ∧
        (wellFormed → o.permits ≠ 0 →
          exec i s = .next ((State.serveTokens { s with
            mem := memWrite s.mem pa 16 { o with permits := o.permits - 1, tokens := o.tokens + 1 : Barrier }.word }
            s.st.part pa).done { t with rstat := 0 })))) ∧
    (∀ i, i = Instr.btake base b → RecordAt i s base 16 3 false true x t1 t pa → opMisuse b = none → takeOp s t1 b = .ok (y, t) →
      y.bad = false →
      (¬wellFormed → exec i s = .next (s.takeFault 0x0312 s.st.pc x.val)) ∧
      (wellFormed →
        let phase : Bool := y.val.getLsbD 0
        let s1 := State.serveTokens { s.setWaiters s.st.part pa (s.waitersAt s.st.part pa ++ [(t.uid, phase)]) with
          st := { t with status := .blocked (.token pa), wcount := t.wcount + 1, undo := some s.st.checkpoint } } s.st.part pa
        exec i s = .next (if s1.st.status = .blocked .served then { s1 with st := { s1.st with status := s.st.status } } else s1) ∧
        (s.waitersAt s.st.part pa = [] →
          if o.tokens ≠ 0 ∧ phase = o.phase then
            s1.st = { t with status := .blocked .served, pc := t.npc, wcount := t.wcount + 1, undo := none } ∧
            s1.waitersAt s.st.part pa = [] ∧ s1.mem = memWrite s.mem pa 16
              { o with tokens := o.tokens - 1, permits := o.permits + 1, phase := !o.phase : Barrier }.word
          else
            s1.st = { t with status := .blocked (.token pa), wcount := t.wcount + 1, undo := some s.st.checkpoint } ∧
            s1.waitersAt s.st.part pa = [(t.uid, phase)] ∧ s1.mem = s.mem)))) ∧
  (∀ (s : State) (p pa : Nat) (o : Barrier),
    barrierParts (memRead s.mem pa 16) = some o →
    (o.tokens = 0 ∨ (∀ w ∈ s.waitersAt p pa, w.2 ≠ o.phase) → s.serveTokens p pa = s) ∧
    (∀ w l l', o.tokens ≠ 0 → s.waitersAt p pa = l ++ w :: l' → (∀ v ∈ l, v.2 ≠ o.phase) → w.2 = o.phase → Quiet s →
      s.serveTokens p pa = ((State.modStrand { s.setWaiters p pa (l ++ l') with
        mem := memWrite s.mem pa 16 { o with tokens := o.tokens - 1, permits := o.permits + 1, phase := !o.phase : Barrier }.word }
        w.1 Strand.serve).serveTokens p pa)))

/-- R214, R299: `evsig` adds to an event's count, which saturates, and the home then serves the waiters at the head of the
list that the count covers, one after the other; `evwait` completes at once with c = 0, with status 1 when the waiter pool is
full, or when nobody waits and the count covers it; otherwise the strand blocks as the event's last waiter. An event outside
the launch's range raises 0x0504. -/
def Obligations.Events : Prop :=
  (∀ (s : State) (p e : Nat),
    let ev := (s.part p).event e
    (ev.waiters = [] → s.serveWaiters p e = s) ∧
    (∀ w ws, ev.waiters = w :: ws →
      let s1 := s.modPart p fun q => { q with events := Tab.set q.events e ⟨ev.count - BitVec.ofNat 32 w.wanted, ws⟩ }
      (ev.count.toNat < w.wanted → s.serveWaiters p e = s) ∧
      let served : State := match w with
        | .strand uid _ => s1.modStrand uid Strand.serve
        | .task n _ => s1.modPart p fun q => { q with tasks := q.tasks.map fun k : Task =>
            if k.key = n then { k with stage := .ready } else k }
      (w.wanted ≤ ev.count.toNat → s.serveWaiters p e = served.serveWaiters p e))) ∧
  ∀ (s : State) (a b : Opnd) (x y : Src) (t : Strand) (l : Launch),
    let e := x.val.toNat
    let n := y.val.toNat
    let p := s.st.part
    let ev := (s.part p).event e
    let inRange := l.eff.evBase ≤ e ∧ e < l.eff.evBase + l.eff.evCount ∧ n < 2 ^ 32
    OperandsAB s a b x y t → s.launchOf s.st = some l →
    (HomeReady (.evsig a b) s →
      (¬inRange → ∃ addr, (addr = x.val ∨ addr = y.val) ∧ exec (.evsig a b) s = .next (s.takeFault 0x0504 s.st.pc addr)) ∧
      (inRange → exec (.evsig a b) s = .next (((s.done t).modPart p fun q => { q with
        events := Tab.set q.events e { ev with count := BitVec.ofNat 32 (min (ev.count.toNat + n) (2 ^ 32 - 1)) } }).serveWaiters
          p e))) ∧
    (HomeReady (.evwait a b) s → inRange →
      (n = 0 → exec (.evwait a b) s = .next (s.done { t with rstat := 0 })) ∧
      (n ≠ 0 → (s.part p).waiterRoom e = false → exec (.evwait a b) s = .next (s.done { t with rstat := 1 })) ∧
      (n ≠ 0 → ev.waiters = [] → (s.part p).waiterRoom e = true →
        ∃ s', exec (.evwait a b) s = .next s' ∧ s'.mem = s.mem ∧
          (if n ≤ ev.count.toNat then
            s'.st = { t with rstat := 0, pc := t.npc, undo := none } ∧
            (s'.part p).event e = ⟨ev.count - BitVec.ofNat 32 n, []⟩
          else
            s'.st = { t with rstat := 0, status := .blocked (.event e), undo := some s.st.checkpoint } ∧
            (s'.part p).event e = ⟨ev.count, [.strand t.uid n]⟩)) ∧
      (∀ w ws, n ≠ 0 → ev.waiters = w :: ws → ev.count.toNat < w.wanted → (s.part p).waiterRoom e = true →
        exec (.evwait a b) s = .next ({ s with
          st := { t with rstat := 0, status := .blocked (.event e), undo := some s.st.checkpoint } }.modPart p fun q => { q with
            events := Tab.set q.events e { ev with waiters := ev.waiters ++ [Waiter.strand t.uid n] } })))

/-- R203, R209, R210: `send`, `sendn` and `mcast` read an image of 64 bytes and place one message in the outbound
buffer of 4; a full buffer blocks the strand, or for `sendn` gives status 1. A malformed image raises 0x0501 and a
destination outside the partition 0x0502. R18, R211, R215, R216: `spawn` reserves a slot of the launch's budget and
sends its image as a message; `tsub` hands a task record to the die's task unit; an exhausted budget gives status 1
and changes nothing. The devices whose cells an `mcast` may name - this one, the partition's peers and the image's own - are the
model's choice (log entry 53). -/
def Obligations.MessagesAndTasks : Prop :=
  (∀ (s : State) (rel : Bool) (base : Base) (b : Opnd) (x y : Src) (t1 t : Strand) (pa : Nat),
    let w (j : Nat) := memRead s.mem (pa + 8 * j) 8
    let dest := w 0 % 2 ^ 20
    let entry := w 0 / 2 ^ 20 % 2 ^ 40
    let malformed := w 0 / 2 ^ 60 ≠ 0 ∨ entry % 2 = 1
    let full := 4 ≤ (s.cell t.cell).outbox.length
    let msg : Msg := { id := s.nextId, sent := s.nextId, kind := .normal, src := t.cell, dst := dest, seq := 0, part := t.part, launch := t.launch
                       entry := BitVec.ofNat 40 entry, tag := BitVec.ofNat 16 (w 1), coord := BitVec.ofNat 64 (w 1 / 2 ^ 16)
                       payload := [2, 3, 4, 5, 6, 7].map fun j => BitVec.ofNat 64 (w j), host := none }
    let sent (dests : List Nat) := { s.modCell t.cell fun c => { c with outbox := c.outbox ++ [⟨msg, dests⟩] } with
      nextId := s.nextId + 1 }
    let waits (i : Instr) := exec i s = .next { s with st := { s.st with status := .blocked .issue } }
    (∀ i, i = Instr.send rel base → RecordAt i s base 64 0 true false x t t pa →
      (malformed → exec i s = .next (s.takeFault 0x0501 s.st.pc x.val)) ∧
      (¬malformed → s.hasCell t.part dest = false → exec i s = .next (s.takeFault 0x0502 s.st.pc (BitVec.ofNat 64 dest))) ∧
      (¬malformed → s.hasCell t.part dest = true → if full then waits i else exec i s = .next ((sent [dest]).done t))) ∧
    (∀ i, i = Instr.sendn rel base → RecordAt i s base 64 0 true false x t t pa → ¬malformed → s.hasCell t.part dest = true →
      if full then exec i s = .next (s.done { t with rstat := 1 })
      else exec i s = .next ((sent [dest]).done { t with rstat := 0 })) ∧
    (∀ i, i = Instr.mcast rel base b → RecordAt i s base 64 0 true false x t1 t pa → opMisuse b = none →
      takeOp s t1 b = .ok (y, t) → y.bad = false → ¬malformed →
      let dests := castDests s t.part dest (y.val.toNat % 2 ^ 20)
      (∀ n, n ∈ dests ↔ n / 4096 ∈ s.boot.device.toNat :: dest / 4096 :: (s.part t.part).peerDevices ∧
        Nat.land n (y.val.toNat % 2 ^ 20) = Nat.land dest (y.val.toNat % 2 ^ 20)) ∧
      ((∀ n ∈ dests, s.hasCell t.part n = true) → if full then waits i else exec i s = .next ((sent dests).done t)))) ∧
  (∀ (s : State) (base : Base) (x : Src) (t : Strand) (pa : Nat) (l : Launch),
    let ws := memWords s.mem pa 8
    s.launchOf t = some l →
    (∀ i, i = Instr.spawn base → RecordAt i s base 64 0 true false x t t pa → imageBad ws = false → imageEntry ws ≠ 0 →
      s.hasCell t.part (imageDest ws) = true →
      (l.eff.slots ≤ l.slotsUsed → exec i s = .next (s.done { t with rstat := 1 })) ∧
      (l.slotsUsed < l.eff.slots → (s.cell t.cell).outbox.length < 4 →
        exec i s = .next (((s.modPart t.part fun q => q.modLaunch t.launch fun l => { l with slotsUsed := l.slotsUsed + 1 }).post
          t.cell (imageMsg s.nextId .spawn t.cell t.part t.launch ws) [imageDest ws]).done { t with rstat := 0 }))) ∧
    (∀ i, i = Instr.tsub base → RecordAt i s base 64 0 true false x t t pa →
      (taskBad (some l) ws = true → exec i s = .next (s.takeFault 0x0505 s.st.pc x.val)) ∧
      (taskBad (some l) ws = false → l.eff.tasks ≤ l.tasksLive → exec i s = .next (s.done { t with rstat := 1 })) ∧
      (taskBad (some l) ws = false → l.tasksLive < l.eff.tasks → ∃ s', exec i s = .next s' ∧
        s'.mem = s.mem ∧ ∃ k ∈ (s'.part t.part).tasks, k.words = ws ∧ k.die = dieOf t.cell ∧ k.launch = t.launch ∧
          ((wordAt ws 1).testBit 40 = false → k.stage = .ready ∧ s'.st = { t with rstat := 0, pc := s.st.npc }))))

/-- R121, R212, R213: `done` frees the slot of its strand and its part of the launch's budget; `migrate` to another
cell frees the slot and leaves a siding, to its own cell does nothing else, and raises 0x0503 for an activation;
`sleep` completes with status 0 when q15 holds an entry, and otherwise blocks until its deadline, the one that it
had before if the strand was taken off it (R292). That an activation raises 0x0503 before the cell is looked at is the model's
choice (log entry 63). -/
def Obligations.StrandEnds : Prop :=
  ∀ (s : State) (b : Opnd) (y : Src) (t : Strand),
    (s.st.vq = [] → s.st.tileCount = 0 → s.storesDue s.st.uid = 0 →
      ∃ s', exec .done s = .next s' ∧ s'.st = Strand.empty ∧ s'.parked.length = s.parked.length ∧
        (s.st.act = false → s.st.task = none → 256 ≤ s.st.popId.toNat →
          s' = { s.modPart s.st.part (fun q => q.modLaunch s.st.launch fun l => { l with slotsUsed := l.slotsUsed - 1 }) with
            accs := s.accs.filter fun z => z.uid != s.st.uid, st := Strand.empty })) ∧
    (HomeReady (.migrate b) s → s.st.tileCount = 0 → opMisuse b = none → takeOp s s.st b = .ok (y, t) → y.bad = false →
      let cell := y.val.toNat % 2 ^ 20
      (t.act = true → exec (.migrate b) s = .next (s.takeFault 0x0503 s.st.pc 0)) ∧
      (t.act = false → s.hasCell t.part cell = false →
        exec (.migrate b) s = .next (s.takeFault 0x0502 s.st.pc (BitVec.ofNat 64 cell))) ∧
      (t.act = false → s.hasCell t.part cell = true → cell = t.cell → exec (.migrate b) s = .next (s.done t)) ∧
      (t.act = false → s.hasCell t.part cell = true → cell ≠ t.cell → exec (.migrate b) s = .next { s with
        st := Strand.empty, nextId := s.nextId + 1, sidings := s.sidings ++ [(⟨s.nextId, t.uid, t.cell, []⟩ : Siding)]
        parked := s.parked ++ [{ t.oneDeadline with status := .moving, cell := cell, pc := s.st.npc }] })) ∧
    (HomeReady (.sleep b) s → opMisuse b = none → takeOp s s.st b = .ok (y, t) → y.bad = false →
      (t.q15 ≠ [] → exec (.sleep b) s = .next (s.done { t.keep none with rstat := 0 })) ∧
      (t.q15 = [] → t.kept = none → exec (.sleep b) s = .next { s with st := { t with
        status := .blocked (.sleep (if y.val = 0 then none else some (s.now + y.val.toNat))), undo := some s.st.checkpoint } }) ∧
      (∀ w, t.q15 = [] → t.kept = some w → exec (.sleep b) s = .next { s with st := { t.keep none with
        status := .blocked (.sleep (some w)), undo := some s.st.checkpoint } }))

/-- R217, R218, R219, R224: `launch` hands an RCB to the coordinator; `rand` is PRV64 of the launch's seed and its
counter; `claim` records a counter range and raises 0x0506 on an overlap or a range past 2^64; `tlbinv` starts an
invalidation of pages; `tmark` traces and changes no register. R220: `sysc n` acts as a full fence and blocks the
strand until the reply. -/
def Obligations.SystemInstructions : Prop :=
  (∀ (s : State) (a b : Opnd) (d : SReg) (base : Base) (x y : Src) (t t' : Strand),
    let p := s.st.part
    (HomeReady (.launch base) s → baseMisuse base = none → takeBase s s.st base = .ok (x, t) → x.bad = false →
      exec (.launch base) s = .next ((s.done t).modPart p fun q => { q with
        pending := q.pending ++ [⟨x.val, t.uab, t.asid, false, 0, 0, false, some t.uid⟩] })) ∧
    (HomeReady (.rand d b) s → opMisuse b = none → misuseWrite d = none → takeOp s s.st b = .ok (y, t) →
      hasRoom t d = .ok () → y.bad = false →
      let seed : Word := match s.launchOf s.st with
        | some l => l.eff.seed
        | none => 0
      putReg t d (prv64 seed y.val) .raw = .ok t' → exec (.rand d b) s = .next (s.done t')) ∧
    (HomeReady (.claim a b) s → OperandsAB s a b x y t →
      let key := s.seedOf t
      let first := x.val.toNat
      let n := y.val.toNat
      let clash := ∃ c ∈ (s.part p).claims, c.2.1 = key ∧ c.2.2.1.toNat < first + n ∧ first < c.2.2.1.toNat + c.2.2.2
      (n = 0 → exec (.claim a b) s = .next (s.done { t with rstat := 0 })) ∧
      (n ≠ 0 → 2 ^ 64 < first + n ∨ clash → exec (.claim a b) s = .next (s.takeFault 0x0506 s.st.pc x.val)) ∧
      (n ≠ 0 → first + n ≤ 2 ^ 64 → ¬clash → 1024 ≤ (s.part p).claims.length →
        exec (.claim a b) s = .next (s.done { t with rstat := 1 })) ∧
      (n ≠ 0 → first + n ≤ 2 ^ 64 → ¬clash → (s.part p).claims.length < 1024 →
        exec (.claim a b) s = .next ((s.done { t with rstat := 0 }).modPart p fun q => { q with
          claims := q.claims ++ [(t.launch, key, x.val, n)] }))) ∧
    (HomeReady (.tlbinv a b) s → OperandsAB s a b x y t → exec (.tlbinv a b) s = .next ({ s with
      invs := s.invs ++ [(⟨s.nextId, some t.uid, p, t.asid, x.val - x.val % 65536, y.val.toNat % 2 ^ 40⟩ : Tlbinv)]
      nextId := s.nextId + 1 }.done t)) ∧
    (HomeReady (.tmark a b) s → OperandsAB s a b x y t →
      exec (.tmark a b) s = .next ((s.done t).traceStrand t 8 false x.val.toNat (y.val.toNat % 2 ^ 16)) ∧
      ((s.done t).traceStrand t 8 false x.val.toNat (y.val.toNat % 2 ^ 16)).st = { t with pc := s.st.npc })) ∧
  (∀ (s : State) (n : Int), s.st.vq = [] → s.storesDue s.st.uid = 0 → (∀ y ∈ s.accs, y.uid ≠ s.st.uid) →
    exec (.sysc n) s = .next { s.dropLdc s.st.cell (true, true) with
      st := { s.st with status := .blocked (.sysc n.toNat) } })

/-! ### Tiles -/

/-- R158, R159, R161: what one macro-op step does to a tile: elements in the window take the step's contribution, a
tile of tag raw starts from zero, elements outside the window keep their values, and the tag is the accumulator's. A
column of B is read from its slice at 256 × slot + k × size. R62, R63, R64, R65, R66: the arithmetic of a step on one
element. A grouped accumulator adds four sums of sixteen exact products, each rounded to FP32 and then added; an exact
accumulator adds the whole sum in units of 2^-40, clamped to 96 bits. -/
def Obligations.ProductSteps : Prop :=
  (∀ (p : Prod) (x : Tile) (rows : List (List Nat)) (cols : List (List Nat × Nat)) (s : State) (t : Strand) (k n : Nat),
    let h := p.shape
    let x' := p.apply x rows cols
    (rows.length = h.rows → cols.length = h.cols → h.row0 + h.rows ≤ 128 → h.col0 + h.cols ≤ 128 →
      x'.tag = accTag p.f ∧
      (∀ i j, (hi : i < rows.length) → (hj : j < cols.length) →
        let e := 128 * (h.row0 + i) + (h.col0 + j)
        x'.get e = (stepElem p rows[i] cols[j] ((h.col0 + j) % 2 == 1) (x.get e)).1) ∧
      (∀ e, p.inWindow e = false → x'.get e = x.get e)) ∧
    (Quiet s → p.b ≠ .q4 → 8 ≤ p.b.bits → ∀ j, j < h.cols → ∃ r v codes, (p.colReads s k n)[j]? = some [r] ∧
      EngRead.make r s t.ctx = ((v, 0), s) ∧ codesOf p.b.bits v 64 = codes ∧ codes.length = 64 ∧ ∀ c (hc : c < codes.length),
        codes[c] = memRead s.mem (bstoreBase s.boot.device.toNat k + (h.col0 + j) * 32768 + 256 * h.slot
          + (64 * n + c) * (p.b.bits / 8)) (p.b.bits / 8))) ∧
  (∀ (p : Prod) (x y : List Nat) (u old : Nat) (odd : Bool),
    let a j := valueOf p.f (x.getD j 0)
    let b j := valueOf p.b (y.getD j 0)
    x.length = 64 → y.length = 64 → p.complex = false →
    ((p.f = .bf16 ∨ p.f = .f16) → p.b ≠ .q4 →
      let part (q : Nat) := (sumExact ((List.range 16).map fun j => (a (16 * q + j)).mul (b (16 * q + j)))).toCode .f32 .rne false
      stepElem p x (y, u) odd old = ((List.range 4).foldl (fun acc q => faddCode .f32 .rne false acc (part q)) old, false)) ∧
    (p.f ≠ .bf16 → p.f ≠ .f16 →
      let term (j : Nat) : Int := if p.b = .q4 then
          (let l := q4Level (y.getD j 0) * (u : Int)
           unitsOf ((a j).mul (.fin (decide (l < 0)) l.natAbs (-16))))
        else unitsOf ((a j).mul (b j))
      let sum := signedBits 96 old + ((List.range 64).map term).sum
      stepElem p x (y, u) odd old = (((max (-2 ^ 95) (min (2 ^ 95 - 1) sum)) % 2 ^ 96).toNat,
        decide (sum < -2 ^ 95 ∨ 2 ^ 95 - 1 < sum))))

/-- R154, R156, R157, R158, R160: `mma`, `mmas` and `mmac` with every check passed apply their steps from the one that
the tiles of all their engines record on (R162); completed, the tile has the accumulator tag and no resume point; a fault that a step meets is taken with the
step recorded in the tile. A product of one step whose reads give the operands `rows` and `cols` leaves the tile with that
step applied and memory as it was. -/
def Obligations.Products : Prop :=
  ∀ (s s2 : State) (i : Instr) (f : Fmt) (tb : TileB) (g4 sparse complex : Bool) (d : Fin 8) (a : SReg) (b : Opnd) (r : SReg)
    (x y : Src) (t1 t : Strand) (w : Nat) (l : List (Loc × Nat × Nat)),
    (i, sparse, complex, b) ∈ [(Instr.mma f tb g4 d a b, false, false, b), (.mmas f tb g4 d a r, true, false, .reg r),
      (.mmac f tb g4 d a b, false, true, b)] →
    s.st.stepping = false → TileReady i s → TileOk s d [accTag f] → misuseRead a = none → opMisuse b = none →
    takeReg s s.st a = .ok (x, t1) → takeOp s t1 b = .ok (y, t) → x.bad = false → y.bad = false →
    (∀ k ∈ prodClusters t g4, s.holds s.st k d = true ∧
      (((s.cluster k).tile d).tag = accTag f ∨ ((s.cluster k).tile d).tag = .raw)) →
    (g4 = true → s.gangTwo s.st = true) → (sparse = true → y.val.toNat % 8 = 0) →
    shapeWord s t sparse y = .ok (w, s) → shapeCheck w (bFmt f tb) complex = .ok () →
    let p : Prod := ⟨f, bFmt f tb, complex, d, shapeOf w, t.dataVa x.val, if sparse then some (t.dataVa y.val) else none,
      prodClusters t g4, clusterOf t.cell⟩
    let own := s.tileOf s.st d
    let n := if ∀ k ∈ prodClusters t g4, let z := (s.cluster k).tile d
        z.rvalid = true ∧ z.rpc = s.st.pc ∧ z.rcell = s.st.cell ∧ z.rstep = own.rstep then own.rstep else 0
    p.aPieces s t p.shape.rows = .ok l → aPlacement s.boot.device.toNat p.home l = .ok () → p.metaCheck s t = .ok () →
    (∀ m, p.steps s s.st n 128 = .ok (s2, m) → p.shape.blocks ≤ m ∧
      exec i s = .next ((p.markAll s2 fun z => { z.taken (accTag f) with rvalid := false }).done { t with top := none })) ∧
    (∀ cause addr, p.steps s s.st n 128 = .error (.found s2 cause addr) →
      (∃ s1 m, n ≤ m ∧ m < p.shape.blocks ∧ s2 = p.record s1 s.st m) ∧
      exec i s = .next (s2.takeFault cause s.st.pc (BitVec.ofNat 64 addr))) ∧
    (∀ rd got rows cols, p.shape.blocks = 1 → g4 = false → own.rvalid = false →
      p.reads s s.st (clusterOf s.st.cell) 0 = .ok rd → (∀ r ∈ rd.all, s.turnAt s.st.uid s.st.cell r.pa = .ok ()) →
      makeReads s s.st.ctx rd.all = (got, s) → p.operands 0 rd got = .ok (rows, cols) →
      ∃ s', exec i s = .next s' ∧ s'.mem = s.mem ∧ s'.st = { t with pc := s.st.npc, top := none } ∧
        (s'.cluster (clusterOf s.st.cell)).tile d = { p.apply own rows cols with rvalid := false } ∧
        ∀ k m, k ≠ clusterOf s.st.cell ∨ m ≠ d.val → (s'.cluster k).tile m = (s.cluster k).tile m)

/-- R152, R164, R165: `trd` moves a row of a tile to a vector group with tag F, `twr` a group to a row; a tile whose
tag is neither F nor raw leaves the tile error with the instruction's PC and moves nothing; `twait` raises a pending
tile error as 0x0201 with that PC and clears it, and waits while more commands than its count are unfinished. R27,
R152, R166, R168, R169: `tzero`, `tcvt` and `tgate` element by element; a tile that the launch does not hold raises
0x0401. That a tag mismatch replaces a tile error that is pending already is the model's choice (log entry 76). -/
def Obligations.TileRowsAndElements : Prop :=
  (∀ (s : State) (f : Fmt) (v : Fin 32) (n : Fin 8) (b : Opnd) (y : Src) (t : Strand) (c : Fin 64),
    let k := clusterOf s.st.cell
    let x := s.tileOf s.st n
    let row := y.val.toNat
    let regs := 128 * f.bits / 512
    opMisuse b = none → takeOp s s.st b = .ok (y, t) → y.bad = false → row ≤ 127 → tileGroup regs v = .ok () →
    s.holds s.st k n = true → x.poison = [] →
    (TileReady (.trd f v n b) s →
      ((x.tag = f ∨ x.tag = .raw) → ∃ s', exec (.trd f v n b) s = .next s' ∧ s'.mem = s.mem ∧
        s'.st = { t with pc := s.st.npc }.putRegs f v (packElems f.bits ((List.range 128).map fun j =>
          x.get (128 * row + j) % 2 ^ f.bits)) 0 regs ∧
        (s'.cluster k).tile n = { x with rvalid := false }) ∧
      (x.tag ≠ f → x.tag ≠ .raw → exec (.trd f v n b) s = .next { s with st := { t with pc := s.st.npc, terr := some s.st.pc } })) ∧
    (TileReady (.twr f n v b) s → tileGroupTags t regs v f = .ok () → Clean (t.vsrc regs f.bits v) 128 allElems → f ≠ .raw →
      ((x.tag = f ∨ x.tag = .raw) → ∃ s', exec (.twr f n v b) s = .next s' ∧ s'.mem = s.mem ∧ s'.st = { t with pc := s.st.npc } ∧
        ((s'.cluster k).tile n).tag = f ∧ ((s'.cluster k).tile n).rvalid = false ∧
        ∀ e, ((s'.cluster k).tile n).get e = if e / 128 = row then (t.vsrc regs f.bits v).get (e % 128) else x.get e) ∧
      (x.tag ≠ f → x.tag ≠ .raw → exec (.twr f n v b) s = .next { s with st := { t with pc := s.st.npc, terr := some s.st.pc } })) ∧
    (s.st.loop.active = false → s.st.tileCount ≤ c.val →
      (s.st.terr = none → exec (.twait c) s = .next { s with st := { s.st with pc := s.st.npc } }) ∧
      (∀ pc, s.st.terr = some pc → exec (.twait c) s = .next (if s.faultTurn then
          State.takeFault { s with st := { s.st with terr := none } } 0x0201 s.st.pc (pc.zeroExtend 64)
        else { s with st := { s.st with status := .blocked .issue } }))) ∧
    (s.st.loop.active = true ∨ c.val < s.st.tileCount →
      exec (.twait c) s = .next { s with st := { s.st with status := .blocked .issue } })) ∧
  (∀ (s : State) (f : Fmt) (r : Rnd) (sat : Bool) (v : Gate) (d a : Fin 8) (b : Opnd) (y : Src) (t : Strand),
    let k := clusterOf s.st.cell
    let x := s.tileOf s.st a
    let old := s.tileOf s.st d
    let becomes (i : Instr) (status : Option Word) (tag : Fmt) (g : Nat → Nat) := ∃ s', exec i s = .next s' ∧ s'.mem = s.mem ∧
      s'.st = { t with pc := s.st.npc, rstat := status.getD t.rstat } ∧ ((s'.cluster k).tile d).tag = tag ∧
      ((s'.cluster k).tile d).rvalid = false ∧ (∀ e, e < 16384 → ((s'.cluster k).tile d).get e = g e) ∧
      ∀ m, m ≠ d.val → ((s'.cluster k).tile m).elems = ((s.cluster k).tile m).elems
    (TileReady (.tzero a) s →
      (s.holds s.st k a = true → exec (.tzero a) s = .next ((s.modCluster k fun c => c.setTile a Tile.zero).finish)) ∧
      (s.holds s.st k a = false → exec (.tzero a) s = .next (s.takeFault 0x0401 s.st.pc (BitVec.ofNat 64 a)))) ∧
    (TileReady (.tcvt f r sat d a b) s → opMisuse b = none → takeOp s s.st b = .ok (y, t) → TileOperandOk t b y →
      TileOk s a [.f32, .x96] → TileOk s d [old.tag] → f ≠ .raw →
      let tag := if x.tag = .raw then .x96 else x.tag
      becomes (.tcvt f r sat d a b) (some (BitVec.ofNat 64 (bitOf x.rlost + 2 * bitOf x.nfseen))) f fun e =>
        let z := (scaleOf t b y (e % 128)).mul (tileValue tag (x.get e))
        if tag ≠ .f32 ∧ x.get e = 0 ∧ isFin (scaleOf t b y (e % 128)) = true then
          (if f.isInt then wrapBits f.bits (toIntClamped (r.mode s.st.rmode) f.minInt f.maxInt 0 (.fin false 0 0))
           else (FVal.fin false 0 0).toCode f (r.mode s.st.rmode) sat)
        else if f.isInt then wrapBits f.bits (toIntClamped (r.mode s.st.rmode) f.minInt f.maxInt 0 z)
        else z.toCode f (r.mode s.st.rmode) sat) ∧
    (TileReady (.tgate v d a b) s → opMisuse b = none → takeOp s s.st b = .ok (y, t) →
      TileOk s a [.f32] → TileOk s d [.f32] →
      let bias := biasOf t b y
      let h e := old.get e
      ((v = .sigb ∨ v = .bias) → TileOperandOk t b y →
        becomes (.tgate v d a b) none .f32 fun e =>
          if v = .sigb then sigmCode (radd (x.get e) (bias (e % 128))) else radd (x.get e) (bias (e % 128))) ∧
      ((v = .tanh ∨ v = .expsp) →
        becomes (.tgate v d a b) none .f32 fun e => if v = .tanh then tanhCode (x.get e) else expspCode (x.get e)) ∧
      (∀ m : Fin 8, b = .lit m.val → (v = .glu ∨ v = .mix) → TileOk s m [.f32] →
        becomes (.tgate v d a b) none .f32 fun e =>
          let z := (s.tileOf s.st m).get e
          if v = .glu then rmul (x.get e) (sigmCode z)
          else radd (rmul (x.get e) (h e)) (rmul (fsubCode .f32 .rne false 0x3F800000 (x.get e)) z))))

/-- R170, R171: `tscan` replaces the first vl rows of a tile by the scan of its columns under the continue mask,
writes the carries to its group (and their low parts for `.pair`), and keeps the other rows; vl outside 1-128 raises
0x0407. R167: `tst` stores a tile's image of 196,672 bytes as 64-byte pieces in order, and `tld` reads it back; an
image that is not valid raises 0x0408 and leaves the tile. -/
def Obligations.TileScansAndImages : Prop :=
  (∀ (s : State) (pair : Bool) (m d a : Fin 8) (b : Fin 32),
    let i := Instr.tscan pair m d a b
    let k := clusterOf s.st.cell
    let n := s.st.vl
    let x := s.tileOf s.st a
    let y := s.tileOf s.st d
    let hi := s.st.vsrc 8 32 b
    let lo := s.st.vsrc 8 32 (b + 8)
    let col (c : Nat) := scanColumn pair ((List.range n).map fun i => x.get (128 * i + c))
      ((List.range n).map fun i => y.get (128 * i + c)) (fun i => (s.st.m.get m).getLsbD i) (hi.get c) (if pair then lo.get c else 0)
    TileReady i s → TileOk s a [.f32] → TileOk s d [.f32] → tileGroupTags s.st (if pair then 16 else 8) b .f32 = .ok () →
    (n = 0 ∨ 128 < n → exec i s = .next (s.takeFault 0x0407 s.st.pc (BitVec.ofNat 64 n))) ∧
    (0 < n → n ≤ 128 → tileGroup 8 b = .ok () → (pair = true → b = 0 ∨ b = 8 ∨ b = 16) → Clean hi 128 allElems →
      (pair = true → Clean lo 128 allElems) →
      ∃ s', exec i s = .next s' ∧ s'.mem = s.mem ∧ ((s'.cluster k).tile d).tag = .f32 ∧
        (∀ j c, j < n → c < 128 → ((s'.cluster k).tile d).get (128 * j + c) = (col c).1.getD j 0) ∧
        (∀ e, n * 128 ≤ e → e < 16384 → ((s'.cluster k).tile d).get e = y.get e) ∧
        (let t := s.st.putRegs .f32 b (packElems 32 ((List.range 128).map fun c => (col c).2.1)) 0 8
         s'.st = { (if pair then t.putRegs .f32 (b + 8) (packElems 32 ((List.range 128).map fun c => (col c).2.2)) 0 8 else t)
           with pc := s.st.npc }))) ∧
  (∀ (s : State) (d : Fin 8) (base : Base) (e : Int) (x : Src) (t : Strand) (l : List (Loc × Nat × Nat)),
    let k := clusterOf s.st.cell
    let y := s.tileOf s.st d
    baseMisuse base = none → takeBase s s.st base = .ok (x, t) → x.bad = false → accessVa t x.val e % 64 = 0 →
    TileOk s d [y.tag] → s.st.top = none → (∀ p ∈ imagePieces l, s.remote p.2.1.pa = false ∧ s.pairBusy s.st.cell p.2.1.pa = false) →
    (TileReady (.tst d base e) s → s.pieces t (accessVa t x.val e) true 196672 5 = .ok l → (∀ a, s.sweepWeight a = 0) →
      (∀ p ∈ l, p.1.watched = false) →
      exec (.tst d base e) s = .next ((s.modCluster k fun c => c.setTile d { y with rvalid := false }).done
        { t with wcount := t.wcount + 1 } |> fun s' => { s' with
          mem := (imagePieces l).foldl (fun m p => memWrite m p.2.1.pa 64 (y.piece p.1)) s.mem })) ∧
    (TileReady (.tld d base e) s → s.pieces t (accessVa t x.val e) false 196672 5 = .ok l →
      let img := (imagePieces l).foldr (fun p z => memRead s.mem p.2.1.pa 64 + 2 ^ 512 * z) 0
      (tileFrom img Tile.zero = none → exec (.tld d base e) s = .next (s.takeFault 0x0408 s.st.pc (x.val + BitVec.ofInt 64 e))) ∧
      (∀ z, tileFrom img Tile.zero = some z →
        exec (.tld d base e) s = .next ((s.modCluster k fun c => c.setTile d { z with poison := [] }).done t))))

/-! ### Evolving words, knots, populations -/

/-- R232, R234, R235: the value of a law k ticks later, its clamp, and the crossing tick: the least k at which the
value is on or past the threshold in the direction from which it was short of it. -/
def Obligations.LawValues : Prop :=
  ∀ (e : LawEntry) (x y : Int) (k rem : Nat),
    let lo : Int := if e.m = 0 then -2 ^ 31 else -e.m
    let hi : Int := if e.m = 0 then 2 ^ 31 - 1 else e.m
    let clamp (v : Int) := max lo (min hi v)
    (e.kind = 0 → e.value x y k = (x, y)) ∧
    (e.kind = 1 → e.value x y k = (clamp (x + e.p * k), y)) ∧
    (e.kind = 2 → e.value x y k =
      (clamp (e.rest + Int.tdiv ((x - e.rest) * leakPower (2 ^ 32 - 2 ^ (32 - e.s)) (2 ^ 32) k 24) (2 ^ 32)), y)) ∧
    (0 ≤ e.m → e.kind ≠ 0 → lo ≤ (e.value x y k).1 ∧ (e.value x y k).1 ≤ hi) ∧
    (∀ up : Bool, (if up then (e.dir = 1 ∨ e.dir = 3) ∧ x < e.theta else (e.dir = 2 ∨ e.dir = 3) ∧ e.theta < x) → e.kind ≠ 0 →
      let past (j : Nat) : Prop := if up then e.theta ≤ (e.value x y j).1 else (e.value x y j).1 ≤ e.theta
      e.first x y rem = some k ↔ 1 ≤ k ∧ k ≤ rem ∧ past k ∧ ∀ j, 1 ≤ j → j < k → ¬past j) ∧
    (e.dir = 0 ∨ x = e.theta → e.first x y rem = none)

/-- R229, R233, R234, R235, R236, R238, R239: the four accesses of an evolving word act on the word evolved to the tick of its
region, write it back with its stamp, and report its crossings. An odd word of a pair is the pair's y; one whose pair the
evolution has ended is an ordinary word again. A word with a law that does not cross evolves to the value of its law after
the ticks since its stamp. (The value in the report of a crossing that `swadd` itself makes is the model's choice, log entry
105.) -/
def Obligations.EvolvingWords : Prop :=
  (∀ (s : State) (d : SReg) (base : Base) (e : Int) (b : Opnd) (x y : Src) (t1 t : Strand) (pa n : Nat) (reg : Region)
    (ev : Evolved),
    let off (i : Instr) : Int := if i = .swld d base e ∨ i = .swst d base e then e else 0
    let at0 (i : Instr) (r : Bool) := RecordOff i s base (off i) 8 3 r true x t1 t pa ∧
      s.locate t (accessVa t x.val (off i)) 3 r true false = .ok ⟨pa, false⟩ ∧ s.async = false ∧ s.st.loop.active = false ∧
      (s.part s.st.part).log.window pa = none
    let va (i : Instr) := accessVa t x.val (off i) % 2 ^ 64
    let evolved (i : Instr) := (s.part s.st.part).regionAt pa = some (n, reg) ∧ s.evolve t.ctx reg (va i) pa = .ok (ev, s)
    let ends (i : Instr) (bump : Bool) (z : Evolved) (res : Option Int) (status : Option Nat) : Prop :=
      ∀ s2 t', putWords s s t.writer bump false (va i) z.words = .ok s2 →
        (match res with
          | some r => putReg t d (BitVec.ofInt 64 r) .raw = .ok t'
          | none => t' = t) →
        let t' := match status with
          | some v => { t' with rstat := BitVec.ofNat 64 v }
          | none => t'
        exec i s = .next ((s2.report t.part n reg z false).done (if bump then { t' with wcount := t'.wcount + 1 } else t'))
    let delta := signedBits 32 y.val.toNat
    let operand := opMisuse b = none ∧ takeOp s t1 b = .ok (y, t) ∧ y.bad = false
    let room := misuseWrite d = none ∧ hasRoom t d = .ok ()
    let val := if ev.place = .first then ev.v.x else ev.v.y
    let lawNo := if ev.place = .odd then ev.ylaw else ev.v.law
    let setVal (w : Evolved) (z : Int) : Evolved :=
      { w with v := if w.place = .first then { w.v with x := z } else { w.v with y := z } }
    let setLaw (w : Evolved) (k : Nat) (o : Bool) : Evolved :=
      if w.place = .odd then { w with ylaw := k }
      else { w with
        v := { w.v with law := k, osc := o, odd := w.v.odd || w.v.osc || o }, ylaw := if w.v.osc || o then k else w.ylaw }
    (∀ i, i = Instr.swld d base e → at0 i true → t1 = t → room →
      ((s.part s.st.part).regionAt pa = none → exec i s = .next (s.takeFault 0x0601 s.st.pc (x.val + BitVec.ofInt 64 e))) ∧
      (evolved i → ends i false ev (some val) none)) ∧
    (∀ i, i = Instr.swst d base e → at0 i false → misuseRead d = none → takeReg s t1 d = .ok (y, t) → y.bad = false →
      evolved i → ends i true (setVal ev delta) none none) ∧
    (∀ i law goal, i = Instr.swadd d base b → at0 i true → operand → room → evolved i →
      s.lawEntry t.ctx reg lawNo = .ok (law, s) →
      (law.act = 2 → s.lawEntry t.ctx reg law.next = .ok (goal, s)) →
      let new := law.clamp (val + delta)
      let crosses := ev.place ≠ .y ∧
        ((law.short val = some true ∧ law.theta ≤ new) ∨ (law.short val = some false ∧ new ≤ law.theta))
      let noted (z : Int) : Evolved :=
        let w := setVal ev z
        { w with v := { w.v with segs := w.v.segs ++
          [(⟨if ev.place = .odd then ev.xpa + 8 else ev.xpa, z, lawNo, law, ev.now, ev.now, 1⟩ : Segment)] } }
      (law.bad = true → exec i s = .next (s.takeFault 0x0602 s.st.pc x.val)) ∧
      (law.bad = false →
        (¬crosses → ends i true (setVal ev new) (some new) (some 0)) ∧
        (crosses → law.act ≠ 1 → law.act ≠ 2 → ends i true (noted new) (some new) (some 1)) ∧
        (crosses → law.act = 1 →
          ends i true (if ev.place = .first ∧ ev.v.osc = true then
            { noted law.rest with v := { (noted law.rest).v with y := 0 } } else noted law.rest) (some law.rest) (some 1)) ∧
        (crosses → law.act = 2 →
          if pa % 16 = 8 ∧ goal.osc = true then exec i s = .next (s.takeFault 0x0602 s.st.pc x.val)
          else ends i true (setLaw (noted new) law.next goal.osc) (some new) (some 1)))) ∧
    (∀ i law, i = Instr.swlaw d base b → at0 i true → operand → room → evolved i →
      let new := y.val.toNat % 256
      s.lawEntry t.ctx reg new = .ok (law, s) →
      if pa % 16 = 8 ∧ ev.place ≠ .y ∧ law.osc = true then exec i s = .next (s.takeFault 0x0602 s.st.pc x.val)
      else ends i true (setLaw ev new law.osc) (some lawNo) none)) ∧
  (∀ (s : State) (ws : List (Nat × Nat)) (bump : Bool) (w : Writer), Quiet s → (∀ p ∈ ws, Unloaded s p.1 8) →
    putWords s s w bump false 0 ws = .ok { s with mem := ws.foldl (fun m p => memWrite m p.1 8 p.2) s.mem }) ∧
  (∀ (s : State) (c : ErrCtx) (reg : Region) (va pa : Nat) (law : LawEntry),
    let w := memRead s.mem pa 8
    let old : Int × Int := (signedBits 32 (w / 2 ^ 32), signedBits 32 (memRead s.mem (pa + 8) 8 / 2 ^ 32))
    let T : Int := reg.tick s (homeDie pa)
    let ticks := ((T - (w / 2 ^ 8 % 2 ^ 24 : Nat)) % 2 ^ 24).toNat
    Quiet s → pa % 16 = 0 → w % 256 ≠ 0 → s.lawEntry c reg (w % 256) = .ok (law, s) → law.bad = false → law.osc = false →
    ticks ≠ 0 → law.first old.1 old.2 ticks = none →
    s.evolve c reg va pa = .ok (⟨pa, .first, ⟨(law.value old.1 old.2 ticks).1, (law.value old.1 old.2 ticks).2, w % 256, false,
      ticks, false, [], false⟩, w % 256, T, T⟩, s))

/-- R237, R240: `step` advances a STEP region's counter, which the homes of every die hold when it completes, and starts a pass
when it crosses a multiple of 2^21, waiting for the one before; n above 2^22 raises 0x0603, a WALL region 0x0604, no region
0x0601. That a WALL region gives 0x0604 whatever n is the model's choice (log entry 40).
`swsweep`, SWEEP_PASS and SWEEP_EVOLUTION: a pass takes the words with a law in rising order and ends when none is left; a
word that evolves is written back and reported with the sweep's mark. -/
def Obligations.StepsAndSweeps : Prop :=
  ∀ (s : State) (d : SReg) (a b : Opnd) (x y : Src) (t t' : Strand) (r : Region) (p n : Nat),
    (HomeReady (.step d a b) s → s.async = false → s.st.loop.active = false → misuseWrite d = none → OperandsAB s a b x y t →
      hasRoom t d = .ok () →
      ((s.part t.part).region? x.val = none → y.val.toNat ≤ 2 ^ 22 →
        exec (.step d a b) s = .next (s.takeFault 0x0601 s.st.pc x.val)) ∧
      ((s.part t.part).region? x.val = some r → r.step = false →
        exec (.step d a b) s = .next (s.takeFault 0x0604 s.st.pc x.val)) ∧
      ((∀ r, (s.part t.part).region? x.val = some r → r.step = true) → 2 ^ 22 < y.val.toNat →
        exec (.step d a b) s = .next (s.takeFault 0x0603 s.st.pc y.val)) ∧
      ((s.part t.part).region? x.val = some r → r.step = true → y.val.toNat ≤ 2 ^ 22 →
        let new := r.ctr + y.val
        let crosses := r.ctr.toNat / 2 ^ 21 ≠ new.toNat / 2 ^ 21
        putReg t d new .raw = .ok t' →
        (¬crosses → exec (.step d a b) s = .next (((s.modRegion t.part x.val.toNat fun r => { r with ctr := new }).stepSeen
          t.part x.val.toNat new).done t')) ∧
        (crosses → r.pass.isSome = true → exec (.step d a b) s = .next { s with st := { s.st with status := .blocked .issue } }) ∧
        (crosses → r.pass = none → exec (.step d a b) s = .next ((((s.modRegion t.part x.val.toNat fun r =>
          { r with ctr := new, pass := some 0, passStart := s.now }).traceSweep t.part x.val.toNat false).stepSeen
            t.part x.val.toNat new).done t')))) ∧
    (∀ new, n < 64 → (s.part p).region? (BitVec.ofNat 64 n) = some r → r.seen.length = 4 →
      ∃ r', ((s.stepSeen p n new).part p).region? (BitVec.ofNat 64 n) = some r' ∧ r'.ctr = r.ctr ∧ r'.pass = r.pass ∧
        ∀ c, c < 4 → r'.seen.getD c 0 = (if (new - r.seen.getD c 0).toNat < 2 ^ 63 then new else r.seen.getD c 0)) ∧
    (HomeReady (.swsweep b) s → opMisuse b = none → takeOp s s.st b = .ok (y, t) → y.bad = false →
      ((s.part t.part).region? y.val = none → exec (.swsweep b) s = .next (s.takeFault 0x0601 s.st.pc y.val)) ∧
      (∀ words, (s.part t.part).region? y.val = some r → r.size / 8 < words → exec (.swsweep b) s =
        .next ((((s.done t).traceSweep t.part y.val.toNat false).sweepAll t.part y.val.toNat r 0 words).traceSweep
          t.part y.val.toNat true))) ∧
    ((s.part p).region? (BitVec.ofNat 64 n) = some r → r.step = false → r.pass = none →
      exec (.sweepPass p n) s =
        .next ((s.modRegion p n fun r => { r with pass := some 0, passStart := s.now }).traceSweep p n false)) ∧
    ((s.part p).regions.find? (fun e => e.2.pass.isSome) = some (n, r) →
      (Region.nextWord s r (r.pass.getD 0) = none →
        exec (.sweepEvolution p) s = .next ((s.modRegion p n fun r => { r with pass := none }).traceSweep p n true)) ∧
      (∀ o, Region.nextWord s r (r.pass.getD 0) = some o →
        exec (.sweepEvolution p) s = .next ((s.sweepWord p n r o).modRegion p n fun r => { r with pass := some (o + 8) }))) ∧
    (∀ o words, Region.nextWord s r n = some o →
      s.sweepAll p n r n (words + 1) = (s.sweepWord p n r o).sweepAll p n r (o + 8) words ∧
      n ≤ o ∧ (∀ j, n ≤ j → j < o → ∀ c ∈ s.mem, c.1 % 8 = 0 → r.offsetOf c.1 ≠ some j)) ∧
    (∀ o ev, Quiet s → s.evolve ErrCtx.engine r (r.wordAddr (r.addrOf o)) (r.addrOf o) = .ok (ev, s) →
      (∀ w ∈ ev.words, Unloaded s w.1 8) →
      s.sweepWord p n r o = State.report { s with
        mem := ev.words.foldl (fun m w => memWrite m w.1 8 w.2) s.mem } p n r ev true)

/-- R229, R241, R242, R243, R246, R247, R248, R249: the instructions on knots. A new knot takes the lowest free index;
a full table gives status 1; `ksettle` waits for every increment beneath its knot. R244, R245, R246, R311: bumps and
roll-ups. A leaf takes one bump of a writing instruction, and drops a second request of the same identity;
ROLLUP_INCREMENT adds what the unit holds for a knot to its count and hands it to the parent, or forwards it to the die that
homes the knot, whose unit takes 4,096 (R308); CLOSE_NOTICE forgets the identities that write no more. -/
def Obligations.Knots : Prop :=
  (∀ (s : State) (d : SReg) (a b : Opnd) (base : Base) (x y z : Src) (t1 t2 t t' : Strand) (l : List (Nat × Nat)) (s1 : State),
    let p := s.st.part
    let n := y.val.toNat
    let one := opMisuse b = none ∧ takeOp s s.st b = .ok (y, t) ∧ y.bad = false
    let room := misuseWrite d = none ∧ hasRoom t d = .ok ()
    (HomeReady (.knew d b) s → Quiet s → one → room →
      (s.knotInterior p n = false → exec (.knew d b) s = .next (s.takeFault 0x0701 s.st.pc y.val)) ∧
      (s.knotInterior p n = true → 16 ≤ (s.knot p n).depth → exec (.knew d b) s = .next (s.takeFault 0x0702 s.st.pc y.val)) ∧
      (s.knotInterior p n = true → (s.knot p n).depth < 16 →
        (s.freeKnot p = none → exec (.knew d b) s = .next (s.done { t with rstat := 1 })) ∧
        (∀ k, s.freeKnot p = some k → putReg t d (BitVec.ofNat 64 k) .raw = .ok t' →
          s.knotLive p k = false ∧ (∀ j, j < k → s.knotLive p j = true) ∧
          exec (.knew d b) s = .next ((s.makeKnot p k n false 0 0).done { t' with rstat := 0 })))) ∧
    (HomeReady (.kread d b) s → Quiet s → one → room → s.knotLive p n = true →
      putReg t d (BitVec.ofNat 64 (s.knot p n).count) .raw = .ok t' → exec (.kread d b) s = .next (s.done t')) ∧
    (HomeReady (.ksettle d b) s → Quiet s → one → room → s.knotLive p n = true →
      (s.settled p n = true → putReg t d (BitVec.ofNat 64 (s.knot p n).count) .raw = .ok t' →
        exec (.ksettle d b) s = .next ((s.done t').traceStrand t' 13 false n (s.knot p n).count)) ∧
      (s.settled p n = false → exec (.ksettle d b) s = .next { s with st := { s.st with status := .blocked .issue } })) ∧
    (HomeReady (.kfree b) s → Quiet s → one → s.knotLive p n = true →
      (n = 0 ∨ s.hasChildren p n = true → exec (.kfree b) s = .next (s.takeFault 0x0706 s.st.pc y.val)) ∧
      (n ≠ 0 → s.hasChildren p n = false → s.unitRoom (s.knotDie p n) 1 = true →
        let up := s.rollUp p n (1 + (((s.rollups p).filter fun e => e.1 == n).map (·.2)).sum)
        let freed := (State.modPart { up with dies := up.dies.map fun x =>
          (x.1, { x.2 with rollups := x.2.rollups.filter fun e => !(e.1 == p && e.2.1 == n) }) } p
          fun q => { q with
            objects := q.objects.filter fun o => o.knot != n, bumps := q.bumps.filter fun b => b.1 != n }).putKnot p n ⟨0, 0, 0, false, false, 0, 0⟩
        exec (.kfree b) s = .next ((((s.part p).objects.filter fun o => o.knot == n).foldl (fun s o =>
          (walkPages State.unwatch s o.asid (o.va / 65536 * 65536) o.ranges.length).dropPages p o.ranges) freed).done t)) ∧
      (n ≠ 0 → s.hasChildren p n = false → s.unitRoom (s.knotDie p n) 1 = false →
        exec (.kfree b) s = .next { s with st := { s.st with status := .blocked .issue } })) ∧
    (HomeReady (.kmove a b) s → Quiet s → OperandsAB s a b x y t →
      let m := x.val.toNat
      let sub := (List.range (s.part p).knotTop).filter fun k => s.knotLive p k && s.beneath p m k
      let new := (s.knot p n).depth + 1
      let old := (s.knot p m).depth
      s.knotLive p m = true → s.knotInterior p n = true → (∀ k ∈ sub, (s.knot p k).depth - old + new ≤ 16) →
      (m = 0 → exec (.kmove a b) s = .next (s.takeFault 0x0706 s.st.pc 0)) ∧
      (m ≠ 0 → n ∈ sub → exec (.kmove a b) s = .next (s.takeFault 0x0703 s.st.pc x.val)) ∧
      (m ≠ 0 → n ∉ sub →
        let up := (s.chain p (s.knot p m).parent 17 ++ s.chain p n 17).dedup
        exec (.kmove a b) s = .next ((sub.foldl (fun s k => s.putLink p k { s.knot p k with
          depth := (s.knot p k).depth - old + new, parent := if k = m then n else (s.knot p k).parent })
          (up.foldl (fun s k => s.knotAdd p k 1) s)).done t))) ∧
    (HomeReady (.kenrol d base b) s → baseMisuse base = none → opMisuse b = none → misuseRead d = none →
      takeBase s s.st base = .ok (x, t1) → takeOp s t1 b = .ok (y, t2) → takeReg s t2 d = .ok (z, t) → room →
      x.bad = false → y.bad = false → z.bad = false →
      (x.val.toNat % 4096 ≠ 0 ∨ n = 0 ∨ n % 4096 ≠ 0 ∨ 2 ^ 48 ≤ n → exec (.kenrol d base b) s = .next (s.takeFault 0x0704 s.st.pc x.val)) ∧
      (x.val.toNat % 4096 = 0 → n ≠ 0 → n % 4096 = 0 → n < 2 ^ 48 →
        objectPieces s t (accessVa t x.val 0) n (n / 65536 + 2) = .ok (l, s1) → Quiet s1 → s1.knotInterior p z.val.toNat = true →
        (s1.knot p z.val.toNat).depth < 16 →
        let overlap := (s1.part p).objects.any fun o => l.any fun r => o.touched r.1 r.2
        (overlap = true → exec (.kenrol d base b) s = .next (s1.takeFault 0x0705 s1.st.pc x.val)) ∧
        (overlap = false → s1.freeKnot p = none → exec (.kenrol d base b) s = .next (s1.done { t with rstat := 1 })) ∧
        (∀ k, overlap = false → s1.freeKnot p = some k → s1.unitRoom (s1.knotDie p k) 1 = true →
          putReg t d (BitVec.ofNat 64 k) .raw = .ok t' →
          let watched := (s1.makeKnot p k z.val.toNat true x.val.toNat n).modPart p fun q =>
            { q with objects := q.objects ++ [(⟨k, t.asid, accessVa t x.val 0, n, l⟩ : Watched)] }
          exec (.kenrol d base b) s = .next ((((walkPages (fun s a v => (s.walk a v).1) watched t.asid
            (accessVa t x.val 0 / 65536 * 65536) l.length).dropPages p l).rollUp p k 1).done { t' with rstat := 0 }))))) ∧
  (∀ (s : State) (w : Writer) (leaf p n k : Nat),
    ((s.bumpLeaf w leaf).bumpLeaf w leaf = s.bumpLeaf w leaf) ∧
    (Quiet s → (s.part w.part).bumps.contains (leaf, w.who, w.num) = false →
      (s.bumpLeaf w leaf).mem = (s.knotAdd w.part leaf 1).mem) ∧
    (let home := s.knotDie p n
     let holds (d : Nat) := (s.die d).rollups.find? fun e => e.1 == p && e.2.1 == n
     let taken (d : Nat) := s.modDie d fun x => { x with rollups := x.rollups.filter fun e => !(e.1 == p && e.2.1 == n) }
     ((∀ d, d < 4 → d ≠ home → holds d = none) → home < 4 → holds home = some (p, n, k) →
        exec (.rollupIncrement p n) s = .next (((taken home).knotAdd p n k).rollUp p n k)) ∧
     (∀ d, d < 4 → d ≠ home → (∀ c, c < d → c ≠ home → holds c = none) → holds d = some (p, n, k) →
        exec (.rollupIncrement p n) s = .next (if s.unitRoom home 1 = true ∨ holds home ≠ none then (taken d).rollTo home p n k
          else s))) ∧
    (exec (.closeNotice p) s = .next (s.modPart p fun x => { x with
      bumps := x.bumps.filter fun b => s.stillWriting b.2.1 b.2.2 })))

/-- R229, R250, R251, R252, R253, R254: `pjoin`, `pleave` and `resample`; the outcome of a collective by the first row
that applies; the copies of the members sum to N; a clone takes the first free slot in its order, or waits for
one on its parent's cell. A clone's slot must fit the launch's budget among the slots that its resident strands hold. What the
fault address of 0x0801 is, and the order of its conditions, are the model's choice (log entry 80). -/
def Obligations.Populations : Prop :=
  ∀ (s : State) (a : Opnd) (b d r : SReg) (x : Src) (t : Strand) (p k : Nat) (pop : Pop) (c : Clone),
    (HomeReady (.pjoin a b) s → opMisuse a = none → takeOp s s.st a = .ok (x, t) → x.bad = false →
      let j := x.val.toNat
      (256 ≤ j → exec (.pjoin a b) s = .next (s.takeFault 0x0801 s.st.pc x.val)) ∧
      (j < 256 → b.num = 0 ∨ 32 ≤ b.num → exec (.pjoin a b) s = .next (s.takeFault 0x0801 s.st.pc (BitVec.ofNat 64 b.num))) ∧
      (j < 256 → 0 < b.num → b.num < 32 → t.act = true ∨ 2 ^ 24 ≤ t.rank.toNat →
        exec (.pjoin a b) s = .next (s.takeFault 0x0801 s.st.pc x.val)) ∧
      (j < 256 → 0 < b.num → b.num < 32 → t.act = false → t.rank.toNat < 2 ^ 24 → t.popId ≠ noPop →
        exec (.pjoin a b) s = .next (s.takeFault 0x0802 s.st.pc x.val)) ∧
      (j < 256 → 0 < b.num → b.num < 32 → t.act = false → t.rank.toNat < 2 ^ 24 → t.popId = noPop →
        let old := match (s.part t.part).pop? j with
          | some q => q
          | none => ⟨s.seedOf t, 0, t.launch, [], false⟩
        let lin := lineage old.gen t.rank.toNat 0xFFFFFF
        let repeats := ∃ m ∈ old.members, ∃ u, s.strand? m.uid = some u ∧ u.lin = lin
        (old.launch ≠ t.launch → exec (.pjoin a b) s = .next (s.takeFault 0x0803 s.st.pc x.val)) ∧
        (old.launch = t.launch → old.busy = true →
          exec (.pjoin a b) s = .next { s with st := { s.st with status := .blocked .issue } }) ∧
        (old.launch = t.launch → old.busy = false → repeats → exec (.pjoin a b) s = .next (s.takeFault 0x0803 s.st.pc x.val)) ∧
        (old.launch = t.launch → old.busy = false → ¬repeats →
          exec (.pjoin a b) s = .next ((s.modPart t.part fun q => { q with
            pops := Tab.set q.pops j { old with members := old.members ++ [(⟨t.uid, 0, none, b.num⟩ : Member)] } }).done
            { t with popId := x.val, gen := old.gen, lin := lin })))) ∧
    (HomeReady .pleave s →
      (s.st.popId = noPop → exec .pleave s = .next (s.takeFault 0x0802 s.st.pc noPop)) ∧
      (s.st.popId ≠ noPop → exec .pleave s = .next ((s.leavePop s.st.part s.st.popId s.st.uid).done
        { s.st with popId := noPop, gen := 0, lin := 0 }))) ∧
    (HomeReady (.resample d r) s → misuseRead d = none → misuseWrite r = none → takeReg s s.st d = .ok (x, t) → x.bad = false →
      ((s.part t.part).pop? t.popId.toNat = none →
        exec (.resample d r) s = .next (s.takeFault 0x0802 s.st.pc (BitVec.ofNat 64 t.popId.toNat))) ∧
      (∀ m, (s.part t.part).pop? t.popId.toNat = some pop →
        pop.fixed = false → pop.members.find? (fun m => m.uid == t.uid) = some m → t.gpois.getLsbD m.wreg = false →
        ∃ s', exec (.resample d r) s = .next s' ∧ s'.mem = s.mem ∧
          s'.st = { t with status := .blocked (.collective t.popId.toNat), undo := some s.st.checkpoint } ∧
          (s'.part t.part).pops = Tab.set (s.part t.part).pops t.popId.toNat { pop with members := pop.members.map fun y =>
            if y.uid = t.uid then { y with waiting := some x.val, reg := r.num } else y }) ∧
      ((s.part t.part).pop? t.popId.toNat = some pop → pop.fixed = true →
        exec (.resample d r) s = .next { s with st := { s.st with status := .blocked .issue } })) ∧
    ((s.part p).pop? k = some pop → pop.fixed = false → (∀ m ∈ pop.members, m.waiting.isSome = true) →
      let pairs : List Pair := sortBy (fun x : Pair => x.2.lin.toNat) (pop.members.filterMap fun m =>
        (s.strand? m.uid).map fun t => (m, t))
      let n := match pop.members with
        | m :: _ => (m.waiting.getD 0).toNat
        | [] => 0
      let w := (pairs.map Pair.units).sum
      let all (st : Nat) := (((pairs.foldl (fun s x => s.endCollective x.2.uid st) s).clearCollective p k).traceResample p k
        pairs.length n st)
      pairs ≠ [] → (∀ x ∈ pairs, Pair.fault s x = none) →
      ((∃ m ∈ pop.members, (m.waiting.getD 0).toNat ≠ n) ∨ n = 0 ∨ 2 ^ 24 ≤ n →
        exec (.resampleCollective p k) s = .next (all 2)) ∧
      ((∀ m ∈ pop.members, (m.waiting.getD 0).toNat = n) → 0 < n → n < 2 ^ 24 → w = 0 →
        exec (.resampleCollective p k) s = .next (all 1)) ∧
      (∀ y, (∀ m ∈ pop.members, (m.waiting.getD 0).toNat = n) → 0 < n → n < 2 ^ 24 → 0 < w →
        (s.part p).launch? pop.launch = some y →
        let u := (prv64 pop.seed pop.gen).toNat / 2 ^ 32
        let cs := shares n w u 0 pairs
        let gone := cs.countP (· == 0)
        let mine (t : Strand) : Bool := t.part == p && t.launch == pop.launch
        let held := (s.strands.filter fun t => mine t && !t.act && t.status != .free).length
          + ((s.part p).clones.filter fun c => mine c.image).length
        cs.length = pairs.length ∧ cs.sum = n ∧
        (held - gone + (n - (pairs.length - gone)) ≤ y.eff.slots →
          exec (.resampleCollective p k) s = .next ((s.resampled p k pop (indexed 0 0 (pairs.zip cs))
            (fdivCode .f32 .rne false (.fin false w (-96)) (.fin false n 0))).traceResample p k pairs.length n 0)) ∧
        (y.eff.slots < held - gone + (n - (pairs.length - gone)) →
          exec (.resampleCollective p k) s = .next (all 2)))) ∧
    (∀ l cell slot, (s.part p).clones.find? (fun c => !c.waiting) = some c →
      (s.part p).launch? c.image.launch = some l →
      (cloneOrder l.cellSet c.image.cell).findSome? (fun k => (s.freeSlot k).map fun i => (k, i)) = some (cell, slot) →
      exec (.clonePlacement p) s = .next (s.placeClone p c cell slot)) ∧
    (∀ l, (s.part p).clones.find? (fun c => !c.waiting) = some c → (s.part p).launch? c.image.launch = some l →
      (∀ k ∈ cloneOrder l.cellSet c.image.cell, s.freeSlot k = none) →
      exec (.clonePlacement p) s = .next (s.modPart p fun x => { x with clones := x.clones.map fun y =>
        if y.pop = c.pop ∧ y.index = c.index then { y with waiting := true } else y })) ∧
    (∀ slot, (∀ c ∈ (s.part p).clones, c.waiting = true) →
      (s.part p).clones.findSome? (fun c => (s.freeSlot c.image.cell).map fun i => (c, i)) = some (c, slot) →
      exec (.clonePlacement p) s = .next (s.placeClone p c c.image.cell slot))

/-! ### Engine commands -/

/-- R194, R196, R199, R201, R202, R308: the instructions that issue an engine command wait for the strand's stores,
read a descriptor of 64 bytes, and put the command in the strand's q9 or q10; a malformed descriptor, or a gather's table that
is not in HBM, raises 0x0313, and a full queue (8 copies, 4 others) makes the strand wait. ENGINE_ACCEPT_COMMAND moves it to
the end of its engine's queue. R200, R276: COPY_PLAIN, COPY_ENCODE, COPY_DECODE, Q4G_UNPACK, GATHER and ROUTE_ASSIGN carry out
the command at the head of the queue: a write that is due goes to memory or a B-store in one piece of at most 8 bytes, and
counts; else a read that is due brings its next piece; else the plan of the command's kind says what comes next, and in the
end makes the command due its credit (with a barrier) or its completion. A page without a translation stalls the command on a
walk; a fault ends it with status bit 2, the fault's cause and address. (How many of these steps one event makes is the
model's choice, log entry 96: one where accesses are delayed, else all.) -/
def Obligations.EngineCommands : Prop :=
  (∀ (s : State) (v : CpyVar) (base : Base) (x : Src) (t : Strand) (pa : Nat) (i : Instr) (kind : Nat) (bad : List Word → Bool)
    (var : CpyVar) (k uid : Nat) (c : EngCmd),
    let ws := memWords s.mem pa 8
    ((i, kind, var, bad) ∈ [(Instr.cpy v base, 1, v, copyBad false v), (.cpyb v base, 2, v, copyBad true v),
        (.gath base, 3, .plain, gatherBad), (.route base, 4, .plain, routeBad)] →
      RecordAt i s base 64 0 true false x t t pa →
      (bad ws = true → exec i s = .next (s.takeFault 0x0313 s.st.pc x.val)) ∧
      (bad ws = false →
        let va := t.dataVa (ws.getD 1 0)
        let home (g : TlbEntry) := placeOf (g.pa + va % 2 ^ g.log)
        (∀ g, kind = 3 → s.tlbFind t.cell t.asid va = some g → (∀ j, home g ≠ .hbm j) →
          exec i s = .next (s.takeFault 0x0313 s.st.pc x.val)) ∧
        ((kind = 3 ∧ ∃ g, s.tlbFind t.cell t.asid va = some g ∧ home g = .hbm k) ∨ (kind ≠ 3 ∧ k = 0) →
          let room := if kind ≤ 2 then 8 else 4
          (s.queued t.uid (decide (kind ≤ 2)) < room →
            exec i s = .next ({ s with
              cmds := s.cmds ++ [newCmd s.nextId kind var t ws x.val k], nextId := s.nextId + 1 }.done t)) ∧
          (room ≤ s.queued t.uid (decide (kind ≤ 2)) →
            exec i s = .next { s with st := { s.st with status := .blocked .issue } })))) ∧
    (s.nextAccept uid = some c → exec (.engineAcceptCommand uid) s = .next { s with
      cmds := (s.cmds.filter fun y => y.num != c.num) ++ [{ c with stage := 1 }] })) ∧
  (∀ (s : State) (c : EngCmd) (rest : List EngCmd) (k : Nat) (ev : Instr) (cls : Nat) (mine : Bool) (plan : EngCmd → EngCmd),
    let dev := s.boot.device.toNat
    let x : EngAt := ⟨s, { c with begun := true }, true⟩
    (ev, cls, mine, plan) ∈ [
      (Instr.copyPlain k, 0, c.var == .plain, planPlain dev s.free), (.copyEncode k, 0, c.var == .enc, planEncode dev),
      (.copyDecode k, 0, c.var == .dec, planDecode dev), (.q4gUnpack k, 0, c.var == .q4g, planQ4 dev),
      (.gather k, 1, c.kind == 3, planGather), (.routeAssign k, 2, c.kind == 4, planRoute)] →
    s.engineQueue cls k = c :: rest → mine = true →
    (c.walk ≠ none → exec ev s = .next s) ∧
    (c.walk = none →
      (s.async = true → exec ev s = .next (x.act.s.modCmd c.num fun _ => x.act.c)) ∧
      (s.async = false → ∃ n, let y := (EngAt.act^[n]) x
        exec ev s = .next (y.s.modCmd c.num fun _ => y.c) ∧ (y.on = false ∨ n = 2 ^ 48) ∧
          ∀ m, m < n → ((EngAt.act^[m]) x).on = true) ∧
      (c.out = [] → c.rdLeft = 0 → x.act.c = plan { c with begun := true } ∧ x.act.s.mem = s.mem ∧
        x.act.on = decide (x.act.c.stage = 1)))) ∧
  (∀ (x : EngAt),
    let c := x.c
    let s := x.s
    (∀ p r loc, c.out = p :: r → (if p.store then (s.part c.part).dead.contains (homeOf p.addr) = false ∧ s.remote p.addr = false ∧
          loc = ⟨p.addr, (s.part c.part).watches p.addr p.bytes.length⟩
        else s.engineLoc c.ctx p.addr false true = .ok loc) →
      let n := p.bytes.length
      let v := (takeBytes p.bytes n).1
      (s.writeOk c.ctx.w loc.watched loc.pa n v p.addr = .ok () → x.act =
        { x with s := s.write c.ctx.w loc.watched loc.pa n v, c := { c with w2 := c.w2 + n, out := r } }) ∧
      (s.writeOk c.ctx.w loc.watched loc.pa n v p.addr = .error (.wait .issue) → x.act = { x with on := false })) ∧
    (∀ p r, c.out = p :: r → p.store = true → (s.part c.part).dead.contains (homeOf p.addr) = true →
      x.act.s = s ∧ x.act.on = false ∧ x.act.c.stage = (if c.bar = 0 then 3 else 2) ∧ x.act.c.w6 = 0x0305 ∧
      x.act.c.w5 = BitVec.ofNat 64 (p.addr % 2 ^ 64)) ∧
    (∀ loc, c.out = [] → c.rdLeft ≠ 0 → s.engineLoc c.ctx c.rdAt true false = .ok loc → Quiet s →
      let n := min (8 - c.rdAt % 8) c.rdLeft
      x.act = { x with c := { c with
        rdAt := c.rdAt + n, rdLeft := c.rdLeft - n, got := bytesOf (memRead s.mem loc.pa n) n :: c.got } }) ∧
    (∀ a w, ((∃ p r, c.out = p :: r ∧ p.store = false ∧ p.addr = a ∧ w = true) ∨
        (c.out = [] ∧ c.rdLeft ≠ 0 ∧ c.rdAt = a ∧ w = false)) →
      (∀ va acc, s.engineLoc c.ctx a (!w) w = .error (.miss va acc) →
        acc = (if w then 1 else 0) ∧ x.act.on = false ∧ x.act.s.mem = s.mem ∧
        ∃ id, x.act.c = { c with walk := some (id, va) } ∧ ∃ y ∈ x.act.s.walks, y.id = id) ∧
      (∀ cause addr, s.engineLoc c.ctx a (!w) w = .error (.trap cause addr) →
        x.act.s = s ∧ x.act.on = false ∧ x.act.c.stage = (if c.bar = 0 then 3 else 2) ∧ x.act.c.w6 = cause ∧
        x.act.c.w5 = BitVec.ofNat 64 addr ∧ bitAt x.act.c.status 2 = true ∧ x.act.c.w2 = c.w2 ∧ x.act.c.credit = c.w2)))

/-- R197, R201: what the copy engine and the gather unit do where nothing stalls them. A plain copy between two ranges that do
not overlap leaves in the target the bytes of the source, and writes nothing else; a gather leaves for each index the row of
the table that it names, or zeros where it is out of range, which word 3 counts. R202: the slots of an expert are the first
indexes that name it, up to its capacity, and every other index is dropped, in rising order. R309, R310: the entropy code. Bits
packed into bytes unpack to themselves and padding; under codes none of which begins another, the codes of a block's bytes
decode to the block, whatever follows. -/
def Obligations.CopiesAndCodes : Prop :=
  (∀ (s : State) (c : EngCmd) (rest : List EngCmd) (k ps pd pt : Nat),
    let fresh := c.walk = none ∧ c.phase = 0 ∧ c.pos = 0 ∧ c.rdLeft = 0 ∧ c.out = [] ∧ c.w2 = 0 ∧ c.w3 = 0 ∧ c.status = 0
    let maps (a pa len : Nat) (r w : Bool) := ∀ j, j < len → s.engineLoc c.ctx (a + j) r w = .ok ⟨pa + j, false⟩
    let apart (a n b m : Nat) := a + n ≤ b ∨ b + m ≤ a
    let ends (s' : State) (len w3 status : Nat) := ∀ y ∈ s'.cmds, y.num = c.num →
      y.stage = (if c.bar = 0 then 3 else 2) ∧ y.w2 = len ∧ y.credit = len ∧ y.w3 = w3 ∧ y.status = status
    fresh → Quiet s → memWf s.mem = true → s.async = false →
    (let dst := wordAt c.desc 1
     let len := bitsOf (wordAt c.desc 2) 47 0
     c.kind = 1 → c.var = .plain → s.engineQueue 0 k = c :: rest → maps c.src ps len true false → maps dst pd len false true →
     apart c.src len dst len → apart ps len pd len → Unloaded s pd len →
     ∃ s', exec (.copyPlain k) s = .next s' ∧ ends s' len 0 0 ∧
       (∀ j, j < len → memGet s'.mem (pd + j) = memGet s.mem (ps + j)) ∧
       (∀ a, a < pd ∨ pd + len ≤ a → memGet s'.mem a = memGet s.mem a)) ∧
    (let count := bitsOf (wordAt c.desc 2) 23 0
     let size := 64 * (bitsOf (wordAt c.desc 2) 31 24 + 1)
     let rows := bitsOf (wordAt c.desc 2) 63 32
     let index (i : Nat) := memRead s.mem (ps + 4 * i) 4
     let out := ((List.range count).filter fun i => decide (rows ≤ index i)).length
     c.kind = 3 → c.src % 4 = 0 → s.engineQueue 1 k = c :: rest → maps c.src ps (4 * count) true false →
     (∀ i, i < count → index i < rows → ∀ j, j < size →
       s.engineLoc c.ctx (wordAt c.desc 1 + index i * size + j) true false = .ok ⟨pt + index i * size + j, false⟩) →
     maps (wordAt c.desc 3) pd (count * size) false true → apart ps (4 * count) pd (count * size) →
     apart pt (rows * size) pd (count * size) → Unloaded s pd (count * size) →
     ∃ s', exec (.gather k) s = .next s' ∧ ends s' (count * size) out (if out = 0 then 0 else 8) ∧
       (∀ i j, i < count → j < size → memGet s'.mem (pd + i * size + j) =
         if index i < rows then memGet s.mem (pt + index i * size + j) else 0) ∧
       (∀ a, a < pd ∨ pd + count * size ≤ a → memGet s'.mem a = memGet s.mem a))) ∧
  (∀ (ids : List Nat) (e experts cap : Nat),
    let a := accepted ids e cap
    a.length = min cap (ids.count e) ∧ a.Pairwise (· < ·) ∧
    (∀ i ∈ a, ids[i]? = some e ∧ ∀ j, j < i → ids[j]? = some e → j ∈ a) ∧
    (dropped ids experts cap).Pairwise (· < ·) ∧
    (∀ i, i ∈ dropped ids experts cap ↔ ∃ e, ids[i]? = some e ∧ (experts ≤ e ∨ i ∉ accepted ids e cap))) ∧
  (∀ (cs : List HCode) (bs : List Byte) (bits tail : List Bool),
    (∃ pad, unpackBits (packBits bits) = bits ++ pad ∧ pad.length < 8 ∧ ∀ b ∈ pad, b = false) ∧
    (cs.Pairwise (fun a b => (codeBits a).isPrefixOf (codeBits b) = false ∧ (codeBits b).isPrefixOf (codeBits a) = false) →
      encodeBlock cs bs = some bits → decodeBlock cs (bits ++ tail) bs.length = some (bs, tail)))

/-- R121, R193, R195, R212: ENGINE_CREDIT credits the bytes written to the command's barrier object, and a malformed
object ends it with status bit 2 and 0x0312; waiters that the credit serves are served; COMPLETION_ENTRY_PUSH brings the entry to q15 when it has room, to the siding of a
strand that has moved, and
discards it when the strand has ended or the command asks for none. -/
def Obligations.EngineCompletions : Prop :=
  ∀ (s : State) (n : Nat) (c : EngCmd) (t : Strand) (loc : Loc),
    (s.cmds.find? (fun c => c.num == n && c.stage == 2 && c.walk.isNone) = some c →
      s.engineLoc c.ctx c.bar false true = .ok loc → Quiet s →
      (∀ o, barrierParts (memRead s.mem loc.pa 16) = some o →
        exec (.engineCredit n) s = .next ((State.modCmd { s with mem := memWrite s.mem loc.pa 16 (o.credit c.credit).word } n
          fun x => { x with stage := 3 }).serveTokens c.part loc.pa) ∧
        (o.credit c.credit).expect = o.expect - c.credit ∧
        ((o.credit c.credit).overrun = true ↔ o.overrun = true ∨ o.expect < c.credit) ∧
        (o.credit c.credit).tokens = o.tokens + (if 0 < c.credit ∧ 0 < o.expect ∧ o.expect ≤ c.credit then 1 else 0)) ∧
      (barrierParts (memRead s.mem loc.pa 16) = none → ∃ s', exec (.engineCredit n) s = .next s' ∧ s'.mem = s.mem ∧
        ∀ y ∈ s'.cmds, y.num = n → y.stage = 3 ∧ y.w6 = 0x0312 ∧ bitAt y.status 2 = true)) ∧
    (s.cmds.find? (fun c => c.num == n && c.stage == 3) = some c → c.task = none →
      let gone : State := { s with cmds := s.cmds.filter fun x => x.num != n }
      (c.noEntry = true ∨ s.strand? c.uid = none → exec (.completionEntryPush n) s = .next gone) ∧
      (c.noEntry = false → s.strand? c.uid = some t → s.sidings.find? (fun d => d.uid == c.uid && d.cell == c.cell) = none →
        (s.q15Room t = true → exec (.completionEntryPush n) s = .next (gone.modStrand c.uid fun t => { t with
          q15 := t.q15 ++ [⟨t.qseq, [BitVec.ofNat 64 (c.kind + c.status % 256 * 256), c.daddr, BitVec.ofNat 64 c.w2,
            BitVec.ofNat 64 c.w3, BitVec.ofNat 64 c.w4, c.w5, BitVec.ofNat 64 c.w6, 0]⟩]
          qseq := t.qseq + 1 })) ∧
        (s.q15Room t = false → exec (.completionEntryPush n) s = .next s)) ∧
      (∀ d, c.noEntry = false → s.strand? c.uid = some t → s.sidings.find? (fun d => d.uid == c.uid && d.cell == c.cell) = some d →
        exec (.completionEntryPush n) s = .next { gone with sidings := s.sidings.map fun x =>
          if x.id = d.id then { x with items := x.items ++ [(none, c.entry)] } else x }))

/-! ### Events of the network, of strands and of homes -/

/-- R30, R31, R203, R204, R205, R206, R211: a message leaves for a destination whose inbox has room, with its pair's
next sequence number; it arrives in order after the messages, accesses and replies of its pair (R270) and takes an inbox entry,
or is counted and discarded when its launch is gone; one for another device leaves this one (log entry 9); it starts a strand
with the image of R30 in the lowest free slot that no waiting clone is to have (R254); a handler-0
message becomes a q15 entry, goes to the siding of a strand that has moved (R212, R273), or is counted when its strand is gone.
(A message that waits when its strand ends is counted too: log entry 107.) -/
def Obligations.MessageEvents : Prop :=
  ∀ (s : State) (cell n d slot : Nat) (o : OutMsg) (rest : List OutMsg) (m : Msg) (l : Launch)
    (g : Siding),
    let gone : State := { s with flight := s.flight.filter fun y => y.id != n }
    ((s.cell cell).outbox = o :: rest → o.dests.find? (fun d => decide (s.boxed d < 64)) = some d →
      let left := o.dests.filter (· != d)
      let s1 := s.modCell cell fun c => { c with outbox := if left = [] then rest else { o with dests := left } :: rest }
      let key := o.msg.src * 2 ^ 20 + d
      let q := Tab.get (s.part o.msg.part).seqs 0 key
      exec (.messageDeparture cell) s = .next { s1.modPart o.msg.part (fun x => { x with seqs := Tab.set x.seqs key (q + 1) }) with
        flight := s.flight ++ [{ o.msg with
          id := s.nextId, dst := d, seq := q.toNat, sent := if o.msg.sent = 0 then s.nextId else o.msg.sent }]
        nextId := s.nextId + 1 }) ∧
    (s.flight.find? (fun y => y.id == n) = some m → m.host = none →
      let lost : State := gone.modCell m.dst fun c => { c with
        undeliverable := BitVec.ofNat 32 (min (c.undeliverable.toNat + 1) (2 ^ 32 - 1)) }
      let boxed : State := (gone.modCell m.dst fun c => { c with inbox := c.inbox ++ [m] }).modCluster (clusterOf m.dst) fun c =>
        { c with arrived := true }
      let on := s.rankOn m.part m.launch m.dst m.rank
      let siding := s.sidingFor m.part m.launch m.dst m.rank
      ((∃ y ∈ s.flight, y.src = m.src ∧ y.dst = m.dst ∧ y.id < m.id) → exec (.messageArrival n) s = .next s) ∧
      (m.src ≠ m.dst → (∃ x ∈ s.accs, ∃ u, x.done = false ∧ x.cell = m.src ∧ homeCell x.pa = some m.dst ∧ x.id < m.sent ∧
          s.strand? x.uid = some u ∧ s.entered x u = true) → exec (.messageArrival n) s = .next s) ∧
      (m.src ≠ m.dst → (∃ x ∈ s.accs, x.done = true ∧ x.fault = none ∧ x.cell = m.dst ∧ homeCell x.pa = some m.src ∧
          x.doneAt < m.sent) → exec (.messageArrival n) s = .next s) ∧
      (s.behind m = false → deviceOf m.dst ≠ s.boot.device.toNat → exec (.messageArrival n) s = .next gone) ∧
      (s.behind m = false → deviceOf m.dst = s.boot.device.toNat →
        ((s.part m.part).launch? m.launch = none → exec (.messageArrival n) s = .next lost) ∧
        ((s.part m.part).launch? m.launch = some l → m.entry ≠ 0 ∨ m.kind ≠ .normal ∨ on.isSome = true →
          exec (.messageArrival n) s = .next (if (s.cell m.dst).inbox.length < 64 then boxed else s)) ∧
        ((s.part m.part).launch? m.launch = some l → m.entry = 0 → m.kind = .normal → on = none →
          (siding = none → exec (.messageArrival n) s = .next lost) ∧
          (siding = some g → exec (.messageArrival n) s = .next { gone with sidings := s.sidings.map fun x =>
            if x.id = g.id then { x with items := x.items ++ [(some m.order, m.q15Words)] } else x })))) ∧
    (s.firstEligible cell [] (s.cell cell).inbox = some m → s.openSlot cell = some slot →
      (s.part m.part).launch? m.launch = some l → Tab.has (s.cell cell).cbank (m.part * 2 ^ 32 + l.num) = true →
      (s.part m.part).dbg.attach = false →
      ∃ s' t', exec (.activationStart cell) s = .next s' ∧ s'.st = s.st ∧ s'.parked = s.parked ++ [t'] ∧
        (s'.cell cell).inbox = (s.cell cell).inbox.filter (fun y => y.id != m.id) ∧
        t'.uid = s.nextId ∧ t'.cell = cell ∧ t'.slot = slot ∧ t'.status = .ready ∧ t'.pc = m.entry ∧ t'.launch = l.num ∧
        t'.uab = l.uab ∧ t'.wdog = l.eff.wdog ∧ t'.rmode = l.eff.rmode ∧ t'.handler = false ∧ t'.vl = 0 ∧
        (∀ i : Fin 32, t'.gtag.get i = .raw ∧ t'.g.get i =
          if 1 ≤ i.val ∧ i.val ≤ 6 then m.payload.getD (i.val - 1) 0
          else if i = 7 then BitVec.ofNat 64 (m.coord.toNat % 2 ^ 48)
          else if i = 8 then BitVec.ofNat 64 (m.tag.toNat + m.src % 2 ^ 20 * 2 ^ 16) else 0) ∧
        (m.kind = .spawn → t'.act = false ∧ t'.rank = BitVec.ofNat 32 m.coord.toNat) ∧
        (m.kind ≠ .spawn → t'.act = true ∧ t'.tag = m.tag ∧ t'.src = BitVec.ofNat 20 m.src ∧
          t'.coord = BitVec.ofNat 64 (m.coord.toNat % 2 ^ 48))) ∧
    ((s.cell cell).inbox.find? (s.deliverable cell) = some m →
      (∀ u, s.rankOn m.part m.launch cell m.rank = some u → (s.part m.part).dbg.recording = false →
        (s.part m.part).dbg.replaying = false →
        exec (.handler0Delivery cell) s = .next ((s.unbox cell m.id).modStrand u.uid fun t => { t with
          q15 := t.q15 ++ [⟨t.qseq, BitVec.ofNat 64 (5 + m.src % 2 ^ 20 * 2 ^ 16) :: (List.range 6).map (fun i => m.payload.getD i 0)
            ++ [BitVec.ofNat 64 (m.tag.toNat + bitsOf m.coord.toNat 47 32 * 2 ^ 16)]⟩]
          qseq := t.qseq + 1 })) ∧
      (s.rankOn m.part m.launch cell m.rank = none → s.sidingFor m.part m.launch cell m.rank = some g →
        exec (.handler0Delivery cell) s = .next { s.unbox cell m.id with sidings := s.sidings.map fun x =>
          if x.id = g.id then { x with items := x.items ++ [(some m.order, m.q15Words)] } else x }) ∧
      (s.rankOn m.part m.launch cell m.rank = none → s.sidingFor m.part m.launch cell m.rank = none →
        exec (.handler0Delivery cell) s = .next ((s.unbox cell m.id).modCell cell fun c => { c with
          undeliverable := BitVec.ofNat 32 (min (c.undeliverable.toNat + 1) (2 ^ 32 - 1)) })))

/-- R13, R26, R31, R212, R213, R220, R224, R273, R361: the events of strands. A resident starts with g1 to g3 as R31
gives them; a moving context takes the lowest free slot; a siding forwards its items in order; a blocked strand wakes;
a `sleep` past its deadline gives status 1; `sysc` is answered; TLBINV_COMPLETE leaves no translation of the pages. A slot
that a waiting clone is to have is not taken (R254). The word that the result of `sysc 4` carries is the model's choice (log
entry 94). -/
def Obligations.StrandEvents : Prop :=
  ∀ (s : State) (cell uid n p slot : Nat) (e : Nat × Nat) (l : Launch) (t : Strand) (d : Siding) (x : List Word)
    (o : Option Nat) (r : List (Option Nat × List Word)) (v : Tlbinv),
    (s.clusterOwner (clusterOf cell) = some p → s.openSlot cell = some slot →
      (s.cell cell).toStart.find? (fun e => match (s.part p).launch? e.1 with
        | some l => (s.part p).runs l
        | none => false) = some e →
      (s.part p).launch? e.1 = some l → Tab.has (s.cell cell).cbank (p * 2 ^ 32 + l.num) = true →
      ∃ s' t', exec (.residentStrandStart cell) s = .next s' ∧ s'.mem = s.mem ∧ s'.st = s.st ∧ s'.parked = s.parked ++ [t'] ∧
        (s'.cell cell).toStart = (s.cell cell).toStart.filter (fun y => y != e) ∧
        t'.cell = cell ∧ t'.slot = slot ∧ t'.status = .ready ∧ t'.act = false ∧ t'.pc = l.entry ∧ t'.launch = l.num ∧
        t'.rank = BitVec.ofNat 32 e.2 ∧
        ∀ i : Fin 32, t'.g.get i = if i = 1 then l.rcb else if i = 2 then BitVec.ofNat 64 e.2
          else if i = 3 then BitVec.ofNat 64 (l.cellSet.length * (l.eff.spc + 1)) else 0) ∧
    (s.parked.find? (fun t => t.uid == uid && t.status == .moving) = some t → deviceOf t.cell = s.boot.device.toNat →
      s.openSlot t.cell = some slot →
      s.launchOf t = some l → Tab.has (s.cell t.cell).cbank (t.part * 2 ^ 32 + l.num) = true →
      exec (.migrateArrival uid) s = .next (s.modStrand uid fun t => { t.wake with slot := slot, waited := 0 })) ∧
    (s.sidings.find? (fun d => d.id == n) = some d → s.strand? d.uid = some t → d.items = (o, x) :: r → t.inSlot = true →
      s.q15Room t = true → o = none ∨ ((s.part t.part).dbg.recording = false ∧ (s.part t.part).dbg.replaying = false) →
      exec (.sidingForward n) s = .next { s.modStrand d.uid (fun t => t.pushQ15 x) with
        sidings := s.sidings.map fun y => if y.id = n then { y with items := r } else y }) ∧
    (s.strand? uid = some t → t.stepping = false →
      (t.status = .blocked .served →
        exec (.strandWake uid) s = .next (s.modStrand uid fun t => t.wake) ∧
          t.wake = { t with status := .ready, undo := none, age := 0 }) ∧
      (t.status = .blocked .issue →
        exec (.strandWake uid) s = .next (s.modStrand uid fun t => { t with status := .ready, age := 0 })) ∧
      (∀ id va, t.status = .blocked (.walk id va) → (∀ w ∈ s.walks, w.id ≠ id) →
        exec (.strandWake uid) s = .next (s.modStrand uid fun t => { t with status := .ready, age := 0 })) ∧
      (∀ w, t.status = .blocked (.sleep w) → t.q15 ≠ [] →
        exec (.strandWake uid) s = .next (s.modStrand uid fun t => { t.wake with pc := t.npc, rstat := 0 })) ∧
      (∀ w, t.status = .blocked (.sleep (some w)) → w ≤ s.now → t.q15 = [] →
        exec (.sleepTimeout uid) s = .next (s.modStrand uid fun t => { t.wake with pc := t.npc, rstat := 1 })) ∧
      (∀ k, t.status = .blocked (.sysc k) → (s.part t.part).resetting = none →
        (k = 0 → exec (.syscReply uid) s = .next (s.reply uid [] 0)) ∧
        (k = 1 → exec (.syscReply uid) s = .next ((s.modPart t.part fun y => { y with wdLeft := y.w 19 }).reply uid
          [(s.part t.part).desc.getD 19 0] 0)) ∧
        (k = 2 → exec (.syscReply uid) s = .next (s.reply uid [BitVec.ofNat 64 t.part, s.boot.device.zeroExtend 64,
          BitVec.ofNat 64 (s.part t.part).clusters.length, BitVec.ofNat 64 (s.part t.part).quota,
          BitVec.ofNat 64 ((s.part t.part).w 0 / 2 ^ 24 % 2 ^ 13), BitVec.ofNat 64 ((s.part t.part).w 0 / 2 ^ 37 % 2 ^ 14)] 0)) ∧
        (k = 3 → exec (.syscReply uid) s = .next ((s.lawService t).1.reply uid [] (BitVec.ofNat 64 (s.lawService t).2))) ∧
        (k = 4 → (s.part t.part).fn.rqRoom = true → (s.part t.part).fn.results = [] → exec (.syscReply uid) s =
          .next ((s.owe t.part ⟨4, 0, t.launch, t.g.get 1, t.g.get 2⟩).reply uid [] 0)) ∧
        (k = 5 → exec (.syscReply uid) s = .next (s.requestReset t.part)) ∧
        (k = 6 → exec (.syscReply uid) s = .next (s.reply uid identityWords 0)) ∧
        (6 < k → exec (.syscReply uid) s = .next (s.reply uid [] (BitVec.allOnes 64))))) ∧
    (s.invs.find? (fun v => v.id == n) = some v →
      ∃ s', exec (.tlbinvComplete n) s = .next s' ∧ s'.mem = s.mem ∧ s'.st = s.st ∧ s'.parked = s.parked ∧
        s'.invs = s.invs.filter (fun y => y.id != n) ∧
        (∀ c, ∀ y ∈ (s'.cell c).tlb, y ∈ (s.cell c).tlb ∧ v.covers y = false) ∧
        (∀ c, ∀ y ∈ (s'.cluster c).tlb, y ∈ (s.cluster c).tlb ∧ v.covers y = false) ∧
        (∀ c, ∀ y ∈ (s'.die c).tlb, y ∈ (s.die c).tlb ∧ v.covers y = false) ∧
        (∀ u, v.uid = some u → (s.strand? u).isSome = true → ∃ c, s'.cmds = s.cmds ++ [c] ∧ c.kind = 8 ∧ c.stage = 3 ∧
          c.status = 0 ∧ c.daddr = v.start ∧ c.w2 = v.count))

/-- R257, R259, R261, R263, R318, R321, R322, R334, R99, R179: the events of accesses and translations. A home performs a load
(the value waits with its reply) or a store (it is gone, or its fault waits); a reply writes the destination, here and in what
the boundaries after it restore; a fault that a home found puts the strand back to the boundary before its instruction and is
taken there; a walk ends with a leaf or a miss; a miss is posted with vector 1; the first answer to a record walks again or
denies; a cache gives a line up. (Where a record stands in the queue, its head and its sequence numbers are the model's choice,
log entry 88; so is what a late fault puts back, log entry 33.) -/
def Obligations.AccessEvents : Prop :=
  ∀ (s : State) (n : Nat) (x : Access) (t t' : Strand) (f : Fmt) (d : SReg) (base : Base) (e : Int) (w : Walk) (s1 : State)
    (leaf : TlbEntry) (p rec : Nat),
    (s.accs.find? (fun x => x.id == n) = some x → (∀ y ∈ s.accs, y.id = n → y = x) → s.strand? x.uid = some t →
      s.canPerform x t = true → Quiet s →
      let value := x.d.toNat % 2 ^ f.bits
      let answers (res : Word) (fault : Option (Nat × Nat)) : State := { s with
        accs := s.accs.map fun y => if y.id = n then { y with
          done := true, doneAt := s.nextId, res := res, rstat := none, poison := false, fault := fault } else y
        nextId := s.nextId + 1 }
      (x.ins = .ld f d base e → exec (.accessPerform n) s =
        .next (answers (BitVec.ofNat 64 (f.extend (memRead s.mem x.pa f.size))) none)) ∧
      (x.ins = .st f d base e → s.overAt x.pa f.size value x.va = none → x.watched = false →
        (s.part t.part).watches x.pa f.size = false →
        exec (.accessPerform n) s = .next { s with
          mem := memWrite s.mem x.pa f.size value, accs := s.accs.filter fun y => y.id != n, nextId := s.nextId + 1 }) ∧
      (∀ a, x.ins = .st f d base e → s.overAt x.pa f.size value x.va = some a →
        exec (.accessPerform n) s = .next (answers 0 (some (0x0605, a % 2 ^ 64))))) ∧
    (s.accs.find? (fun x => x.id == n && x.done) = some x → s.strand? x.uid = some t → s.replyHeld x = false →
      (x.fault = none → x.poison = false → x.rstat = none → x.ins = .ld f d base e → putReg t d x.res f = .ok t' →
        exec (.accessReply n) s = .next { (s.modStrand x.uid fun _ => t').replyAfter x with
          accs := ((s.modStrand x.uid fun _ => t').replyAfter x).accs.filter fun y => y.id != n }) ∧
      (∀ cause addr, x.fault = some (cause, addr) → s.st.uid = x.uid →
        let before := (s.accs.takeWhile fun y => y.id != n).map (·.id)
        (t.takesLate x = true → exec (.accessReply n) s = .next (State.takeFault { s with
          accs := s.accs.filter fun y => y.uid != x.uid || before.contains y.id
          st := { s.st.restore x.ckpt with
            pc := x.pc, vq := [], undo := none, saves := []
            status := if s.st.status = .halted then .halted else .ready } } cause x.pc (BitVec.ofNat 64 addr))) ∧
        (t.takesLate x = false → t.status ≠ .stopped → exec (.accessReply n) s = .next s) ∧
        (t.status = .stopped → exec (.accessReply n) s = .next { s with accs := s.accs.filter fun y => y.id != n }))) ∧
    (s.walks.find? (fun w => w.id == n && !w.miss) = some w → (s.walking w.die).any (fun x => x.id == n) = true →
      (s.walk w.asid w.va = (s1, none) → exec (.translationWalk n) s =
        .next { s1 with walks := s1.walks.map fun x => if x.id = n then { x with miss := true } else x }) ∧
      (s.walk w.asid w.va = (s1, some leaf) → ∃ s', exec (.translationWalk n) s = .next s' ∧ s'.mem = s1.mem ∧
        s'.walks = s1.walks.filter (fun x => x.id != n) ∧ leaf ∈ (s'.die w.die).tlb ∧
        (w.eng = false → leaf ∈ (s'.cell w.cell).tlb))) ∧
    (s.walks.find? (fun w => w.id == n) = some w → s.canPost w = true → Quiet s →
      let seq := (s.part w.part).tfSeq
      exec (.translationMiss n) s = .next ((State.modPart { s with
        mem := memPutWords s.mem ((s.part w.part).w 18 + 32 * (seq % 256)) [BitVec.ofNat 64 w.va,
          BitVec.ofNat 64 (bitsOf w.va 71 64 + w.asid % 2 ^ 13 * 2 ^ 8 + w.acc % 4 * 2 ^ 21 + bitOf w.eng * 2 ^ 23
            + w.cell % 2 ^ 20 * 2 ^ 24 + w.slot % 8 * 2 ^ 44), BitVec.ofNat 64 (seq % 2 ^ 32), 0]
        walks := s.walks.map fun x => if x.id = n then { x with record := some seq, ans := none } else x } w.part
        fun x => { x with tfSeq := seq + 1 }).raise w.part 1)) ∧
    (∀ ans, s.recordWalk p rec = some w → Quiet s →
      let code := match ans with
        | .retry => 1
        | .deny => 3
      let put : State := { s with mem := memWrite s.mem (s.recordAddr p rec + 24) 8 code }
      (w.ans.getD ans = .retry → exec (.translationFaultAnswer p rec ans) s = .next (State.answered { put with
        walks := s.walks.map fun x => if x.id = w.id then { x with miss := false, record := none, ans := none } else x } w)) ∧
      (w.ans.getD ans = .deny → put.denyWaits w.id = true →
        exec (.translationFaultAnswer p rec ans) s = .next put.latchAnswers) ∧
      (∀ va, w.ans.getD ans = .deny → put.denyWaits w.id = false →
        s.strands.filter (fun t => (t.stall w.id).isSome) = [s.st] → s.st.stall w.id = some (none, va) → put.taskStalls w = [] →
        (∀ x ∈ s.accs, x.walk.map (·.1) ≠ some w.id) → put.risky = false →
        ∃ s', exec (.translationFaultAnswer p rec ans) s = .next s' ∧ s'.mem = put.mem ∧
          s'.walks = s.walks.filter (fun x => x.id != w.id) ∧
          s'.cmds = s.cmds.map (fun c => if c.walk.map (·.1) = some w.id then c.denied else c) ∧
          s'.st = (State.takeFault { s with st := { s.st with status := .ready } } 0x0302 s.st.pc (BitVec.ofNat 64 va)).st)) ∧
    (∀ cell line, exec (.ldcLineEviction cell true line) s =
        .next (s.modCluster (clusterOf cell) fun k => { k with
          ldc := Tab.erase k.ldc line, filled := Tab.erase k.filled line, flawed := k.flawed.filter (· != line) }) ∧
      exec (.ldcLineEviction cell false line) s = .next (s.modCell cell fun c => { c with
        ldc := Tab.erase c.ldc line, filled := Tab.erase c.filled line, fetch := Tab.erase c.fetch line
        flawed := c.flawed.filter (· != line) }))

/-- R97, R130, R131, R153, R154, R303, R304: the events that execute. A vector instruction in the sequencer executes,
or takes its fault at the boundary before it; the engine completes the oldest `trd` or `twr`; a product applies one
step; an encoding fault; the watchdogs' expiry. (That 0x0901 names address 0 is the model's choice, log entry 71; so is that a
tile error replaces an earlier one, log entry 76.) -/
def Obligations.ExecutionEvents : Prop :=
  ∀ (s s1 s2 : State) (p : Nat),
    (∀ e, s.parked = [] → s.async = false → s.st.vq = [e] → e.body = false → e.started = false → e.walk = none →
      s.st.status = .ready → s.unsettledBefore s.st.uid e.num = false →
      (runEntry s e = .ok s1 → s1.st.vq = [e] → s1.st.stepping = false → s1.st.undo = none → s1.accs = [] →
        exec (.sequencerExecute s.st.cell) s = .next { s1 with st := { s1.st with vq := [], saves := [] } }) ∧
      (∀ cause addr, runEntry s e = .error (.trap cause addr) →
        exec (.sequencerExecute s.st.cell) s = .next (State.takeFault { s.undoFrom e with
          st := { (s.undoFrom e).st with vq := [], status := .ready } } cause e.pc (BitVec.ofNat 64 addr)))) ∧
    (∀ c rest, s.st.status = .ready → s.st.vq = [] → s.st.tileq = c :: rest →
      let x := s.tileOf s.st c.t
      exec (.tileCommandExecute s.st.uid) s = .next s.runTileCmd ∧
      (x.tag ≠ c.f → x.tag ≠ .raw → s.runTileCmd = { s with st := { s.st with tileq := rest, terr := some c.pc } }) ∧
      (x.tag = c.f ∨ x.tag = .raw → c.read = true → s.flips = [] → x.poison = [] →
        s.runTileCmd.st = { s.st with tileq := rest }.putRegs c.f c.v (packElems c.f.bits ((List.range 128).map fun j =>
          x.get (128 * c.row + j) % 2 ^ c.f.bits)) 0 (128 * c.f.bits / 512))) ∧
    (∀ i len, s.st.status = .ready → s.mayIssue s.st = true → s.fetchAt s.st s.st.pc.toNat = .ok (.ok i len, s1) →
      let s0 : State := { s1 with st := { s1.st with npc := s1.st.pc + BitVec.ofNat 40 (2 * len), status := .ready } }
      productOne i s0 = some (.ok s2) →
      exec (.macroOpStep s.st.uid) s = .next (s2.keepUndo s0 s0.st.vnum) ∧ (s1.st.vq = [] → s2.keepUndo s0 s0.st.vnum = s2)) ∧
    (∀ (cause : BitVec 16) addr, exec (.illegalEncoding cause addr) s = .next (if s.faultTurn then
      s.takeFault cause.toNat s.st.pc addr else { s with st := { s.st with status := .blocked .issue } })) ∧
    (s.watchdogDue s.st = true → s.st.status = .ready → s.st.vq = [] →
      exec (.strandWatchdogExpiry s.st.uid) s =
        .next (State.takeFault { s with st := { s.st with top := none, wdue := false } } 0x0901 s.st.pc 0)) ∧
    ((s.part p).w 19 ≠ 0 → (s.part p).wdLeft = 0 → (s.part p).live = true → (s.part p).resetting = none →
      exec (.partitionWatchdogExpiry p) s = .next (s.modPart p fun x => { x with
        resetting := some 1, fn := { x.fn with pstate := 2 } }))

/-! ### Tasks, launches, fault domains -/

/-- R215, R216, R247, R297, R298: a ready task joins its deque, or is skipped when its knot's count is the one it
names; the owner of a cluster takes the oldest task of its deque: one of kind 0 becomes a message for the lowest cell with room, the
product of one of kind 1 runs on the cluster's engine and the task retires, the descriptor of one of kinds 2 to 4 becomes a
command of its engine, and a fault of these is fatal; a due steal attempt takes the newest task of the victim that R298 gives,
dispatching it at once where it can, or fails and is counted. -/
def Obligations.TaskEvents : Prop :=
  ∀ (s : State) (p n k : Nat) (t : Task) (l : Launch) (rest : List (Nat × Task × Launch)),
    ((s.part p).taskAt n = some t → (s.part p).launch? t.launch = some l →
      (t.stage = .waiting → t.placed = false → (s.part p).waiterRoom t.wev = false → exec (.taskReady p n) s = .next s) ∧
      (t.stage = .waiting → t.placed = false → (s.part p).waiterRoom t.wev = true →
        t.wcnt ≤ ((s.part p).event t.wev).count.toNat → ((s.part p).event t.wev).waiters = [] →
        ∃ s', exec (.taskReady p n) s = .next s' ∧ s'.st = s.st ∧ s'.mem = s.mem ∧
          (s'.part p).event t.wev = ⟨((s.part p).event t.wev).count - BitVec.ofNat 32 t.wcnt, []⟩ ∧
          (s'.part p).tasks = (s.part p).tasks.map fun y => if y.key = n then { y with placed := true, stage := .ready } else y) ∧
      (t.stage = .ready → t.skips = false → exec (.taskReady p n) s = .next (s.enqueue p l t) ∧
        ((s.enqueue p l t).cluster (dequeOf l t)).deque = (s.cluster (dequeOf l t)).deque ++ [(p, n)] ∧
        ((s.enqueue p l t).cluster (dequeOf l t)).arrived = true) ∧
      (t.stage = .ready → t.skips = true → Quiet s →
        let j := (t.words.getD 2 0).toNat % 2 ^ 24
        let s1 := s.traceOn p t.die 13 0 0xFFFFF true l.eff.corr.toNat j (s.knot p j).count s.now
        (s.knotLive p j = false → exec (.taskReady p n) s =
          .next (s.fatal p l.num t.cell 0 0 0x0701 0 (BitVec.ofNat 64 j))) ∧
        (s.knotLive p j = true → s.settled p j = false → exec (.taskReady p n) s = .next s) ∧
        (s.knotLive p j = true → s.settled p j = true → (s.knot p j).count = (t.words.getD 3 0).toNat →
          exec (.taskReady p n) s = .next ((s1.traceTask p t 4 false).retireTask p n true)) ∧
        (s.knotLive p j = true → s.settled p j = true → (s.knot p j).count ≠ (t.words.getD 3 0).toNat →
          exec (.taskReady p n) s = .next (s1.enqueue p l t)))) ∧
    (s.dequeTasks k = (p, t, l) :: rest → s.dispatchable p l t k = true →
      (∀ cell, t.kind = 0 → s.taskCell l k = some cell →
        ∃ s', exec (.taskDispatch k) s = .next s' ∧ s'.st = s.st ∧ s'.parked = s.parked ∧
          (s'.cell cell).inbox = (s.cell cell).inbox ++ [t.msg s.nextId p cell] ∧ (s'.cluster k).arrived = true ∧
          (∀ j, (p, t.key) ∉ (s'.cluster j).deque) ∧
          ∀ y ∈ (s'.part p).tasks, y.key = t.key → y.stage = .running ∧ y.cluster = k) ∧
      (t.kind = 1 →
        let run := t.product { s with st := t.engineStrand (s.cellZero k) p }
        (∀ s1, run = .ok s1 → s1.st.pc ≠ 0 → exec (.taskDispatch k) s =
          .next ((State.takeTask { s1 with st := s.st } p t k).retireTask p t.key false)) ∧
        (∀ s1, run = .ok s1 → s1.st.pc = 0 → exec (.taskDispatch k) s =
          .next ((State.beginTask { s1 with st := s.st } p t k).modTask p t.key fun t => { t with top := s1.st.top })) ∧
        (∀ cause addr, run = .error (.trap cause addr) → exec (.taskDispatch k) s = .next ((s.takeTask p t k).fatal
          p t.launch t.cell 0 0 cause 0 (BitVec.ofNat 64 addr)))) ∧
      (2 ≤ t.kind →
        (∀ ws stack s1, s.taskDesc (t.unit k p) t = .ok (ws, stack, s1) →
          let cmd := t.cmd s1.nextId (s.cellZero k) p ws stack
          (s1.engineQueue cmd.engine.1 cmd.engine.2.1).length < cmd.engine.2.2 → exec (.taskDispatch k) s =
            .next { s1.takeTask p t k with cmds := s1.cmds ++ [cmd], nextId := s1.nextId + 1 }) ∧
        (∀ cause addr, s.taskDesc (t.unit k p) t = .error (.trap cause addr) → exec (.taskDispatch k) s =
          .next ((s.takeTask p t k).fatal p t.launch t.cell 0 0 cause 0 (BitVec.ofNat 64 addr))))) ∧
    (∀ own, s.clusterOwner k = some own → (s.cluster k).attempts.toNat < (s.cluster k).counter.toNat / 64 →
      let victim := k / 64 * 64 + (k % 64 + 1 + (prv64 (BitVec.ofNat 64 (k % 64)) (s.cluster k).attempts).toNat % 63) % 64
      let s1 := s.modCluster k fun c => { c with attempts := c.attempts + 1 }
      let tail := ((s.dequeTasks victim).filter fun e => !e.2.1.stolen).getLast?
      ((∀ e, tail = some e → e.2.1.pinned = true ∨ e.2.2.inCluster k = false) → ((s.cluster k).failed + 1) % 65536 ≠ 0 →
        exec (.stealAttempt k) s = .next (s1.modCluster k fun c => { c with failed := c.failed + 1, failedSince := c.failedSince + 1 })) ∧
      (tail = some (p, t, l) → t.pinned = false → l.inCluster k = true →
        let s2 := (s1.traceSteal own k true).steal p t k
        let t1 := { t with stolen := true }
        exec (.stealAttempt k) s = .next (if s2.dispatchable p l t1 k = true then s2.dispatch p l t1 k else s2)))

/-- R15, R16, R17, R286, R287, R288, R289, R290, R296: a launch is refused with the first code that applies or
accepted with the next number, and a fixed set of a gang that is not aligned gives code 0x0C; the head of the queue, once its
acceptance has been reported, takes its fixed cells, the lowest eligible ones, or the lowest eligible gangs, and its HBM; it is
placed step by step, woken cell by cell, and ends when nothing of it is left. -/
def Obligations.LaunchEvents : Prop :=
  ∀ (s s1 s2 : State) (p n cell : Nat) (cmd : LaunchCmd) (rest : List LaunchCmd) (c : Machine.Chain) (l : Launch) (ws : List Word),
    ((s.part p).pending = cmd :: rest → (s.part p).resetting = none →
      let s0 := s.setPart p { s.part p with pending := rest }
      readChain s0 (s.part p).homeDie p cmd.asid cmd.rcb.toNat cmd.uab.toNat 8 = (s1, c) →
      (c.stop = 1 → c.code s1 p cmd = 1) ∧
      (c.code s1 p cmd ≠ 0 → exec (.launchAccept p) s = .next (s1.answer p cmd (c.code s1 p cmd) 0)) ∧
      (c.code s1 p cmd = 0 → c.stop = 0 →
        engWords s1 (unitCtx (s.part p).homeDie p cmd.asid c.eff.cbankUab.toNat) c.eff.cbank.toNat 256 = (s2, .ok ws) →
        let num := (s2.part p).nextLaunch
        let crooked := cmd.fixed = true ∧ c.eff.gang ≠ 0 ∧ (cmd.first % 16 ≠ 0 ∨ clusterOf cmd.first % 2 ^ c.eff.gang ≠ 0)
        (crooked → exec (.launchAccept p) s = .next (s2.answer p cmd 0x0C 0)) ∧
        (¬crooked → exec (.launchAccept p) s = .next ((s2.modPart p fun x => { x with
          nextLaunch := num + 1, launches := x.launches ++ [newLaunch num cmd c]
          claims := if c.eff.clmLen = 0 ∨ 1024 ≤ x.claims.length then x.claims
            else x.claims ++ [(num, c.eff.seed, c.eff.clmFirst, c.eff.clmLen)] }).answer p cmd 0 num)))) ∧
    (s.queueHead p = some l → l.stage = .queued → (s.part p).resetting = none → (s.part p).ending l = false →
      s.accepting p l.num = false → ∀ cs, s.chooseSet p l [] = some cs → (s.part p).hbmUsed + l.eff.hbm ≤ (s.part p).quota →
        (l.fixed = false → l.eff.gang = 0 →
          cs = ((s.cellsOf p).filter (s.cellEligible p l [])).take l.eff.cells ∧ cs.length = l.eff.cells) ∧
        (l.fixed = false → l.eff.gang ≠ 0 →
          let all (k : Nat) := (List.range (16 * 2 ^ l.eff.gang)).map (s.cellZero k + ·)
          cs = ((((s.part p).gangs l.eff.gang).filter fun k => (all k).all (s.cellEligible p l [])).flatMap all).take l.eff.cells ∧
            cs.length = l.eff.cells) ∧
        (l.fixed = true → (∀ k ∈ cs, s.cellEligible p l [] k = true) ∧
          cs = (List.range l.eff.cells).map ((if l.eff.gang = 0 then l.first else l.first / 16 * 16) + ·)) ∧
        exec (.launchPlacement p) s = .next (s.modPart p fun x => x.modLaunch l.num fun y =>
          { y with stage := .placing, cellSet := cs, placed := 0, hbmHeld := true })) ∧
    ((s.part p).launches.find? (fun l => l.stage == .placing) = some l →
      (l.placed + 1 < l.steps → exec (.placementStep p) s =
        .next (s.modPart p fun x => x.modLaunch l.num fun y => { y with placed := y.placed + 1 })) ∧
      (l.steps ≤ l.placed + 1 → exec (.placementStep p) s = .next (s.modPart p fun x => { x.modLaunch l.num (fun y => { y with
        placed := l.steps, stage := .woken, wakeDue := l.cellSet
        slotsUsed := y.slotsUsed + l.cellSet.length * (l.eff.spc + 1) }) with
        dead := x.dead.filter fun h => !(homesOf l.cellSet).contains h }))) ∧
    ((s.part p).launch? n = some l → l.stage = .woken → cell ∈ l.wakeDue → (s.part p).ending l = false →
      (s.part p).resetting = none →
      let left := l.wakeDue.filter (· != cell)
      let s0 := s.modPart p fun x => x.modLaunch n fun y => { y with wakeDue := left, stage := if left = [] then .running else .woken }
      exec (.wakeMessage p n cell) s = .next (s0.startResidents p l cell
        ((l.cellSet.filter (· < cell)).length * (l.eff.spc + 1)) (List.range (l.eff.spc + 1)))) ∧
    ((s.part p).launch? n = some l → s.launchOver p l = true → (s.part p).ending l = false →
      ∃ s', exec (.launchEnd p n) s = .next s' ∧ s'.mem = s.mem ∧ s'.st = s.st ∧ s'.parked = s.parked ∧
        (s'.part p).launches = (s.part p).launches.filter (fun y => y.num != n) ∧
        (s'.part p).claims = (s.part p).claims.filter (fun y => y.1 != n) ∧
        (∀ k, Tab.has (s'.cell k).cbank (p * 2 ^ 32 + n) = false) ∧
        (∀ u, l.launcher = some u → (s.strand? u).isSome = true →
          ∃ y, s'.cmds = s.cmds ++ [y] ∧ y.kind = 7 ∧ y.stage = 3 ∧ y.status = 0 ∧ y.daddr = l.rcb ∧ y.w2 = n))

/-- R13, R18, R292, R293, R294, R327, R328: suspension and restoration. A spilled strand's frame stands in the spill area, and
the strand has no slot; a restored strand takes the lowest free slot with what its frame holds, a reserved bit set is fatal; a
suspended launch at the head of the queue runs again with its tiles, and the homes of its cells answer. A frame loaded gives
the registers that it was made from; frames and tile images do not overlap. (The model's choices: which frame a context takes,
log entry 109; the address that the fatal frame names, log entry 67; where the images and the frames beyond those of the slots
stand, log entries 68 and 109; the bits of the rank that a frame does not hold, log entry 108.) -/
def Obligations.SpillAndRestore : Prop :=
  ∀ (s : State) (t : Strand) (l : Launch) (p n slot : Nat) (h : Bool),
    (s.launchOf s.st = some l → l.stage = .suspended → s.st.status = .ready → s.st.vq = [] → s.st.tileCount = 0 →
      s.st.top = none → (∀ x ∈ s.accs, x.uid ≠ s.st.uid) → Quiet s → s.st.badWords = [] →
      ∃ s1 : State, exec (.strandSpill s.st.uid) s = .next (s1.saveTiles s.st.part l) ∧ s1.parked = s.parked ∧
        s1.st = { s.st with frame := some (s.chooseFrame s.st), status := .spilled false } ∧
        s1.mem = memPutWords s.mem (s.frameAt s.st.part (s.chooseFrame s.st)) s.st.frameWords ∧
        (s.st.act = true → (s1.part s.st.part).launch? s.st.launch = some { l with slotsUsed := l.slotsUsed - 1 })) ∧
    ((∀ x ∈ s.strands, x.part = s.st.part → x.uid ≠ s.st.uid → x.frame ≠ some (s.slotFrame s.st)) →
      s.chooseFrame s.st = (s.part s.st.part).cellIndex s.st.cell * 8 + s.st.slot) ∧
    (∀ x ∈ s.strands, x.part = s.st.part → x.uid ≠ s.st.uid → x.frame ≠ some (s.chooseFrame s.st)) ∧
    (let slots := 8 * (s.part p).cellCount
     let base := (s.part p).w 17
     (∀ f, f < slots → s.frameAt p f = base + 4096 * f) ∧
     (∀ f place, s.frameAt p f + 4096 ≤ s.imageAddr p place ∨ s.imageAddr p place + 196672 ≤ s.frameAt p f) ∧
     (∀ f g, f ≠ g → s.frameAt p f + 4096 ≤ s.frameAt p g ∨ s.frameAt p g + 4096 ≤ s.frameAt p f) ∧
     (∀ i j, i < j → s.imageAddr p i + 196672 ≤ s.imageAddr p j)) ∧
    (s.strand? n = some t → t.status = .spilled h → s.openSlot t.cell = some slot → s.launchOf t = some l →
      (s.part t.part).runs l = true → s.flips = [] → s.poison = [] →
      let ws := memWords s.mem (s.frameAddr t) 512
      let t1 : Strand := { t.load ws with
        status := if h then .halted else .ready, slot := slot, frame := none, age := 0, waited := 0, bpDone := h && t.bpDone }
      let s1 := s.modStrand n fun _ => t1
      (frameBad ws = false → exec (.contextRestore n) s = .next (if t1.act = true then
        s1.modPart t.part fun x => x.modLaunch t1.launch fun l => { l with slotsUsed := l.slotsUsed + 1 } else s1)) ∧
      (frameBad ws = true →
        exec (.contextRestore n) s =
          .next (s.fatal t.part t.launch t.cell t.slot t.uid 0x0303 t.pc (BitVec.ofNat 64 (s.frameAddr t))))) ∧
    (s.queueHead p = some l → l.num = n → l.stage = .suspended → (s.chooseSet p l []).isSome = true →
      (s.part p).ending l = false → (s.part p).resetting = none → (∀ t ∈ s.strands, t.part = p → t.launch ≠ n) →
      exec (.launchRestore p n) s = .next ((l.savedTiles.foldl (fun s e => s.restoreTile p l e) s).modPart p fun x =>
        { x.modLaunch n fun y => { y with savedTiles := [], stage := if y.wakeDue = [] then .running else .woken } with
          dead := x.dead.filter fun h => !(homesOf l.cellSet).contains h })) ∧
    (∀ k m place x, m < 8 → s.getImage (s.imageAddr p place) = (.ok x, s) →
      ((s.restoreTile p l (k, m, place)).cluster k).tile m = x) ∧
    (t.frameWords.length = 512 ∧
      (t.g.get 0 = 0 → t.gtag.get 0 = .raw → t.m.get 0 = BitVec.allOnes 512 → t.vl ≤ 512 →
        (t.gc = 1 ∨ t.gc = 2 ∨ t.gc = 4 ∨ t.gc = 8) → t.pc.getLsbD 0 = false → t.trapv.getLsbD 0 = false →
        t.fpc.getLsbD 0 = false →
        let u := t.load t.frameWords
        u.pc = t.pc ∧ u.act = t.act ∧ u.g = t.g ∧ u.gtag = t.gtag ∧ u.v = t.v ∧ u.vtag = t.vtag ∧ u.m = t.m ∧ u.fc = t.fc ∧
        u.gc = t.gc ∧ u.vl = t.vl ∧ u.trapv = t.trapv ∧ u.wdog = t.wdog ∧ u.wleft = t.wleft ∧ u.rmode = t.rmode ∧
        u.uab = t.uab ∧ u.handler = t.handler ∧ u.fcause = t.fcause ∧ u.fpc = t.fpc ∧ u.faddr = t.faddr ∧ u.rstat = t.rstat ∧
        u.rank = t.rank ∧ u.lin = t.lin ∧ u.gen = t.gen ∧ u.popId = t.popId ∧ u.coord = t.coord ∧ u.tag = t.tag ∧ u.src = t.src))

/-- R323, R324, R325, R326, R327, R357, R359: the end of a fault domain, phase by phase, and a partition's reset. The
stop ends the launches' running; the dump's header shows that a free buffer is being written, then the records stand there and
vector 3 is raised; a reset abandons it; from the teardown point on the homes are dead; the release zeroes the SRAM of the
cells and ends the launches. After a reset nothing of the partition lives. -/
def Obligations.DomainEvents : Prop :=
  ∀ (s : State) (p : Nat) (e : DomainEnd),
    ((s.part p).inPhase 0 = some e → (s.part p).resetting = none →
      let ts := s.strandsOf p ((s.part p).subtree e.fdom)
      ((∃ t ∈ ts, (t.status = .stopped ∧ s.atRest t = false) ∨ (t.status ≠ .stopped ∧ t.inSlot = true ∧ s.canStop t = false)) →
        exec (.fatalFaultStop p) s = .next s) ∧
      ((∀ t ∈ ts, (t.status = .stopped → s.atRest t = true) ∧ (t.status ≠ .stopped → t.inSlot = true → s.canStop t = true ∧
          (let s1 := (s.focus t.uid).takeBack; s1.atRest s1.st = true))) →
      let s0 := (ts.filter (·.inSlot)).foldl (fun s t => s.stopStrand t.uid) s
      let full := 4 ≤ ((s0.part p).ends.filter fun e => e.phase == 1).length
      exec (.fatalFaultStop p) s = .next (s0.modPart p fun x => { x with
        launches := x.launches.map fun l => if e.fdom ∈ l.fdoms then { l with stage := .ending } else l
        dumpLost := if full then x.dumpLost + 1 else x.dumpLost
        ends := x.ends.map fun y => if y.fdom = e.fdom then { y with phase := if full then 2 else 1, dumped := !decide full } else y }))) ∧
    (s.st.status = .ready → s.st.vq = [] → s.stopStrand s.st.uid =
      { s with st := { s.st with status := .stopped, stepping := false, top := none } }) ∧
    (let base := (s.part p).w 15
     ((s.part p).resetting = none → (∀ y ∈ (s.part p).ends, y.writing = false) → (s.part p).inPhase 1 = some e →
       memRead s.mem base 1 % 4 = 0 → Quiet s →
       exec (.dumpWrite p) s = .next (State.modEnd { s with mem := memPutWords s.mem base (1
           :: BitVec.ofNat 64 (e.fdom % 2 ^ 12 + e.launch % 2 ^ 32 * 2 ^ 12)
           :: BitVec.ofNat 64 (e.cause % 2 ^ 16 + e.cell % 2 ^ 20 * 2 ^ 16 + e.slot % 8 * 2 ^ 36)
           :: [BitVec.ofNat 64 e.pc, e.addr, BitVec.ofNat 64 e.time, 0, (s.part p).dumpLost.zeroExtend 64]) }
         p e.fdom fun y => { y with writing := true })) ∧
     ((s.part p).resetting = none → (s.part p).ends.find? (fun y => y.writing) = some e →
       ∀ s1 fin trunc, putRecs s base ((s.part p).w 16 % 2 ^ 48) 64 64 (s.dumpRecs p e) = (s1, fin, trunc) →
       exec (.dumpWrite p) s = .next ((State.modEnd ((s1.writeWords (base + 48) [BitVec.ofNat 64 fin]).writeWords base
           [BitVec.ofNat 64 (2 + bitOf trunc * 2 ^ 2 + min 255 e.secondary.length * 2 ^ 8)])
         p e.fdom fun y => { y with phase := 2, writing := false }).raise p 3)) ∧
     ((s.part p).resetting.isSome = true → exec (.dumpWrite p) s = .next s)) ∧
    ((s.part p).inPhase 2 = some e →
      (∀ a ∈ s.accs, a.done = false → homeOf a.pa ∉ s.subtreeHomes p e.fdom) →
      exec (.teardownPoint p) s = .next ((s.modPart p fun x => { x with dead := x.dead ++ s.subtreeHomes p e.fdom }).modEnd p e.fdom
        fun e => { e with phase := 3 })) ∧
    ((s.part p).inPhase 3 = some e →
      ∃ s', exec (.domainRelease p) s = .next s' ∧
        (∀ l ∈ (s'.part p).launches, e.fdom ∉ l.fdoms) ∧ (∀ y ∈ (s'.part p).ends, y.fdom ≠ e.fdom) ∧
        (∀ c ∈ s.subtreeCells p e.fdom, (s.part p).dead.contains (homeOf (sramBase c)) = true → ∀ a, sramBase c ≤ a → a < sramBase c + 2 ^ 18 → memGet s'.mem a = 0)) ∧
    ((s.part p).resetting.isSome = true → s.quiet p = true →
      ∃ s', exec (.partitionReset p) s = .next s' ∧ (∀ t ∈ s'.strands, t.status ≠ .free → t.part ≠ p) ∧
        (∀ c ∈ s'.cmds, c.part ≠ p) ∧ (∀ m ∈ s'.flight, m.part ≠ p) ∧ (∀ w ∈ s'.walks, w.part ≠ p) ∧
        (s'.part p).launches = [] ∧ (s'.part p).pending = [] ∧ (s'.part p).tasks = [] ∧ (s'.part p).events = [] ∧
        (s'.part p).regions = [] ∧ (s'.part p).pops = [] ∧ (s'.part p).nextLaunch = 1 ∧ (s'.part p).resetting = none ∧
        (s'.part p).fn.pstate = 1 ∧ (s'.part p).fn.ipend.getLsbD 4 = true ∧
        (s'.part p).fn.lqHead = (s.part p).fn.lqTail ∧ (s'.part p).fn.mqHead = (s.part p).fn.mqTail)

/-! ### The host, the debugger, boot and power -/

/-- R285, R348, R349, R350, R351, R353, R359: what the host's accesses to a live partition's function do: an aligned
access through BAR2, tails and sizes (a bad one is ignored and sets qerr), the result queue's head, the interrupt
registers, the reset request, and the taking of queue entries. R354, R355, R356, R357: a partition becomes live with
empty units and zeroed SRAM; a write that overlaps another or passes the ASID range, or while no hypervisor runs (R362, R364),
is ignored; losing a device raises
vector 5 and resets the partitions that span it; the live planes are within those that the configuration record lists.
The model's own choices here: the order of a message entry's statuses and status 3 for its reserved fields (log entry 86), one
access of BAR2 as one step whose value read is kept in barRead (log entry 89), and the planes as an event names them (log
entry 99). An access whose home another device is is not meant here (log entry 9). -/
def Obligations.HostAndPartitionEvents : Prop :=
  (∀ (s : State) (p off n pa : Nat) (x size : Word) (v : BitVec 32) (bits : BitVec 6) (q : HostQueue) (e : TlbEntry),
    let f := (s.part p).fn
    let becomes (i : Instr) (f' : HostFn) := exec i s = .next (s.modPart p fun y => { y with fn := f' })
    (s.part p).live = true →
    (n = 1 ∨ n = 2 ∨ n = 4 ∨ n = 8 → off % n = 0 → off + n ≤ 2 ^ 44 → p < 16 → Quiet s →
      (s.die (s.part p).homeDie).tlb.find? (fun e => e.hits f.hasid off) = some e →
      s.remote pa = false →
      (s.permit p e off true false false = .ok ⟨pa, false⟩ → exec (.hostBar2Access p false off n x) s =
        .next { s.modPart p fun y => { y with fn := { y.fn with barRead := BitVec.ofNat 64 (memRead s.mem pa n) } } with
          nextId := s.nextId + 1 }) ∧
      (s.permit p e off false true false = .ok ⟨pa, false⟩ → (∀ a, s.sweepWeight a = 0) →
        exec (.hostBar2Access p true off n x) s =
          .next { s with mem := memWrite s.mem pa n x.toNat, nextId := s.nextId + 1 })) ∧
    becomes (.launchQueueDoorbell p v)
      (if (v - f.lqHead).toNat ≤ 2 ^ f.lqSize then { f with lqTail := v } else { f with qerr := true }) ∧
    becomes (.messageQueueDoorbell p v)
      (if (v - f.mqHead).toNat ≤ 2 ^ f.mqSize then { f with mqTail := v } else { f with qerr := true }) ∧
    (f.results = [] → becomes (.resultQueueHeadWrite p v) { f with rqHead := v }) ∧
    (f.results = [] →
      let k := size.toNat % 32
      let heads := match q with
        | .launch => (f.lqHead, f.lqTail)
        | .message => (f.mqHead, f.mqTail)
        | .result => (f.rqHead, f.rqTail)
      (heads.1 ≠ heads.2 ∨ ¬(k = 0 ∨ 4 ≤ k ∧ k ≤ 12) → becomes (.queueSizeWrite p q size) { f with qerr := true }) ∧
      (heads.1 = heads.2 → k = 0 ∨ 4 ≤ k ∧ k ≤ 12 → becomes (.queueSizeWrite p q size) (match q with
        | .launch => { f with lqSize := k }
        | .message => { f with mqSize := k }
        | .result => { f with rqSize := k }))) ∧
    becomes (.ipendClear p bits) { f with ipend := f.ipend &&& ~~~bits } ∧
    (∃ sent, becomes (.imaskWrite p bits) { f with imask := bits, sent := sent ++ f.sent } ∧
      ∀ k, k ∈ sent ↔ k < 6 ∧ f.ipend.getLsbD k = true ∧ f.imask.getLsbD k = true ∧ bits.getLsbD k = false) ∧
    becomes (.qerrClear p) { f with qerr := false } ∧
    ((s.part p).resetting = none → exec (.rstreq p) s = .next (s.modPart p fun y => { y with
      resetting := some 1, fn := { y.fn with pstate := 2 } })) ∧
    ((s.part p).launchEntryDue = true →
      let w j := memRead s.hostMem (f.lqBase.toNat + f.lqHead.toNat % 2 ^ f.lqSize * 64 + 8 * j) 8
      ∃ cmd, exec (.hostLaunchEntry p) s = .next (s.modPart p fun y => { y with
          pending := y.pending ++ [cmd], fn := { y.fn with lqHead := y.fn.lqHead + 1 } }) ∧
        cmd.rcb = BitVec.ofNat 64 (w 0) ∧ cmd.uab = BitVec.ofNat 8 (w 1) ∧ cmd.asid = w 1 / 2 ^ 8 % 2 ^ 13 ∧
        cmd.fixed = bitAt (w 1) 21 ∧ cmd.first = w 2 % 2 ^ 20 ∧ cmd.htag = BitVec.ofNat 64 (w 3) ∧ cmd.launcher = none) ∧
    (s.messageEntryDue p = true →
      let ws := memWords s.hostMem (f.mqBase.toNat + f.mqHead.toNat % 2 ^ f.mqSize * 128) 16
      let launch := (ws.getD 8 0).toNat % 2 ^ 32
      let s1 := s.modPart p fun y => { y with fn := { y.fn with mqHead := y.fn.mqHead + 1 } }
      let reserved := (ws.getD 8 0).toNat / 2 ^ 32 ≠ 0 ∨ ∃ j, j < 6 ∧ ws.getD (10 + j) 0 ≠ 0
      ((s.part p).launch? launch = none → exec (.hostMessageEntry p) s = .next (s1.owe p ⟨3, 2, launch, ws.getD 9 0, 0⟩)) ∧
      ((s.part p).launch? launch ≠ none → imageBad ws = true ∨ reserved →
        exec (.hostMessageEntry p) s = .next (s1.owe p ⟨3, 3, launch, ws.getD 9 0, 0⟩)) ∧
      ((s.part p).launch? launch ≠ none → imageBad ws = false → ¬reserved → s.hasCell p (imageDest ws) = false →
        exec (.hostMessageEntry p) s = .next (s1.owe p ⟨3, 4, launch, ws.getD 9 0, 0⟩)) ∧
      ((s.part p).launch? launch ≠ none → imageBad ws = false → ¬reserved → s.hasCell p (imageDest ws) = true →
        ∃ m, exec (.hostMessageEntry p) s = .next (s1.depart m) ∧ m.dst = imageDest ws ∧ m.src = imageDest ws ∧
          m.part = p ∧ m.launch = launch ∧ m.host = some (ws.getD 9 0)))) ∧
  (∀ (s : State) (p dev : Nat) (w0 : Word) (planes : BitVec 32),
    let w := Nat.land w0.toNat 0x7FFFFFFFFFF07
    (16 ≤ p ∨ s.boot.serving = false ∨ (s.part p).live = true ∨ bitAt w 0 = false ∨ 8192 < w / 2 ^ 24 % 2 ^ 13 + w / 2 ^ 37 % 2 ^ 14 ∨ s.clashes p w = true →
      exec (.partitionLive p w0) s = .next s) ∧
    (p < 16 → s.boot.serving = true → (s.part p).live = false → bitAt w 0 = true → w / 2 ^ 24 % 2 ^ 13 + w / 2 ^ 37 % 2 ^ 14 ≤ 8192 → s.clashes p w = false →
      Canonical s → (s.part p).desc.length = 20 → (∀ j, (s.part p).w 13 ≤ j → j < (s.part p).w 13 + 32 → 2 ^ 48 ≤ j ∨ j < 2 ^ 39) →
      ∃ s', exec (.partitionLive p w0) s = .next s' ∧ (s'.part p).live = true ∧ (s'.part p).fn.pstate = 1 ∧
        (s'.part p).fn.imask = 0x3F ∧ (s'.part p).launches = [] ∧ (s'.part p).nextLaunch = 1 ∧
        s'.knot p 0 = ⟨0, 0xFFFFFF, 0, true, false, 0, 0⟩ ∧
        (s.boot.device = 0 → ∀ k ∈ (s.part p).clusters, ∀ a, sramBase (16 * k) ≤ a → a < sramBase (16 * k) + 2 ^ 22 → memGet s'.mem a = 0)) ∧
    (exec (.partitionEvent dev) s = .next (s.loseDevice dev) ∧
      ∀ q, q < 16 → (s.part q).live = true → (s.part q).peerDevices.contains dev = true → (s.part q).resetting = none →
        ((s.loseDevice dev).part q).resetting = some 1 ∧ ((s.loseDevice dev).part q).fn.ipend.getLsbD 5 = true) ∧
    (let live := if s.boot.minimal = true then 0 else planes &&& s.boot.planes
     live ≠ 0 ∨ s.power.livePlanes = 0 →
      exec (.planeChange planes) s = .next { s with power := { s.power with livePlanes := live } }) ∧
    (∀ port, exec (.flitResend port) s = .next s))

/-- R335, R341, R342, R343, R344, R347: the trace rings' registers, the debug control word and the commands: stops,
resumes, a single step, a context saved, loaded or refused; a replay that does not go on. A stop or a hardening sets its cells'
stops and goes on as STOP_COMPLETE does: a strand that it stops halts at its boundary, and the command is over when nothing is
left that it waits for. A resume, or the end of a debugger's attachment, makes every halted strand of its target ready. The
model's own choice: an op 3 hardens the stop, or takes back the step, of its own target only (log entry 50). -/
def Obligations.DebugEvents : Prop :=
  ∀ (s : State) (p d cell slot point : Nat) (w : Word) (rd : BitVec 48) (v : BitVec 4) (t : Strand),
    let g := (s.part p).dbg
    let res (r : Nat) := s.modPart p fun x => { x with dbg := { x.dbg with res := BitVec.ofNat 4 r } }
    let ops : List (Instr × Nat × Nat × Nat) := [(.debugStopCell p cell, 1, cell, 0), (.debugStopPartition p, 2, 0, 0),
      (.debugHardenStop p cell, 3, cell, 0), (.debugResumeCell p cell, 4, cell, 0), (.debugResumePartition p, 5, 0, 0),
      (.debugStep p cell slot, 6, cell, slot), (.debugContextSave p cell slot, 7, cell, slot),
      (.debugContextLoad p cell slot, 8, cell, slot)]
    let named (op c n : Nat) : State := s.modPart p fun x => { x with dbg := { x.dbg with
      op := BitVec.ofNat 4 op, cell := BitVec.ofNat 20 c, slot := BitVec.ofNat 3 n } }
    let traced (op c n target : Nat) : State := (named op c n).traceOn p
      (if target = 0xFFFFF then (s.part p).homeDie else dieOf target) 14 n target (op == 4 || op == 5) 0 op target s.now
    let answer (s : State) (r : Nat) : State := s.modPart p fun x => { x with dbg := { x.dbg with busy := false, res := BitVec.ofNat 4 r } }
    let r := Tab.get (s.part p).rings Ring.reset d
    let setRing (r' : Ring) := s.modPart p fun x => { x with rings := Tab.set x.rings d r' }
    let s0 := s.skipSamples
    let setRing0 (r' : Ring) := s0.modPart p fun x => { x with rings := Tab.set x.rings d r' }
    let hardens (op c : Nat) : Prop := op = 3 ∧ ((g.op = 1 ∧ c = g.cell.toNat) ∨ (g.op = 2 ∧ c = 0xFFFFF) ∨
      (g.op = 6 ∧ (c = g.cell.toNat ∨ c = 0xFFFFF)))
    let stopping (s : State) (cells : List Nat) : State := ((s.setStops true (cells.filter fun c => s.hasCell p c)).modPart p fun x =>
      { x with dbg := { x.dbg with busy := true } })
    let resumed (t : Strand) : Strand := match t.status with
      | .halted => { t with status := .ready, age := 0, stepping := false }
      | .spilled true => { t with status := .spilled false }
      | _ => { t with stepping := false }
    let waitedFor (t : Strand) : Prop := t.part = p ∧ t.inSlot = true ∧ t.status ≠ .halted ∧
      ((g.op = 6 ∧ t.stepping = true) ∨ (g.op = 3 ∧ s.hardens t = true) ∨
        (g.op ≠ 6 ∧ g.op ≠ 3 ∧ t.act = true ∧ g.targets t.cell = true))
    let stoppable (t : Strand) : Prop := t.part = p ∧ (s.residentStops t = true ∨ s.hardens t = true) ∧ s.canHalt t = true
    (s.sampling = true → s0 = s) ∧
    (s.sampling = false → s0 = { s with power := { s.power with
      sampled := s.power.sampled.map fun _ => s.now / 1000 * 1000 } }) ∧
    (r.en = false →
      exec (.traceRingControlWrite p d 0 w) s = .next (setRing0 { r with base := w }) ∧
      exec (.traceRingControlWrite p d 1 w) s = .next (setRing0 { r with
        size := BitVec.ofNat 32 w.toNat, en := w.getLsbD 32, wrap := w.getLsbD 33, kmask := BitVec.ofNat 16 (w.toNat / 2 ^ 34 % 2 ^ 16)
        wr := if w.getLsbD 32 then 0 else r.wr, rd := if w.getLsbD 32 then 0 else r.rd })) ∧
    (r.en = true →
      exec (.traceRingControlWrite p d 0 w) s = .next (setRing0 r) ∧
      exec (.traceRingControlWrite p d 1 w) s = .next (setRing0 { r with
        en := w.getLsbD 32, kmask := BitVec.ofNat 16 (w.toNat / 2 ^ 34 % 2 ^ 16) })) ∧
    exec (.traceRingRdAdvance p d rd) s = .next (setRing { r with rd := rd.toNat }) ∧
    (v.getLsbD 2 = false → (g.attach = true → v.getLsbD 0 = true) →
      exec (.debugControlWrite p v) s = .next (s.modPart p fun x => { x with dbg := { x.dbg with
        attach := v.getLsbD 0, recording := v.getLsbD 1, replaying := false, diverged := g.diverged && v.getLsbD 3 } })) ∧
    (∀ i op c n, (i, op, c, n) ∈ ops →
      (g.busy = true → ¬hardens op c → exec i s = .next (res 5)) ∧
      (g.busy = false → g.attach = false → exec i s = .next ((named op c n).modPart p fun x => { x with dbg := { x.dbg with res := 2 } }))) ∧
    (g.attach = true →
      (g.busy = false →
        exec (.debugStopCell p cell) s = exec (.stopComplete p) (stopping (traced 1 cell 0 cell) [cell]) ∧
        exec (.debugStopPartition p) s = exec (.stopComplete p) (stopping (traced 2 0 0 0xFFFFF) (s.cellsOf p))) ∧
      (g.busy = false ∨ hardens 3 cell → exec (.debugHardenStop p cell) s = exec (.stopComplete p)
        ((traced 3 cell 0 cell).modPart p fun x => { x with dbg := { x.dbg with busy := true } }))) ∧
    ((∀ t ∈ s.strands, ¬stoppable t) →
      (g.busy = true → (∀ t ∈ s.strands, ¬waitedFor t) → exec (.stopComplete p) s = .next (answer s 0)) ∧
      (g.busy = false ∨ (∃ t ∈ s.strands, waitedFor t) → exec (.stopComplete p) s = .next s)) ∧
    (s.parked = [] → stoppable s.st → exec (.stopComplete p) s = exec (.stopComplete p) { s.takeBack with
      st := { s.takeBack.st with status := .halted, stepping := false, bpDone := false } }) ∧
    (((s.st :: s.parked).map (·.uid)).Nodup →
      (g.busy = false → g.attach = true →
        (s.hasCell p cell = true → ∃ s', exec (.debugResumeCell p cell) s = .next s' ∧ (s'.cell cell).stopped = false ∧
          s'.strands = (s.strands.map fun t => if t.part = p ∧ t.cell = cell then resumed t else t) ∧
          (s'.part p).dbg.busy = false ∧ (s'.part p).dbg.res = 0) ∧
        (∃ s', exec (.debugResumePartition p) s = .next s' ∧ (∀ c ∈ s.cellsOf p, (s'.cell c).stopped = false) ∧
          s'.strands = (s.strands.map fun t => if t.part = p then resumed t else t) ∧
          (s'.part p).dbg.busy = false ∧ (s'.part p).dbg.res = 0)) ∧
      (v.getLsbD 2 = false → g.attach = true → v.getLsbD 0 = false →
        ∃ s', exec (.debugControlWrite p v) s = .next s' ∧ (∀ c ∈ s.cellsOf p, (s'.cell c).stopped = false) ∧
          s'.strands = (s.strands.map fun t => if t.part = p then resumed t else t) ∧ (s'.part p).dbg.attach = false)) ∧
    (g.busy = false → g.attach = true →
      (∀ i op c, (i, op, c) ∈ [(Instr.debugStopCell p cell, 1, cell), (.debugStopPartition p, 2, 0xFFFFF)] →
        s.strands.any (fun t => decide (t.part = p)) = false →
        let cells := if op = 1 then [cell].filter fun c => s.hasCell p c else (s.cellsOf p).filter fun c => s.hasCell p c
        ∃ s', exec i s = .next s' ∧ (∀ c ∈ cells, (s'.cell c).stopped = true) ∧ (s'.part p).dbg.busy = false ∧
          (s'.part p).dbg.res = 0) ∧
      (s.strands.any (fun t => decide (t.part = p)) = false →
        exec (.debugHardenStop p cell) s = .next (answer (traced 3 cell 0 cell) 0)) ∧
      (s.strands.any (fun t => decide (t.part = p)) = false → s.hasCell p cell = true →
        exec (.debugResumeCell p cell) s =
          .next (answer ((traced 4 cell 0 cell).modCell cell fun c => { c with stopped := false }) 0)) ∧
      (s.strands.any (fun t => decide (t.part = p)) = false →
        exec (.debugResumePartition p) s = .next (answer ((s.cellsOf p).foldl (fun s c =>
          s.modCell c fun c => { c with stopped := false }) (traced 5 0 0 0xFFFFF)) 0)) ∧
      (s.inSlotOf p cell slot = none →
        exec (.debugStep p cell slot) s = .next (answer (traced 6 cell slot cell) 4) ∧
        exec (.debugContextSave p cell slot) s = .next (answer (named 7 cell slot) 4) ∧
        exec (.debugContextLoad p cell slot) s = .next (answer (named 8 cell slot) 4)) ∧
      (s.inSlotOf p cell slot = some t → t.status ≠ .halted →
        exec (.debugStep p cell slot) s = .next (answer (traced 6 cell slot cell) 1) ∧
        exec (.debugContextSave p cell slot) s = .next (answer (named 7 cell slot) 1) ∧
        exec (.debugContextLoad p cell slot) s = .next (answer (named 8 cell slot) 1)) ∧
      (s.inSlotOf p cell slot = some t → t.status = .halted → Quiet s →
        let a := g.frame.toNat
        exec (.debugStep p cell slot) s = .next (((traced 6 cell slot cell).modStrand t.uid fun t => { t with
          status := .ready, stepping := true, age := 0 }).modPart p fun x => { x with dbg := { x.dbg with busy := true } }) ∧
        (s.frameOk p a = true →
          (t.badWords = [] → exec (.debugContextSave p cell slot) s = .next (answer { named 7 cell slot with mem := memPutWords s.mem a t.frameWords } 0)) ∧
          (frameBad (memWords s.mem a 512) = false →
            exec (.debugContextLoad p cell slot) s =
              .next (answer ((named 8 cell slot).modStrand t.uid fun _ => t.load (memWords s.mem a 512)) 0)) ∧
          (frameBad (memWords s.mem a 512) = true →
            exec (.debugContextLoad p cell slot) s = .next (answer (named 8 cell slot) 3))) ∧
        (s.frameOk p a = false → exec (.debugContextSave p cell slot) s = .next (answer (named 7 cell slot) 3)))) ∧
    (g.busy = true → g.op = 6 → (∀ t ∈ s.strands, t.part = p → t.status = .halted) →
      (∀ t ∈ s.strands, t.part = p → t.stepping = false) → exec (.stopComplete p) s = .next (answer s 0)) ∧
    (∀ a size, s.nextLogged p point = some (a, size) → s.diverges p point = true →
      ∃ s', exec (.replayDivergence p point) s = .next s' ∧ s'.st = s.st ∧ (s'.part p).dbg.diverged = true ∧
        point ∈ (s'.part p).log.free)

/-- R362, R363, R364, R365: boot. POWER_ON begins stage 1 with everything at reset; a failed start counts, and the
third enters minimal mode; a restart clears the count; a challenge keeps its nonce. R302, R338, R366, R367, R368:
power. A gated cluster wakes when a waiter has been served or work has arrived; a sample, once for each multiple of 1,000 ns, writes the rail; the power
manager acts once for each too: the core rails share what the limit leaves, and a die over its budget lowers its clusters above
1.1 GHz by one step, or else all of them, or at 0.5 GHz paces its HBM stacks; each clock has its voltage; a cluster above 100 °C runs at 0.5 GHz until it is below 95 °C, through a
restart too; a die above 110 °C shuts the module down, and the next boot waits until every sensor reads below 85 °C. The model's
own choices here: values at reset (log entries 1 and 2), a restart's clearing of starts and its cold state (log entry 90), the
power manager's readings and order (log entries 91 and 92). -/
def Obligations.BootAndPowerEvents : Prop :=
  (∀ (s : State) (reason : BitVec 8) (nonce : BitVec 256),
    let cool : Prop := ∀ e ∈ s.power.sensors, e.2 < 85
    (s.boot.shut = false ∨ cool → ∃ s', exec .powerOn s = .next s' ∧ s'.boot.stage = 1 ∧ s'.boot.ready = false ∧
      s'.boot.minimal = false ∧ s'.boot.starts = 0 ∧ s'.boot.reason = 0 ∧ s'.boot.shut = false ∧ s'.mem = [] ∧
      s'.st = Strand.empty ∧ s'.parked = [] ∧ s'.parts = [] ∧ s'.cells = [] ∧ s'.asids = [] ∧
      ((∀ e ∈ s.clusters, e.2.hot = false) → s'.clusters = []) ∧
      (∀ e ∈ s.clusters, e.2.hot = true → ∃ e' ∈ s'.clusters, e'.1 = e.1 ∧ e'.2.hot = true ∧ e'.2.clock = 5)) ∧
    (s.boot.shut = true → ¬cool → exec .powerOn s = .next s ∧ exec .bootRestart s = .next s) ∧
    (s.boot.powered = true → s.boot.ready = false → s.boot.minimal = false → ∃ s', exec (.bootFailedStart reason) s = .next s' ∧
      s'.boot.starts = s.boot.starts + 1 ∧ s'.boot.reason = reason ∧
      (s.boot.starts = 2 → s'.boot.minimal = true ∧ s'.boot.ready = false) ∧
      (s.boot.starts ≠ 2 → s'.boot.minimal = false ∧ s'.boot.stage = 1)) ∧
    (s.boot.stage ≠ 0 → s.boot.shut = false ∨ cool → ∃ s', exec .bootRestart s = .next s' ∧ s'.boot.starts = 0 ∧ s'.boot.stage = 1 ∧
      s'.boot.ready = false ∧ s'.mem = []) ∧
    (s.boot.powered = true → let b := { s.boot with nonce := nonce, signed := true }
      exec (.identityChallenge nonce) s = .next { s with boot := b } ∧
      ∀ n, b.signatureByte n = Config.signature ((List.range 32).map (fun j => BitVec.ofNat 8 (nonce.toNat / 256 ^ j)) ++
        (List.range 32).map (Config.recordDigest b.device b.domain b.planes b.maxPower)) n)) ∧
  (∀ (s : State) (k : Nat) (rail : Fin 18) (mA : BitVec 32) (mV : BitVec 16) (mW : Vector Nat 18) (celsius : Int),
    ((s.cluster k).gated = true → s.gateable k = false ∨ (s.cluster k).arrived = true →
      exec (.clusterUngate k) s = .next (s.modCluster k fun c => { c with gated := false })) ∧
    ((s.now < s.power.sampled.getD rail.val 0 + 1000 → exec (.powerSample rail mA mV) s = .next s) ∧
      (s.power.sampled.getD rail.val 0 + 1000 ≤ s.now → (∀ q, q < 16 → (s.part q).live = false) →
        exec (.powerSample rail mA mV) s = .next { s with power := { s.power with
          rails := s.power.rails.set rail.val (mA, mV), sampled := s.power.sampled.set rail.val
            (if s.sampling = true then s.power.sampled.getD rail.val 0 + 1000 else s.now / 1000 * 1000) } })) ∧
    ((s.now < s.power.managed + 1000 → exec (.powerManagerUpdate mW) s = .next s) ∧
      (s.power.managed + 1000 ≤ s.now →
        let budget := (s.power.limit * 1000 - ((List.range 14).map fun i => mW[4 + i]?.getD 0).sum) / 4
        let s' := (List.range 4).foldl (fun s d => s.setClocks d (mW[d]?.getD 0) budget) { s.gateClusters with
          power := { s.power with budgets := List.replicate 4 budget, managed := s.now / 1000 * 1000 } }
        exec (.powerManagerUpdate mW) s = .next s' ∧ s'.mem = s.mem ∧ s'.st = s.st ∧ s'.parts = s.parts ∧
          s'.power.budgets = List.replicate 4 budget)) ∧
    (∀ d used budget j, budget < used →
      let c := s.cluster j
      let s' := s.setClocks d used budget
      (∃ i ∈ dieClusters d, 11 < (s.cluster i).clock) →
        s'.cluster j = if j ∈ dieClusters d ∧ 11 < c.clock then c.speed false else c) ∧
    (∀ d used budget j, budget < used → (∀ i ∈ dieClusters d, (s.cluster i).clock ≤ 11) →
      (∃ i ∈ dieClusters d, (s.cluster i).clock ≠ 5) →
        (s.setClocks d used budget).cluster j = if j ∈ dieClusters d then (s.cluster j).speed false else s.cluster j) ∧
    (∀ d used budget, budget < used → (∀ i ∈ dieClusters d, (s.cluster i).clock = 5) →
      ∀ h, h ∈ (s.setClocks d used budget).power.hbmPaced ↔ h ∈ s.power.hbmPaced ∨ h = 2 * d ∨ h = 2 * d + 1) ∧
    (∀ c : Cluster, c.speed false = { c with
        clock := if c.hot then 5 else max 5 (c.clock - 1)
        millivolts := coreMillivolts (if c.hot then 5 else max 5 (c.clock - 1)) } ∧
      coreMillivolts 5 = 550 ∧ coreMillivolts 8 = 550 ∧ coreMillivolts 11 = 650 ∧ coreMillivolts 13 = 720 ∧
      coreMillivolts 15 = 800 ∧ (∀ n, 550 ≤ coreMillivolts n ∧ coreMillivolts n ≤ 800)) ∧
    (let heard (n : Nat) : State := { s with power := { s.power with sensors := Tab.set s.power.sensors n celsius } }
     (100 < celsius → exec (.clusterThermalThrottle k celsius) s =
        .next ((heard k).modCluster k fun c => { c with hot := true, clock := 5, millivolts := 550 })) ∧
     (celsius < 95 → (s.cluster k).hot = true → exec (.clusterThermalThrottle k celsius) s =
        .next ((heard k).modCluster k fun c => { c with hot := false, clock := 11, millivolts := 650 })) ∧
     (95 ≤ celsius ∨ (s.cluster k).hot = false → celsius ≤ 100 → exec (.clusterThermalThrottle k celsius) s = .next (heard k)) ∧
     (celsius ≤ 110 → exec (.thermalShutdown k celsius) s = .next (heard (256 + k))) ∧
     (110 < celsius → ∃ s', exec (.thermalShutdown k celsius) s = .next s' ∧ s'.boot.powered = false ∧ s'.boot.ready = false ∧
        s'.boot.reason = 0x0B ∧ s'.boot.shut = true ∧ s'.mem = [] ∧ s'.parked = [] ∧ s'.st = Strand.empty)))

/-- R9, R313, R314, R315: errors and registers (R324, R330, R340, R342, R346, R349, R356, R367). A flip is held until a read or the scrubber finds it: one bit is corrected, more
poison the word, and both are logged with their address, syndrome and kind, in the log's next empty entry, or for an uncorrected
error in place of the oldest other one, or else counted in lost; an uncorrected error raises vector 2 of the partition that owns
the word. A tile word is a word too; a cached line in parity error is dropped and logged by the next read. An entry is cleared;
the injection register keeps its defined bits; a register write takes the writable fields. The model's own choices here: the
syndrome is a free value (log entry 21), a power limit out of range is ignored (log entry 92), and the array that a cached line's
error is logged for (log entry 52). -/
def Obligations.ErrorEvents : Prop :=
  (∀ (s : State) (a : ArrayId) (word : Nat) (dmask : BitVec 64) (cmask : BitVec 8) (n : Fin 16) (value : Word),
    let r := s.arrayRegs a
    let at' (b : ArrayId) : ArrayId := match b with
      | .sram k => .sram (k % 4096)
      | b => b
    let w := match a with
      | .tiles k => 2 ^ 62 + k * 2 ^ 18 + word
      | _ => s.boot.device.toNat * 2 ^ 45 + word / 8
    let entry (addr kind : Nat) (f : Flip) : ErrEntry := ⟨BitVec.ofNat 64 (addr % 2 ^ 48 +
      (Config.syndrome f.dmask f.cmask).toNat * 2 ^ 48 + kind * 2 ^ 56 + (if f.inj = true then 2 ^ 58 else 0)), 0, BitVec.ofNat 64 s.now⟩
    let logged (s : State) (addr kind : Nat) (f : Flip) : State :=
      let r := s.arrayRegs (at' a)
      s.setArray (at' a) (match errSlot r.entries kind with
        | some i => { r with entries := r.entries.set i (entry addr kind f) }
        | none => { r with lost := min (r.lost + 1) (2 ^ 28 - 1) })
    let raised (owner : Option Nat) (s : State) : State := match owner with
      | some p => s.raise p 2
      | none => s
    let gone (x : Nat) : State := { s with flips := s.flips.filter fun y => y.addr != x }
    let bits (f : Flip) : Nat := countBits f.dmask.toNat 64 + countBits f.cmask.toNat 8
    (∃ t, exec (.patrolScrub a word) s = .next t ∧ t.mem = s.mem ∧ t.st = s.st) ∧
    (∃ t, exec (.softError a word dmask cmask) s = .next t ∧ t.mem = s.mem ∧ t.st = s.st) ∧
    (holdsWord a word = false → exec (.patrolScrub a word) s = .next s ∧
      ((∀ k, a ≠ .cellCache k ∧ a ≠ .clusterCache k) → exec (.softError a word dmask cmask) s = .next s)) ∧
    (holdsWord a word = true →
      ((∀ f ∈ s.flips, f.addr ≠ w) →
        exec (.softError a word dmask cmask) s = .next { s with flips := ⟨w, dmask, cmask, false⟩ :: s.flips }) ∧
      (∀ f, s.flips.find? (fun f => f.addr == w) = some f → exec (.softError a word dmask cmask) s = .next { gone w with
        flips := { f with dmask := f.dmask ^^^ dmask, cmask := f.cmask ^^^ cmask } :: (gone w).flips })) ∧
    ((∃ k, a = .sram k ∨ a = .bstore k ∨ a = .hbm k) → holdsWord a word = true →
      ((∀ f ∈ s.flips, f.addr ≠ w) → exec (.patrolScrub a word) s = .next s) ∧
      (∀ f, s.flips.find? (fun f => f.addr == w) = some f →
        (bits f = 0 → exec (.patrolScrub a word) s = .next (gone w)) ∧
        (bits f = 1 → exec (.patrolScrub a word) s = .next (logged (gone w) (w * 8) 1 f)) ∧
        (2 ≤ bits f → let t := raised (s.ownerOf (w * 8)) (logged (gone w) (w * 8) 2 f)
          exec (.patrolScrub a word) s = .next { t with poison := w :: t.poison.filter fun x => x != w }))) ∧
    (∀ k, a = .tiles k → word < 2 ^ 18 →
      ((∀ f ∈ s.flips, f.addr / 2 ≠ w / 2) → exec (.patrolScrub a word) s = .next s) ∧
      (∀ f, s.flips.filter (fun f => f.addr / 2 == w / 2) = [f] →
        let x := f.addr - (2 ^ 62 + k * 2 ^ 18)
        (bits f = 1 → exec (.patrolScrub a word) s = .next (logged (gone f.addr) x 1 f)) ∧
        (2 ≤ bits f → let t := raised (s.clusterOwner k) (logged (gone f.addr) x 2 f)
          exec (.patrolScrub a word) s = .next (t.modCluster k fun c => c.setTile (word / 2 ^ 15)
            { c.tile (word / 2 ^ 15) with poison := x % 2 ^ 15 :: (c.tile (word / 2 ^ 15)).poison })))) ∧
    (∀ p, ((s.raise p 2).part p).fn.ipend =
      if (s.part p).resetting = none then (s.part p).fn.ipend ||| 4 else (s.part p).fn.ipend) ∧
    (∀ k, exec (.softError (.cellCache k) word dmask cmask) s = .next (s.modCell k fun x =>
        if Tab.has x.ldc word ∨ Tab.has x.fetch word then { x with flawed := word :: x.flawed.filter (· != word) } else x) ∧
      exec (.softError (.clusterCache k) word dmask cmask) s = .next (s.modCluster k fun x =>
        if Tab.has x.ldc word then { x with flawed := word :: x.flawed.filter (· != word) } else x)) ∧
    exec (.errorLogEntryClear a n) s = .next (s.setArray a { r with entries := r.entries.set n.val ⟨0, 0, 0⟩ }) ∧
    exec (.injectionRegisterWrite a 0 value) s = .next (s.setArray a { r with inj0 := value &&& BitVec.ofNat 64 (2 ^ 50 - 1) }) ∧
    exec (.injectionRegisterWrite a 1 value) s = .next (s.setArray a { r with inj1 := value }) ∧
    exec (.injectionRegisterWrite a 2 value) s = .next (s.setArray a { r with inj2 := value &&& 0xFF }) ∧
    exec (.injectionRegisterWrite a 3 value) s = .next (s.setArray a r)) ∧
  (∀ (es : List ErrEntry) (kind i : Nat),
    let empty (j : Nat) : Prop := ∃ e, es[j]? = some e ∧ e.kind = 0
    let other (j time : Nat) : Prop := ∃ e, es[j]? = some e ∧ e.kind ≠ 2 ∧ e.w2.toNat = time
    (empty i → (∀ j, j < i → ¬empty j) → errSlot es kind = some i) ∧
    ((∀ j, ¬empty j) → kind ≠ 2 ∨ (∀ j time, ¬other j time) → errSlot es kind = none) ∧
    (∀ time, (∀ j, ¬empty j) → other i time → (∀ j u, other j u → time ≤ u) → (∀ j, j < i → ¬other j time) →
      errSlot es 2 = some i)) ∧
  (∀ (s : State) (c : ErrCtx) (t : Strand) (f : Fmt) (pa cell since va : Nat) (loc : Loc),
    let line := pa / 64
    let k := clusterOf cell
    let logged (s : State) (c : ErrCtx) (a : ArrayId) (addr : Nat) : State :=
      let r := s.arrayRegs a
      let e : ErrEntry := ⟨BitVec.ofNat 64 (addr % 2 ^ 48 + 3 * 2 ^ 56), if c.valid = true then
        BitVec.ofNat 64 (c.asid % 2 ^ 13 + c.cell % 2 ^ 20 * 2 ^ 13 + c.slot % 8 * 2 ^ 33 + 2 ^ 36) else 0, BitVec.ofNat 64 s.now⟩
      s.setArray a (match errSlot r.entries 3 with
        | some i => { r with entries := r.entries.set i e }
        | none => { r with lost := min (r.lost + 1) (2 ^ 28 - 1) })
    (s.ownAnswers cell line since = true → (s.cell cell).flawed.contains line = true → ldcAt s c f pa cell since =
      ldcAt (logged (s.modCell cell fun x => x.drop (· == line)) c (.sram cell) (line * 64)) c f pa cell since) ∧
    (s.ownAnswers cell line since = false → Tab.has (s.cluster k).ldc line = true → (s.cluster k).flawed.contains line = true →
      ldcAt s c f pa cell since =
        ldcAt (logged (s.modCluster k fun x => x.drop (· == line)) c (.bstore k) (line * 64)) c f pa cell since) ∧
    (let key := fetchKey t.asid va
     s.locate t va 2 false false true = .ok loc → Tab.has (s.cell t.cell).fetch key = true →
      (s.cell t.cell).flawed.contains key = true → s.fetchWord t va = (logged (s.modCell t.cell fun x => { x with
        fetch := Tab.erase x.fetch key, flawed := x.flawed.filter (· != key) }) t.ctx (.sram t.cell)
          (loc.pa / 64 * 64 % 2 ^ 48)).fetchWord t va)) ∧
  (∀ (s : State) (value : Word) (a : ArrayId) (p dev c k : Nat) (q : HostQueue),
    let v := value.toNat
    let takes (reg : CtlReg) (s' : State) : Prop := exec (.registerWrite reg value) s = .next s'
    (s.boot.serving = false → ∀ reg, takes reg s) ∧
    (∀ reg, ∃ t, takes reg t) ∧
    (s.boot.serving = true →
      let fn (f : HostFn → HostFn) : State := s.modPart p fun x => { x with fn := f x.fn }
      let h := (s.part p).fn
      let differ := match q with
        | .launch => h.lqHead ≠ h.lqTail
        | .message => h.mqHead ≠ h.mqTail
        | .result => h.rqHead ≠ h.rqTail
      let lo := ((s.part p).w 0) / 2 ^ 24 % 2 ^ 13
      ((s.part p).live = false → takes (.queueBase p q) s ∧ takes (.hasid p) s) ∧
      ((s.part p).live = true →
        (differ → takes (.queueBase p q) (fn id)) ∧
        (¬differ → takes (.queueBase p q) (fn fun f => match q with
          | .launch => { f with lqBase := value }
          | .message => { f with mqBase := value }
          | .result => { f with rqBase := value })) ∧
        takes (.hasid p) (fn fun f => if lo ≤ v % 2 ^ 13 ∧ v % 2 ^ 13 < lo + ((s.part p).w 0) / 2 ^ 37 % 2 ^ 14 then
          { f with hasid := v % 2 ^ 13 } else f)) ∧
      (value.getLsbD 0 = true → exec (.registerWrite (.descriptor p 0) value) s = exec (.partitionLive p value) s) ∧
      (k ≠ 0 ∨ value.getLsbD 0 = false →
        ((s.part p).live = true ∨ 16 ≤ p → takes (.descriptor p k) s) ∧
        ((s.part p).live = false → p < 16 → takes (.descriptor p k) (s.modPart p fun x => { x with
          desc := x.desc.set k (BitVec.ofNat 64 (Nat.land v (descriptorMask k))) }))) ∧
      (16 ≤ p ∨ dev = s.boot.device.toNat ∨ 256 ≤ dev ∨ descLive (Tab.get (s.part p).peers (List.replicate 20 0) dev) = true →
        takes (.peer p dev k) s) ∧
      (p < 16 → dev ≠ s.boot.device.toNat → dev < 256 → k ≠ 0 →
        let ws := Tab.get (s.part p).peers (List.replicate 20 0) dev
        descLive ws = false → takes (.peer p dev k) (s.modPart p fun x => { x with
          peers := Tab.set x.peers dev (ws.set k (BitVec.ofNat 64 (Nat.land v (descriptorMask k)))) })) ∧
      takes (.asidEntry c) { s with asids := Tab.set s.asids (c % 8192) (value &&& 0x00FFFFFFFFFE001F) } ∧
      takes (.breakpoint p c k) (s.modPart p fun x => { x with bps := x.bps.modify c fun b => b.put k value }) ∧
      (∀ b : Breakpoint, b.put 0 value = { b with w0 := value &&& BitVec.ofNat 64 (2 ^ 56 - 1) } ∧
        b.put 1 value = { b with w1 := value &&& BitVec.ofNat 64 (2 ^ 48 - 1) } ∧
        b.put 2 value = { b with w2 := value &&& BitVec.ofNat 64 (2 ^ 56 - 1) } ∧
        b.put 3 value = { b with w3 := value &&& BitVec.ofNat 64 (2 ^ 52 - 1) }) ∧
      takes (.debugFrame p) (s.modPart p fun x => { x with dbg := { x.dbg with frame := value } }) ∧
      (∀ (i : Instr) (op : Nat), let cell := v / 2 ^ 4 % 2 ^ 20
        let slot := v / 2 ^ 24 % 8
        (i, op) ∈ [(Instr.debugStep p cell slot, 6), (.debugContextSave p cell slot, 7), (.debugContextLoad p cell slot, 8)] →
        v % 16 = op → exec (.registerWrite (.debugCommand p) value) s = exec i s) ∧
      (v % 16 = 0 ∨ 8 < v % 16 → (s.part p).dbg.busy = false → takes (.debugCommand p) (s.modPart p fun x => { x with
        dbg := { x.dbg with op := value.truncate 4, cell := BitVec.ofNat 20 (v / 2 ^ 4), slot := BitVec.ofNat 3 (v / 2 ^ 24), res := 0 } })) ∧
      takes (.errLost a) (s.setArray a { s.arrayRegs a with lost := v / 2 ^ 4 % 2 ^ 28 }) ∧
      takes (.undeliverable c) (s.modCell c fun x => { x with undeliverable := value.truncate 32 }) ∧
      takes (.ringLost p c) (s.modPart p fun x => { x with
        rings := Tab.set x.rings c { Tab.get x.rings Ring.reset c with lost := value.truncate 32 } }) ∧
      takes (.orderLog p 0) (s.modPart p fun x => { x with log := { x.log with base := value } }) ∧
      takes (.orderLog p 1) (s.modPart p fun x => { x with log := { x.log with seg := value } }) ∧
      (2 ≤ k → takes (.orderLog p k) (s.modPart p fun x => { x with
        log := { x.log with windows := x.log.windows.set (k - 2) value } })) ∧
      (Quiet s → takes (.dumpState p) { s with
        mem := memWrite s.mem ((s.part p).w 15) 8 (memRead s.mem ((s.part p).w 15) 8 / 4 * 4 + v % 4) }) ∧
      takes .powerLimit (if 600 ≤ v ∧ v ≤ 1600 ∧ v ≤ s.boot.maxPower then { s with power := { s.power with limit := v } } else s)))

/-! ### The whole machine -/

/-- R92, R300 and the model's agenda (log entry 5): an issue turn for a strand whose words decode to `i` is `exec` of
`i` with the PC after the instruction as the next one, and the strand ready again unless it has blocked, ended or
halted, its turn of the port recorded; one that still waits to issue has not issued, and a single step is over with its
instruction. An event turn is `exec` of the event, in the next clk for a sequencer that has executed in this one; with nothing on
the agenda and no rail to sample the first due event, the next issue or time goes on. After each turn homes serve waiters (R192) and answers are taken (R322), which is nothing when none
waits. A fetched word is the two bytes of memory at its address, the lower address low. -/
def Obligations.StepRunsTheInstruction : Prop :=
  ∀ (s : State) (r : List Turn) (cell slot : Nat) (i : Instr),
    (s.agenda = .issue cell slot :: r → s.turnStrand cell slot = some s.st → s.bpHits s.st = [] →
      (s.st.loop.suspended = false ∨ s.st.handler = true) → s.sameClk (clusterOf cell) (s.cell cell).issuedAt = false →
      let s0 : State := { s with agenda := r, st := { s.st with status := .running, bpDone := true } }
      ∀ len s1 s', s0.fetchAt s0.st s0.st.pc.toNat = .ok (.ok i len, s1) →
        exec i { s1 with st := { s1.st with npc := s1.st.pc + BitVec.ofNat 40 (2 * len) } } = .next s' →
        step s = .next (State.react ((s'.issued false).modCell cell fun c =>
          { c with lastSlot := slot, issuedAt := some (s'.issued false).units }))) ∧
    ((s.part s.st.part).dbg.attach = false → s.bpHits s.st = []) ∧
    (∀ resumed,
      (s.st.status = .running → s.st.stepping = false → s.issued resumed = { s with
        st := { s.st with status := .ready, age := 0, waited := 0, bpDone := s.st.top.isSome } }) ∧
      (s.st.status = .running → s.st.stepping = true → s.st.top = none → s.st.vq = [] → s.issued resumed = { s with
        st := { s.st with status := .halted, age := 0, waited := 0, bpDone := false, stepping := false } }) ∧
      (s.st.status = .blocked .issue → s.issued resumed = s)) ∧
    (s.agenda = .event i :: r → isEvent i = true → (∀ c, i ≠ .sequencerExecute c) → step s = afterTurn (exec i { s with agenda := r })) ∧
    (∀ c, s.agenda = .event (.sequencerExecute c) :: r →
      let s0 : State := { s with agenda := r }
      let s1 := if s.sameClk (clusterOf c) (s.cell c).seqAt = true then s0.passTo (nextClk (s.cluster (clusterOf c)).clock s.units) else s0
      ∀ s', exec (.sequencerExecute c) s1 = .next s' →
        step s = .next (State.react (s'.modCell c fun x => { x with seqAt := some s'.units }))) ∧
    (s.agenda = [] → s.sampleRail = none →
      (s.nextEvent = some i → step s = afterTurn (s.event i)) ∧
      (∀ t, s.nextEvent = none → s.nextIssue = some t → step s = afterTurn ((s.focus t.uid).runFocus)) ∧
      (s.nextEvent = none → s.nextIssue = none → step s = .next s.tick.react)) ∧
    ((∀ e ∈ s.parts, e.2.tokenWaiters = []) → s.walks = [] → s.react = s) ∧
    (∀ t a loc, s.locate t a 2 false false true = .ok loc → s.remote loc.pa = false → Tab.has (s.cell t.cell).fetch (fetchKey t.asid a) = false → Quiet s →
      loc.pa % 64 = a % 64 → a % 2 = 0 → ∃ s1, s.fetchWord t a =
        .ok ((memGet s.mem loc.pa).toNat + 256 * (memGet s.mem (loc.pa + 1)).toNat, s1) ∧ s1.mem = s.mem ∧ s1.st = s.st)

/-- Every instruction and every event answers a next state, and so does every step: a fault of R316 is a next state
too (R319, R323), and nothing of the opcode table is turned away. -/
def Obligations.EveryStepGoesOn : Prop :=
  (∀ (i : Instr) (s : State), ∃ s', exec i s = .next s') ∧ ∀ s : State, ∃ s', step s = .next s'

/-- R340, R349, R357, R362, R363: the machine at reset (values that the spec does not give are the model's choice, log
entries 1, 2 and 4): memory lists nothing, no strand holds a slot, no partition is live, the registers of a function,
of the boot and of the breakpoints are at their reset values. -/
def Obligations.Reset : Prop :=
  Canonical State.reset ∧ State.reset.st.status = .free ∧ State.reset.parked = [] ∧
  (∀ a, memGet State.reset.mem a = 0) ∧ (∀ p, (State.reset.part p).live = false ∧ (State.reset.part p).fn.imask = 0x3F ∧
    (State.reset.part p).fn.ipend = 0 ∧ (State.reset.part p).fn.pstate = 0 ∧ (State.reset.part p).fn.lqSize = 0 ∧
    (State.reset.part p).bps = List.replicate 8 ⟨0, 0, 0, 0⟩ ∧ (State.reset.part p).dbg.attach = false) ∧
  State.reset.boot.status = 0 ∧ (∀ a, (State.reset.arrayRegs a).entries = List.replicate 16 ⟨0, 0, 0⟩)

/-- R42, R76, R90, R94, R95: words written out from the encoding tables decode to the instructions that they stand for
(sanity). -/
def Obligations.WordsDecode : Prop :=
  ∀ p ∈ ([([0x0BCC], .add .s64 (.g 3) (.reg (.g 6)) (.reg (.g 4))),
      ([0xF0A0, 0x138D], .div .s64 (.g 3) (.reg (.g 4)) (.reg (.g 5))),
      ([0xE7FA, 0xA28D], .bc .lt (.reg (.g 4)) (.reg (.g 5)) (-6)),
      ([0xF118, 0xFA80, 0x16D9], .vadd .s32 ⟨2, true, false, .cfg, false⟩ 6 6 (.lit 1)),
      ([0xF1C0, 0x1943], .vfma .f32 .dyn Keys.dflt 1 2 (.vec 3)),
      ([0xEA30, 0xF240, 0x0100], .vld .f32 Keys.dflt 1 (.reg (.q 0)) 0),
      ([0xF248, 0x3A8D], .mma .bf16 .asA false 2 (.g 4) (.reg (.g 5))),
      ([0xF2A0, 0x0440], .ld .s64 (.g 4) (.reg (.g 2)) 0),
      ([0xF301, 0x0040], .send true (.reg (.g 2))),
      ([0xF300, 0x7803], .trap 3),
      ([0xF380, 0x550C], .ksettle (.g 5) (.reg (.g 4)))] : List (List Nat × Instr)), decodeWords p.1 = .ok p.2 p.1.length

/-- R40, R41, R42, R76, R84: decoding an encoded instruction gives it back, for every well-formed instruction that
fits in four prefix words, with every operand at every value that the encoding admits. -/
def Obligations.DecodeInvertsEncode : Prop :=
  ∀ i : Instr, i.wf = true → encodable i = true → decodeWords (encode i) = .ok i (encode i).length

/-- R7, R305: every step keeps both memories in the canonical form in which equal memories are equal data. -/
def Obligations.StepKeepsMemoryCanonical : Prop :=
  ∀ s s' : State, Canonical s → step s = .next s' → Canonical s'
end

