-- ==== Sys2Proof/Laws/Memory.lean ====
section
/-! SUPPORT. Memory: a byte written reads as its value and every other byte as before (R7), and every operation keeps the
canonical form. -/

namespace Sys2Proof.Laws

open Sys2Proof.Machine Sys2Proof.Safety

/-- The canonical form by its head: a value that is not the unlisted one, every later address above, and the rest. -/
theorem memWf_cons {k : Nat} {v : Byte} {m : List Host.Cell} :
    memWf ((k, v) :: m) = true ↔ v ≠ unlisted ∧ (∀ c ∈ m, k < c.1) ∧ memWf m = true := by
  induction m generalizing k v with
  | nil => simp [memWf]
  | cons c r ih =>
    obtain ⟨k', v'⟩ := c
    simp only [memWf, Bool.and_eq_true, bne_iff_ne, decide_eq_true_eq, List.mem_cons, forall_eq_or_imp]
    refine ⟨fun ⟨⟨h1, h2⟩, h3⟩ => ⟨h1, ⟨h2, fun c hc => ?_⟩, h3⟩, fun ⟨h1, ⟨h2, _⟩, h3⟩ => ⟨⟨h1, h2⟩, h3⟩⟩
    exact Nat.lt_trans h2 ((ih.mp h3).2.1 c hc)

theorem memWf_nil : memWf [] = true := rfl

/-- What setting a byte lists: what was listed, and the byte. -/
theorem mem_memSet {a : Nat} {v : Byte} {m : List Host.Cell} {c : Host.Cell} (h : c ∈ memSet m a v) :
    c ∈ m ∨ c = (a, v) := by
  induction m with
  | nil => revert h; unfold memSet; split <;> simp
  | cons e r ih =>
    obtain ⟨k, x⟩ := e
    simp only [memSet] at h
    split at h
    · rcases List.mem_cons.mp h with h | h
      · simp [h]
      · rcases ih h with h | h <;> simp [h]
    · split at h <;> split at h <;> simp_all <;> tauto

theorem memSet_wf {m : List Host.Cell} (h : memWf m = true) (a : Nat) (v : Byte) : memWf (memSet m a v) = true := by
  induction m with
  | nil => unfold memSet; split <;> simp_all [memWf]
  | cons e r ih =>
    obtain ⟨k, x⟩ := e
    obtain ⟨h1, h2, h3⟩ := memWf_cons.mp h
    simp only [memSet]
    split
    · next hk =>
      refine memWf_cons.mpr ⟨h1, fun c hc => ?_, ih h3⟩
      rcases mem_memSet hc with hc | hc
      · exact h2 c hc
      · simpa [hc] using hk
    · split
      · next hk =>
        subst hk
        split
        · exact h3
        · next hv => exact memWf_cons.mpr ⟨hv, h2, h3⟩
      · split
        · exact h
        · next hk hk' hv =>
          refine memWf_cons.mpr ⟨hv, fun c hc => ?_, h⟩
          rcases List.mem_cons.mp hc with rfl | hc
          · simp only; omega
          · have := h2 c hc; omega

theorem memWrite_wf {m : List Host.Cell} (h : memWf m = true) (a n x : Nat) : memWf (memWrite m a n x) = true := by
  induction n generalizing m a x with
  | zero => exact h
  | succ n ih => exact ih (memSet_wf h _ _) _ _

theorem memPut_wf {m : List Host.Cell} (h : memWf m = true) (a : Nat) (bs : List Byte) : memWf (memPut m a bs) = true := by
  induction bs generalizing m a with
  | nil => exact h
  | cons b bs ih => exact ih (memSet_wf h _ _) _

theorem memPutWords_wf {m : List Host.Cell} (h : memWf m = true) (a : Nat) (ws : List Word) :
    memWf (memPutWords m a ws) = true := by
  induction ws generalizing m a with
  | nil => exact h
  | cons w ws ih => exact ih (memWrite_wf h _ _ _) _

theorem filter_wf {m : List Host.Cell} (h : memWf m = true) (p : Host.Cell → Bool) : memWf (m.filter p) = true := by
  induction m with
  | nil => rfl
  | cons e r ih =>
    obtain ⟨k, x⟩ := e
    obtain ⟨h1, h2, h3⟩ := memWf_cons.mp h
    rw [List.filter_cons]
    split
    · exact memWf_cons.mpr ⟨h1, fun c hc => h2 c (List.mem_filter.mp hc).1, ih h3⟩
    · exact ih h3

theorem memZero_wf {m : List Host.Cell} (h : memWf m = true) (a n : Nat) : memWf (memZero m a n) = true := filter_wf h _

/-- A list of writes keeps the canonical form. -/
theorem foldl_wf {α : Type} {f : List Host.Cell → α → List Host.Cell} (hf : ∀ m x, memWf m = true → memWf (f m x) = true)
    {m : List Host.Cell} (h : memWf m = true) (l : List α) : memWf (l.foldl f m) = true := by
  induction l generalizing m with
  | nil => exact h
  | cons x l ih => exact ih (hf _ _ h)

/-- The memories at reset are canonical. -/
theorem reset_canonical : Canonical State.reset := ⟨rfl, rfl⟩

/-! ### Reads -/

/-- An address below every listed one reads as unlisted. -/
theorem memGet_below {m : List Host.Cell} {a : Nat} (h : ∀ c ∈ m, a < c.1) : memGet m a = unlisted := by
  cases m with
  | nil => rfl
  | cons e r =>
    obtain ⟨k, x⟩ := e
    have hk : a < k := h (k, x) (by simp)
    simp [memGet, Nat.not_lt.mpr (Nat.le_of_lt hk), Nat.ne_of_gt hk]

theorem memGet_memSet {m : List Host.Cell} (h : memWf m = true) (a : Nat) (v : Byte) (b : Nat) :
    memGet (memSet m a v) b = if b = a then v else memGet m b := by
  induction m with
  | nil =>
    unfold memSet
    split
    · next hv => split <;> simp_all [memGet]
    · by_cases hb : b = a
      · subst hb; simp [memGet]
      · simp only [memGet, hb, if_false]
        split
        · rfl
        · simp [Ne.symm hb]
  | cons e r ih =>
    obtain ⟨k, x⟩ := e
    obtain ⟨h1, h2, h3⟩ := memWf_cons.mp h
    simp only [memSet]
    split
    · next hk =>
      simp only [memGet, ih h3]
      by_cases hb : b = a
      · subst hb; simp [hk]
      · simp [hb]
    · split
      · next hk =>
        subst hk
        by_cases hb : b = k
        · subst hb
          split
          · next hv => rw [memGet_below h2, hv]; simp
          · simp [memGet]
        · split
          · simp only [memGet]
            split
            · rfl
            · next h5 =>
              rw [if_neg (Ne.symm hb)]
              exact memGet_below fun c hc => by have := h2 c hc; omega
          · simp [memGet, Ne.symm hb]
      · next hk hk' =>
        by_cases hb : b = a
        · subst hb
          split
          · next hv => rw [hv]; simp [memGet, hk, hk']
          · simp [memGet]
        · split
          · simp
          · simp only [memGet]
            by_cases h5 : a < b
            · simp [h5]
            · have h6 : ¬k < b := by omega
              have h7 : k ≠ b := by omega
              simp [h5, h6, h7, Ne.symm hb]

end Sys2Proof.Laws
end

