-- ==== Sys2Proof/Laws/Scalar.lean ====
section
/-! SUPPORT. The scalar stream: what the shape of a scalar instruction answers when it is ready, and how a destination
with room takes its value. -/

namespace Sys2Proof.Laws

open Sys2Proof.Machine Sys2Proof.Safety

theorem tagCheck_ok {k : Fmt} {x : Src} (h : TagOk (some k) x) : tagCheck k x = .ok () := by
  simp [tagCheck, show x.tag = k ∨ x.tag = .raw from h]

theorem poisonCheck_ok {x : Src} (h : x.bad = false) : poisonCheck x = .ok () := by simp [poisonCheck, h]

/-- A destination that is no misuse and has room takes a value. -/
theorem putReg_ok {t : Strand} {d : SReg} (h1 : misuseWrite d = none) (h2 : hasRoom t d = .ok ()) (v : Word) (tag : Fmt) :
    ∃ t', putReg t d v tag = .ok t' := by
  cases d with
  | g n => exact ⟨_, rfl⟩
  | sp r => exact ⟨_, rfl⟩
  | q n =>
    have h3 : n.val ≤ 3 := by simpa [misuseWrite] using h1
    have h4 : n.val < 8 := by omega
    simp only [hasRoom, h4, dite_true] at h2
    by_cases h5 : (t.q[n.val]).length < 4
    · simp [putReg, h4, h5]
    · simp [h5] at h2

/-- A scalar instruction that is ready writes its result, and its status if it reports one. -/
theorem scalarRun_ok {i : Instr} {s : State} {d : SReg} {rd : Bool} {a b : Opnd} {fa fb fd : Option Fmt} {x y z : Src}
    {t : Strand} (h : ScalarReady i s d rd a b fa fb fd x y z t) (g : Src → Src → Src → Res) :
    ∃ t', putReg t d (g x y z).val (g x y z).tag = .ok t' ∧
      scalarRun i s d rd a b fa fb fd g = .ok (s.done (match (g x y z).status with
        | some n => t'.status? n
        | none => t')) := by
  obtain ⟨hf, ⟨ma, mb, md, mw⟩, ⟨t1, t2, ra, rb, rz⟩, room, ⟨ta, tb, td⟩, px, py, pz⟩ := h
  obtain ⟨t', ht⟩ := putReg_ok mw room (g x y z).val (g x y z).tag
  refine ⟨t', ht, ?_⟩
  unfold scalarRun
  simp only [noHazard, hf, ma, mb, md, mw, noMisuse, ra, rb, bind, Except.bind, Bool.false_eq_true, if_false]
  cases rd <;> cases fa <;> cases fb <;> cases fd <;>
    (simp_all [poisonCheck, tagCheck_ok] <;> cases (g x y z).status <;> rfl)

end Sys2Proof.Laws
end

