-- ==== Sys2Proof/Laws/State.lean ====
section
/-! SUPPORT. One lemma per field of the machine for each named update, so that no proof unfolds a record update; and the
lookups after an update. -/

namespace Sys2Proof.Laws

open Sys2Proof.Machine

variable (s : State)


@[simp] theorem setCell_now (c : Nat) (x : Cell) : (s.setCell c x).now = s.now := rfl
@[simp] theorem setCell_phase (c : Nat) (x : Cell) : (s.setCell c x).phase = s.phase := rfl
@[simp] theorem setCell_agenda (c : Nat) (x : Cell) : (s.setCell c x).agenda = s.agenda := rfl
@[simp] theorem setCell_async (c : Nat) (x : Cell) : (s.setCell c x).async = s.async := rfl
@[simp] theorem setCell_free (c : Nat) (x : Cell) : (s.setCell c x).free = s.free := rfl
@[simp] theorem setCell_nextId (c : Nat) (x : Cell) : (s.setCell c x).nextId = s.nextId := rfl
@[simp] theorem setCell_st (c : Nat) (x : Cell) : (s.setCell c x).st = s.st := rfl
@[simp] theorem setCell_parked (c : Nat) (x : Cell) : (s.setCell c x).parked = s.parked := rfl
@[simp] theorem setCell_mem (c : Nat) (x : Cell) : (s.setCell c x).mem = s.mem := rfl
@[simp] theorem setCell_poison (c : Nat) (x : Cell) : (s.setCell c x).poison = s.poison := rfl
@[simp] theorem setCell_flips (c : Nat) (x : Cell) : (s.setCell c x).flips = s.flips := rfl
@[simp] theorem setCell_hostMem (c : Nat) (x : Cell) : (s.setCell c x).hostMem = s.hostMem := rfl
@[simp] theorem setCell_cells (c : Nat) (x : Cell) : (s.setCell c x).cells = Tab.set s.cells c x := rfl
@[simp] theorem setCell_clusters (c : Nat) (x : Cell) : (s.setCell c x).clusters = s.clusters := rfl
@[simp] theorem setCell_dies (c : Nat) (x : Cell) : (s.setCell c x).dies = s.dies := rfl
@[simp] theorem setCell_accs (c : Nat) (x : Cell) : (s.setCell c x).accs = s.accs := rfl
@[simp] theorem setCell_flight (c : Nat) (x : Cell) : (s.setCell c x).flight = s.flight := rfl
@[simp] theorem setCell_cmds (c : Nat) (x : Cell) : (s.setCell c x).cmds = s.cmds := rfl
@[simp] theorem setCell_sidings (c : Nat) (x : Cell) : (s.setCell c x).sidings = s.sidings := rfl
@[simp] theorem setCell_walks (c : Nat) (x : Cell) : (s.setCell c x).walks = s.walks := rfl
@[simp] theorem setCell_invs (c : Nat) (x : Cell) : (s.setCell c x).invs = s.invs := rfl
@[simp] theorem setCell_parts (c : Nat) (x : Cell) : (s.setCell c x).parts = s.parts := rfl
@[simp] theorem setCell_asids (c : Nat) (x : Cell) : (s.setCell c x).asids = s.asids := rfl
@[simp] theorem setCell_arrays (c : Nat) (x : Cell) : (s.setCell c x).arrays = s.arrays := rfl
@[simp] theorem setCell_boot (c : Nat) (x : Cell) : (s.setCell c x).boot = s.boot := rfl
@[simp] theorem setCell_power (c : Nat) (x : Cell) : (s.setCell c x).power = s.power := rfl

@[simp] theorem modCell_now (c : Nat) (f : Cell → Cell) : (s.modCell c f).now = s.now := rfl
@[simp] theorem modCell_phase (c : Nat) (f : Cell → Cell) : (s.modCell c f).phase = s.phase := rfl
@[simp] theorem modCell_agenda (c : Nat) (f : Cell → Cell) : (s.modCell c f).agenda = s.agenda := rfl
@[simp] theorem modCell_async (c : Nat) (f : Cell → Cell) : (s.modCell c f).async = s.async := rfl
@[simp] theorem modCell_free (c : Nat) (f : Cell → Cell) : (s.modCell c f).free = s.free := rfl
@[simp] theorem modCell_nextId (c : Nat) (f : Cell → Cell) : (s.modCell c f).nextId = s.nextId := rfl
@[simp] theorem modCell_st (c : Nat) (f : Cell → Cell) : (s.modCell c f).st = s.st := rfl
@[simp] theorem modCell_parked (c : Nat) (f : Cell → Cell) : (s.modCell c f).parked = s.parked := rfl
@[simp] theorem modCell_mem (c : Nat) (f : Cell → Cell) : (s.modCell c f).mem = s.mem := rfl
@[simp] theorem modCell_poison (c : Nat) (f : Cell → Cell) : (s.modCell c f).poison = s.poison := rfl
@[simp] theorem modCell_flips (c : Nat) (f : Cell → Cell) : (s.modCell c f).flips = s.flips := rfl
@[simp] theorem modCell_hostMem (c : Nat) (f : Cell → Cell) : (s.modCell c f).hostMem = s.hostMem := rfl
@[simp] theorem modCell_cells (c : Nat) (f : Cell → Cell) : (s.modCell c f).cells = Tab.set s.cells c (f (s.cell c)) := rfl
@[simp] theorem modCell_clusters (c : Nat) (f : Cell → Cell) : (s.modCell c f).clusters = s.clusters := rfl
@[simp] theorem modCell_dies (c : Nat) (f : Cell → Cell) : (s.modCell c f).dies = s.dies := rfl
@[simp] theorem modCell_accs (c : Nat) (f : Cell → Cell) : (s.modCell c f).accs = s.accs := rfl
@[simp] theorem modCell_flight (c : Nat) (f : Cell → Cell) : (s.modCell c f).flight = s.flight := rfl
@[simp] theorem modCell_cmds (c : Nat) (f : Cell → Cell) : (s.modCell c f).cmds = s.cmds := rfl
@[simp] theorem modCell_sidings (c : Nat) (f : Cell → Cell) : (s.modCell c f).sidings = s.sidings := rfl
@[simp] theorem modCell_walks (c : Nat) (f : Cell → Cell) : (s.modCell c f).walks = s.walks := rfl
@[simp] theorem modCell_invs (c : Nat) (f : Cell → Cell) : (s.modCell c f).invs = s.invs := rfl
@[simp] theorem modCell_parts (c : Nat) (f : Cell → Cell) : (s.modCell c f).parts = s.parts := rfl
@[simp] theorem modCell_asids (c : Nat) (f : Cell → Cell) : (s.modCell c f).asids = s.asids := rfl
@[simp] theorem modCell_arrays (c : Nat) (f : Cell → Cell) : (s.modCell c f).arrays = s.arrays := rfl
@[simp] theorem modCell_boot (c : Nat) (f : Cell → Cell) : (s.modCell c f).boot = s.boot := rfl
@[simp] theorem modCell_power (c : Nat) (f : Cell → Cell) : (s.modCell c f).power = s.power := rfl

@[simp] theorem setCluster_now (k : Nat) (x : Cluster) : (s.setCluster k x).now = s.now := rfl
@[simp] theorem setCluster_phase (k : Nat) (x : Cluster) : (s.setCluster k x).phase = s.phase := rfl
@[simp] theorem setCluster_agenda (k : Nat) (x : Cluster) : (s.setCluster k x).agenda = s.agenda := rfl
@[simp] theorem setCluster_async (k : Nat) (x : Cluster) : (s.setCluster k x).async = s.async := rfl
@[simp] theorem setCluster_free (k : Nat) (x : Cluster) : (s.setCluster k x).free = s.free := rfl
@[simp] theorem setCluster_nextId (k : Nat) (x : Cluster) : (s.setCluster k x).nextId = s.nextId := rfl
@[simp] theorem setCluster_st (k : Nat) (x : Cluster) : (s.setCluster k x).st = s.st := rfl
@[simp] theorem setCluster_parked (k : Nat) (x : Cluster) : (s.setCluster k x).parked = s.parked := rfl
@[simp] theorem setCluster_mem (k : Nat) (x : Cluster) : (s.setCluster k x).mem = s.mem := rfl
@[simp] theorem setCluster_poison (k : Nat) (x : Cluster) : (s.setCluster k x).poison = s.poison := rfl
@[simp] theorem setCluster_flips (k : Nat) (x : Cluster) : (s.setCluster k x).flips = s.flips := rfl
@[simp] theorem setCluster_hostMem (k : Nat) (x : Cluster) : (s.setCluster k x).hostMem = s.hostMem := rfl
@[simp] theorem setCluster_cells (k : Nat) (x : Cluster) : (s.setCluster k x).cells = s.cells := rfl
@[simp] theorem setCluster_clusters (k : Nat) (x : Cluster) : (s.setCluster k x).clusters = Tab.set s.clusters k x := rfl
@[simp] theorem setCluster_dies (k : Nat) (x : Cluster) : (s.setCluster k x).dies = s.dies := rfl
@[simp] theorem setCluster_accs (k : Nat) (x : Cluster) : (s.setCluster k x).accs = s.accs := rfl
@[simp] theorem setCluster_flight (k : Nat) (x : Cluster) : (s.setCluster k x).flight = s.flight := rfl
@[simp] theorem setCluster_cmds (k : Nat) (x : Cluster) : (s.setCluster k x).cmds = s.cmds := rfl
@[simp] theorem setCluster_sidings (k : Nat) (x : Cluster) : (s.setCluster k x).sidings = s.sidings := rfl
@[simp] theorem setCluster_walks (k : Nat) (x : Cluster) : (s.setCluster k x).walks = s.walks := rfl
@[simp] theorem setCluster_invs (k : Nat) (x : Cluster) : (s.setCluster k x).invs = s.invs := rfl
@[simp] theorem setCluster_parts (k : Nat) (x : Cluster) : (s.setCluster k x).parts = s.parts := rfl
@[simp] theorem setCluster_asids (k : Nat) (x : Cluster) : (s.setCluster k x).asids = s.asids := rfl
@[simp] theorem setCluster_arrays (k : Nat) (x : Cluster) : (s.setCluster k x).arrays = s.arrays := rfl
@[simp] theorem setCluster_boot (k : Nat) (x : Cluster) : (s.setCluster k x).boot = s.boot := rfl
@[simp] theorem setCluster_power (k : Nat) (x : Cluster) : (s.setCluster k x).power = s.power := rfl

@[simp] theorem modCluster_now (k : Nat) (f : Cluster → Cluster) : (s.modCluster k f).now = s.now := rfl
@[simp] theorem modCluster_phase (k : Nat) (f : Cluster → Cluster) : (s.modCluster k f).phase = s.phase := rfl
@[simp] theorem modCluster_agenda (k : Nat) (f : Cluster → Cluster) : (s.modCluster k f).agenda = s.agenda := rfl
@[simp] theorem modCluster_async (k : Nat) (f : Cluster → Cluster) : (s.modCluster k f).async = s.async := rfl
@[simp] theorem modCluster_free (k : Nat) (f : Cluster → Cluster) : (s.modCluster k f).free = s.free := rfl
@[simp] theorem modCluster_nextId (k : Nat) (f : Cluster → Cluster) : (s.modCluster k f).nextId = s.nextId := rfl
@[simp] theorem modCluster_st (k : Nat) (f : Cluster → Cluster) : (s.modCluster k f).st = s.st := rfl
@[simp] theorem modCluster_parked (k : Nat) (f : Cluster → Cluster) : (s.modCluster k f).parked = s.parked := rfl
@[simp] theorem modCluster_mem (k : Nat) (f : Cluster → Cluster) : (s.modCluster k f).mem = s.mem := rfl
@[simp] theorem modCluster_poison (k : Nat) (f : Cluster → Cluster) : (s.modCluster k f).poison = s.poison := rfl
@[simp] theorem modCluster_flips (k : Nat) (f : Cluster → Cluster) : (s.modCluster k f).flips = s.flips := rfl
@[simp] theorem modCluster_hostMem (k : Nat) (f : Cluster → Cluster) : (s.modCluster k f).hostMem = s.hostMem := rfl
@[simp] theorem modCluster_cells (k : Nat) (f : Cluster → Cluster) : (s.modCluster k f).cells = s.cells := rfl
@[simp] theorem modCluster_clusters (k : Nat) (f : Cluster → Cluster) : (s.modCluster k f).clusters = Tab.set s.clusters k (f (s.cluster k)) := rfl
@[simp] theorem modCluster_dies (k : Nat) (f : Cluster → Cluster) : (s.modCluster k f).dies = s.dies := rfl
@[simp] theorem modCluster_accs (k : Nat) (f : Cluster → Cluster) : (s.modCluster k f).accs = s.accs := rfl
@[simp] theorem modCluster_flight (k : Nat) (f : Cluster → Cluster) : (s.modCluster k f).flight = s.flight := rfl
@[simp] theorem modCluster_cmds (k : Nat) (f : Cluster → Cluster) : (s.modCluster k f).cmds = s.cmds := rfl
@[simp] theorem modCluster_sidings (k : Nat) (f : Cluster → Cluster) : (s.modCluster k f).sidings = s.sidings := rfl
@[simp] theorem modCluster_walks (k : Nat) (f : Cluster → Cluster) : (s.modCluster k f).walks = s.walks := rfl
@[simp] theorem modCluster_invs (k : Nat) (f : Cluster → Cluster) : (s.modCluster k f).invs = s.invs := rfl
@[simp] theorem modCluster_parts (k : Nat) (f : Cluster → Cluster) : (s.modCluster k f).parts = s.parts := rfl
@[simp] theorem modCluster_asids (k : Nat) (f : Cluster → Cluster) : (s.modCluster k f).asids = s.asids := rfl
@[simp] theorem modCluster_arrays (k : Nat) (f : Cluster → Cluster) : (s.modCluster k f).arrays = s.arrays := rfl
@[simp] theorem modCluster_boot (k : Nat) (f : Cluster → Cluster) : (s.modCluster k f).boot = s.boot := rfl
@[simp] theorem modCluster_power (k : Nat) (f : Cluster → Cluster) : (s.modCluster k f).power = s.power := rfl

@[simp] theorem modDie_now (d : Nat) (f : Die → Die) : (s.modDie d f).now = s.now := rfl
@[simp] theorem modDie_phase (d : Nat) (f : Die → Die) : (s.modDie d f).phase = s.phase := rfl
@[simp] theorem modDie_agenda (d : Nat) (f : Die → Die) : (s.modDie d f).agenda = s.agenda := rfl
@[simp] theorem modDie_async (d : Nat) (f : Die → Die) : (s.modDie d f).async = s.async := rfl
@[simp] theorem modDie_free (d : Nat) (f : Die → Die) : (s.modDie d f).free = s.free := rfl
@[simp] theorem modDie_nextId (d : Nat) (f : Die → Die) : (s.modDie d f).nextId = s.nextId := rfl
@[simp] theorem modDie_st (d : Nat) (f : Die → Die) : (s.modDie d f).st = s.st := rfl
@[simp] theorem modDie_parked (d : Nat) (f : Die → Die) : (s.modDie d f).parked = s.parked := rfl
@[simp] theorem modDie_mem (d : Nat) (f : Die → Die) : (s.modDie d f).mem = s.mem := rfl
@[simp] theorem modDie_poison (d : Nat) (f : Die → Die) : (s.modDie d f).poison = s.poison := rfl
@[simp] theorem modDie_flips (d : Nat) (f : Die → Die) : (s.modDie d f).flips = s.flips := rfl
@[simp] theorem modDie_hostMem (d : Nat) (f : Die → Die) : (s.modDie d f).hostMem = s.hostMem := rfl
@[simp] theorem modDie_cells (d : Nat) (f : Die → Die) : (s.modDie d f).cells = s.cells := rfl
@[simp] theorem modDie_clusters (d : Nat) (f : Die → Die) : (s.modDie d f).clusters = s.clusters := rfl
@[simp] theorem modDie_dies (d : Nat) (f : Die → Die) : (s.modDie d f).dies = Tab.set s.dies d (f (s.die d)) := rfl
@[simp] theorem modDie_accs (d : Nat) (f : Die → Die) : (s.modDie d f).accs = s.accs := rfl
@[simp] theorem modDie_flight (d : Nat) (f : Die → Die) : (s.modDie d f).flight = s.flight := rfl
@[simp] theorem modDie_cmds (d : Nat) (f : Die → Die) : (s.modDie d f).cmds = s.cmds := rfl
@[simp] theorem modDie_sidings (d : Nat) (f : Die → Die) : (s.modDie d f).sidings = s.sidings := rfl
@[simp] theorem modDie_walks (d : Nat) (f : Die → Die) : (s.modDie d f).walks = s.walks := rfl
@[simp] theorem modDie_invs (d : Nat) (f : Die → Die) : (s.modDie d f).invs = s.invs := rfl
@[simp] theorem modDie_parts (d : Nat) (f : Die → Die) : (s.modDie d f).parts = s.parts := rfl
@[simp] theorem modDie_asids (d : Nat) (f : Die → Die) : (s.modDie d f).asids = s.asids := rfl
@[simp] theorem modDie_arrays (d : Nat) (f : Die → Die) : (s.modDie d f).arrays = s.arrays := rfl
@[simp] theorem modDie_boot (d : Nat) (f : Die → Die) : (s.modDie d f).boot = s.boot := rfl
@[simp] theorem modDie_power (d : Nat) (f : Die → Die) : (s.modDie d f).power = s.power := rfl

@[simp] theorem setPart_now (p : Nat) (x : Part) : (s.setPart p x).now = s.now := rfl
@[simp] theorem setPart_phase (p : Nat) (x : Part) : (s.setPart p x).phase = s.phase := rfl
@[simp] theorem setPart_agenda (p : Nat) (x : Part) : (s.setPart p x).agenda = s.agenda := rfl
@[simp] theorem setPart_async (p : Nat) (x : Part) : (s.setPart p x).async = s.async := rfl
@[simp] theorem setPart_free (p : Nat) (x : Part) : (s.setPart p x).free = s.free := rfl
@[simp] theorem setPart_nextId (p : Nat) (x : Part) : (s.setPart p x).nextId = s.nextId := rfl
@[simp] theorem setPart_st (p : Nat) (x : Part) : (s.setPart p x).st = s.st := rfl
@[simp] theorem setPart_parked (p : Nat) (x : Part) : (s.setPart p x).parked = s.parked := rfl
@[simp] theorem setPart_mem (p : Nat) (x : Part) : (s.setPart p x).mem = s.mem := rfl
@[simp] theorem setPart_poison (p : Nat) (x : Part) : (s.setPart p x).poison = s.poison := rfl
@[simp] theorem setPart_flips (p : Nat) (x : Part) : (s.setPart p x).flips = s.flips := rfl
@[simp] theorem setPart_hostMem (p : Nat) (x : Part) : (s.setPart p x).hostMem = s.hostMem := rfl
@[simp] theorem setPart_cells (p : Nat) (x : Part) : (s.setPart p x).cells = s.cells := rfl
@[simp] theorem setPart_clusters (p : Nat) (x : Part) : (s.setPart p x).clusters = s.clusters := rfl
@[simp] theorem setPart_dies (p : Nat) (x : Part) : (s.setPart p x).dies = s.dies := rfl
@[simp] theorem setPart_accs (p : Nat) (x : Part) : (s.setPart p x).accs = s.accs := rfl
@[simp] theorem setPart_flight (p : Nat) (x : Part) : (s.setPart p x).flight = s.flight := rfl
@[simp] theorem setPart_cmds (p : Nat) (x : Part) : (s.setPart p x).cmds = s.cmds := rfl
@[simp] theorem setPart_sidings (p : Nat) (x : Part) : (s.setPart p x).sidings = s.sidings := rfl
@[simp] theorem setPart_walks (p : Nat) (x : Part) : (s.setPart p x).walks = s.walks := rfl
@[simp] theorem setPart_invs (p : Nat) (x : Part) : (s.setPart p x).invs = s.invs := rfl
@[simp] theorem setPart_parts (p : Nat) (x : Part) : (s.setPart p x).parts = Tab.set s.parts p x := rfl
@[simp] theorem setPart_asids (p : Nat) (x : Part) : (s.setPart p x).asids = s.asids := rfl
@[simp] theorem setPart_arrays (p : Nat) (x : Part) : (s.setPart p x).arrays = s.arrays := rfl
@[simp] theorem setPart_boot (p : Nat) (x : Part) : (s.setPart p x).boot = s.boot := rfl
@[simp] theorem setPart_power (p : Nat) (x : Part) : (s.setPart p x).power = s.power := rfl

@[simp] theorem modPart_now (p : Nat) (f : Part → Part) : (s.modPart p f).now = s.now := rfl
@[simp] theorem modPart_phase (p : Nat) (f : Part → Part) : (s.modPart p f).phase = s.phase := rfl
@[simp] theorem modPart_agenda (p : Nat) (f : Part → Part) : (s.modPart p f).agenda = s.agenda := rfl
@[simp] theorem modPart_async (p : Nat) (f : Part → Part) : (s.modPart p f).async = s.async := rfl
@[simp] theorem modPart_free (p : Nat) (f : Part → Part) : (s.modPart p f).free = s.free := rfl
@[simp] theorem modPart_nextId (p : Nat) (f : Part → Part) : (s.modPart p f).nextId = s.nextId := rfl
@[simp] theorem modPart_st (p : Nat) (f : Part → Part) : (s.modPart p f).st = s.st := rfl
@[simp] theorem modPart_parked (p : Nat) (f : Part → Part) : (s.modPart p f).parked = s.parked := rfl
@[simp] theorem modPart_mem (p : Nat) (f : Part → Part) : (s.modPart p f).mem = s.mem := rfl
@[simp] theorem modPart_poison (p : Nat) (f : Part → Part) : (s.modPart p f).poison = s.poison := rfl
@[simp] theorem modPart_flips (p : Nat) (f : Part → Part) : (s.modPart p f).flips = s.flips := rfl
@[simp] theorem modPart_hostMem (p : Nat) (f : Part → Part) : (s.modPart p f).hostMem = s.hostMem := rfl
@[simp] theorem modPart_cells (p : Nat) (f : Part → Part) : (s.modPart p f).cells = s.cells := rfl
@[simp] theorem modPart_clusters (p : Nat) (f : Part → Part) : (s.modPart p f).clusters = s.clusters := rfl
@[simp] theorem modPart_dies (p : Nat) (f : Part → Part) : (s.modPart p f).dies = s.dies := rfl
@[simp] theorem modPart_accs (p : Nat) (f : Part → Part) : (s.modPart p f).accs = s.accs := rfl
@[simp] theorem modPart_flight (p : Nat) (f : Part → Part) : (s.modPart p f).flight = s.flight := rfl
@[simp] theorem modPart_cmds (p : Nat) (f : Part → Part) : (s.modPart p f).cmds = s.cmds := rfl
@[simp] theorem modPart_sidings (p : Nat) (f : Part → Part) : (s.modPart p f).sidings = s.sidings := rfl
@[simp] theorem modPart_walks (p : Nat) (f : Part → Part) : (s.modPart p f).walks = s.walks := rfl
@[simp] theorem modPart_invs (p : Nat) (f : Part → Part) : (s.modPart p f).invs = s.invs := rfl
@[simp] theorem modPart_parts (p : Nat) (f : Part → Part) : (s.modPart p f).parts = Tab.set s.parts p (f (s.part p)) := rfl
@[simp] theorem modPart_asids (p : Nat) (f : Part → Part) : (s.modPart p f).asids = s.asids := rfl
@[simp] theorem modPart_arrays (p : Nat) (f : Part → Part) : (s.modPart p f).arrays = s.arrays := rfl
@[simp] theorem modPart_boot (p : Nat) (f : Part → Part) : (s.modPart p f).boot = s.boot := rfl
@[simp] theorem modPart_power (p : Nat) (f : Part → Part) : (s.modPart p f).power = s.power := rfl

@[simp] theorem finish_now : (s.finish).now = s.now := rfl
@[simp] theorem finish_phase : (s.finish).phase = s.phase := rfl
@[simp] theorem finish_agenda : (s.finish).agenda = s.agenda := rfl
@[simp] theorem finish_async : (s.finish).async = s.async := rfl
@[simp] theorem finish_free : (s.finish).free = s.free := rfl
@[simp] theorem finish_nextId : (s.finish).nextId = s.nextId := rfl
@[simp] theorem finish_st : (s.finish).st = { s.st with pc := s.st.npc } := rfl
@[simp] theorem finish_parked : (s.finish).parked = s.parked := rfl
@[simp] theorem finish_mem : (s.finish).mem = s.mem := rfl
@[simp] theorem finish_poison : (s.finish).poison = s.poison := rfl
@[simp] theorem finish_flips : (s.finish).flips = s.flips := rfl
@[simp] theorem finish_hostMem : (s.finish).hostMem = s.hostMem := rfl
@[simp] theorem finish_cells : (s.finish).cells = s.cells := rfl
@[simp] theorem finish_clusters : (s.finish).clusters = s.clusters := rfl
@[simp] theorem finish_dies : (s.finish).dies = s.dies := rfl
@[simp] theorem finish_accs : (s.finish).accs = s.accs := rfl
@[simp] theorem finish_flight : (s.finish).flight = s.flight := rfl
@[simp] theorem finish_cmds : (s.finish).cmds = s.cmds := rfl
@[simp] theorem finish_sidings : (s.finish).sidings = s.sidings := rfl
@[simp] theorem finish_walks : (s.finish).walks = s.walks := rfl
@[simp] theorem finish_invs : (s.finish).invs = s.invs := rfl
@[simp] theorem finish_parts : (s.finish).parts = s.parts := rfl
@[simp] theorem finish_asids : (s.finish).asids = s.asids := rfl
@[simp] theorem finish_arrays : (s.finish).arrays = s.arrays := rfl
@[simp] theorem finish_boot : (s.finish).boot = s.boot := rfl
@[simp] theorem finish_power : (s.finish).power = s.power := rfl

@[simp] theorem done_now (t : Strand) : (s.done t).now = s.now := rfl
@[simp] theorem done_phase (t : Strand) : (s.done t).phase = s.phase := rfl
@[simp] theorem done_agenda (t : Strand) : (s.done t).agenda = s.agenda := rfl
@[simp] theorem done_async (t : Strand) : (s.done t).async = s.async := rfl
@[simp] theorem done_free (t : Strand) : (s.done t).free = s.free := rfl
@[simp] theorem done_nextId (t : Strand) : (s.done t).nextId = s.nextId := rfl
@[simp] theorem done_st (t : Strand) : (s.done t).st = { t with pc := s.st.npc } := rfl
@[simp] theorem done_parked (t : Strand) : (s.done t).parked = s.parked := rfl
@[simp] theorem done_mem (t : Strand) : (s.done t).mem = s.mem := rfl
@[simp] theorem done_poison (t : Strand) : (s.done t).poison = s.poison := rfl
@[simp] theorem done_flips (t : Strand) : (s.done t).flips = s.flips := rfl
@[simp] theorem done_hostMem (t : Strand) : (s.done t).hostMem = s.hostMem := rfl
@[simp] theorem done_cells (t : Strand) : (s.done t).cells = s.cells := rfl
@[simp] theorem done_clusters (t : Strand) : (s.done t).clusters = s.clusters := rfl
@[simp] theorem done_dies (t : Strand) : (s.done t).dies = s.dies := rfl
@[simp] theorem done_accs (t : Strand) : (s.done t).accs = s.accs := rfl
@[simp] theorem done_flight (t : Strand) : (s.done t).flight = s.flight := rfl
@[simp] theorem done_cmds (t : Strand) : (s.done t).cmds = s.cmds := rfl
@[simp] theorem done_sidings (t : Strand) : (s.done t).sidings = s.sidings := rfl
@[simp] theorem done_walks (t : Strand) : (s.done t).walks = s.walks := rfl
@[simp] theorem done_invs (t : Strand) : (s.done t).invs = s.invs := rfl
@[simp] theorem done_parts (t : Strand) : (s.done t).parts = s.parts := rfl
@[simp] theorem done_asids (t : Strand) : (s.done t).asids = s.asids := rfl
@[simp] theorem done_arrays (t : Strand) : (s.done t).arrays = s.arrays := rfl
@[simp] theorem done_boot (t : Strand) : (s.done t).boot = s.boot := rfl
@[simp] theorem done_power (t : Strand) : (s.done t).power = s.power := rfl

@[simp] theorem addStrand_now (t : Strand) : (s.addStrand t).now = s.now := rfl
@[simp] theorem addStrand_phase (t : Strand) : (s.addStrand t).phase = s.phase := rfl
@[simp] theorem addStrand_agenda (t : Strand) : (s.addStrand t).agenda = s.agenda := rfl
@[simp] theorem addStrand_async (t : Strand) : (s.addStrand t).async = s.async := rfl
@[simp] theorem addStrand_free (t : Strand) : (s.addStrand t).free = s.free := rfl
@[simp] theorem addStrand_nextId (t : Strand) : (s.addStrand t).nextId = s.nextId := rfl
@[simp] theorem addStrand_st (t : Strand) : (s.addStrand t).st = s.st := rfl
@[simp] theorem addStrand_parked (t : Strand) : (s.addStrand t).parked = s.parked ++ [t] := rfl
@[simp] theorem addStrand_mem (t : Strand) : (s.addStrand t).mem = s.mem := rfl
@[simp] theorem addStrand_poison (t : Strand) : (s.addStrand t).poison = s.poison := rfl
@[simp] theorem addStrand_flips (t : Strand) : (s.addStrand t).flips = s.flips := rfl
@[simp] theorem addStrand_hostMem (t : Strand) : (s.addStrand t).hostMem = s.hostMem := rfl
@[simp] theorem addStrand_cells (t : Strand) : (s.addStrand t).cells = s.cells := rfl
@[simp] theorem addStrand_clusters (t : Strand) : (s.addStrand t).clusters = s.clusters := rfl
@[simp] theorem addStrand_dies (t : Strand) : (s.addStrand t).dies = s.dies := rfl
@[simp] theorem addStrand_accs (t : Strand) : (s.addStrand t).accs = s.accs := rfl
@[simp] theorem addStrand_flight (t : Strand) : (s.addStrand t).flight = s.flight := rfl
@[simp] theorem addStrand_cmds (t : Strand) : (s.addStrand t).cmds = s.cmds := rfl
@[simp] theorem addStrand_sidings (t : Strand) : (s.addStrand t).sidings = s.sidings := rfl
@[simp] theorem addStrand_walks (t : Strand) : (s.addStrand t).walks = s.walks := rfl
@[simp] theorem addStrand_invs (t : Strand) : (s.addStrand t).invs = s.invs := rfl
@[simp] theorem addStrand_parts (t : Strand) : (s.addStrand t).parts = s.parts := rfl
@[simp] theorem addStrand_asids (t : Strand) : (s.addStrand t).asids = s.asids := rfl
@[simp] theorem addStrand_arrays (t : Strand) : (s.addStrand t).arrays = s.arrays := rfl
@[simp] theorem addStrand_boot (t : Strand) : (s.addStrand t).boot = s.boot := rfl
@[simp] theorem addStrand_power (t : Strand) : (s.addStrand t).power = s.power := rfl

@[simp] theorem markSequencer_now (c : Nat) : (s.markSequencer c).now = s.now := rfl
@[simp] theorem markSequencer_phase (c : Nat) : (s.markSequencer c).phase = s.phase := rfl
@[simp] theorem markSequencer_agenda (c : Nat) : (s.markSequencer c).agenda = s.agenda := rfl
@[simp] theorem markSequencer_async (c : Nat) : (s.markSequencer c).async = s.async := rfl
@[simp] theorem markSequencer_free (c : Nat) : (s.markSequencer c).free = s.free := rfl
@[simp] theorem markSequencer_nextId (c : Nat) : (s.markSequencer c).nextId = s.nextId := rfl
@[simp] theorem markSequencer_st (c : Nat) : (s.markSequencer c).st = s.st := rfl
@[simp] theorem markSequencer_parked (c : Nat) : (s.markSequencer c).parked = s.parked := rfl
@[simp] theorem markSequencer_mem (c : Nat) : (s.markSequencer c).mem = s.mem := rfl
@[simp] theorem markSequencer_poison (c : Nat) : (s.markSequencer c).poison = s.poison := rfl
@[simp] theorem markSequencer_flips (c : Nat) : (s.markSequencer c).flips = s.flips := rfl
@[simp] theorem markSequencer_hostMem (c : Nat) : (s.markSequencer c).hostMem = s.hostMem := rfl
@[simp] theorem markSequencer_cells (c : Nat) : (s.markSequencer c).cells = Tab.set s.cells c { s.cell c with seqAt := some s.units } := rfl
@[simp] theorem markSequencer_clusters (c : Nat) : (s.markSequencer c).clusters = s.clusters := rfl
@[simp] theorem markSequencer_dies (c : Nat) : (s.markSequencer c).dies = s.dies := rfl
@[simp] theorem markSequencer_accs (c : Nat) : (s.markSequencer c).accs = s.accs := rfl
@[simp] theorem markSequencer_flight (c : Nat) : (s.markSequencer c).flight = s.flight := rfl
@[simp] theorem markSequencer_cmds (c : Nat) : (s.markSequencer c).cmds = s.cmds := rfl
@[simp] theorem markSequencer_sidings (c : Nat) : (s.markSequencer c).sidings = s.sidings := rfl
@[simp] theorem markSequencer_walks (c : Nat) : (s.markSequencer c).walks = s.walks := rfl
@[simp] theorem markSequencer_invs (c : Nat) : (s.markSequencer c).invs = s.invs := rfl
@[simp] theorem markSequencer_parts (c : Nat) : (s.markSequencer c).parts = s.parts := rfl
@[simp] theorem markSequencer_asids (c : Nat) : (s.markSequencer c).asids = s.asids := rfl
@[simp] theorem markSequencer_arrays (c : Nat) : (s.markSequencer c).arrays = s.arrays := rfl
@[simp] theorem markSequencer_boot (c : Nat) : (s.markSequencer c).boot = s.boot := rfl
@[simp] theorem markSequencer_power (c : Nat) : (s.markSequencer c).power = s.power := rfl

/-! ### The strand: a general register written, the return from a trap, a status written -/

variable (t : Strand)

@[simp] theorem setG_uid (n : Fin 32) (v : Word) (k : Fmt) : (t.setG n v k).uid = t.uid := by
  unfold Strand.setG; split <;> rfl
@[simp] theorem setG_cell (n : Fin 32) (v : Word) (k : Fmt) : (t.setG n v k).cell = t.cell := by
  unfold Strand.setG; split <;> rfl
@[simp] theorem setG_slot (n : Fin 32) (v : Word) (k : Fmt) : (t.setG n v k).slot = t.slot := by
  unfold Strand.setG; split <;> rfl
@[simp] theorem setG_status (n : Fin 32) (v : Word) (k : Fmt) : (t.setG n v k).status = t.status := by
  unfold Strand.setG; split <;> rfl
@[simp] theorem setG_act (n : Fin 32) (v : Word) (k : Fmt) : (t.setG n v k).act = t.act := by
  unfold Strand.setG; split <;> rfl
@[simp] theorem setG_part (n : Fin 32) (v : Word) (k : Fmt) : (t.setG n v k).part = t.part := by
  unfold Strand.setG; split <;> rfl
@[simp] theorem setG_launch (n : Fin 32) (v : Word) (k : Fmt) : (t.setG n v k).launch = t.launch := by
  unfold Strand.setG; split <;> rfl
@[simp] theorem setG_asid (n : Fin 32) (v : Word) (k : Fmt) : (t.setG n v k).asid = t.asid := by
  unfold Strand.setG; split <;> rfl
@[simp] theorem setG_pc (n : Fin 32) (v : Word) (k : Fmt) : (t.setG n v k).pc = t.pc := by
  unfold Strand.setG; split <;> rfl
@[simp] theorem setG_npc (n : Fin 32) (v : Word) (k : Fmt) : (t.setG n v k).npc = t.npc := by
  unfold Strand.setG; split <;> rfl
@[simp] theorem setG_v (n : Fin 32) (v : Word) (k : Fmt) : (t.setG n v k).v = t.v := by
  unfold Strand.setG; split <;> rfl
@[simp] theorem setG_vtag (n : Fin 32) (v : Word) (k : Fmt) : (t.setG n v k).vtag = t.vtag := by
  unfold Strand.setG; split <;> rfl
@[simp] theorem setG_vpois (n : Fin 32) (v : Word) (k : Fmt) : (t.setG n v k).vpois = t.vpois := by
  unfold Strand.setG; split <;> rfl
@[simp] theorem setG_m (n : Fin 32) (v : Word) (k : Fmt) : (t.setG n v k).m = t.m := by
  unfold Strand.setG; split <;> rfl
@[simp] theorem setG_q (n : Fin 32) (v : Word) (k : Fmt) : (t.setG n v k).q = t.q := by
  unfold Strand.setG; split <;> rfl
@[simp] theorem setG_q15 (n : Fin 32) (v : Word) (k : Fmt) : (t.setG n v k).q15 = t.q15 := by
  unfold Strand.setG; split <;> rfl
@[simp] theorem setG_qseq (n : Fin 32) (v : Word) (k : Fmt) : (t.setG n v k).qseq = t.qseq := by
  unfold Strand.setG; split <;> rfl
@[simp] theorem setG_qpos (n : Fin 32) (v : Word) (k : Fmt) : (t.setG n v k).qpos = t.qpos := by
  unfold Strand.setG; split <;> rfl
@[simp] theorem setG_fc (n : Fin 32) (v : Word) (k : Fmt) : (t.setG n v k).fc = t.fc := by
  unfold Strand.setG; split <;> rfl
@[simp] theorem setG_gc (n : Fin 32) (v : Word) (k : Fmt) : (t.setG n v k).gc = t.gc := by
  unfold Strand.setG; split <;> rfl
@[simp] theorem setG_vl (n : Fin 32) (v : Word) (k : Fmt) : (t.setG n v k).vl = t.vl := by
  unfold Strand.setG; split <;> rfl
@[simp] theorem setG_loop (n : Fin 32) (v : Word) (k : Fmt) : (t.setG n v k).loop = t.loop := by
  unfold Strand.setG; split <;> rfl
@[simp] theorem setG_tileq (n : Fin 32) (v : Word) (k : Fmt) : (t.setG n v k).tileq = t.tileq := by
  unfold Strand.setG; split <;> rfl
@[simp] theorem setG_terr (n : Fin 32) (v : Word) (k : Fmt) : (t.setG n v k).terr = t.terr := by
  unfold Strand.setG; split <;> rfl
@[simp] theorem setG_trapv (n : Fin 32) (v : Word) (k : Fmt) : (t.setG n v k).trapv = t.trapv := by
  unfold Strand.setG; split <;> rfl
@[simp] theorem setG_wdog (n : Fin 32) (v : Word) (k : Fmt) : (t.setG n v k).wdog = t.wdog := by
  unfold Strand.setG; split <;> rfl
@[simp] theorem setG_rmode (n : Fin 32) (v : Word) (k : Fmt) : (t.setG n v k).rmode = t.rmode := by
  unfold Strand.setG; split <;> rfl
@[simp] theorem setG_uab (n : Fin 32) (v : Word) (k : Fmt) : (t.setG n v k).uab = t.uab := by
  unfold Strand.setG; split <;> rfl
@[simp] theorem setG_wleft (n : Fin 32) (v : Word) (k : Fmt) : (t.setG n v k).wleft = t.wleft := by
  unfold Strand.setG; split <;> rfl
@[simp] theorem setG_wdue (n : Fin 32) (v : Word) (k : Fmt) : (t.setG n v k).wdue = t.wdue := by
  unfold Strand.setG; split <;> rfl
@[simp] theorem setG_handler (n : Fin 32) (v : Word) (k : Fmt) : (t.setG n v k).handler = t.handler := by
  unfold Strand.setG; split <;> rfl
@[simp] theorem setG_fcause (n : Fin 32) (v : Word) (k : Fmt) : (t.setG n v k).fcause = t.fcause := by
  unfold Strand.setG; split <;> rfl
@[simp] theorem setG_fpc (n : Fin 32) (v : Word) (k : Fmt) : (t.setG n v k).fpc = t.fpc := by
  unfold Strand.setG; split <;> rfl
@[simp] theorem setG_faddr (n : Fin 32) (v : Word) (k : Fmt) : (t.setG n v k).faddr = t.faddr := by
  unfold Strand.setG; split <;> rfl
@[simp] theorem setG_rstat (n : Fin 32) (v : Word) (k : Fmt) : (t.setG n v k).rstat = t.rstat := by
  unfold Strand.setG; split <;> rfl
@[simp] theorem setG_rank (n : Fin 32) (v : Word) (k : Fmt) : (t.setG n v k).rank = t.rank := by
  unfold Strand.setG; split <;> rfl
@[simp] theorem setG_lin (n : Fin 32) (v : Word) (k : Fmt) : (t.setG n v k).lin = t.lin := by
  unfold Strand.setG; split <;> rfl
@[simp] theorem setG_gen (n : Fin 32) (v : Word) (k : Fmt) : (t.setG n v k).gen = t.gen := by
  unfold Strand.setG; split <;> rfl
@[simp] theorem setG_popId (n : Fin 32) (v : Word) (k : Fmt) : (t.setG n v k).popId = t.popId := by
  unfold Strand.setG; split <;> rfl
@[simp] theorem setG_coord (n : Fin 32) (v : Word) (k : Fmt) : (t.setG n v k).coord = t.coord := by
  unfold Strand.setG; split <;> rfl
@[simp] theorem setG_tag (n : Fin 32) (v : Word) (k : Fmt) : (t.setG n v k).tag = t.tag := by
  unfold Strand.setG; split <;> rfl
@[simp] theorem setG_src (n : Fin 32) (v : Word) (k : Fmt) : (t.setG n v k).src = t.src := by
  unfold Strand.setG; split <;> rfl
@[simp] theorem setG_sleepUntil (n : Fin 32) (v : Word) (k : Fmt) : (t.setG n v k).sleepUntil = t.sleepUntil := by
  unfold Strand.setG; split <;> rfl
@[simp] theorem setG_vq (n : Fin 32) (v : Word) (k : Fmt) : (t.setG n v k).vq = t.vq := by
  unfold Strand.setG; split <;> rfl
@[simp] theorem setG_lbody (n : Fin 32) (v : Word) (k : Fmt) : (t.setG n v k).lbody = t.lbody := by
  unfold Strand.setG; split <;> rfl
@[simp] theorem setG_vnum (n : Fin 32) (v : Word) (k : Fmt) : (t.setG n v k).vnum = t.vnum := by
  unfold Strand.setG; split <;> rfl
@[simp] theorem setG_wcount (n : Fin 32) (v : Word) (k : Fmt) : (t.setG n v k).wcount = t.wcount := by
  unfold Strand.setG; split <;> rfl
@[simp] theorem setG_wops (n : Fin 32) (v : Word) (k : Fmt) : (t.setG n v k).wops = t.wops := by
  unfold Strand.setG; split <;> rfl
@[simp] theorem setG_age (n : Fin 32) (v : Word) (k : Fmt) : (t.setG n v k).age = t.age := by
  unfold Strand.setG; split <;> rfl
@[simp] theorem setG_waited (n : Fin 32) (v : Word) (k : Fmt) : (t.setG n v k).waited = t.waited := by
  unfold Strand.setG; split <;> rfl
@[simp] theorem setG_stepping (n : Fin 32) (v : Word) (k : Fmt) : (t.setG n v k).stepping = t.stepping := by
  unfold Strand.setG; split <;> rfl
@[simp] theorem setG_bpDone (n : Fin 32) (v : Word) (k : Fmt) : (t.setG n v k).bpDone = t.bpDone := by
  unfold Strand.setG; split <;> rfl
@[simp] theorem setG_entry (n : Fin 32) (v : Word) (k : Fmt) : (t.setG n v k).entry = t.entry := by
  unfold Strand.setG; split <;> rfl
@[simp] theorem setG_origin (n : Fin 32) (v : Word) (k : Fmt) : (t.setG n v k).origin = t.origin := by
  unfold Strand.setG; split <;> rfl
@[simp] theorem setG_task (n : Fin 32) (v : Word) (k : Fmt) : (t.setG n v k).task = t.task := by
  unfold Strand.setG; split <;> rfl
@[simp] theorem setG_clks (n : Fin 32) (v : Word) (k : Fmt) : (t.setG n v k).clks = t.clks := by
  unfold Strand.setG; split <;> rfl
@[simp] theorem setG_frame (n : Fin 32) (v : Word) (k : Fmt) : (t.setG n v k).frame = t.frame := by
  unfold Strand.setG; split <;> rfl
@[simp] theorem setG_sleepTrap (n : Fin 32) (v : Word) (k : Fmt) : (t.setG n v k).sleepTrap = t.sleepTrap := by
  unfold Strand.setG; split <;> rfl
@[simp] theorem setG_twc (n : Fin 32) (v : Word) (k : Fmt) : (t.setG n v k).twc = t.twc := by
  unfold Strand.setG; split <;> rfl
@[simp] theorem setG_saves (n : Fin 32) (v : Word) (k : Fmt) : (t.setG n v k).saves = t.saves := by
  unfold Strand.setG; split <;> rfl
@[simp] theorem setG_top (n : Fin 32) (v : Word) (k : Fmt) : (t.setG n v k).top = t.top := by
  unfold Strand.setG; split <;> rfl
@[simp] theorem setG_ldcSeen (n : Fin 32) (v : Word) (k : Fmt) : (t.setG n v k).ldcSeen = t.ldcSeen := by
  unfold Strand.setG; split <;> rfl
@[simp] theorem setG_undo (n : Fin 32) (v : Word) (k : Fmt) : (t.setG n v k).undo = t.undo := by
  unfold Strand.setG; split <;> rfl
@[simp] theorem returnFrom_uid : t.returnFrom.uid = t.uid := rfl
@[simp] theorem returnFrom_cell : t.returnFrom.cell = t.cell := rfl
@[simp] theorem returnFrom_slot : t.returnFrom.slot = t.slot := rfl
@[simp] theorem returnFrom_status : t.returnFrom.status = t.status := rfl
@[simp] theorem returnFrom_act : t.returnFrom.act = t.act := rfl
@[simp] theorem returnFrom_part : t.returnFrom.part = t.part := rfl
@[simp] theorem returnFrom_launch : t.returnFrom.launch = t.launch := rfl
@[simp] theorem returnFrom_asid : t.returnFrom.asid = t.asid := rfl
@[simp] theorem returnFrom_pc : t.returnFrom.pc = t.fpc := rfl
@[simp] theorem returnFrom_npc : t.returnFrom.npc = t.npc := rfl
@[simp] theorem returnFrom_g : t.returnFrom.g = t.g := rfl
@[simp] theorem returnFrom_gtag : t.returnFrom.gtag = t.gtag := rfl
@[simp] theorem returnFrom_gpois : t.returnFrom.gpois = t.gpois := rfl
@[simp] theorem returnFrom_v : t.returnFrom.v = t.v := rfl
@[simp] theorem returnFrom_vtag : t.returnFrom.vtag = t.vtag := rfl
@[simp] theorem returnFrom_vpois : t.returnFrom.vpois = t.vpois := rfl
@[simp] theorem returnFrom_m : t.returnFrom.m = t.m := rfl
@[simp] theorem returnFrom_q : t.returnFrom.q = t.q := rfl
@[simp] theorem returnFrom_q15 : t.returnFrom.q15 = t.q15 := rfl
@[simp] theorem returnFrom_qseq : t.returnFrom.qseq = t.qseq := rfl
@[simp] theorem returnFrom_qpos : t.returnFrom.qpos = t.qpos := rfl
@[simp] theorem returnFrom_fc : t.returnFrom.fc = t.fc := rfl
@[simp] theorem returnFrom_gc : t.returnFrom.gc = t.gc := rfl
@[simp] theorem returnFrom_vl : t.returnFrom.vl = t.vl := rfl
@[simp] theorem returnFrom_loop : t.returnFrom.loop = t.loop := rfl
@[simp] theorem returnFrom_tileq : t.returnFrom.tileq = t.tileq := rfl
@[simp] theorem returnFrom_terr : t.returnFrom.terr = t.terr := rfl
@[simp] theorem returnFrom_trapv : t.returnFrom.trapv = t.trapv := rfl
@[simp] theorem returnFrom_wdog : t.returnFrom.wdog = t.wdog := rfl
@[simp] theorem returnFrom_rmode : t.returnFrom.rmode = t.rmode := rfl
@[simp] theorem returnFrom_uab : t.returnFrom.uab = t.uab := rfl
@[simp] theorem returnFrom_wleft : t.returnFrom.wleft = t.wleft := rfl
@[simp] theorem returnFrom_wdue : t.returnFrom.wdue = t.wdue := rfl
@[simp] theorem returnFrom_handler : t.returnFrom.handler = false := rfl
@[simp] theorem returnFrom_fcause : t.returnFrom.fcause = t.fcause := rfl
@[simp] theorem returnFrom_fpc : t.returnFrom.fpc = t.fpc := rfl
@[simp] theorem returnFrom_faddr : t.returnFrom.faddr = t.faddr := rfl
@[simp] theorem returnFrom_rstat : t.returnFrom.rstat = t.rstat := rfl
@[simp] theorem returnFrom_rank : t.returnFrom.rank = t.rank := rfl
@[simp] theorem returnFrom_lin : t.returnFrom.lin = t.lin := rfl
@[simp] theorem returnFrom_gen : t.returnFrom.gen = t.gen := rfl
@[simp] theorem returnFrom_popId : t.returnFrom.popId = t.popId := rfl
@[simp] theorem returnFrom_coord : t.returnFrom.coord = t.coord := rfl
@[simp] theorem returnFrom_tag : t.returnFrom.tag = t.tag := rfl
@[simp] theorem returnFrom_src : t.returnFrom.src = t.src := rfl
@[simp] theorem returnFrom_sleepUntil : t.returnFrom.sleepUntil = t.sleepUntil := rfl
@[simp] theorem returnFrom_vq : t.returnFrom.vq = t.vq := rfl
@[simp] theorem returnFrom_lbody : t.returnFrom.lbody = t.lbody := rfl
@[simp] theorem returnFrom_vnum : t.returnFrom.vnum = t.vnum := rfl
@[simp] theorem returnFrom_wcount : t.returnFrom.wcount = t.wcount := rfl
@[simp] theorem returnFrom_wops : t.returnFrom.wops = t.wops := rfl
@[simp] theorem returnFrom_age : t.returnFrom.age = t.age := rfl
@[simp] theorem returnFrom_waited : t.returnFrom.waited = t.waited := rfl
@[simp] theorem returnFrom_stepping : t.returnFrom.stepping = t.stepping := rfl
@[simp] theorem returnFrom_bpDone : t.returnFrom.bpDone = t.bpDone := rfl
@[simp] theorem returnFrom_entry : t.returnFrom.entry = t.entry := rfl
@[simp] theorem returnFrom_origin : t.returnFrom.origin = t.origin := rfl
@[simp] theorem returnFrom_task : t.returnFrom.task = t.task := rfl
@[simp] theorem returnFrom_clks : t.returnFrom.clks = t.clks := rfl
@[simp] theorem returnFrom_frame : t.returnFrom.frame = t.frame := rfl
@[simp] theorem returnFrom_sleepTrap : t.returnFrom.sleepTrap = t.sleepTrap := rfl
@[simp] theorem returnFrom_twc : t.returnFrom.twc = t.twc := rfl
@[simp] theorem returnFrom_saves : t.returnFrom.saves = t.saves := rfl
@[simp] theorem returnFrom_top : t.returnFrom.top = t.top := rfl
@[simp] theorem returnFrom_ldcSeen : t.returnFrom.ldcSeen = t.ldcSeen := rfl
@[simp] theorem returnFrom_undo : t.returnFrom.undo = t.undo := rfl
@[simp] theorem status_uid (n : Nat) : (t.status? n).uid = t.uid := rfl
@[simp] theorem status_cell (n : Nat) : (t.status? n).cell = t.cell := rfl
@[simp] theorem status_slot (n : Nat) : (t.status? n).slot = t.slot := rfl
@[simp] theorem status_status (n : Nat) : (t.status? n).status = t.status := rfl
@[simp] theorem status_act (n : Nat) : (t.status? n).act = t.act := rfl
@[simp] theorem status_part (n : Nat) : (t.status? n).part = t.part := rfl
@[simp] theorem status_launch (n : Nat) : (t.status? n).launch = t.launch := rfl
@[simp] theorem status_asid (n : Nat) : (t.status? n).asid = t.asid := rfl
@[simp] theorem status_pc (n : Nat) : (t.status? n).pc = t.pc := rfl
@[simp] theorem status_npc (n : Nat) : (t.status? n).npc = t.npc := rfl
@[simp] theorem status_g (n : Nat) : (t.status? n).g = t.g := rfl
@[simp] theorem status_gtag (n : Nat) : (t.status? n).gtag = t.gtag := rfl
@[simp] theorem status_gpois (n : Nat) : (t.status? n).gpois = t.gpois := rfl
@[simp] theorem status_v (n : Nat) : (t.status? n).v = t.v := rfl
@[simp] theorem status_vtag (n : Nat) : (t.status? n).vtag = t.vtag := rfl
@[simp] theorem status_vpois (n : Nat) : (t.status? n).vpois = t.vpois := rfl
@[simp] theorem status_m (n : Nat) : (t.status? n).m = t.m := rfl
@[simp] theorem status_q (n : Nat) : (t.status? n).q = t.q := rfl
@[simp] theorem status_q15 (n : Nat) : (t.status? n).q15 = t.q15 := rfl
@[simp] theorem status_qseq (n : Nat) : (t.status? n).qseq = t.qseq := rfl
@[simp] theorem status_qpos (n : Nat) : (t.status? n).qpos = t.qpos := rfl
@[simp] theorem status_fc (n : Nat) : (t.status? n).fc = t.fc := rfl
@[simp] theorem status_gc (n : Nat) : (t.status? n).gc = t.gc := rfl
@[simp] theorem status_vl (n : Nat) : (t.status? n).vl = t.vl := rfl
@[simp] theorem status_loop (n : Nat) : (t.status? n).loop = t.loop := rfl
@[simp] theorem status_tileq (n : Nat) : (t.status? n).tileq = t.tileq := rfl
@[simp] theorem status_terr (n : Nat) : (t.status? n).terr = t.terr := rfl
@[simp] theorem status_trapv (n : Nat) : (t.status? n).trapv = t.trapv := rfl
@[simp] theorem status_wdog (n : Nat) : (t.status? n).wdog = t.wdog := rfl
@[simp] theorem status_rmode (n : Nat) : (t.status? n).rmode = t.rmode := rfl
@[simp] theorem status_uab (n : Nat) : (t.status? n).uab = t.uab := rfl
@[simp] theorem status_wleft (n : Nat) : (t.status? n).wleft = t.wleft := rfl
@[simp] theorem status_wdue (n : Nat) : (t.status? n).wdue = t.wdue := rfl
@[simp] theorem status_handler (n : Nat) : (t.status? n).handler = t.handler := rfl
@[simp] theorem status_fcause (n : Nat) : (t.status? n).fcause = t.fcause := rfl
@[simp] theorem status_fpc (n : Nat) : (t.status? n).fpc = t.fpc := rfl
@[simp] theorem status_faddr (n : Nat) : (t.status? n).faddr = t.faddr := rfl
@[simp] theorem status_rstat (n : Nat) : (t.status? n).rstat = BitVec.ofNat 64 n := rfl
@[simp] theorem status_rank (n : Nat) : (t.status? n).rank = t.rank := rfl
@[simp] theorem status_lin (n : Nat) : (t.status? n).lin = t.lin := rfl
@[simp] theorem status_gen (n : Nat) : (t.status? n).gen = t.gen := rfl
@[simp] theorem status_popId (n : Nat) : (t.status? n).popId = t.popId := rfl
@[simp] theorem status_coord (n : Nat) : (t.status? n).coord = t.coord := rfl
@[simp] theorem status_tag (n : Nat) : (t.status? n).tag = t.tag := rfl
@[simp] theorem status_src (n : Nat) : (t.status? n).src = t.src := rfl
@[simp] theorem status_sleepUntil (n : Nat) : (t.status? n).sleepUntil = t.sleepUntil := rfl
@[simp] theorem status_vq (n : Nat) : (t.status? n).vq = t.vq := rfl
@[simp] theorem status_lbody (n : Nat) : (t.status? n).lbody = t.lbody := rfl
@[simp] theorem status_vnum (n : Nat) : (t.status? n).vnum = t.vnum := rfl
@[simp] theorem status_wcount (n : Nat) : (t.status? n).wcount = t.wcount := rfl
@[simp] theorem status_wops (n : Nat) : (t.status? n).wops = t.wops := rfl
@[simp] theorem status_age (n : Nat) : (t.status? n).age = t.age := rfl
@[simp] theorem status_waited (n : Nat) : (t.status? n).waited = t.waited := rfl
@[simp] theorem status_stepping (n : Nat) : (t.status? n).stepping = t.stepping := rfl
@[simp] theorem status_bpDone (n : Nat) : (t.status? n).bpDone = t.bpDone := rfl
@[simp] theorem status_entry (n : Nat) : (t.status? n).entry = t.entry := rfl
@[simp] theorem status_origin (n : Nat) : (t.status? n).origin = t.origin := rfl
@[simp] theorem status_task (n : Nat) : (t.status? n).task = t.task := rfl
@[simp] theorem status_clks (n : Nat) : (t.status? n).clks = t.clks := rfl
@[simp] theorem status_frame (n : Nat) : (t.status? n).frame = t.frame := rfl
@[simp] theorem status_sleepTrap (n : Nat) : (t.status? n).sleepTrap = t.sleepTrap := rfl
@[simp] theorem status_twc (n : Nat) : (t.status? n).twc = t.twc := rfl
@[simp] theorem status_saves (n : Nat) : (t.status? n).saves = t.saves := rfl
@[simp] theorem status_top (n : Nat) : (t.status? n).top = t.top := rfl
@[simp] theorem status_ldcSeen (n : Nat) : (t.status? n).ldcSeen = t.ldcSeen := rfl
@[simp] theorem status_undo (n : Nat) : (t.status? n).undo = t.undo := rfl
@[simp] theorem pushQ15_uid (ws : List Word) : (t.pushQ15 ws).uid = t.uid := rfl
@[simp] theorem pushQ15_cell (ws : List Word) : (t.pushQ15 ws).cell = t.cell := rfl
@[simp] theorem pushQ15_slot (ws : List Word) : (t.pushQ15 ws).slot = t.slot := rfl
@[simp] theorem pushQ15_status (ws : List Word) : (t.pushQ15 ws).status = t.status := rfl
@[simp] theorem pushQ15_act (ws : List Word) : (t.pushQ15 ws).act = t.act := rfl
@[simp] theorem pushQ15_part (ws : List Word) : (t.pushQ15 ws).part = t.part := rfl
@[simp] theorem pushQ15_launch (ws : List Word) : (t.pushQ15 ws).launch = t.launch := rfl
@[simp] theorem pushQ15_asid (ws : List Word) : (t.pushQ15 ws).asid = t.asid := rfl
@[simp] theorem pushQ15_pc (ws : List Word) : (t.pushQ15 ws).pc = t.pc := rfl
@[simp] theorem pushQ15_npc (ws : List Word) : (t.pushQ15 ws).npc = t.npc := rfl
@[simp] theorem pushQ15_g (ws : List Word) : (t.pushQ15 ws).g = t.g := rfl
@[simp] theorem pushQ15_gtag (ws : List Word) : (t.pushQ15 ws).gtag = t.gtag := rfl
@[simp] theorem pushQ15_gpois (ws : List Word) : (t.pushQ15 ws).gpois = t.gpois := rfl
@[simp] theorem pushQ15_v (ws : List Word) : (t.pushQ15 ws).v = t.v := rfl
@[simp] theorem pushQ15_vtag (ws : List Word) : (t.pushQ15 ws).vtag = t.vtag := rfl
@[simp] theorem pushQ15_vpois (ws : List Word) : (t.pushQ15 ws).vpois = t.vpois := rfl
@[simp] theorem pushQ15_m (ws : List Word) : (t.pushQ15 ws).m = t.m := rfl
@[simp] theorem pushQ15_q (ws : List Word) : (t.pushQ15 ws).q = t.q := rfl
@[simp] theorem pushQ15_q15 (ws : List Word) : (t.pushQ15 ws).q15 = t.q15 ++ [⟨t.qseq, ws⟩] := rfl
@[simp] theorem pushQ15_qseq (ws : List Word) : (t.pushQ15 ws).qseq = t.qseq + 1 := rfl
@[simp] theorem pushQ15_qpos (ws : List Word) : (t.pushQ15 ws).qpos = t.qpos := rfl
@[simp] theorem pushQ15_fc (ws : List Word) : (t.pushQ15 ws).fc = t.fc := rfl
@[simp] theorem pushQ15_gc (ws : List Word) : (t.pushQ15 ws).gc = t.gc := rfl
@[simp] theorem pushQ15_vl (ws : List Word) : (t.pushQ15 ws).vl = t.vl := rfl
@[simp] theorem pushQ15_loop (ws : List Word) : (t.pushQ15 ws).loop = t.loop := rfl
@[simp] theorem pushQ15_tileq (ws : List Word) : (t.pushQ15 ws).tileq = t.tileq := rfl
@[simp] theorem pushQ15_terr (ws : List Word) : (t.pushQ15 ws).terr = t.terr := rfl
@[simp] theorem pushQ15_trapv (ws : List Word) : (t.pushQ15 ws).trapv = t.trapv := rfl
@[simp] theorem pushQ15_wdog (ws : List Word) : (t.pushQ15 ws).wdog = t.wdog := rfl
@[simp] theorem pushQ15_rmode (ws : List Word) : (t.pushQ15 ws).rmode = t.rmode := rfl
@[simp] theorem pushQ15_uab (ws : List Word) : (t.pushQ15 ws).uab = t.uab := rfl
@[simp] theorem pushQ15_wleft (ws : List Word) : (t.pushQ15 ws).wleft = t.wleft := rfl
@[simp] theorem pushQ15_wdue (ws : List Word) : (t.pushQ15 ws).wdue = t.wdue := rfl
@[simp] theorem pushQ15_handler (ws : List Word) : (t.pushQ15 ws).handler = t.handler := rfl
@[simp] theorem pushQ15_fcause (ws : List Word) : (t.pushQ15 ws).fcause = t.fcause := rfl
@[simp] theorem pushQ15_fpc (ws : List Word) : (t.pushQ15 ws).fpc = t.fpc := rfl
@[simp] theorem pushQ15_faddr (ws : List Word) : (t.pushQ15 ws).faddr = t.faddr := rfl
@[simp] theorem pushQ15_rstat (ws : List Word) : (t.pushQ15 ws).rstat = t.rstat := rfl
@[simp] theorem pushQ15_rank (ws : List Word) : (t.pushQ15 ws).rank = t.rank := rfl
@[simp] theorem pushQ15_lin (ws : List Word) : (t.pushQ15 ws).lin = t.lin := rfl
@[simp] theorem pushQ15_gen (ws : List Word) : (t.pushQ15 ws).gen = t.gen := rfl
@[simp] theorem pushQ15_popId (ws : List Word) : (t.pushQ15 ws).popId = t.popId := rfl
@[simp] theorem pushQ15_coord (ws : List Word) : (t.pushQ15 ws).coord = t.coord := rfl
@[simp] theorem pushQ15_tag (ws : List Word) : (t.pushQ15 ws).tag = t.tag := rfl
@[simp] theorem pushQ15_src (ws : List Word) : (t.pushQ15 ws).src = t.src := rfl
@[simp] theorem pushQ15_sleepUntil (ws : List Word) : (t.pushQ15 ws).sleepUntil = t.sleepUntil := rfl
@[simp] theorem pushQ15_vq (ws : List Word) : (t.pushQ15 ws).vq = t.vq := rfl
@[simp] theorem pushQ15_lbody (ws : List Word) : (t.pushQ15 ws).lbody = t.lbody := rfl
@[simp] theorem pushQ15_vnum (ws : List Word) : (t.pushQ15 ws).vnum = t.vnum := rfl
@[simp] theorem pushQ15_wcount (ws : List Word) : (t.pushQ15 ws).wcount = t.wcount := rfl
@[simp] theorem pushQ15_wops (ws : List Word) : (t.pushQ15 ws).wops = t.wops := rfl
@[simp] theorem pushQ15_age (ws : List Word) : (t.pushQ15 ws).age = t.age := rfl
@[simp] theorem pushQ15_waited (ws : List Word) : (t.pushQ15 ws).waited = t.waited := rfl
@[simp] theorem pushQ15_stepping (ws : List Word) : (t.pushQ15 ws).stepping = t.stepping := rfl
@[simp] theorem pushQ15_bpDone (ws : List Word) : (t.pushQ15 ws).bpDone = t.bpDone := rfl
@[simp] theorem pushQ15_entry (ws : List Word) : (t.pushQ15 ws).entry = t.entry := rfl
@[simp] theorem pushQ15_origin (ws : List Word) : (t.pushQ15 ws).origin = t.origin := rfl
@[simp] theorem pushQ15_task (ws : List Word) : (t.pushQ15 ws).task = t.task := rfl
@[simp] theorem pushQ15_clks (ws : List Word) : (t.pushQ15 ws).clks = t.clks := rfl
@[simp] theorem pushQ15_frame (ws : List Word) : (t.pushQ15 ws).frame = t.frame := rfl
@[simp] theorem pushQ15_sleepTrap (ws : List Word) : (t.pushQ15 ws).sleepTrap = t.sleepTrap := rfl
@[simp] theorem pushQ15_twc (ws : List Word) : (t.pushQ15 ws).twc = t.twc := rfl
@[simp] theorem pushQ15_saves (ws : List Word) : (t.pushQ15 ws).saves = t.saves := rfl
@[simp] theorem pushQ15_top (ws : List Word) : (t.pushQ15 ws).top = t.top := rfl
@[simp] theorem pushQ15_ldcSeen (ws : List Word) : (t.pushQ15 ws).ldcSeen = t.ldcSeen := rfl
@[simp] theorem pushQ15_undo (ws : List Word) : (t.pushQ15 ws).undo = t.undo := rfl

/-! ### Tables -/

/-- A key just set reads as its value. -/
@[simp] theorem tab_get_set {α : Type} (x : Tab α) (d v : α) (k : Nat) : Tab.get (Tab.set x k v) d k = v := by
  induction x with
  | nil => simp [Tab.set, Tab.get]
  | cons e r ih =>
    obtain ⟨i, y⟩ := e
    simp only [Tab.set]
    split
    · next h => simp [Tab.get, ih, Nat.ne_of_lt h]
    · split <;> simp [Tab.get]

/-- Another key reads as before. -/
theorem tab_get_set_ne {α : Type} (x : Tab α) (d v : α) {k j : Nat} (h : j ≠ k) :
    Tab.get (Tab.set x k v) d j = Tab.get x d j := by
  induction x with
  | nil => simp [Tab.set, Tab.get, Ne.symm h]
  | cons e r ih =>
    obtain ⟨i, y⟩ := e
    simp only [Tab.set]
    split
    · simp [Tab.get, ih]
    · split
      · next h1 => subst h1; simp [Tab.get, Ne.symm h]
      · simp [Tab.get, Ne.symm h]

@[simp] theorem cell_setCell (c : Nat) (x : Cell) : (s.setCell c x).cell c = x := by simp [State.cell]
theorem cell_setCell_ne {c c' : Nat} (x : Cell) (h : c' ≠ c) : (s.setCell c x).cell c' = s.cell c' := by
  simp [State.cell, tab_get_set_ne _ _ _ h]
@[simp] theorem cell_modCell (c : Nat) (f : Cell → Cell) : (s.modCell c f).cell c = f (s.cell c) := by simp [State.cell]
theorem cell_modCell_ne {c c' : Nat} (f : Cell → Cell) (h : c' ≠ c) : (s.modCell c f).cell c' = s.cell c' := by
  simp [State.cell, tab_get_set_ne _ _ _ h]
@[simp] theorem cluster_setCluster (k : Nat) (x : Cluster) : (s.setCluster k x).cluster k = x := by simp [State.cluster]
theorem cluster_setCluster_ne {k k' : Nat} (x : Cluster) (h : k' ≠ k) : (s.setCluster k x).cluster k' = s.cluster k' := by
  simp [State.cluster, tab_get_set_ne _ _ _ h]
@[simp] theorem cluster_modCluster (k : Nat) (f : Cluster → Cluster) : (s.modCluster k f).cluster k = f (s.cluster k) := by
  simp [State.cluster]
theorem cluster_modCluster_ne {k k' : Nat} (f : Cluster → Cluster) (h : k' ≠ k) :
    (s.modCluster k f).cluster k' = s.cluster k' := by
  simp [State.cluster, tab_get_set_ne _ _ _ h]
@[simp] theorem die_modDie (d : Nat) (f : Die → Die) : (s.modDie d f).die d = f (s.die d) := by simp [State.die]
theorem die_modDie_ne {d d' : Nat} (f : Die → Die) (h : d' ≠ d) : (s.modDie d f).die d' = s.die d' := by
  simp [State.die, tab_get_set_ne _ _ _ h]
@[simp] theorem part_setPart (p : Nat) (x : Part) : (s.setPart p x).part p = x := by simp [State.part]
theorem part_setPart_ne {p p' : Nat} (x : Part) (h : p' ≠ p) : (s.setPart p x).part p' = s.part p' := by
  simp [State.part, tab_get_set_ne _ _ _ h]
@[simp] theorem part_modPart (p : Nat) (f : Part → Part) : (s.modPart p f).part p = f (s.part p) := by simp [State.part]
theorem part_modPart_ne {p p' : Nat} (f : Part → Part) (h : p' ≠ p) : (s.modPart p f).part p' = s.part p' := by
  simp [State.part, tab_get_set_ne _ _ _ h]
@[simp] theorem tile_setTile (c : Cluster) (n : Nat) (x : Tile) : (c.setTile n x).tile n = x := by
  simp [Cluster.tile, Cluster.setTile]
theorem tile_setTile_ne (c : Cluster) {n m : Nat} (x : Tile) (h : m ≠ n) : (c.setTile n x).tile m = c.tile m := by
  simp [Cluster.tile, Cluster.setTile, tab_get_set_ne _ _ _ h]

/-- A register written reads as its value; g0 does not change. -/
theorem setG_g (n : Fin 32) (v : Word) (k : Fmt) (j : Fin 32) :
    (t.setG n v k).g.get j = if n ≠ 0 ∧ j = n then v else t.g.get j := by
  unfold Strand.setG
  by_cases h : n.val = 0
  · have h' : n = 0 := Fin.ext h
    simp [h']
  · have h' : n ≠ 0 := fun e => h (by simp [e])
    by_cases hj : j = n
    · subst hj; simp [h', Vector.get]
    · have hv : n.val ≠ j.val := fun e => hj (Fin.ext e.symm)
      simp [h, hj, Vector.get, hv]

end Sys2Proof.Laws
end

