-- ==== Sys2Proof/Laws/Stops.lean ====
section
/-! SUPPORT. Taking a fault and the other stops, once for all: what each leaves as it was (R318-R320), and what an
instruction answers. -/

namespace Sys2Proof.Laws

open Sys2Proof.Machine

variable (s : State)

/-- A fatal fault changes partitions alone. -/
theorem fatal_frame (p launch cell slot uid cause : Nat) (pc : BitVec 40) (addr : Word) :
    ∃ ps, s.fatal p launch cell slot uid cause pc addr = { s with parts := ps } := by
  unfold State.fatal State.setPart
  split <;> exact ⟨_, rfl⟩

/-- A fatal fault writes the fault registers, stops the strand for good and opens the end of its domain (R320, R323). -/
theorem takeFault_fatal (cause : Nat) (pc : BitVec 40) (addr : Word) (h : s.st.trapv = 0 ∨ s.st.handler = true) :
    s.takeFault cause pc addr =
      State.fatal { s with st := { s.st with
        status := .stopped, stepping := false, top := none, fcause := BitVec.ofNat 16 cause, fpc := pc, faddr := addr } }
        s.st.part s.st.launch s.st.cell s.st.slot s.st.uid cause pc addr := by
  unfold State.takeFault
  rw [if_pos h]

/-- Whatever the fault: memory, the other strands, the caches, the queues and the clock are as they were. -/
theorem takeFault_frame (cause : Nat) (pc : BitVec 40) (addr : Word) :
    ∃ t ps, s.takeFault cause pc addr = { s with st := t, parts := ps } := by
  unfold State.takeFault
  split
  · obtain ⟨ps, h⟩ := fatal_frame { s with st := { s.st with
      status := .stopped, stepping := false, top := none, fcause := BitVec.ofNat 16 cause, fpc := pc, faddr := addr } }
      s.st.part s.st.launch s.st.cell s.st.slot s.st.uid cause pc addr
    exact ⟨_, ps, h⟩
  · exact ⟨_, _, rfl⟩

theorem takeFault_regs (cause : Nat) (pc : BitVec 40) (addr : Word) :
    let t := (s.takeFault cause pc addr).st
    t.g = s.st.g ∧ t.gtag = s.st.gtag ∧ t.v = s.st.v ∧ t.vtag = s.st.vtag ∧ t.m = s.st.m ∧ t.q = s.st.q ∧ t.vl = s.st.vl ∧
    t.fcause = BitVec.ofNat 16 cause ∧ t.fpc = pc ∧ t.faddr = addr ∧ t.rstat = s.st.rstat ∧ t.trapv = s.st.trapv := by
  unfold State.takeFault
  split
  · obtain ⟨ps, h⟩ := fatal_frame { s with st := { s.st with
      status := .stopped, stepping := false, top := none, fcause := BitVec.ofNat 16 cause, fpc := pc, faddr := addr } }
      s.st.part s.st.launch s.st.cell s.st.slot s.st.uid cause pc addr
    simp [h]
  · simp

/-- A walk joined or started changes the list of walks and the next number alone. -/
theorem startWalk_frame (die p asid va acc : Nat) (eng : Bool) (cell slot : Nat) :
    ∃ ws n, (s.startWalk die p asid va acc eng cell slot).2 = { s with walks := ws, nextId := n } := by
  unfold State.startWalk
  split <;> exact ⟨_, _, rfl⟩

/-- Every stop but a fault that a home found: nothing changes but the strand, its partition and the walks. -/
theorem stop_frame (e : Stop) (h : ∀ s' c a, e ≠ .found s' c a) :
    ∃ t ps ws n, s.stop e = { s with st := t, parts := ps, walks := ws, nextId := n } := by
  cases e with
  | trap c a =>
    simp only [State.stop]
    split
    · obtain ⟨t, ps, h⟩ := takeFault_frame s c s.st.pc (BitVec.ofNat 64 a); exact ⟨t, ps, s.walks, s.nextId, h⟩
    · exact ⟨_, _, _, _, rfl⟩
  | after c a =>
    simp only [State.stop]
    split
    · obtain ⟨t, ps, h⟩ := takeFault_frame s c s.st.npc (BitVec.ofNat 64 a); exact ⟨t, ps, s.walks, s.nextId, h⟩
    · exact ⟨_, _, _, _, rfl⟩
  | wait w => exact ⟨_, _, _, _, rfl⟩
  | found s' c a => exact absurd rfl (h s' c a)
  | miss va acc =>
    simp only [State.stop]
    obtain ⟨ws, n, h⟩ := startWalk_frame s (dieOf s.st.cell) s.st.part s.st.asid va acc false s.st.cell s.st.slot
    rw [h]; exact ⟨_, _, _, _, rfl⟩

@[simp] theorem settle_ok (s' : State) : s.settle (.ok s') = s' := rfl
@[simp] theorem settle_error (e : Stop) : s.settle (.error e) = s.stop e := rfl

/-- What an instruction of the shape `settle` answers: its effect, or its stop. -/
theorem settle_cases (r : Run State) : (∃ s', r = .ok s' ∧ s.settle r = s') ∨ (∃ e, r = .error e ∧ s.settle r = s.stop e) := by
  cases r with
  | ok s' => exact .inl ⟨s', rfl, rfl⟩
  | error e => exact .inr ⟨e, rfl, rfl⟩

/-- A computation that may stop and answers had both its parts answer. -/
theorem bind_ok {α β : Type} {x : Run α} {f : α → Run β} {b : β} (h : (x >>= f) = .ok b) :
    ∃ a, x = .ok a ∧ f a = .ok b := by
  cases x with
  | ok a => exact ⟨a, rfl, h⟩
  | error e => simp [bind, Except.bind] at h

/-! ### Registers read and written -/

/-- What reading a scalar register can do to the strand: nothing, or pop a queue. -/
theorem takeReg_cases {t t' : Strand} {r : SReg} {x : Src} (h : takeReg s t r = .ok (x, t')) :
    t' = t ∨ (∃ qs, t' = { t with q := qs }) ∨ (∃ qs n, t' = { t with q15 := qs, qpos := n }) := by
  cases r with
  | g n => simp [takeReg] at h; exact .inl h.2.symm
  | sp r => simp [takeReg] at h; exact .inl h.2.symm
  | q n =>
    simp only [takeReg] at h
    split at h
    · split at h
      · simp at h
      · simp only [Except.ok.injEq, Prod.mk.injEq] at h
        obtain ⟨_, h⟩ := h
        subst h
        split
        · exact .inr (.inr ⟨_, _, rfl⟩)
        · exact .inr (.inr ⟨_, _, rfl⟩)
    · split at h
      · split at h
        · simp at h
        · simp only [Except.ok.injEq, Prod.mk.injEq] at h
          exact .inr (.inl ⟨_, h.2.symm⟩)
      · simp at h

/-- An operand read leaves every register but the queues. -/
theorem takeOp_frame {t t' : Strand} {b : Opnd} {x : Src} (h : takeOp s t b = .ok (x, t')) :
    ∃ qs qs' n, t' = { t with q := qs, q15 := qs', qpos := n } := by
  cases b with
  | vec n => simp [takeOp] at h; exact ⟨t.q, t.q15, t.qpos, by rw [← h.2]⟩
  | const n => simp [takeOp] at h; exact ⟨t.q, t.q15, t.qpos, by rw [← h.2]⟩
  | lit v => simp [takeOp] at h; exact ⟨t.q, t.q15, t.qpos, by rw [← h.2]⟩
  | reg r =>
    rcases takeReg_cases s h with h | ⟨qs, h⟩ | ⟨qs, n, h⟩
    · exact ⟨t.q, t.q15, t.qpos, by rw [h]⟩
    · exact ⟨qs, t.q15, t.qpos, h⟩
    · exact ⟨t.q, qs, n, h⟩

/-- What writing a scalar destination can do: write a general register, push on a queue, or nothing. -/
theorem putReg_cases {t t' : Strand} {d : SReg} {v : Word} {k : Fmt} (h : putReg t d v k = .ok t') :
    (∃ n, d = .g n ∧ t' = t.setG n v k) ∨ (∃ r, d = .sp r ∧ t' = t) ∨
    (∃ n, ∃ h : n.val < 8, d = .q n ∧ t' = { t with q := t.q.set n.val (t.q[n.val] ++ [⟨v, k, false⟩]) }) := by
  cases d with
  | g n => simp [putReg] at h; exact .inl ⟨n, rfl, h.symm⟩
  | sp r => simp [putReg] at h; exact .inr (.inl ⟨r, rfl, h.symm⟩)
  | q n =>
    simp only [putReg] at h
    split at h
    · split at h
      · next h1 _ =>
        simp only [Except.ok.injEq] at h
        exact .inr (.inr ⟨n, h1, rfl, h.symm⟩)
      · simp at h
    · simp at h

end Sys2Proof.Laws
end

