-- ==== Sys2Proof/Laws/Vector.lean ====
section
/-! SUPPORT. The vector stream: what the checks of a vector instruction answer when its operands are in order, and what
the shapes of element instructions answer then. -/

namespace Sys2Proof.Laws

open Sys2Proof.Machine Sys2Proof.Safety

/-- A ready vector instruction answers its effect. -/
theorem vector_ok {i : Instr} {s s' : State} {c : VIn} (h : VectorReady i s c) (e : vectorEffect i c = .ok s') :
    vector i s = .next (s'.finish.markSequencer s.st.cell) := by
  obtain ⟨⟨h1, h2, h3, h4⟩, h11, ⟨h8, h9⟩, h5⟩ := h
  have h6 : vectorChecks i = .ok () := by
    unfold entryIn at h5
    simp only [newEntry] at h5
    revert h5
    cases vectorChecks i with
    | ok => intro; rfl
    | error e => intro h; simp [bind, Except.bind] at h
  unfold vector issueVector
  have h10 : s.atOnce = true := by simpa [State.atOnce, h3, h4, h8, h9] using h11
  simp only [noHazard, h1, h2, h6, h10, runEntry, h5, bind, Except.bind]
  have h7 : (newEntry s i s.st.pc s.st.npc false).ins = i := rfl
  simp [h7, e, State.settle]

/-- The machine and the rounding mode that a ready vector instruction executes with. -/
theorem vector_in {i : Instr} {s : State} {c : VIn} (h : VectorReady i s c) : c.s = s ∧ c.mode = s.st.rmode := by
  obtain ⟨_, _, _, h⟩ := h
  unfold entryIn at h
  simp only [bind, Except.bind] at h
  repeat' split at h
  all_goals first
    | cases h; done
    | (cases h; exact ⟨rfl, rfl⟩)

theorem groupCheck_ok {t : Strand} {eg w reg : Nat} (h : GroupOk t eg w reg) : groupCheck t eg w reg = .ok () := by
  obtain ⟨h1, h2, h3⟩ := h
  simp [groupCheck, h3, Nat.not_lt.mpr h1, Nat.not_lt.mpr h2]

theorem groupTags_ok {t : Strand} {eg w reg : Nat} {f : Fmt} (h : GroupTagsOk t eg w reg f) :
    groupTags t eg w reg f = .ok () := by
  unfold groupTags
  split
  · next r hr =>
    have h1 := List.find?_some hr
    have h2 := h r (List.mem_of_find?_eq_some hr)
    simp at h1; tauto
  · rfl

theorem use_ok {x : VSrc} {vl : Nat} {p : Nat → Bool} (h : Clean x vl p) : x.use vl p = .ok () := by
  unfold VSrc.use
  split
  · rfl
  · split
    · next r hr =>
      have h1 := List.find?_some hr
      have h2 := List.mem_of_find?_eq_some hr
      have h3 : p r = true ∧ x.isBad r = true := by simpa using h1
      have h4 := h r (by simpa using h2) h3.1
      rw [h4] at h3; simp at h3
    · rfl

theorem operand_ok {c : VIn} {eg w : Nat} {b : Opnd} {f : Option Fmt} {p : Nat → Bool} (h : OperandOk c eg w b f p) :
    bTags c eg w b f = .ok () ∧ bGroup c eg w b = .ok () ∧ bUse c (bRead c eg w b) p = .ok () := by
  unfold OperandOk at h
  split at h
  · next n =>
    obtain ⟨h1, h2, h3⟩ := h
    refine ⟨?_, groupCheck_ok h2, use_ok h3⟩
    cases f with
    | none => rfl
    | some g => exact groupTags_ok (h1 g rfl)
  · next hn =>
    obtain ⟨h1, h2⟩ := h
    cases b with
    | vec n => exact absurd rfl (hn n)
    | _ =>
      refine ⟨?_, rfl, by simp [bRead, bUse, poisonCheck, h2]⟩
      cases f with
      | none => rfl
      | some g => simp only [bTags]; simp [tagCheck, show c.b.tag = g ∨ c.b.tag = .raw from h1]

/-- An element instruction whose operands are in order writes its results. -/
theorem elemRun_ok {c : VIn} {f : Fmt} {k : Keys} {d a : Fin 32} {b : Opnd} {fa fb fd : Option Fmt} {useD : Bool}
    (h : ElementsOk c f k d a b fa fb fd useD) (tag : Fmt) (g : Nat → Nat → Nat → Nat) :
    elemRun c f k d a b fa fb fd useD tag g =
      let eg := groupSize c.t k f f.bits
      let res (j : Nat) : Fill :=
        .new (g ((c.t.vsrc eg f.bits a).get j) ((bRead c eg f.bits b).get j) ((c.t.vsrc eg f.bits d).get j)) false
      .ok { c.s with st := c.t.vwrite k eg f.bits d tag (c.t.activeAt k) res } := by
  obtain ⟨⟨a1, a2, a3⟩, b1, d1, d2, d3⟩ := h
  obtain ⟨b1, b2, b3⟩ := operand_ok b1
  unfold elemRun
  cases fa <;> cases fd <;> cases useD <;>
    simp_all [bind, Except.bind, groupTags_ok, groupCheck_ok, use_ok, VIn.out]

/-- An element instruction on one source in order writes its results. -/
theorem unaryRun_ok {c : VIn} {f fs : Fmt} {k : Keys} {d src : Fin 32} {ws : Nat}
    (h : SourceOk c (groupSize c.t k f ws) ws src (some fs) (c.t.activeAt k))
    (h' : GroupOk c.t (groupSize c.t k f f.bits) f.bits d) (tag : Fmt) (g : Nat → Nat) :
    unaryRun c f k d src ws fs tag g =
      let res (j : Nat) : Fill := .new (g ((c.t.vsrc (groupSize c.t k f ws) ws src).get j)) false
      .ok { c.s with st := c.t.vwrite k (groupSize c.t k f f.bits) f.bits d tag (c.t.activeAt k) res } := by
  obtain ⟨h1, h2, h3⟩ := h
  unfold unaryRun
  simp only [bind, Except.bind, groupTags_ok (h1 fs rfl), groupCheck_ok h2, groupCheck_ok h', use_ok h3]
  rfl

end Sys2Proof.Laws
end

