-- ==== Sys2Proof/Tests/Slice0.lean ====
section
/-! SUPPORT. Tests: decoded words of every constructor, the checks of well-formedness, results from the spec's worked
examples, and for each statement states and operands that meet its hypotheses. -/

namespace Sys2Proof.Tests

open Sys2Proof Sys2Proof.Machine Sys2Proof.Safety

set_option Elab.async false

/-! ### Decoding: one word per constructor, its fixed bits from the opcode table (R94-R96), its fields from R77, R82, R85 -/

theorem test_decode_page0_1 : ∀ p ∈ ([
    ([0x0040], .nop),
    ([0x0080], .done),
    ([0x00C0], .yield),
    ([0x0106], .jr (.g 6)),
    ([0x0BAE], .add .s64 (.g 3) (.reg (.g 5)) (.reg (.g 6))),
    ([0x13AE], .sub .s64 (.g 3) (.reg (.g 5)) (.reg (.g 6))),
    ([0x1BAE], .mul .s64 (.g 3) (.reg (.g 5)) (.reg (.g 6))),
    ([0x23AE], .and (.g 3) (.reg (.g 5)) (.reg (.g 6))),
    ([0x2BAE], .or (.g 3) (.reg (.g 5)) (.reg (.g 6))),
    ([0x33AE], .xor (.g 3) (.reg (.g 5)) (.reg (.g 6))),
    ([0x3BAE], .shl .s64 (.g 3) (.reg (.g 5)) (.reg (.g 6))),
    ([0x43AE], .shr .s64 (.g 3) (.reg (.g 5)) (.reg (.g 6))),
    ([0x4BAE], .sra .s64 (.g 3) (.reg (.g 5)) (.reg (.g 6))),
    ([0x53AE], .slt .s64 (.g 3) (.reg (.g 5)) (.reg (.g 6))),
    ([0x5BAE], .sltn .raw (.g 3) (.reg (.g 5)) (.reg (.g 6))),
    ([0x63AE], .seq .s64 (.g 3) (.reg (.g 5)) (.reg (.g 6)))] : List (List Nat × Instr)),
    decodeWords p.1 = .ok p.2 p.1.length := by decide +kernel

theorem test_decode_page0_2 : ∀ p ∈ ([
    ([0x6BAE], .min .s64 (.g 3) (.reg (.g 5)) (.reg (.g 6))),
    ([0x73AE], .max .s64 (.g 3) (.reg (.g 5)) (.reg (.g 6))),
    ([0x7BAE], .sel .s64 (.g 3) (.reg (.g 5)) (.reg (.g 6))),
    ([0x830E], .mov (.g 3) (.reg (.g 6))),
    ([0x8B1D], .li (.g 3) (-3)),
    ([0x93BD], .lea (.g 3) (.reg (.g 5)) (-3)),
    ([0x98FE], .b (-2)),
    ([0xE7FE, 0xA2AE], .bc .lt (.reg (.g 5)) (.reg (.g 6)) (-2)),
    ([0xABFE], .loop (.g 3) (-2)),
    ([0xB3FE], .jal (.g 3) (-2)),
    ([0xBCFE], .bm .any 4 (-2)),
    ([0xC3AE], .andn (.g 3) (.reg (.g 5)) (.reg (.g 6))),
    ([0xCBAE], .rotl .s64 (.g 3) (.reg (.g 5)) (.reg (.g 6)))] : List (List Nat × Instr)),
    decodeWords p.1 = .ok p.2 p.1.length := by decide +kernel

theorem test_decode_page1_1 : ∀ p ∈ ([
    ([0xF098, 0x03AE], .mulh .s32 (.g 3) (.reg (.g 5)) (.reg (.g 6))),
    ([0xF0B8, 0x0BAE], .mulhn .n32 (.g 3) (.reg (.g 5)) (.reg (.g 6))),
    ([0xF098, 0x13AE], .div .s32 (.g 3) (.reg (.g 5)) (.reg (.g 6))),
    ([0xF0B8, 0x1BAE], .divn .n32 (.g 3) (.reg (.g 5)) (.reg (.g 6))),
    ([0xF098, 0x23AE], .rem .s32 (.g 3) (.reg (.g 5)) (.reg (.g 6))),
    ([0xF0B8, 0x2BAE], .remn .n32 (.g 3) (.reg (.g 5)) (.reg (.g 6))),
    ([0xF0B8, 0x33AE], .minn .n32 (.g 3) (.reg (.g 5)) (.reg (.g 6))),
    ([0xF0B8, 0x3BAE], .maxn .n32 (.g 3) (.reg (.g 5)) (.reg (.g 6))),
    ([0xF080, 0x430E], .clz (.g 3) (.reg (.g 6))),
    ([0xF080, 0x4B0E], .ctz (.g 3) (.reg (.g 6))),
    ([0xF080, 0x530E], .popc (.g 3) (.reg (.g 6))),
    ([0xF080, 0x5BAE], .bext (.g 3) (.reg (.g 5)) (.reg (.g 6))),
    ([0xF080, 0x63AE], .bins (.g 3) (.reg (.g 5)) (.reg (.g 6))),
    ([0xF0C2, 0x6BAE], .fadd .f32 .rtz (.g 3) (.reg (.g 5)) (.reg (.g 6))),
    ([0xF0C1, 0x73AE], .fsub .f32 .rne (.g 3) (.reg (.g 5)) (.reg (.g 6))),
    ([0xF0C3, 0x7BAE], .fmul .f32 .rdn (.g 3) (.reg (.g 5)) (.reg (.g 6)))] : List (List Nat × Instr)),
    decodeWords p.1 = .ok p.2 p.1.length := by decide +kernel

theorem test_decode_page1_2 : ∀ p ∈ ([
    ([0xF0C4, 0x83AE], .fma .f32 .rup (.g 3) (.reg (.g 5)) (.reg (.g 6))),
    ([0xF0C0, 0x8BAE], .fdiv .f32 .dyn (.g 3) (.reg (.g 5)) (.reg (.g 6))),
    ([0xF0C0, 0x930E], .fsqrt .f32 .dyn (.g 3) (.reg (.g 6))),
    ([0xF0C0, 0x9BAE], .fmin .f32 (.g 3) (.reg (.g 5)) (.reg (.g 6))),
    ([0xF0C0, 0xA3AE], .fmax .f32 (.g 3) (.reg (.g 5)) (.reg (.g 6))),
    ([0xF0C1, 0xABAE], .fcmp .f32 .lt (.g 3) (.reg (.g 5)) (.reg (.g 6))),
    ([0xF090, 0xB30E], .fcvt .s16 .dyn false (.g 3) (.reg (.g 6))),
    ([0xF0C0, 0xBB0E], .fclass .f32 (.g 3) (.reg (.g 6))),
    ([0xF080, 0xC302], .sget (.g 3) .rmode),
    ([0xF080, 0xC8A2], .sset .rmode (.reg (.g 5)))] : List (List Nat × Instr)),
    decodeWords p.1 = .ok p.2 p.1.length := by decide +kernel

theorem test_decode_page2_1 : ∀ p ∈ ([
    ([0xF100, 0x03AE], .vsetvl (.g 3) (.reg (.g 5)) (.reg (.g 6))),
    ([0xF11A, 0x0B0E], .vsetvli .s32 .g4 (.g 3) (.reg (.g 6))),
    ([0xF118, 0x13A6], .vadd .s32 Keys.dflt 3 5 (.vec 6)),
    ([0xF118, 0x1BAE], .vsub .s32 Keys.dflt 3 5 (.reg (.g 6))),
    ([0xF118, 0x23AE], .vmul .s32 Keys.dflt 3 5 (.reg (.g 6))),
    ([0xF118, 0x2BAE], .vmulh .s32 Keys.dflt 3 5 (.reg (.g 6))),
    ([0xF118, 0x33AE], .vmacc .s32 Keys.dflt 3 5 (.reg (.g 6))),
    ([0xF118, 0x3BAE], .vand .s32 Keys.dflt 3 5 (.reg (.g 6))),
    ([0xF118, 0x43AE], .vor .s32 Keys.dflt 3 5 (.reg (.g 6))),
    ([0xF118, 0x4BAE], .vxor .s32 Keys.dflt 3 5 (.reg (.g 6))),
    ([0xF118, 0x53AE], .vshl .s32 Keys.dflt 3 5 (.reg (.g 6))),
    ([0xF118, 0x5BAE], .vshr .s32 Keys.dflt 3 5 (.reg (.g 6))),
    ([0xF118, 0x63AE], .vsra .s32 Keys.dflt 3 5 (.reg (.g 6))),
    ([0xF118, 0x6BAE], .vmin .s32 Keys.dflt 3 5 (.reg (.g 6))),
    ([0xF118, 0x73AE], .vmax .s32 Keys.dflt 3 5 (.reg (.g 6))),
    ([0xF138, 0x7BAE], .vminn .n32 Keys.dflt 3 5 (.reg (.g 6)))] : List (List Nat × Instr)),
    decodeWords p.1 = .ok p.2 p.1.length := by decide +kernel

theorem test_decode_page2_2 : ∀ p ∈ ([
    ([0xF138, 0x83AE], .vmaxn .n32 Keys.dflt 3 5 (.reg (.g 6))),
    ([0xF118, 0x8B06], .vabs .s32 Keys.dflt 3 6),
    ([0xF110, 0x93AE], .vnarrow .s16 Keys.dflt 3 5 (.reg (.g 6))),
    ([0xF110, 0x9B06], .vwiden .s16 Keys.dflt 3 6)] : List (List Nat × Instr)),
    decodeWords p.1 = .ok p.2 p.1.length := by decide +kernel

theorem test_decode_page3_1 : ∀ p ∈ ([
    ([0xF1C0, 0x03A6], .vfadd .f32 .dyn Keys.dflt 3 5 (.vec 6)),
    ([0xF1C0, 0x0BAE], .vfsub .f32 .dyn Keys.dflt 3 5 (.reg (.g 6))),
    ([0xF1C0, 0x13AE], .vfmul .f32 .dyn Keys.dflt 3 5 (.reg (.g 6))),
    ([0xF1C0, 0x1BAE], .vfma .f32 .dyn Keys.dflt 3 5 (.reg (.g 6))),
    ([0xF1C0, 0x23AE], .vfdiv .f32 .dyn Keys.dflt 3 5 (.reg (.g 6))),
    ([0xF1C0, 0x2BAE], .vfmin .f32 Keys.dflt 3 5 (.reg (.g 6))),
    ([0xF1C0, 0x33AE], .vfmax .f32 Keys.dflt 3 5 (.reg (.g 6))),
    ([0xF19B, 0x3BAE], .vcmp .s32 .ge Keys.dflt 3 5 (.reg (.g 6))),
    ([0xF1C2, 0x43AE], .vfcmp .f32 .le Keys.dflt 3 5 (.reg (.g 6))),
    ([0xF1D0, 0x4BAE], .vsel .f16 Keys.dflt 3 5 (.reg (.g 6))),
    ([0xF1A8, 0x530E], .vmv .n8 Keys.dflt 3 (.reg (.g 6))),
    ([0xF199, 0x5BAE], .vslide .s32 true Keys.dflt 3 5 (.reg (.g 6))),
    ([0xF1B0, 0x63A6], .vperm .n16 Keys.dflt 3 5 6),
    ([0xF198, 0x6B06], .vcompress .s32 Keys.dflt 3 6),
    ([0xF1C0, 0x73AE], .vredsum .f32 .dyn Keys.dflt (.g 3) 5 (.reg (.g 6))),
    ([0xF188, 0x7BAE], .vredmax .s8 Keys.dflt (.g 3) 5 (.reg (.g 6)))] : List (List Nat × Instr)),
    decodeWords p.1 = .ok p.2 p.1.length := by decide +kernel

theorem test_decode_page3_2 : ∀ p ∈ ([
    ([0xF198, 0x83AE], .vredmin .s32 Keys.dflt (.g 3) 5 (.reg (.g 6))),
    ([0xF1C0, 0x8BA6], .vdotx .f32 .dyn Keys.dflt (.g 3) 5 6),
    ([0xF1C0, 0x93AE], .vdeq .f32 .dyn Keys.dflt 3 5 (.reg (.g 6))),
    ([0xF1C0, 0x9BA6], .vprune4 .f32 Keys.dflt 3 5 6),
    ([0xF180, 0xA3A6], .mand Keys.dflt 3 5 6),
    ([0xF180, 0xABA6], .mor Keys.dflt 3 5 6),
    ([0xF180, 0xB3A6], .mxor Keys.dflt 3 5 6),
    ([0xF180, 0xBB0E], .mset 3 (.reg (.g 6))),
    ([0xF1C0, 0xC02E], .vexp2 Keys.dflt 5 6),
    ([0xF1C0, 0xC06E], .vlog2 Keys.dflt 5 6),
    ([0xF1C0, 0xC0AE], .vrcp Keys.dflt 5 6),
    ([0xF1C0, 0xC0EE], .vrsq Keys.dflt 5 6),
    ([0xF1C0, 0xC12E], .vsigm Keys.dflt 5 6),
    ([0xF1C0, 0xC16E], .vtanh Keys.dflt 5 6),
    ([0xF1C0, 0xC1AE], .vcvt .f32 .dyn Keys.dflt 5 6),
    ([0xF180, 0xC1EE], .mnot Keys.dflt 5 6)] : List (List Nat × Instr)),
    decodeWords p.1 = .ok p.2 p.1.length := by decide +kernel

theorem test_decode_page3_3 : ∀ p ∈ ([
    ([0xF180, 0xC22E], .mpop (.g 5) 6),
    ([0xF180, 0xC26E], .mfirst (.g 5) 6),
    ([0xF180, 0xC2AE], .vrep 5 (.g 6))] : List (List Nat × Instr)),
    decodeWords p.1 = .ok p.2 p.1.length := by decide +kernel

theorem test_decode_page4_1 : ∀ p ∈ ([
    ([0xF208, 0x03BD], .vld .s8 Keys.dflt 3 (.reg (.g 5)) (-3)),
    ([0xF218, 0x0BAE], .vlds .s32 Keys.dflt 3 (.reg (.g 5)) (.reg (.g 6))),
    ([0xF218, 0x13A6], .vldx .s32 Keys.dflt 3 (.reg (.g 5)) 6),
    ([0xF218, 0x1BBD], .vldff .s32 Keys.dflt 3 (.reg (.g 5)) (-3)),
    ([0xF218, 0x23BD], .vst .s32 Keys.dflt 3 (.reg (.g 5)) (-3)),
    ([0xF218, 0x2BAE], .vsts .s32 Keys.dflt 3 (.reg (.g 5)) (.reg (.g 6))),
    ([0xF218, 0x33A6], .vstx .s32 Keys.dflt 3 (.reg (.g 5)) 6),
    ([0xF248, 0x3BAE], .mma .bf16 .asA false 3 (.g 5) (.reg (.g 6))),
    ([0xF249, 0x43AE], .mmas .bf16 .asA true 3 (.g 5) (.g 6)),
    ([0xF248, 0x4BAE], .mmac .bf16 .asA false 3 (.g 5) (.reg (.g 6))),
    ([0xF240, 0x53AE], .trd .f32 3 5 (.reg (.g 6))),
    ([0xF240, 0x5BAE], .twr .f32 3 5 (.reg (.g 6))),
    ([0xF200, 0x63AE], .tgate .sigb 3 5 (.reg (.g 6))),
    ([0xF201, 0x6BA6], .tscan true 0 3 5 6),
    ([0xF240, 0x73AE], .tcvt .f32 .dyn false 3 5 (.reg (.g 6))),
    ([0xF200, 0x7BBE], .tst 3 (.reg (.g 5)) 6)] : List (List Nat × Instr)),
    decodeWords p.1 = .ok p.2 p.1.length := by decide +kernel

theorem test_decode_page4_2 : ∀ p ∈ ([
    ([0xF200, 0x83BE], .tld 3 (.reg (.g 5)) 6),
    ([0xF200, 0x8828], .tzero 5),
    ([0xF200, 0x8845], .twait 5)] : List (List Nat × Instr)),
    decodeWords p.1 = .ok p.2 p.1.length := by decide +kernel

theorem test_decode_page5_1 : ∀ p ∈ ([
    ([0xF290, 0x03BD], .ld .s16 (.g 3) (.reg (.g 5)) (-3)),
    ([0xF2A8, 0x0BBD], .st .n8 (.g 3) (.reg (.g 5)) (-3)),
    ([0xF2C8, 0x13BD], .ldc .bf16 (.g 3) (.reg (.g 5)) (-3)),
    ([0xF2A0, 0x1BAE], .aadd .s64 (.g 3) (.reg (.g 5)) (.reg (.g 6))),
    ([0xF2B8, 0x23AE], .aand .n32 (.g 3) (.reg (.g 5)) (.reg (.g 6))),
    ([0xF2B8, 0x2BAE], .aor .n32 (.g 3) (.reg (.g 5)) (.reg (.g 6))),
    ([0xF2B8, 0x33AE], .axor .n32 (.g 3) (.reg (.g 5)) (.reg (.g 6))),
    ([0xF2A0, 0x3BAE], .amin .s64 (.g 3) (.reg (.g 5)) (.reg (.g 6))),
    ([0xF298, 0x43AE], .amax .s32 (.g 3) (.reg (.g 5)) (.reg (.g 6))),
    ([0xF2B8, 0x4BAE], .axchg .n32 (.g 3) (.reg (.g 5)) (.reg (.g 6))),
    ([0xF2B8, 0x53AE], .acas .n32 (.g 3) (.reg (.g 5)) (.reg (.g 6))),
    ([0xF2B8, 0x5BAE], .incw .n32 (.g 3) (.reg (.g 5)) (.reg (.g 6))),
    ([0xF2B8, 0x63AE], .bfadd .n32 (.g 3) (.reg (.g 5)) (.reg (.g 6))),
    ([0xF298, 0x68AE], .xred .s32 (.reg (.g 5)) (.reg (.g 6))),
    ([0xF2D0, 0x73BD], .xrd .f16 .dyn (.g 3) (.reg (.g 5)) (-3)),
    ([0xF280, 0x7BAE], .enq (.g 3) (.reg (.g 5)) (.reg (.g 6)))] : List (List Nat × Instr)),
    decodeWords p.1 = .ok p.2 p.1.length := by decide +kernel

theorem test_decode_page5_2 : ∀ p ∈ ([
    ([0xF280, 0x83A0], .deq (.g 3) (.reg (.g 5))),
    ([0xF280, 0x88AE], .barm (.reg (.g 5)) (.reg (.g 6))),
    ([0xF280, 0x90A0], .bput (.reg (.g 5))),
    ([0xF280, 0x98AE], .btake (.reg (.g 5)) (.reg (.g 6))),
    ([0xF281, 0xA0A0], .cpy .dec (.reg (.g 5))),
    ([0xF283, 0xA8A0], .cpyb .q4g (.reg (.g 5))),
    ([0xF280, 0xB0A0], .gath (.reg (.g 5))),
    ([0xF280, 0xB8A0], .route (.reg (.g 5))),
    ([0xF284, 0xC006], .inv .die (.g 6)),
    ([0xF282, 0xC058], .fence .full .cell)] : List (List Nat × Instr)),
    decodeWords p.1 = .ok p.2 p.1.length := by decide +kernel

theorem test_decode_page6_1 : ∀ p ∈ ([
    ([0xF301, 0x00A0], .send true (.reg (.g 5))),
    ([0xF301, 0x08A0], .sendn true (.reg (.g 5))),
    ([0xF301, 0x10AE], .mcast true (.reg (.g 5)) (.reg (.g 6))),
    ([0xF300, 0x18A0], .spawn (.reg (.g 5))),
    ([0xF300, 0x200E], .migrate (.reg (.g 6))),
    ([0xF300, 0x280E], .sleep (.reg (.g 6))),
    ([0xF300, 0x30A0], .tsub (.reg (.g 5))),
    ([0xF300, 0x38AE], .evsig (.reg (.g 5)) (.reg (.g 6))),
    ([0xF300, 0x40AE], .evwait (.reg (.g 5)) (.reg (.g 6))),
    ([0xF300, 0x48A0], .launch (.reg (.g 5))),
    ([0xF300, 0x530E], .rand (.g 3) (.reg (.g 6))),
    ([0xF300, 0x58AE], .claim (.reg (.g 5)) (.reg (.g 6))),
    ([0xF300, 0x60AE], .tlbinv (.reg (.g 5)) (.reg (.g 6))),
    ([0xF300, 0x68AE], .tmark (.reg (.g 5)) (.reg (.g 6))),
    ([0xF300, 0x7300], .wdog (.g 3)),
    ([0xF300, 0x7809], .trap 9)] : List (List Nat × Instr)),
    decodeWords p.1 = .ok p.2 p.1.length := by decide +kernel

theorem test_decode_page6_2 : ∀ p ∈ ([
    ([0xF300, 0x8009], .sysc 9),
    ([0xF300, 0x8800], .eret),
    ([0xF300, 0x8840], .bkpt)] : List (List Nat × Instr)),
    decodeWords p.1 = .ok p.2 p.1.length := by decide +kernel

theorem test_decode_page7_1 : ∀ p ∈ ([
    ([0xF380, 0x03BD], .swld (.g 3) (.reg (.g 5)) (-3)),
    ([0xF380, 0x0BBD], .swst (.g 3) (.reg (.g 5)) (-3)),
    ([0xF380, 0x13AE], .swadd (.g 3) (.reg (.g 5)) (.reg (.g 6))),
    ([0xF380, 0x1BAE], .swlaw (.g 3) (.reg (.g 5)) (.reg (.g 6))),
    ([0xF380, 0x23AE], .step (.g 3) (.reg (.g 5)) (.reg (.g 6))),
    ([0xF380, 0x280E], .swsweep (.reg (.g 6))),
    ([0xF380, 0x330E], .knew (.g 3) (.reg (.g 6))),
    ([0xF380, 0x3BAE], .kenrol (.g 3) (.reg (.g 5)) (.reg (.g 6))),
    ([0xF380, 0x400E], .kfree (.reg (.g 6))),
    ([0xF380, 0x4B0E], .kread (.g 3) (.reg (.g 6))),
    ([0xF380, 0x530E], .ksettle (.g 3) (.reg (.g 6))),
    ([0xF380, 0x58AE], .kmove (.reg (.g 5)) (.reg (.g 6))),
    ([0xF380, 0x60AE], .pjoin (.reg (.g 5)) (.g 6)),
    ([0xF380, 0x6BA0], .resample (.g 3) (.g 5)),
    ([0xF380, 0x7000], .pleave)] : List (List Nat × Instr)),
    decodeWords p.1 = .ok p.2 p.1.length := by decide +kernel

/-- Words of the spec's worked programs, with prefixes of every kind (R82, R83, R79). -/
theorem test_decode_prefixes : ∀ p ∈ ([
    ([0x0BCC], .add .s64 (.g 3) (.reg (.g 6)) (.reg (.g 4))),
    ([0xE000, 0xE600, 0x8F00], .li (.g 7) 0xC000),
    ([0xE001, 0xE004, 0xEE00, 0x9200], .lea (.g 2) .pc 65664),
    ([0xE7FA, 0xA28D], .bc .lt (.reg (.g 4)) (.reg (.g 5)) (-6)),
    ([0xF118, 0xFA80, 0x16D9], .vadd .s32 ⟨2, true, false, .cfg, false⟩ 6 6 (.lit 1)),
    ([0xE849, 0xF188, 0x9844], .vprune4 .s8 Keys.dflt 8 10 12),
    ([0xF09A, 0xF804, 0xB40D], .fcvt .s32 .rtz true (.g 4) (.reg (.g 5))),
    ([0xEA30, 0xF240, 0x0100], .vld .f32 Keys.dflt 1 (.reg (.q 0)) 0),
    ([0xF1C0, 0x5310], .vmv .f32 Keys.dflt 3 (.const 0))] : List (List Nat × Instr)),
    decodeWords p.1 = .ok p.2 p.1.length := by decide +kernel

/-- Encodings that R97 turns away, and the word that R371 names. -/
theorem test_decode_rejects : ∀ p ∈ ([
    ([0x0000], .reservedOp, 0), ([0xF400, 0x0800], .reservedPage, 0), ([0xF000, 0xF000, 0x0BCC], .repeatedPrefix, 1),
    ([0xE000, 0xE000, 0xE000, 0xE000, 0xE000, 0x8800], .fifthPrefix, 4), ([0xE000, 0x0040], .prefixNotAccepted, 0),
    ([0xF040, 0x0BCC], .badModifier, 0), ([0xEB00, 0x0BCC], .badRegister, 0), ([0x0BC4], .badKind, 0),
    ([0x8820], .unusedBits, 0), ([0xA28D], .missingPrefix, 0), ([0xF0F8, 0x138D], .badTag, 0)] :
      List (List Nat × EncFault × Nat)), decodeWords p.1 = .bad p.2.1 p.2.2 := by decide +kernel

/-! ### Well-formedness: a term for each check, which the check refuses -/

theorem test_wf_refuses : ∀ i ∈ ([
    .add .f32 (.g 3) (.reg (.g 1)) (.reg (.g 2)), .add .s64 (.sp .now) (.reg (.g 1)) (.reg (.g 2)),
    .add .s64 (.g 3) (.lit 8) (.reg (.g 2)), .add .s64 (.g 3) (.reg (.g 1)) (.vec 2), .and (.g 3) (.const 64) (.lit 0),
    .slt .n32 (.g 3) (.reg (.g 1)) (.reg (.g 2)), .sltn .s32 (.g 3) (.reg (.g 1)) (.reg (.g 2)),
    .sel .q4 (.g 3) (.reg (.g 1)) (.reg (.g 2)), .mov (.g 3) (.vec 1), .li (.sp .vl) 0, .bc .eq (.reg (.g 1)) (.lit 0) 2,
    .loop (.sp .now) 2, .fadd .s32 .dyn (.g 3) (.reg (.g 1)) (.reg (.g 2)), .fadd .f32 .dyn (.g 3) (.lit 0) (.reg (.g 2)),
    .fsqrt .e4m3 .dyn (.g 3) (.reg (.g 1)), .fcvt .x96 .dyn false (.g 3) (.reg (.g 1)), .fclass .s8 (.g 3) (.reg (.g 1)),
    .sset .rmode (.lit 0), .vsetvl (.g 3) (.reg (.g 1)) (.vec 1), .vsetvli .q4 .g1 (.g 3) (.reg (.g 1)),
    .vadd .f32 Keys.dflt 1 2 (.vec 3), .vmulh .s32 ⟨0, false, false, .cfg, true⟩ 1 2 (.vec 3),
    .vmin .n8 Keys.dflt 1 2 (.vec 3), .vminn .s8 Keys.dflt 1 2 (.vec 3), .vabs .n8 Keys.dflt 1 2,
    .vnarrow .s64 Keys.dflt 1 2 (.vec 3), .vwiden .s8 Keys.dflt 1 2, .vfadd .e4m3 .dyn Keys.dflt 1 2 (.vec 3),
    .vfmin .f32 ⟨0, false, false, .cfg, true⟩ 1 2 (.vec 3), .vsel .f32 ⟨0, true, false, .cfg, false⟩ 1 2 (.vec 3),
    .vmv .x96 Keys.dflt 1 (.vec 3), .vslide .s8 false Keys.dflt 1 2 (.vec 3), .vperm .q4 Keys.dflt 1 2 3,
    .vcompress .s8 ⟨0, true, false, .cfg, false⟩ 1 2, .vredsum .e4m3 .dyn Keys.dflt (.g 3) 2 (.lit 0),
    .vredmax .s8 ⟨0, false, true, .cfg, false⟩ (.g 3) 2 (.lit 0), .vdotx .s64 .dyn Keys.dflt (.g 3) 2 3,
    .vdeq .s8 .dyn Keys.dflt 1 2 (.reg (.g 1)), .vprune4 .n8 Keys.dflt 1 2 3, .mand ⟨1, false, false, .cfg, false⟩ 1 2 3,
    .mset 1 (.vec 1), .vexp2 ⟨0, false, false, .cfg, true⟩ 1 2, .vcvt .q4 .dyn Keys.dflt 1 2, .vld .q4 Keys.dflt 1 .pc 0,
    .vlds .s8 Keys.dflt 1 .pc (.vec 2), .vst .s8 ⟨0, false, true, .cfg, false⟩ 1 .pc 0, .vsts .s8 Keys.dflt 1 .pc (.vec 1),
    .mma .f32 .asA false 1 (.g 1) (.reg (.g 2)), .mmas .h4 .asA false 1 (.g 1) (.g 2), .mmac .s8 .q4 false 1 (.g 1) (.reg (.g 2)),
    .trd .n8 1 2 (.lit 0), .tgate .sigb 1 2 (.lit 0), .tgate .tanh 1 2 (.lit 1), .tgate .glu 1 2 (.reg (.g 1)),
    .tcvt .x96 .dyn false 1 2 (.lit 0), .ld .h4 (.g 3) .pc 0, .st .q4 (.g 3) .pc 0, .aadd .s8 (.g 3) .pc (.lit 0),
    .aand .s32 (.g 3) .pc (.lit 0), .xred .f16 .pc (.lit 0), .xrd .s8 .dyn (.g 3) .pc 0, .enq (.sp .now) .pc (.lit 0),
    .barm .pc (.vec 1), .cpy .q4g .pc, .evsig (.vec 1) (.lit 0), .rand (.g 3) (.vec 1), .trap 32768, .sysc (-1),
    .step (.g 3) (.vec 1) (.lit 0), .pjoin (.vec 1) (.g 1), .resample (.g 1) (.sp .now)] : List Instr), i.wf = false := by
  decide +kernel

/-- A well-formed instruction that needs five prefix words is not encodable (R76). -/
theorem test_not_encodable : (Instr.lea (.g 20) .pc (2 ^ 60)).wf = true ∧ encodable (.lea (.g 20) .pc (2 ^ 60)) = false := by
  decide +kernel

/-! ### A small machine, and checks that give the statements' hypotheses -/

/-- A strand of launch 1 of partition 1 in slot 0 of cell 0, at 0x100 with a trap handler at 0x4000 and four vector
elements; page 0 of its address space is HBM page 0, which it may read and write. -/
def box (f : Strand → Strand) : State :=
  let s := State.placeCode { State.reset with
    nextId := 9
    st := { Strand.empty with uid := 5, part := 1, launch := 1, pc := 0x100, npc := 0x104, trapv := 0x4000, vl := 4 } } []
  { s with st := f s.st }

/-- The box with general registers set, tag raw. -/
def boxG (l : List (Fin 32 × Int)) : State := box fun t => l.foldl (fun t p => t.setG p.1 (BitVec.ofInt 64 p.2) .raw) t

/-- The state after an instruction. -/
def ran (i : Instr) (s : State) : State :=
  match exec i s with
  | .next s' => s'
  | _ => State.reset

/-- A source as read from a general register of the box. -/
def src (v : Int) (n : Nat) : Src := ⟨BitVec.ofInt 64 v, .raw, n, false⟩

/-- A literal as read. -/
def litSrc (v : Int) : Src := ⟨BitVec.ofInt 64 v, .raw, 0, false⟩

theorem tagOk_of {f : Option Fmt} {x : Src} (h : x.tag = .raw) : TagOk f x := by cases f <;> simp [TagOk, h]

theorem scalar_ready {i : Instr} {s : State} {d : SReg} {rd : Bool} {a b : Opnd} {fa fb fd : Option Fmt} {x y z : Src}
    (ha : takeOp s s.st a = .ok (x, s.st)) (hb : takeOp s s.st b = .ok (y, s.st))
    (hz : (if rd then takeReg s s.st d else .ok (Src.zero, s.st)) = .ok (z, s.st))
    (h : hazard i s = false ∧ opMisuse a = none ∧ opMisuse b = none ∧ (if rd then misuseRead d else none) = none
      ∧ misuseWrite d = none ∧ hasRoom s.st d = .ok ()
      ∧ (x.tag = .raw ∧ y.tag = .raw ∧ z.tag = .raw) ∧ x.bad = false ∧ y.bad = false ∧ z.bad = false) :
    ScalarReady i s d rd a b fa fb fd x y z s.st := by
  obtain ⟨h1, h2, h3, h4, h5, h9, ⟨ta, tb, tz⟩, h10, h11, h12⟩ := h
  exact ⟨h1, ⟨h2, h3, h4, h5⟩, ⟨_, _, ha, hb, hz⟩, h9, ⟨tagOk_of ta, tagOk_of tb, tagOk_of tz⟩, h10, h11, h12⟩

/-- The operands with which a vector instruction would execute. -/
def vin (i : Instr) (s : State) : VIn :=
  match entryIn s (newEntry s i s.st.pc s.st.npc false) with
  | .ok c => c
  | .error _ => ⟨s, s.st, Src.zero, Src.zero, Src.zero, .rne, 0, 0⟩

theorem isOk_unit {r : Run Unit} (h : r.isOk = true) : r = .ok () := by
  cases r with
  | ok u => rfl
  | error e => simp [Except.isOk, Except.toBool] at h

theorem vector_ready {i : Instr} {s : State}
    (h : hazard i s = false ∧ (tilesClear s.st i).isOk = true ∧ s.st.vq = [] ∧ s.async = false
      ∧ s.accs = [] ∧ s.seqCount s.st.cell < 16 ∧ s.seqFree s.st.cell = true ∧ (entryIn s (newEntry s i s.st.pc s.st.npc false)).isOk = true) : VectorReady i s (vin i s) := by
  obtain ⟨h1, h2, h3, h4, h6, h7, h8, h5⟩ := h
  refine ⟨⟨h1, isOk_unit h2, h3, h4⟩, by simp [h6], ⟨h7, h8⟩, ?_⟩
  unfold vin
  cases h6 : entryIn s (newEntry s i s.st.pc s.st.npc false) with
  | ok c => rfl
  | error e => rw [h6] at h5; simp [Except.isOk, Except.toBool] at h5

/-- A source group whose registers are all raw, in size, aligned and without poison. -/
def groupB (t : Strand) (eg w reg : Nat) : Bool :=
  decide (eg ≤ 8 ∧ t.vl ≤ eg * 512 / w ∧ reg % eg = 0) && (liveRegs t eg w reg).all (fun r => t.vtag[r]?.getD .raw == .raw)
    && (t.vsrc eg w reg).bad == 0

theorem clean_of {x : VSrc} {vl : Nat} {p : Nat → Bool} (h : x.bad = 0) : Clean x vl p := by
  intro i _ _
  simp [VSrc.isBad, h, bitAt]

theorem group_of {t : Strand} {eg w reg : Nat} (h : groupB t eg w reg = true) : GroupOk t eg w reg := by
  simp only [groupB, Bool.and_eq_true, decide_eq_true_eq] at h
  exact h.1.1

theorem tags_of {t : Strand} {eg w reg : Nat} {f : Fmt} (h : groupB t eg w reg = true) : GroupTagsOk t eg w reg f := by
  simp only [groupB, Bool.and_eq_true, List.all_eq_true, beq_iff_eq] at h
  exact fun r hr => .inr (h.1.2 r hr)

theorem source_of {c : VIn} {eg w reg : Nat} {f : Option Fmt} {p : Nat → Bool} (h : groupB c.t eg w reg = true) :
    SourceOk c eg w reg f p := by
  refine ⟨fun g _ => tags_of h, group_of h, clean_of ?_⟩
  simp only [groupB, Bool.and_eq_true, beq_iff_eq] at h
  exact h.2

/-- Operand b is a group in order or a clean raw scalar. -/
def operandB (c : VIn) (eg w : Nat) (b : Opnd) : Bool :=
  match b with
  | .vec n => groupB c.t eg w n.val
  | _ => c.b.tag == .raw && !c.b.bad

theorem operand_of {c : VIn} {eg w : Nat} {b : Opnd} {f : Option Fmt} {p : Nat → Bool} (h : operandB c eg w b = true) :
    OperandOk c eg w b f p := by
  cases b with
  | vec n => exact source_of h
  | _ => simp only [operandB, Bool.and_eq_true, beq_iff_eq, Bool.not_eq_true'] at h; exact ⟨tagOk_of h.1, h.2⟩

theorem elements_of {c : VIn} {f : Fmt} {k : Keys} {d a : Nat} {b : Opnd} {fa fb fd : Option Fmt} {useD : Bool}
    (h : groupB c.t (groupSize c.t k f f.bits) f.bits a = true ∧ operandB c (groupSize c.t k f f.bits) f.bits b = true
      ∧ groupB c.t (groupSize c.t k f f.bits) f.bits d = true) : ElementsOk c f k d a b fa fb fd useD := by
  refine ⟨source_of h.1, operand_of h.2.1, group_of h.2.2, fun g _ => tags_of h.2.2, fun _ => clean_of ?_⟩
  have := h.2.2
  simp only [groupB, Bool.and_eq_true, beq_iff_eq] at this
  exact this.2

theorem quiet_box (f : Strand → Strand) : Quiet (box f) := ⟨rfl, rfl, rfl⟩

theorem access_ready {i : Instr} {s : State} {base : Base} {off : Int} {n acc : Nat} {r w : Bool} {x : Src} {t1 t : Strand}
    {loc : Loc} (hb : takeBase s s.st base = .ok (x, t1)) (h : hazard i s = false ∧ s.st.loop.active = false ∧ s.st.vq = []
      ∧ baseMisuse base = none ∧ x.bad = false ∧ accessVa t x.val off % n = 0
      ∧ s.locate t (accessVa t x.val off) acc r w false = .ok loc ∧ s.async = false ∧ s.accs = []
      ∧ s.pairBusy s.st.cell loc.pa = false ∧ s.remote loc.pa = false ∧ s.storesDue s.st.uid = 0
      ∧ s.flips = [] ∧ s.poison = [] ∧ s.arrays = []) : AccessReady i s base off n acc r w x t1 t loc := by
  obtain ⟨h1, h2, h3, h4, h6, h7, h8, h9, h10, h11, h12, h13, h14⟩ := h
  exact ⟨⟨h1, h2, h3⟩, h4, ⟨hb, h6⟩, h7, h8, ⟨h9, by simp [h10], h11⟩, ⟨h12, h13⟩, h14⟩

theorem home_ready {i : Instr} {s : State} (h : hazard i s = false ∧ s.st.vq = [] ∧ s.st.loop.active = false
    ∧ s.storesDue s.st.uid = 0 ∧ s.accs = []) : HomeReady i s :=
  ⟨h.1, h.2.1, h.2.2.1, h.2.2.2.1, by simp [h.2.2.2.2]⟩

theorem record_at {i : Instr} {s : State} {base : Base} {off : Int} {n acc : Nat} {r w : Bool} {x : Src} {t1 t : Strand} {pa : Nat}
    (hb : takeBase s s.st base = .ok (x, t1)) (h : (hazard i s = false ∧ s.st.vq = [] ∧ s.st.loop.active = false
      ∧ s.storesDue s.st.uid = 0 ∧ s.accs = []) ∧ baseMisuse base = none
      ∧ x.bad = false ∧ accessVa t x.val off % n = 0 ∧ s.locate t (accessVa t x.val off) acc r w false = .ok ⟨pa, false⟩
      ∧ s.pairBusy s.st.cell pa = false ∧ s.remote pa = false ∧ s.flips = [] ∧ s.poison = [] ∧ s.arrays = []) :
    RecordOff i s base off n acc r w x t1 t pa := by
  obtain ⟨h1, h4, h6, h7, h8, h9, h10, h11⟩ := h
  exact ⟨home_ready h1, h4, ⟨hb, h6⟩, h7, ⟨_, h8⟩, ⟨h9, h10⟩, h11⟩

/-- The box with bytes at an address. -/
def boxM (l : List (Fin 32 × Int)) (a : Nat) (ws : List Word) : State :=
  let s := boxG l
  { s with mem := memPutWords s.mem a ws }

theorem weight_zero {s : State} (h : (s.liveParts.all fun p => p.regions.isEmpty) = true) (a : Nat) : s.sweepWeight a = 0 := by
  unfold State.sweepWeight
  rw [List.all_eq_true] at h
  refine List.sum_eq_zero fun x hx => ?_
  obtain ⟨p, hp, rfl⟩ := List.mem_map.mp hx
  have h1 : p.regions = [] := by simpa using h p hp
  simp [Part.regionAt, h1]

theorem noWatch_of {s : State} {pa n : Nat} (h : (s.liveParts.all fun p => p.regions.isEmpty) = true
    ∧ (s.part s.st.part).log.window pa = none) : NoWatch s pa n :=
  ⟨fun a _ _ => weight_zero h.1 a, h.2⟩

theorem operands_ab {s : State} {a b : Opnd} {x y : Src} (ha : takeOp s s.st a = .ok (x, s.st))
    (hb : takeOp s s.st b = .ok (y, s.st)) (h : opMisuse a = none ∧ opMisuse b = none ∧ x.bad = false ∧ y.bad = false) :
    OperandsAB s a b x y s.st := by
  obtain ⟨h1, h2, h5, h6⟩ := h
  exact ⟨⟨h1, h2⟩, ⟨_, ha, hb⟩, h5, h6⟩

/-- The box whose launch has `n` slots and tasks. -/
def boxB (n : Nat) (ws : List Word) : State := (boxM [(1, 0x200)] 0x200 ws).modPart 1 fun x => x.modLaunch 1 fun y => { y with
  eff := { y.eff with slots := n, tasks := n - 1 } }

/-- A pool with no place left. -/
theorem pool_full (x : Part) (n : Nat) (h : 65540 ≤ n) :
    { x with events := [(7, ⟨0, List.replicate n (.task 0 1)⟩)] }.waiterRoom 7 = false := by
  have h1 : ¬n < 4 := by omega
  have h2 : ¬n - 4 < 65536 := by omega
  simp [Part.waiterRoom, Part.event, Part.poolUsed, Tab.get, h1, h2]

/-! ### The scalar stream -/

/-- R106's table: the quotient and the remainder of -7 by 2, a division by zero, and the one overflow. -/
theorem test_div : ∀ p ∈ ([(-7, 2, .div .s64 (.g 3) (.reg (.g 1)) (.reg (.g 2)), 0xFFFFFFFFFFFFFFFD, 0),
    (-7, 2, .rem .s64 (.g 3) (.reg (.g 1)) (.reg (.g 2)), 0xFFFFFFFFFFFFFFFF, 0),
    (7, 0, .div .s64 (.g 3) (.reg (.g 1)) (.reg (.g 2)), 0xFFFFFFFFFFFFFFFF, 1),
    (7, 0, .rem .s64 (.g 3) (.reg (.g 1)) (.reg (.g 2)), 7, 1),
    (0x80, 0xFF, .div .s8 (.g 3) (.reg (.g 1)) (.reg (.g 2)), 0xFFFFFFFFFFFFFF80, 2),
    (5, 0, .divn .n32 (.g 3) (.reg (.g 1)) (.reg (.g 2)), 0xFFFFFFFF, 1)] : List (Int × Int × Instr × Word × Word)),
    let s := ran p.2.2.1 (boxG [(1, p.1), (2, p.2.1)])
    s.st.g.get 3 = p.2.2.2.1 ∧ s.st.rstat = p.2.2.2.2 := by decide +kernel

/-- R107: `sra.n32` fills with bit 31 and extends with zeros; `rotl` by the width is no rotation. -/
theorem test_shifts : ∀ p ∈ ([(0x80000000, 4, .sra .n32 (.g 3) (.reg (.g 1)) (.reg (.g 2)), 0xF8000000),
    (0x80000000, 4, .sra .s32 (.g 3) (.reg (.g 1)) (.reg (.g 2)), 0xFFFFFFFFF8000000),
    (1, 64, .shl .s64 (.g 3) (.reg (.g 1)) (.reg (.g 2)), 0),
    (0x81, 8, .rotl .n8 (.g 3) (.reg (.g 1)) (.reg (.g 2)), 0x81)] : List (Int × Int × Instr × Word)),
    (ran p.2.2.1 (boxG [(1, p.1), (2, p.2.1)])).st.g.get 3 = p.2.2.2 := by decide +kernel

/-- R108's example: `bext g4, g5, 0x1C3` extracts bits [10:3]. -/
theorem test_bext : (ran (.bext (.g 4) (.reg (.g 5)) (.lit 0x1C3)) (boxG [(5, 0x7F8)])).st.g.get 4 = 0xFF := by
  decide +kernel

/-- R22: a write to g0 is discarded, and the PC moves on. -/
theorem test_g0 : let s := ran (.add .s64 (.g 0) (.lit 1) (.lit 1)) (box id)
    s.st.g.get 0 = 0 ∧ s.st.pc = 0x104 := by decide +kernel

theorem witness_IntegerArithmetic : ScalarReady (.mul .s64 (.g 3) (.reg (.g 1)) (.lit 7)) (boxG [(1, -2)]) (.g 3) false
    (.reg (.g 1)) (.lit 7) (some .s64) (some .s64) none (src (-2) 1) (litSrc 7) Src.zero (boxG [(1, -2)]).st :=
  scalar_ready rfl rfl rfl (by decide +kernel)

/-- A destination that discards its write meets the hypotheses too. -/
theorem witness_IntegerArithmetic_g0 : ScalarReady (.add .s64 (.g 0) (.reg (.g 1)) (.lit 7)) (boxG [(1, -2)]) (.g 0) false
    (.reg (.g 1)) (.lit 7) (some .s64) (some .s64) none (src (-2) 1) (litSrc 7) Src.zero (boxG [(1, -2)]).st :=
  scalar_ready rfl rfl rfl (by decide +kernel)

/-- The three clauses of the division: by zero, the overflow, and neither. -/
theorem witness_IntegerArithmetic_div : ∀ p ∈ ([(7, 0), (-2 ^ 63, -1), (-2 ^ 63, 1)] : List (Int × Int)),
    ScalarReady (.div .s64 (.g 3) (.reg (.g 1)) (.reg (.g 2))) (boxG [(1, p.1), (2, p.2)]) (.g 3) false (.reg (.g 1))
      (.reg (.g 2)) (some .s64) (some .s64) none (src p.1 1) (src p.2 2) Src.zero (boxG [(1, p.1), (2, p.2)]).st ∧
    Fmt.s64.intVal (src p.1 1).val.toNat = p.1 ∧ Fmt.s64.intVal (src p.2 2).val.toNat = p.2 := by
  intro p hp
  simp only [List.mem_cons, List.not_mem_nil, or_false] at hp
  rcases hp with rfl | rfl | rfl <;> exact ⟨scalar_ready rfl rfl rfl (by decide +kernel), by decide +kernel, by decide +kernel⟩

theorem witness_IntegerArithmetic_formats : Fmt.s8.isInt = true ∧ Fmt.s8.isS = true ∧ Fmt.n8.isInt = true ∧ Fmt.n8.isS = false :=
  by decide

theorem witness_ShiftsAndBits : Fmt.n8.isInt = true ∧ ScalarReady (.sra .n8 (.g 3) (.reg (.g 1)) (.lit 7)) (boxG [(1, 200)])
    (.g 3) false (.reg (.g 1)) (.lit 7) (some .n8) none none (src 200 1) (litSrc 7) Src.zero (boxG [(1, 200)]).st :=
  ⟨by decide, scalar_ready rfl rfl rfl (by decide +kernel)⟩

theorem witness_ShiftsAndBits_bits : ScalarReady (.and (.g 3) (.reg (.g 1)) (.lit 7)) (boxG [(1, 200)]) (.g 3) false
      (.reg (.g 1)) (.lit 7) none none none (src 200 1) (litSrc 7) Src.zero (boxG [(1, 200)]).st ∧
    (∀ i ∈ ([.mov (.g 3) (.lit 0), .clz (.g 3) (.lit 0), .ctz (.g 3) (.lit 0), .popc (.g 3) (.lit 0)] : List Instr),
      ScalarReady i (box id) (.g 3) false (.lit 0) (.lit 0) none none none (litSrc 0) (litSrc 0) Src.zero (box id).st) ∧
    ScalarReady (.bext (.g 3) (.reg (.g 1)) (.lit 4095)) (boxG [(1, 200)]) (.g 3) false (.reg (.g 1)) (.lit 4095) none none none
      (src 200 1) (litSrc 4095) Src.zero (boxG [(1, 200)]).st ∧
    ScalarReady (.bins (.g 3) (.reg (.g 1)) (.lit 63)) (boxG [(1, 200)]) (.g 3) true (.reg (.g 1)) (.lit 63) none none none
      (src 200 1) (litSrc 63) (src 0 3) (boxG [(1, 200)]).st := by
  refine ⟨scalar_ready rfl rfl rfl (by decide +kernel), fun i hi => ?_, scalar_ready rfl rfl rfl (by decide +kernel), scalar_ready rfl rfl rfl (by decide +kernel)⟩
  simp only [List.mem_cons, List.not_mem_nil, or_false] at hi
  rcases hi with rfl | rfl | rfl | rfl <;> exact scalar_ready rfl rfl rfl (by decide +kernel)

theorem witness_ComparisonsAndSelections : (∀ i ∈ ([.slt .s8 (.g 3) (.reg (.g 1)) (.lit 7), .seq .s8 (.g 3) (.reg (.g 1)) (.lit 7),
      .min .s8 (.g 3) (.reg (.g 1)) (.lit 7), .max .s8 (.g 3) (.reg (.g 1)) (.lit 7)] : List Instr),
      ScalarReady i (boxG [(1, 200)]) (.g 3) false (.reg (.g 1)) (.lit 7) (some .s8) (some .s8) none (src 200 1) (litSrc 7)
        Src.zero (boxG [(1, 200)]).st) ∧
    ScalarReady (.sel .s8 (.g 3) (.reg (.g 1)) (.lit 7)) (boxG [(1, 200)]) (.g 3) true (.reg (.g 1)) (.lit 7) (some .s8)
      (some .s8) none (src 200 1) (litSrc 7) (src 0 3) (boxG [(1, 200)]).st := by
  refine ⟨fun i hi => ?_, scalar_ready rfl rfl rfl (by decide +kernel)⟩
  simp only [List.mem_cons, List.not_mem_nil, or_false] at hi
  rcases hi with rfl | rfl | rfl | rfl <;> exact scalar_ready rfl rfl rfl (by decide +kernel)

theorem witness_LiAndLea : hazard (.li (.g 3) 5) (box id) = false ∧ misuseWrite (.g 3) = none ∧
    hasRoom (box id).st (.g 3) = .ok () ∧ hazard (.lea (.g 3) (.reg (.g 1)) (-8)) (boxG [(1, 4)]) = false ∧
    baseMisuse (.reg (.g 1)) = none ∧
    takeBase (boxG [(1, 4)]) (boxG [(1, 4)]).st (.reg (.g 1)) = .ok (src 4 1, (boxG [(1, 4)]).st) ∧
    hasRoom (boxG [(1, 4)]).st (.g 3) = .ok () := by decide +kernel

theorem witness_ScalarFloat : (∀ i ∈ ([.fadd .f32 .dyn (.g 3) (.reg (.g 1)) (.reg (.g 2)), .fmin .f32 (.g 3) (.reg (.g 1)) (.reg (.g 2)),
      .fcmp .f32 .lt (.g 3) (.reg (.g 1)) (.reg (.g 2))] : List Instr),
      ScalarReady i (boxG [(1, 0x3F800000)]) (.g 3) false (.reg (.g 1)) (.reg (.g 2)) (some .f32) (some .f32) none
        (src 0x3F800000 1) (src 0 2) Src.zero (boxG [(1, 0x3F800000)]).st) ∧
    ScalarReady (.fma .f32 .rup (.g 3) (.reg (.g 1)) (.reg (.g 2))) (boxG [(1, 0x3F800000)]) (.g 3) true (.reg (.g 1))
      (.reg (.g 2)) (some .f32) (some .f32) (some .f32) (src 0x3F800000 1) (src 0 2) (src 0 3) (boxG [(1, 0x3F800000)]).st ∧
    (∀ i ∈ ([.fsqrt .f32 .rtz (.g 3) (.reg (.g 1)), .fclass .f32 (.g 3) (.reg (.g 1))] : List Instr),
      ScalarReady i (boxG [(1, 0x3F800000)]) (.g 3) false (.lit 0) (.reg (.g 1)) (some .f32) (some .f32) none (litSrc 0)
        (src 0x3F800000 1) Src.zero (boxG [(1, 0x3F800000)]).st) ∧
    ScalarReady (.fcvt .s16 .dyn true (.g 3) (.reg (.g 1))) (boxG [(1, 0x3F800000)]) (.g 3) false (.lit 0) (.reg (.g 1)) none
      none none (litSrc 0) (src 0x3F800000 1) Src.zero (boxG [(1, 0x3F800000)]).st := by
  refine ⟨fun i hi => ?_, scalar_ready rfl rfl rfl (by decide +kernel), fun i hi => ?_, scalar_ready rfl rfl rfl (by decide +kernel)⟩ <;>
    simp only [List.mem_cons, List.not_mem_nil, or_false] at hi
  · rcases hi with rfl | rfl | rfl <;> exact scalar_ready rfl rfl rfl (by decide +kernel)
  · rcases hi with rfl | rfl <;> exact scalar_ready rfl rfl rfl (by decide +kernel)

/-- Branches on registers and masks; `loop` at its last count; `jal`; `jr` to a code address, an odd one and one too high. -/
theorem witness_BranchesAndJumps : let s := boxG [(1, 1), (2, 2 ^ 40 - 2), (3, 2 ^ 40)]
    hazard (.bc .eq (.reg (.g 1)) (.reg (.g 2)) 4) s = false ∧ opMisuse (.reg (.g 1)) = none ∧
    takeOp s s.st (.reg (.g 1)) = .ok (src 1 1, s.st) ∧ takeOp s s.st (.reg (.g 2)) = .ok (src (2 ^ 40 - 2) 2, s.st) ∧
    hazard (.bm .any 0 4) s = false ∧ (s.st.m.get 0).getLsbD 0 = true ∧ (s.st.m.get 1).getLsbD 0 = false ∧ 0 < s.st.vl ∧
    hazard (.loop (.g 1) (-4)) s = false ∧ s.st.gpois.getLsbD 1 = false ∧
    hazard (.jal (.g 3) 4) s = false ∧ misuseWrite (.g 3) = none ∧ hasRoom s.st (.g 3) = .ok () ∧
    (∃ t, putReg s.st (.g 3) (s.st.npc.zeroExtend 64) .raw = .ok t) ∧
    hazard (.jr (.g 2)) s = false ∧ misuseRead (.g 2) = none ∧ takeReg s s.st (.g 2) = .ok (src (2 ^ 40 - 2) 2, s.st) ∧
    takeReg s s.st (.g 1) = .ok (src 1 1, s.st) ∧ takeReg s s.st (.g 3) = .ok (src (2 ^ 40) 3, s.st) ∧ s.st.vq = [] := by
  refine ⟨?_, ?_, ?_, ?_, ?_, ?_, ?_, ?_, ?_, ?_, ?_, ?_, ?_, ⟨_, rfl⟩, ?_, ?_, ?_, ?_, ?_, ?_⟩ <;> decide +kernel

theorem witness_ControlState : let s := boxG [(1, 77)]
    (∀ sel ∈ [Sel.trapv, .wdog, .rmode, .uab], ScalarReady (.sget (.g 3) sel) s (.g 3) false (.lit 0) (.lit 0) none none none
      Src.zero Src.zero Src.zero s.st) ∧
    s.st.loop.active = false ∧ hazard (.sset .wdog (.reg (.g 1))) s = false ∧ opMisuse (.reg (.g 1)) = none ∧
    takeOp s s.st (.reg (.g 1)) = .ok (src 77 1, s.st) ∧ hazard (.wdog (.g 3)) s = false ∧ misuseWrite (.g 3) = none ∧
    hasRoom s.st (.g 3) = .ok () ∧ ∃ t, putReg s.st (.g 3) (s.st.wleft.zeroExtend 64) .raw = .ok t := by
  refine ⟨fun sel hs => ?_, ?_, ?_, ?_, ?_, ?_, ?_, ?_, ⟨_, rfl⟩⟩
  · simp only [List.mem_cons, List.not_mem_nil, or_false] at hs
    rcases hs with rfl | rfl | rfl | rfl <;> exact scalar_ready rfl rfl rfl (by decide +kernel)
  all_goals decide +kernel

/-- A queue with three entries has room for the fourth, one holds entries, one is empty; q15 holds an entry. -/
theorem witness_ScalarRegisters : let e : QVal := ⟨1, .s8, false⟩
    let t := { (box id).st with
      q := ((Vector.replicate 8 []).set 0 [e, e, e]).set 4 [e], q15 := [⟨0, [1, 2, 3, 4, 5, 6, 7, 8]⟩], qpos := 7 }
    (1 : Fin 32) ≠ 0 ∧ (t.q[0]).length < 4 ∧ t.q[4] = [e] ∧ t.q[5] = [] ∧ t.q15 = [⟨0, [1, 2, 3, 4, 5, 6, 7, 8]⟩] := by
  decide +kernel

/-! ### Faults -/

/-- R319: `trap 3` enters the handler with cause 0x8003 and the next instruction as `fault.pc`. -/
theorem test_trap : let t := (ran (.trap 3) (box id)).st
    t.fcause = 0x8003 ∧ t.fpc = 0x104 ∧ t.faddr = 0 ∧ t.handler = true ∧ t.pc = 0x4000 := by decide +kernel

theorem witness_TakingAFault : (box id).st.trapv ≠ 0 ∧ (box id).st.handler = false ∧
    (box fun t => { t with trapv := 0 }).st.trapv = 0 ∧ (box fun t => { t with handler := true }).st.handler = true ∧
    (∃ l, (box fun t => { t with trapv := 0 }).launchOf (box fun t => { t with trapv := 0 }).st = some l) ∧
    (∃ l, (box fun t => { t with handler := true }).launchOf (box fun t => { t with handler := true }).st = some l) :=
  ⟨by decide +kernel, by decide +kernel, by decide +kernel, by decide +kernel, ⟨_, rfl⟩, ⟨_, rfl⟩⟩

theorem witness_TrapReturnBreakpoint : (box id).st.vq = [] ∧ (box id).st.handler = false ∧
    (box fun t => { t with handler := true }).st.handler = true ∧ ((box id).part 1).dbg.attach = false ∧
    (((box id).modPart 1 fun x => { x with dbg := { x.dbg with attach := true } }).part 1).dbg.attach = true := by
  decide +kernel

theorem witness_ScalarFrame : registerOnly (.add .s64 (.g 3) (.lit 1) (.lit 2)) = some (some (.g 3)) ∧
    ∃ s', exec (.add .s64 (.g 3) (.lit 1) (.lit 2)) (box id) = .next s' ∧ s'.st.g.get 3 = 3 :=
  ⟨rfl, _, rfl, by decide +kernel⟩

/-! ### The vector stream -/

/-- R145's worked group: `vprune4.s8` keeps -7, 7 and 5 and the first 3. -/
theorem test_vprune4 : let v : BitVec 512 := 0x0105FD000702F903
    let s := ran (.vprune4 .s8 Keys.dflt 8 10 12) (box fun t => { t with vl := 8, fc := .s8, v := t.v.set 10 v })
    (s.st.v.get 8).toNat % 2 ^ 32 = 0x0507F903 ∧ (s.st.v.get 12).toNat % 2 ^ 16 = 0x0CC8 := by decide +kernel

/-- R127: a masked element is kept, a tail element is zeroed under `tpol=zero`, and the tag is F. -/
theorem test_vadd_mask : let s := ran (.vadd .s8 ⟨1, false, true, .cfg, false⟩ 2 3 (.lit 1)) (box fun t => { t with
      vl := 2, fc := .s8, v := (t.v.set 2 0x333333).set 3 0x0201, m := t.m.set 1 1 })
    s.st.v.get 2 = 0x3302 ∧ s.st.vtag.get 2 = .s8 ∧ s.st.vtag.get 3 = .raw := by decide +kernel

theorem witness_VectorWrite : (31 + 1 ≤ 32) ∧ (box fun t => { t with vl := 0 }).st.vl = 0 ∧ (box id).st.vl ≠ 0 := by
  decide +kernel

theorem witness_VectorIntegersAndBits :
    (∀ i ∈ ([.vadd .s32 Keys.dflt 1 2 (.vec 3), .vmacc .s32 Keys.dflt 1 2 (.vec 3), .vand .s32 Keys.dflt 1 2 (.vec 3),
      .vsra .s32 Keys.dflt 1 2 (.vec 3)] : List Instr), VectorReady i (box id) (vin i (box id)) ∧
      ElementsOk (vin i (box id)) .s32 Keys.dflt 1 2 (.vec 3) (some .s32) (some .s32) (some .s32) true ∧
      ElementsOk (vin i (box id)) .s32 Keys.dflt 1 2 (.vec 3) (some .s32) (some .s32) none false ∧
      ElementsOk (vin i (box id)) .s32 Keys.dflt 1 2 (.vec 3) (some .s32) none none false ∧
      ElementsOk (vin i (box id)) .s32 Keys.dflt 1 2 (.vec 3) none none none false) := by
  intro i hi
  simp only [List.mem_cons, List.not_mem_nil, or_false] at hi
  rcases hi with rfl | rfl | rfl | rfl <;>
    exact ⟨vector_ready (by decide +kernel), elements_of (by decide +kernel), elements_of (by decide +kernel),
      elements_of (by decide +kernel), elements_of (by decide +kernel)⟩

theorem witness_VectorWidthsAndConversions : let c i := vin i (box id)
    (VectorReady (.vabs .s32 Keys.dflt 1 2) (box id) (c (.vabs .s32 Keys.dflt 1 2)) ∧
      groupB (c (.vabs .s32 Keys.dflt 1 2)).t 1 32 2 = true) ∧
    VectorReady (.vwiden .s16 Keys.dflt 1 2) (box id) (c (.vwiden .s16 Keys.dflt 1 2)) ∧
    VectorReady (.vnarrow .s16 Keys.dflt 1 2 (.lit 3)) (box id) (c (.vnarrow .s16 Keys.dflt 1 2 (.lit 3))) ∧
    operandB (c (.vnarrow .s16 Keys.dflt 1 2 (.lit 3))) 1 16 (.lit 3) = true ∧
    VectorReady (.vexp2 Keys.dflt 1 2) (box id) (c (.vexp2 Keys.dflt 1 2)) ∧
    VectorReady (.vcvt .s16 .dyn Keys.dflt 1 2) (box id) (c (.vcvt .s16 .dyn Keys.dflt 1 2)) ∧
    VectorReady (.vdeq .f32 .dyn Keys.dflt 1 2 (.reg (.g 1))) (box id) (c (.vdeq .f32 .dyn Keys.dflt 1 2 (.reg (.g 1)))) ∧
    (∀ n ∈ liveRegs (box id).st 1 4 2, (box id).st.vtag[n]?.getD .raw = .raw) ∧
    (∀ w ∈ [4, 8, 16, 32, 64], groupB (box id).st 1 w 2 = true ∧ groupSize (box id).st Keys.dflt .s16 w = 1) := by
  refine ⟨⟨vector_ready (by decide +kernel), by decide +kernel⟩, vector_ready (by decide +kernel), vector_ready (by decide +kernel),
    by decide +kernel, vector_ready (by decide +kernel), vector_ready (by decide +kernel), vector_ready (by decide +kernel),
    by decide +kernel, by decide +kernel⟩

theorem witness_VectorFloat : let i := Instr.vfadd .f32 .dyn Keys.dflt 1 2 (.vec 3)
    let j := Instr.vfma .f32 .rtz Keys.dflt 1 2 (.vec 3)
    VectorReady i (box id) (vin i (box id)) ∧
    ElementsOk (vin i (box id)) .f32 Keys.dflt 1 2 (.vec 3) (some .f32) (some .f32) none false ∧
    VectorReady j (box id) (vin j (box id)) ∧
    ElementsOk (vin j (box id)) .f32 Keys.dflt 1 2 (.vec 3) (some .f32) (some .f32) (some .f32) true :=
  ⟨vector_ready (by decide +kernel), elements_of (by decide +kernel), vector_ready (by decide +kernel),
    elements_of (by decide +kernel)⟩

theorem witness_VectorMovesAndPermutes :
    (∀ i ∈ ([.vcmp .s32 .lt Keys.dflt 1 2 (.vec 3), .vfcmp .f32 .lt Keys.dflt 1 2 (.vec 3), .vsel .s32 Keys.dflt 1 2 (.vec 3),
      .vmv .s32 Keys.dflt 1 (.vec 3), .vslide .s32 false Keys.dflt 1 2 (.lit 1), .vslide .s32 true Keys.dflt 1 2 (.lit 1),
      .vperm .s32 Keys.dflt 1 2 3, .vcompress .s32 Keys.dflt 1 2] : List Instr), VectorReady i (box id) (vin i (box id)) ∧
      (vin i (box id)).b.bad = false ∧ ∀ r ∈ [1, 2, 3], groupB (vin i (box id)).t 1 32 r = true) := by
  intro i hi
  simp only [List.mem_cons, List.not_mem_nil, or_false] at hi
  rcases hi with rfl | rfl | rfl | rfl | rfl | rfl | rfl | rfl <;>
    exact ⟨vector_ready (by decide +kernel), by decide +kernel, by decide +kernel⟩

theorem witness_VectorReductionsAndPruning :
    (∀ i ∈ ([.vredsum .s32 .dyn Keys.dflt (.g 3) 2 (.lit 0), .vredmax .s32 Keys.dflt (.g 3) 2 (.lit 0),
      .vdotx .s8 .dyn Keys.dflt (.g 3) 1 2, .vdotx .s8 .dyn Keys.dflt (.q 4) 1 2, .mpop (.g 3) 0, .mfirst (.g 3) 0,
      .vprune4 .s8 Keys.dflt 1 2 3] : List Instr),
      VectorReady i (box id) (vin i (box id)) ∧ (vin i (box id)).b.tag = .raw ∧ (vin i (box id)).b.bad = false ∧
      (vin i (box id)).d.tag = .raw ∧ (vin i (box id)).d.bad = false ∧ hasRoom (vin i (box id)).t (.g 3) = .ok () ∧
      hasRoom (vin i (box id)).t (.q 4) = .ok () ∧ ∀ r ∈ [1, 2], groupB (vin i (box id)).t 1 32 r = true) ∧
    (let t := (vin (.mfirst (.g 3) 0) (box id)).t
     0 < t.vl ∧ (t.m.get 0).getLsbD 0 = true ∧ ∀ j, j < t.vl → (t.m.get 1).getLsbD j = false) ∧
    (3 % 1 = 0 ∧ 1 + 1 ≤ 3) := by
  refine ⟨fun i hi => ?_, by decide +kernel, by decide⟩
  simp only [List.mem_cons, List.not_mem_nil, or_false] at hi
  rcases hi with rfl | rfl | rfl | rfl | rfl | rfl | rfl <;>
    exact ⟨vector_ready (by decide +kernel), by decide +kernel, by decide +kernel, by decide +kernel, by decide +kernel,
      by decide +kernel, by decide +kernel, by decide +kernel⟩

/-- A valid and an invalid configuration word, and the mask instructions. -/
theorem witness_VectorConfigurationAndMasks :
    (∀ i ∈ ([.vsetvl (.g 3) (.lit 7) (.lit 0x0D), .vsetvl (.g 3) (.lit 7) (.lit 0x0E), .vsetvli .s8 .g4 (.g 3) (.lit 7),
      .mand Keys.dflt 1 2 3, .mnot Keys.dflt 0 3, .mset 1 (.lit 5)] : List Instr),
      VectorReady i (box id) (vin i (box id)) ∧ (vin i (box id)).a.bad = false ∧ (vin i (box id)).b.bad = false ∧
      hasRoom (vin i (box id)).t (.g 3) = .ok ()) := by
  intro i hi
  simp only [List.mem_cons, List.not_mem_nil, or_false] at hi
  rcases hi with rfl | rfl | rfl | rfl | rfl | rfl <;>
    exact ⟨vector_ready (by decide +kernel), by decide +kernel, by decide +kernel, by decide +kernel⟩

/-- Four elements from 0x200: aligned, permitted, unwatched. -/
theorem witness_VectorMemory : let s := boxG [(1, 0x200)]
    (∀ i ∈ ([.vld .s16 Keys.dflt 1 (.reg (.g 1)) 0, .vlds .s16 Keys.dflt 1 (.reg (.g 1)) (.lit 4), .vldx .s16 Keys.dflt 1 (.reg (.g 1)) 2,
      .vst .s16 Keys.dflt 1 (.reg (.g 1)) 0, .vsts .s16 Keys.dflt 1 (.reg (.g 1)) (.lit 4), .vstx .s16 Keys.dflt 1 (.reg (.g 1)) 2,
      .vldff .s16 Keys.dflt 1 (.reg (.g 1)) 0] : List Instr), VectorReady i s (vin i s) ∧
      (vin i s).a = src 0x200 1 ∧ (vin i s).b.bad = false ∧ (vin i s).t = s.st) ∧
    groupB s.st 1 16 1 = true ∧ groupB s.st 1 32 2 = true ∧ groupSize s.st Keys.dflt .s16 16 = 1 ∧
    (∀ j, j < s.st.vl → ∀ k ∈ [2 * j, 4 * j, (s.st.vsrc 1 32 2).get j],
      (0x200 + k) % 2 = 0 ∧ s.locate s.st (0x200 + k) 0 true false false = .ok ⟨0x200 + k, false⟩ ∧
      s.locate s.st (0x200 + k) 1 false true false = .ok ⟨0x200 + k, false⟩ ∧ s.sweepWeight ((0x200 + k) / 8 * 8) = 0 ∧
      (s.part s.st.part).log.window (0x200 + k) = none ∧ s.pairBusy s.st.cell (0x200 + k) = false) ∧ s.accs = [] ∧ s.flips = [] ∧ s.poison = [] ∧ s.arrays = [] := by
  refine ⟨fun i hi => ?_, by decide +kernel, by decide +kernel, by decide +kernel, by decide +kernel, rfl, rfl, rfl, rfl⟩
  simp only [List.mem_cons, List.not_mem_nil, or_false] at hi
  rcases hi with rfl | rfl | rfl | rfl | rfl | rfl | rfl <;>
    exact ⟨vector_ready (by decide +kernel), by decide +kernel, by decide +kernel, by decide +kernel⟩

/-- `vldff`: element 0 misaligned; and element 1 in a page that it may not read, element 0 in one that it may. -/
theorem witness_VectorMemory_first : let i := Instr.vldff .s32 Keys.dflt 1 (.reg (.g 1)) 0
    let p : TlbEntry := ⟨0, 1, 16, 0x10000, false, true, false, false⟩
    let s1 := boxG [(1, 0x202)]
    let s2 := (boxG [(1, 0xFFFC)]).modCell 0 fun c => { c with tlb := c.tlb ++ [p] }
    (VectorReady i s1 (vin i s1) ∧ s1.st.vl ≠ 0 ∧ s1.st.activeAt Keys.dflt 0 = true ∧ 0x202 % 4 ≠ 0) ∧
    VectorReady i s2 (vin i s2) ∧ (vin i s2).a = src 0xFFFC 1 ∧ 1 < s2.st.vl ∧ s2.st.activeAt Keys.dflt 1 = true ∧
    s2.tlbFind s2.st.cell s2.st.asid 0x10000 = some p ∧ p.r = false ∧
    ∃ g, s2.tlbFind s2.st.cell s2.st.asid 0xFFFC = some g ∧ s2.permit s2.st.part g 0xFFFC true false false = .ok ⟨0xFFFC, false⟩ := by
  refine ⟨⟨vector_ready (by decide +kernel), by decide +kernel, by decide +kernel, by decide⟩, vector_ready (by decide +kernel),
    by decide +kernel, by decide +kernel, by decide +kernel, by decide +kernel, rfl, _, rfl, by decide +kernel⟩

/-- A body of one instruction at 0x104: a count of 0, a count that enters, a sequencer with no room, a body not allowed, a loop
that runs and a suspended one. -/
theorem witness_VectorLoops : let body (s : State) := { s with mem := memPut s.mem 0x104 (bytesOfWords [0xF118, 0x1299]) }
    let s := body (boxG [(1, 3)])
    s.st.loop.suspended = false ∧ s.st.loop.active = false ∧ hazard (.vrep 0 (.g 1)) s = false ∧
    vectorMisuse (some (.reg (.g 1))) = none ∧
    (∃ es fin s1, fetchBody s s.st.npc.toNat s.st.vnum 1 = .ok (es, fin, s1) ∧
      es.all (fun e => !hazard e.ins s && (tilesClear s.st e.ins).isOk) = true ∧
      { s1 with st := s.st }.seqCount s.st.cell + 1 ≤ 16 ∧
      16 < { s1 with st := { s.st with vq := List.replicate 16 (newEntry s .nop 0 0 false) } }.seqCount s.st.cell + 1) ∧
    (∃ cause addr, fetchBody (box id) (box id).st.npc.toNat 0 1 = .error (.trap cause addr)) ∧
    (box fun t => { t with loop := { Loop.idle with active := true } }).st.loop.suspended = false ∧
    takeReg s s.st (.g 1) = .ok (src 3 1, s.st) ∧ takeReg (box id) (box id).st (.g 1) = .ok (src 0 1, (box id).st) ∧
    (box fun t => { t with loop := { Loop.idle with suspended := true } }).st.loop.suspended = true := by
  refine ⟨by decide +kernel, by decide +kernel, by decide +kernel, by decide +kernel,
    ⟨_, _, _, rfl, by decide +kernel, by decide +kernel, by decide +kernel⟩, ⟨_, _, rfl⟩, rfl, by decide +kernel, by decide +kernel,
    rfl⟩

/-- The box in a loop of `count` iterations of a body of two instructions, at index `idx` of the first; their source has a tag. -/
def loopBox (tag : Fmt) (idx : Nat) (count : Word) : State :=
  let s := box fun t => { t with vtag := t.vtag.set 2 tag }
  let e (n : Nat) : VEntry := { newEntry s (.vadd .s32 Keys.dflt 1 2 (.lit 1)) s.st.pc s.st.npc true with num := n }
  { s with st := { s.st with vq := [e 0, e 1], vnum := 2, loop := ⟨true, false, 0x100, 2, count, 0, idx, none, none⟩ } }

/-- The body instruction that is due executes, or faults. -/
def loopRuns (s : State) (runs : Bool) : Bool :=
  match s.st.vq[s.st.loop.idx]? with
  | some e => (match runEntry s e with
    | .ok s1 => runs && s1.st.loop == s.st.loop && s1.st.vq == s.st.vq && !s1.st.stepping
    | .error (.trap _ _) => !runs
    | .error _ => false) && e.body && e.walk.isNone
  | none => false

/-- A body's first instruction, its last one with an iteration left and with none, and one that faults. -/
theorem witness_VectorLoops_execute : ∀ p ∈ ([(.s32, 0, 2), (.s32, 1, 2), (.s32, 1, 1), (.bf16, 0, 2)] : List (Fmt × Nat × Word)),
    let s := loopBox p.1 p.2.1 p.2.2
    loopRuns s (p.1 == .s32) = true ∧ s.st.vq.all (fun y => y.body && !y.started) = true ∧ s.parked = [] ∧ s.st.status = .ready ∧
    s.st.stepping = false ∧ s.async = false := by decide +kernel

/-! ### Memory -/

/-- R177: `ld.s16` sign-extends and takes the format's tag; R178: `st.n8` stores the low byte alone. -/
theorem test_ld_st : (let s := ran (.ld .s16 (.g 3) (.reg (.g 1)) 2) (boxM [(1, 0x200)] 0x200 [0x11228000FFFF])
      s.st.g.get 3 = 0xFFFFFFFFFFFF8000 ∧ s.st.gtag.get 3 = .s16) ∧
    memRead (ran (.st .n8 (.g 2) (.reg (.g 1)) 1) (boxM [(1, 0x200), (2, 0x1234)] 0x200 [0xFFFFFFFF])).mem 0x200 4 = 0xFFFF34FF := by
  decide +kernel

/-- R184's and R185's tables. -/
theorem test_atomics : ∀ p ∈ ([(5, 5, 0, .incw .raw (.g 3) (.reg (.g 1)) (.reg (.g 2)), 0, 5, 0),
    (9, 5, 0, .incw .raw (.g 3) (.reg (.g 1)) (.reg (.g 2)), 0, 9, 0),
    (0xFFFFFFFFFFFFFFFE, -1, 0, .incw .raw (.g 3) (.reg (.g 1)) (.reg (.g 2)), 0xFFFFFFFFFFFFFFFF, 0xFFFFFFFFFFFFFFFE, 0),
    (0xFFFFFFFFFFFFFFFE, -1, 5, .bfadd .raw (.g 3) (.reg (.g 1)) (.reg (.g 2)), 0xFFFFFFFFFFFFFFFE, 0xFFFFFFFFFFFFFFFE, 0),
    (0, 0, 0, .bfadd .raw (.g 3) (.reg (.g 1)) (.reg (.g 2)), 0, 0, 1),
    (12, 10, 0, .bfadd .raw (.g 3) (.reg (.g 1)) (.reg (.g 2)), 12, 12, 0)] : List (Word × Int × Int × Instr × Nat × Word × Word)),
    let s := ran p.2.2.2.1 (boxM [(1, 0x200), (2, p.2.1), (3, p.2.2.1)] 0x200 [p.1])
    memRead s.mem 0x200 8 = p.2.2.2.2.1 ∧ s.st.g.get 3 = p.2.2.2.2.2.1 ∧ s.st.rstat = p.2.2.2.2.2.2 := by decide +kernel

theorem witness_ReadAfterWrite : memWf [(4, 7), (9, 1)] = true ∧ (8 ≤ 8 ∧ 8 < 8 + 2) ∧ (7 < 8) ∧ (8 + 2 ≤ 10) := by decide

theorem witness_LoadsAndStores : let s := boxG [(1, 0x200)]
    AccessReady (.ld .s16 (.g 3) (.reg (.g 1)) 2) s (.reg (.g 1)) 2 Fmt.s16.size 0 true false (src 0x200 1) s.st s.st ⟨0x202, false⟩ ∧
    AccessReady (.ldc .s16 (.g 3) (.reg (.g 1)) 2) s (.reg (.g 1)) 2 Fmt.s16.size 0 true false (src 0x200 1) s.st s.st ⟨0x202, false⟩ ∧
    AccessReady (.st .s16 (.g 2) (.reg (.g 1)) 2) s (.reg (.g 1)) 2 Fmt.s16.size 1 false true (src 0x200 1) s.st s.st ⟨0x202, false⟩ ∧
    Unwatched s ⟨0x202, false⟩ ∧ misuseWrite (.g 3) = none ∧ hasRoom s.st (.g 3) = .ok () ∧
    (∃ t, putReg s.st (.g 3) 0 .s16 = .ok t) ∧ misuseRead (.g 2) = none ∧ takeReg s s.st (.g 2) = .ok (src 0 2, s.st) ∧
    TagOk (some .s16) (src 0 2) :=
  ⟨access_ready rfl (by decide +kernel), access_ready rfl (by decide +kernel), access_ready rfl (by decide +kernel),
    ⟨rfl, rfl, rfl⟩, rfl, rfl, ⟨_, rfl⟩, rfl, rfl, tagOk_of rfl⟩

/-- A misaligned address, one with no translation, one whose page may not be read, and one that the partition may not name. -/
theorem witness_LoadsAndStores_faults : let p : TlbEntry := ⟨0, 1, 16, 0x10000, false, true, false, false⟩
    let q : TlbEntry := ⟨0, 2, 16, 0x100000000, true, true, false, false⟩
    let s := (boxG [(1, 0x201), (2, 0x30000), (3, 0x10000), (4, 0x20000)]).modCell 0 fun c => { c with tlb := c.tlb ++ [p, q] }
    (∀ n ∈ [1, 2, 3, 4], hazard (.ld .s16 (.g 5) (.reg (.g n)) 0) s = false ∧ baseMisuse (.reg (.g n)) = none) ∧
    takeBase s s.st (.reg (.g 1)) = .ok (src 0x201 1, s.st) ∧ accessVa s.st (src 0x201 1).val 0 % 2 ≠ 0 ∧
    takeBase s s.st (.reg (.g 2)) = .ok (src 0x30000 2, s.st) ∧ s.tlbFind s.st.cell s.st.asid 0x30000 = none ∧
    takeBase s s.st (.reg (.g 3)) = .ok (src 0x10000 3, s.st) ∧ s.tlbFind s.st.cell s.st.asid 0x10000 = some p ∧
    takeBase s s.st (.reg (.g 4)) = .ok (src 0x20000 4, s.st) ∧ s.tlbFind s.st.cell s.st.asid 0x20000 = some q ∧
    s.mayName s.st.part q.pa = false ∧ s.st.vq = [] ∧ hasRoom s.st (.g 5) = .ok () := by decide +kernel

/-- `acas` that writes and `acas` that does not, `bfadd` at its bound. -/
theorem witness_Atomics : let s := boxM [(1, 0x200), (2, 9), (3, 4)] 0x200 [4]
    (∀ i ∈ ([.aadd .s64 (.g 3) (.reg (.g 1)) (.reg (.g 2)), .incw .raw (.g 3) (.reg (.g 1)) (.reg (.g 2))] : List Instr),
      AccessReady i s (.reg (.g 1)) 0 8 3 true true (src 0x200 1) s.st s.st ⟨0x200, false⟩) ∧
    (∀ i ∈ ([.acas .raw (.g 3) (.reg (.g 1)) (.reg (.g 2)), .bfadd .raw (.g 3) (.reg (.g 1)) (.reg (.g 2))] : List Instr),
      AccessReady i s (.reg (.g 1)) 0 8 3 true true (src 0x200 1) s.st s.st ⟨0x200, false⟩) ∧
    Unwatched s ⟨0x200, false⟩ ∧ OperandsReady s (.g 3) (.reg (.g 2)) false (some .s64) none s.st (src 9 2) Src.zero s.st ∧
    OperandsReady s (.g 3) (.reg (.g 2)) true (some .raw) (some .raw) s.st (src 9 2) (src 4 3) s.st ∧
    ∃ t, putReg { s.st with wcount := s.st.wcount + 1 } (.g 3) 4 .raw = .ok t := by
  refine ⟨fun i hi => ?_, fun i hi => ?_, ⟨rfl, rfl, rfl⟩,
    ⟨by decide, ⟨_, rfl, rfl⟩, rfl, ⟨tagOk_of rfl, tagOk_of rfl⟩, rfl, rfl⟩,
    ⟨by decide, ⟨_, rfl, rfl⟩, rfl, ⟨tagOk_of rfl, tagOk_of rfl⟩, rfl, rfl⟩, ⟨_, rfl⟩⟩ <;>
    simp only [List.mem_cons, List.not_mem_nil, or_false] at hi <;>
    rcases hi with rfl | rfl <;> exact access_ready rfl (by decide +kernel)

/-- A word in form and one with a reserved bit set. -/
theorem witness_ExactReductions : let s := boxG [(1, 0x200)]
    let s' := boxM [(1, 0x200)] 0x200 [2 ^ 48]
    AccessReady (.xred .s32 (.reg (.g 1)) (.reg (.g 2))) s (.reg (.g 1)) 0 32 3 false true (src 0x200 1) s.st s.st ⟨0x200, false⟩ ∧
    AccessReady (.xred .s32 (.reg (.g 1)) (.reg (.g 2))) s' (.reg (.g 1)) 0 32 3 false true (src 0x200 1) s'.st s'.st ⟨0x200, false⟩ ∧
    AccessReady (.xrd .s64 .dyn (.g 3) (.reg (.g 1)) 0) s (.reg (.g 1)) 0 32 3 true false (src 0x200 1) s.st s.st ⟨0x200, false⟩ ∧
    Unwatched s ⟨0x200, false⟩ ∧ Unwatched s' ⟨0x200, false⟩ ∧ opMisuse (.reg (.g 2)) = none ∧
    takeOp s s.st (.reg (.g 2)) = .ok (src 0 2, s.st) ∧ takeOp s' s'.st (.reg (.g 2)) = .ok (src 0 2, s'.st) ∧
    TagOk (some .s32) (src 0 2) ∧ memRead s.mem 0x200 32 / 2 ^ 48 % 2 ^ 14 = 0 ∧ memRead s'.mem 0x200 32 / 2 ^ 48 % 2 ^ 14 ≠ 0 :=
  ⟨access_ready rfl (by decide +kernel), access_ready rfl (by decide +kernel), access_ready rfl (by decide +kernel),
    ⟨rfl, rfl, rfl⟩, ⟨rfl, rfl, rfl⟩, rfl, rfl,
    rfl, tagOk_of rfl, rfl, by decide +kernel⟩

/-- An access of the box's strand under way. -/
def accNow (i : Instr) (done : Bool) : Access where
  id := 7
  uid := 5
  cell := 0
  pc := 0x100
  ckpt := (box id).st.checkpoint
  ins := i
  va := 0x200
  pa := 0x200
  b := 0
  d := 0
  watched := false
  wno := 0
  wop := 0
  after := 0
  done := done
  doneAt := 0
  res := 0
  rstat := none
  poison := false
  fault := none
  walk := none

/-- A line in the cell's cache; an access that waits behind another to its home. -/
theorem witness_LoadsAndStores_held : let s := (boxG [(1, 0x200)]).modCell 0 fun c => { c with ldc := [(8, [1])] }
    let q := { s with accs := [accNow (.st .s64 (.g 3) (.reg (.g 1)) 0) false] }
    s.ldcLine s.st.cell (0x202 / 64) 0 = some [1] ∧ s.ldcFlawed s.st.cell (0x202 / 64) 0 = false ∧
    (boxG []).ldcLine 0 (0x202 / 64) 0 = none ∧ (boxG []).st.status ≠ .free ∧ hazard (.ld .s16 (.g 3) (.reg (.g 1)) 2) q = false ∧ q.st.loop.active = false ∧
    q.st.vq = [] ∧ q.mustQueue q.st (.ld .s16 (.g 3) (.reg (.g 1)) 2) 0x202 = true ∧
    q.locate q.st (accessVa q.st (src 0x200 1).val 2) 0 true false false = .ok ⟨0x202, false⟩ := by decide +kernel

/-- A strand with nothing under way, with a store, with a load; one in a loop and one with a vector access; a line translated. -/
theorem witness_FencesAndInvalidation : let s := boxG [(1, 0x200)]
    let st := { s with accs := [accNow (.st .s64 (.g 3) (.reg (.g 1)) 0) false] }
    let ld := { s with accs := [accNow (.ld .s64 (.g 3) (.reg (.g 1)) 0) false] }
    s.st.vq = [] ∧ s.st.loop.active = false ∧ s.accs = [] ∧ hazard (.inv .cell (.g 1)) s = false ∧ misuseRead (.g 1) = none ∧
    takeReg s s.st (.g 1) = .ok (src 0x200 1, s.st) ∧ (∃ g, s.tlbFind 0 0 0x200 = some g) ∧
    (∃ y ∈ st.accs, y.uid = st.st.uid ∧ y.done = false ∧ isLoad y.ins = false) ∧
    (∃ y ∈ ld.accs, y.uid = ld.st.uid ∧ isStore y.ins = false) ∧
    (box fun t => { t with loop := { Loop.idle with active := true } }).st.loop.active = true ∧
    ∃ e ∈ (box fun t => { t with vq := [newEntry (box id) (.vld .s32 Keys.dflt 1 (.reg (.g 1)) 0) 0 0 false] }).st.vq, isVectorMem e.ins = true :=
  ⟨rfl, rfl, rfl, by decide +kernel, rfl, rfl, ⟨_, rfl⟩, ⟨_, List.mem_singleton.mpr rfl, by decide +kernel⟩,
    ⟨_, List.mem_singleton.mpr rfl, by decide +kernel⟩, rfl, _, List.mem_singleton.mpr rfl, rfl⟩

/-! ### Rings, barriers, events, messages -/

/-- A full ring, one with room, one malformed, one empty. -/
theorem witness_RingsAndBarriers_rings : (∀ ws ∈ ([[0, 2, 1, 0x300], [0, 1, 1, 0x300], [0, 1, 2 ^ 34 + 1, 0x300], [7, 7, 1, 0x300]] :
      List (List Word)), let s := boxM [(1, 0x200), (2, 9)] 0x200 ws
      RecordAt (.enq (.g 3) (.reg (.g 1)) (.reg (.g 2))) s (.reg (.g 1)) 32 3 true true (src 0x200 1) s.st s.st 0x200 ∧
      RecordAt (.deq (.g 3) (.reg (.g 1))) s (.reg (.g 1)) 32 3 true true (src 0x200 1) s.st s.st 0x200 ∧ NoWatch s 0x200 32 ∧ Unloaded s 0x300 1 ∧ s.pairBusy s.st.cell 0x300 = false ∧
      misuseWrite (.g 3) = none ∧ hasRoom s.st (.g 3) = .ok () ∧ opMisuse (.reg (.g 2)) = none ∧
      takeOp s s.st (.reg (.g 2)) = .ok (src 9 2, s.st) ∧ (∃ t, putReg s.st (.g 3) 0 .raw = .ok t) ∧
      s.locate s.st 0x300 3 false true false = .ok ⟨0x300, false⟩ ∧ s.locate s.st 0x301 3 false true false = .ok ⟨0x301, false⟩ ∧
      s.locate s.st 0x300 3 true false false = .ok ⟨0x300, false⟩) ∧
    (∃ j, 1 + 1 = 2 ^ j) ∧ 0x300 % 1 = 0 ∧ (2 + 2 ^ 64 - 0) % 2 ^ 64 = 2 ∧ (7 + 2 ^ 64 - 7) % 2 ^ 64 = 0 := by
  refine ⟨fun ws hw => ?_, ⟨1, rfl⟩, by decide, by decide, by decide⟩
  simp only [List.mem_cons, List.not_mem_nil, or_false] at hw
  rcases hw with rfl | rfl | rfl | rfl <;>
    exact ⟨record_at rfl (by decide +kernel), record_at rfl (by decide +kernel), noWatch_of (by decide +kernel),
      (noWatch_of (by decide +kernel)).1, by decide +kernel, rfl, rfl, rfl, rfl, ⟨_, rfl⟩, rfl, rfl, rfl⟩

/-- `barm` with a count of 0, one past 48 bits, on an unarmed object with and without a permit, on an armed one that it
overflows and one that it does not; `bput` and `btake` with and without a permit and a token; and a malformed object. -/
theorem witness_RingsAndBarriers_barriers : ∀ p ∈ ([([1, 0], 0), ([1, 0], 2 ^ 48), ([0, 0], 1), ([1, 0], 2 ^ 48 - 1),
      ([1, 1], 2 ^ 48 - 1), ([1, 1], 2 ^ 48 - 2), ([2 ^ 16, 0], 0), ([2 ^ 33, 0], 1)] : List (List Word × Int)),
    let s := boxM [(1, 0x200), (2, p.2)] 0x200 p.1
    RecordAt (.barm (.reg (.g 1)) (.reg (.g 2))) s (.reg (.g 1)) 16 3 false true (src 0x200 1) s.st s.st 0x200 ∧
    RecordAt (.bput (.reg (.g 1))) s (.reg (.g 1)) 16 3 false true (src 0x200 1) s.st s.st 0x200 ∧
    RecordAt (.btake (.reg (.g 1)) (.reg (.g 2))) s (.reg (.g 1)) 16 3 false true (src 0x200 1) s.st s.st 0x200 ∧
    NoWatch s 0x200 16 ∧ s.async = false ∧ s.st.loop.active = false ∧ s.waitersAt s.st.part 0x200 = [] ∧ takeOp s s.st (.reg (.g 2)) = .ok (src p.2 2, s.st) := by
  intro p hp
  simp only [List.mem_cons, List.not_mem_nil, or_false] at hp
  rcases hp with rfl | rfl | rfl | rfl | rfl | rfl | rfl | rfl <;>
    exact ⟨record_at rfl (by decide +kernel), record_at rfl (by decide +kernel), record_at rfl (by decide +kernel), noWatch_of (by decide +kernel),
      rfl, rfl, rfl, rfl⟩

/-- A barrier with a token: no waiter of its phase, and a waiter of its phase behind one of the other; a store under way. -/
theorem witness_RingsAndBarriers_waiters : let s := (boxM [] 0x200 [1, 0])
    let q := { s with accs := [accNow (.st .s64 (.g 3) (.reg (.g 1)) 0) false] }
    Quiet (s.setWaiters 1 0x200 [(7, true), (5, false)]) ∧ barrierParts (memRead s.mem 0x200 16) = some ⟨1, 0, false, 0, false⟩ ∧
    (∀ w ∈ (s.setWaiters 1 0x200 [(7, true)]).waitersAt 1 0x200, w.2 ≠ false) ∧
    (s.setWaiters 1 0x200 [(7, true), (5, false)]).waitersAt 1 0x200 = [(7, true)] ++ (5, false) :: [] ∧
    q.storesDue q.st.uid ≠ 0 ∧ q.st.loop.active = false ∧ hazard (.bput (.reg (.g 1))) q = false :=
  ⟨⟨rfl, rfl, rfl⟩, by decide +kernel, by decide +kernel, by decide +kernel, by decide +kernel, rfl, by decide +kernel⟩

/-- The box whose launch holds events 4 to 7. -/
def boxE (l : List (Fin 32 × Int)) : State := (boxG l).modPart 1 fun x => x.modLaunch 1 fun y => { y with
  eff := { y.eff with evBase := 4, evCount := 4 } }

/-- Event 7 with a count that is covered, one that is not, a count of 0, and event 8, which is out of range. -/
theorem witness_Events : (∀ p ∈ ([(7, 0), (7, 2 ^ 32 - 1), (8, 0), (4, 2 ^ 32)] : List (Int × Int)), let s := boxE [(1, p.1), (2, p.2)]
      OperandsAB s (.reg (.g 1)) (.reg (.g 2)) (src p.1 1) (src p.2 2) s.st ∧ HomeReady (.evsig (.reg (.g 1)) (.reg (.g 2))) s ∧
      HomeReady (.evwait (.reg (.g 1)) (.reg (.g 2))) s ∧ (∃ l, s.launchOf s.st = some l ∧ l.eff.evBase = 4 ∧ l.eff.evCount = 4) ∧
      ((s.part 1).event 7).waiters = [] ∧ (s.part 1).waiterRoom 7 = true) ∧
    { Part.reset with events := [(7, ⟨0, List.replicate 65540 (.task 0 1)⟩)] }.waiterRoom 7 = false := by
  refine ⟨fun p hp => ?_, pool_full _ _ (by decide)⟩
  simp only [List.mem_cons, List.not_mem_nil, or_false] at hp
  rcases hp with rfl | rfl | rfl | rfl <;>
    exact ⟨operands_ab rfl rfl (by decide +kernel), home_ready (by decide +kernel), home_ready (by decide +kernel),
      ⟨_, rfl, rfl, rfl⟩, rfl, rfl⟩

/-- Images to the strand's own cell, to a cell outside the partition, and one malformed; an outbound buffer with room and a full one. -/
theorem witness_MessagesAndTasks_messages : (∀ p ∈ ([[0x100 * 2 ^ 20], [0x100 * 2 ^ 20 + 4095], [2 ^ 60], [2 ^ 20]] : List (List Word)),
      let s := boxM [(1, 0x200)] 0x200 p
      RecordAt (.send true (.reg (.g 1))) s (.reg (.g 1)) 64 0 true false (src 0x200 1) s.st s.st 0x200 ∧
      RecordAt (.sendn true (.reg (.g 1))) s (.reg (.g 1)) 64 0 true false (src 0x200 1) s.st s.st 0x200 ∧
      RecordAt (.mcast true (.reg (.g 1)) (.lit 0xFF000)) s (.reg (.g 1)) 64 0 true false (src 0x200 1) s.st s.st 0x200 ∧
      takeOp s s.st (.lit 0xFF000) = .ok (litSrc 0xFF000, s.st) ∧ s.hasCell 1 0 = true ∧ s.hasCell 1 4095 = false ∧
      (s.cell 0).outbox.length < 4) ∧
    (∀ n ∈ castDests (box id) 1 0 0xFFFFF, (box id).hasCell 1 n = true) ∧
    4 ≤ (((box id).modCell 0 fun c => { c with outbox := List.replicate 4 ⟨⟨0, 0, .normal, 0, 0, 0, 1, 1, 0, 0, 0, [], none⟩, []⟩ }).cell
      0).outbox.length := by
  refine ⟨fun p hp => ?_, by decide +kernel, by decide +kernel⟩
  simp only [List.mem_cons, List.not_mem_nil, or_false] at hp
  rcases hp with rfl | rfl | rfl | rfl <;>
    exact ⟨record_at rfl (by decide +kernel), record_at rfl (by decide +kernel), record_at rfl (by decide +kernel), rfl,
      rfl, rfl, by decide +kernel⟩

/-- A budget with a slot and a task left and one with neither; a task record in form and one with a reserved bit set. -/
theorem witness_MessagesAndTasks_budget : (∀ p ∈ ([(1, [0x100 * 2 ^ 20, 0x100]), (2, [0x100 * 2 ^ 20, 0x100]), (2, [0x100 * 2 ^ 20, 2 ^ 47])] :
      List (Nat × List Word)), let s := boxB p.1 p.2
      RecordAt (.spawn (.reg (.g 1))) s (.reg (.g 1)) 64 0 true false (src 0x200 1) s.st s.st 0x200 ∧
      RecordAt (.tsub (.reg (.g 1))) s (.reg (.g 1)) 64 0 true false (src 0x200 1) s.st s.st 0x200 ∧ s.hasCell 1 0 = true ∧
      (∃ l, s.launchOf s.st = some l ∧ l.slotsUsed = 1 ∧ l.eff.slots = p.1 ∧ l.tasksLive = 0)) ∧
    (let ws := memWords (boxB 2 [0x100 * 2 ^ 20, 0x100]).mem 0x200 8
     imageBad ws = false ∧ imageEntry ws ≠ 0 ∧ imageDest ws = 0 ∧ taskBad ((boxB 2 [0x100 * 2 ^ 20, 0x100]).launchOf (boxB 2 []).st) ws = false ∧
      (wordAt ws 1).testBit 40 = false) ∧
    taskBad ((boxB 2 [0x100 * 2 ^ 20, 0x100]).launchOf (boxB 2 []).st) (memWords (boxB 2 [0x100 * 2 ^ 20, 2 ^ 47]).mem 0x200 8) = true := by
  refine ⟨fun p hp => ?_, by decide +kernel, by decide +kernel⟩
  simp only [List.mem_cons, List.not_mem_nil, or_false] at hp
  rcases hp with rfl | rfl | rfl <;>
    exact ⟨record_at rfl (by decide +kernel), record_at rfl (by decide +kernel), rfl, ⟨_, rfl, rfl, rfl,
      rfl⟩⟩

theorem witness_StrandEnds : let s := boxG [(1, 3), (2, 4095), (3, 0)]
    let q := box fun t => { t with q15 := [⟨0, [1]⟩] }
    s.st.vq = [] ∧ s.st.tileCount = 0 ∧ s.accs = [] ∧ s.storesDue s.st.uid = 0 ∧ s.st.act = false ∧ s.st.task = none ∧ 256 ≤ s.st.popId.toNat ∧
    hazard (.migrate (.reg (.g 1))) s = false ∧ takeOp s s.st (.reg (.g 1)) = .ok (src 3 1, s.st) ∧ s.hasCell 1 3 = true ∧
    s.st.cell ≠ 3 ∧ takeOp s s.st (.reg (.g 2)) = .ok (src 4095 2, s.st) ∧ s.hasCell 1 4095 = false ∧
    takeOp s s.st (.reg (.g 3)) = .ok (src 0 3, s.st) ∧ s.st.cell = 0 ∧ (box fun t => { t with act := true }).st.act = true ∧
    hazard (.sleep (.reg (.g 1))) s = false ∧ s.st.q15 = [] ∧ s.st.kept = none ∧ q.st.q15 ≠ [] ∧
    (box fun t => { t with sleepUntil := some 9 }).st.kept = some 9 := by decide +kernel

/-- A claim of no counters, one that runs past 2^64, one that overlaps another, one that does not, and a full table. -/
theorem witness_SystemInstructions : (∀ p ∈ ([(5, 0), (-1, 2), (12, 1), (14, 1)] : List (Int × Int)),
      let s := (boxG [(1, p.1), (2, p.2)]).modPart 1 fun x => { x with claims := [(1, 0, 10, 4)] }
      OperandsAB s (.reg (.g 1)) (.reg (.g 2)) (src p.1 1) (src p.2 2) s.st ∧
      HomeReady (.claim (.reg (.g 1)) (.reg (.g 2))) s ∧ HomeReady (.tlbinv (.reg (.g 1)) (.reg (.g 2))) s ∧
      HomeReady (.tmark (.reg (.g 1)) (.reg (.g 2))) s ∧ HomeReady (.launch (.reg (.g 1))) s ∧ HomeReady (.rand (.g 3) (.reg (.g 1))) s ∧
      takeBase s s.st (.reg (.g 1)) = .ok (src p.1 1, s.st) ∧ s.seedOf s.st = 0 ∧ hasRoom s.st (.g 3) = .ok () ∧
      (∃ t, putReg s.st (.g 3) 0 .raw = .ok t) ∧ s.st.vq = [] ∧ s.accs = []) ∧
    1024 ≤ (((box id).modPart 1 fun x => { x with claims := List.replicate 1024 (1, 0, 0, 1) }).part 1).claims.length := by
  refine ⟨fun p hp => ?_, by decide +kernel⟩
  simp only [List.mem_cons, List.not_mem_nil, or_false] at hp
  rcases hp with rfl | rfl | rfl | rfl <;>
    exact ⟨operands_ab rfl rfl (by decide +kernel), home_ready (by decide +kernel), home_ready (by decide +kernel),
      home_ready (by decide +kernel), home_ready (by decide +kernel), home_ready (by decide +kernel), rfl,
      rfl, rfl, ⟨_, rfl⟩, rfl, rfl⟩

/-! ### Tiles -/

/-- The box whose launch holds tiles 0 to 6, with the SRAM of cell 0 as page 1. -/
def boxT (l : List (Fin 32 × Int)) (ts : List (Nat × Tile)) : State :=
  (((boxG l).modPart 1 fun x => x.modLaunch 1 fun y => { y with eff := { y.eff with tiles := 0x7F } }).modCell 0 fun c =>
    { c with tlb := ⟨0, 1, 16, 0x100000000000, true, true, false, false⟩ :: c.tlb }).modCluster 0 fun c => { c with tiles := ts }

/-- A zero tile with a tag. -/
def tileAs (f : Fmt) : Tile := { Tile.zero with tag := f }

/-- A product of one row, one column and one block, of each kind of accumulator. -/
theorem witness_ProductSteps : let row := List.replicate 64 0
    (∀ f ∈ [Fmt.bf16, Fmt.e4m3], let p : Prod := ⟨f, f, false, 0, shapeOf 0, 0, none, [0], 0⟩
      [row].length = p.shape.rows ∧ [(row, 0)].length = p.shape.cols ∧ p.shape.row0 + p.shape.rows ≤ 128 ∧
      p.shape.col0 + p.shape.cols ≤ 128 ∧ p.inWindow 1 = false ∧ p.b ≠ .q4 ∧ 8 ≤ p.b.bits ∧ row.length = 64 ∧ p.complex = false) ∧
    Quiet (box id) ∧ (Fmt.bf16 = .bf16 ∨ Fmt.bf16 = .f16) ∧ Fmt.e4m3 ≠ .bf16 ∧ Fmt.e4m3 ≠ .f16 :=
  ⟨by decide +kernel, quiet_box _, .inl rfl, by decide, by decide⟩

theorem tile_ready {i : Instr} {s : State} (h : (hazard i s = false ∧ s.st.vq = [] ∧ s.st.loop.active = false
    ∧ s.storesDue s.st.uid = 0 ∧ s.accs = []) ∧ s.st.tileCount = 0 ∧ s.async = false
    ∧ s.flips = [] ∧ s.poison = [] ∧ s.arrays = []) : TileReady i s :=
  ⟨home_ready h.1, h.2.1, h.2.2.1, h.2.2.2⟩

theorem tile_ok {s : State} {n : Nat} {l : List Fmt} (h : (s.holds s.st (clusterOf s.st.cell) n = true ∧
    (s.tileOf s.st n).tag = .raw ∧ (s.tileOf s.st n).poison = [])) : TileOk s n l := ⟨h.1, .inr h.2.1, h.2.2⟩

theorem found_of {α : Type} {r : Run α} {n : Nat} (h : (match r with
    | .error (.found _ m _) => m == n
    | _ => false) = true) : ∃ s a, r = .error (.found s n a) := by
  split at h
  · rw [eq_of_beq h]; exact ⟨_, _, rfl⟩
  · cases h

theorem run_eq {α : Type} [DecidableEq α] {r : Run α} {x : α} (h : (match r with
    | .ok y => decide (y = x)
    | .error _ => false) = true) : r = .ok x := by
  split at h
  · rw [of_decide_eq_true h]
  · cases h

theorem ok_pair {α β : Type} {r : Run (α × β)} (h : r.isOk = true) : ∃ a b, r = .ok (a, b) := by
  cases r with
  | ok p => exact ⟨p.1, p.2, rfl⟩
  | error e => cases h

/-- A product of one step that completes, and a sparse one whose first metadata entry is malformed. -/
theorem witness_Products : let s := boxT [(1, 0x10000), (2, 0)] []
    let q := boxT [(1, 0x10000), (2, 0x200)] []
    let i := Instr.mma .bf16 .asA false 0 (.g 1) (.reg (.g 2))
    let j := Instr.mmas .bf16 .asA false 0 (.g 1) (.g 2)
    let p : Prod := ⟨.bf16, .bf16, false, 0, shapeOf 0, 0x10000, none, [0], 0⟩
    let m : Prod := ⟨.bf16, .bf16, false, 0, shapeOf 0, 0x10000, some 0x200, [0], 0⟩
    TileReady i s ∧ TileReady j q ∧ (∀ x ∈ [s, q], x.st.stepping = false ∧ TileOk x 0 [accTag .bf16] ∧
      takeReg x x.st (.g 1) = .ok (src 0x10000 1, x.st) ∧ (x.tileOf x.st 0).rvalid = false ∧ prodClusters x.st false = [0] ∧ x.holds x.st 0 0 = true ∧ ((x.cluster 0).tile 0).tag = .raw ∧
      x.st.dataVa (src 0x10000 1).val = 0x10000) ∧
    takeOp s s.st (.reg (.g 2)) = .ok (src 0 2, s.st) ∧ takeOp q q.st (.reg (.g 2)) = .ok (src 0x200 2, q.st) ∧
    shapeWord s s.st false (src 0 2) = .ok (0, s) ∧ shapeWord q q.st true (src 0x200 2) = .ok (0, q) ∧ q.st.dataVa (src 0x200 2).val = 0x200 ∧
    shapeCheck 0 (bFmt .bf16 .asA) false = .ok () ∧ p.shape.blocks = 1 ∧
    (∃ l, p.aPieces s s.st p.shape.rows = .ok l ∧ aPlacement 0 p.home l = .ok ()) ∧ p.metaCheck s s.st = .ok () ∧
    (∃ l, m.aPieces q q.st m.shape.rows = .ok l ∧ aPlacement 0 m.home l = .ok ()) ∧ m.metaCheck q q.st = .ok () ∧
    (∃ s2 m, p.steps s s.st 0 128 = .ok (s2, m)) ∧ (∃ s2 a, m.steps q q.st 0 128 = .error (.found s2 0x0404 a)) ∧
    (∃ rd got, p.reads s s.st 0 0 = .ok rd ∧ makeReads s s.st.ctx rd.all = (got, s) ∧
      (∀ r ∈ rd.all, s.turnAt s.st.uid s.st.cell r.pa = .ok ()) ∧ ∃ rows cols, p.operands 0 rd got = .ok (rows, cols)) := by
  refine ⟨tile_ready (by decide +kernel), tile_ready (by decide +kernel), ?_, rfl, rfl, rfl, run_eq (by decide +kernel), rfl, by decide +kernel, rfl,
    ⟨_, rfl, by decide +kernel⟩, by decide +kernel, ⟨_, rfl, by decide +kernel⟩, by decide +kernel, ok_pair (by decide +kernel), found_of (by decide +kernel),
    ⟨_, _, rfl, rfl, by decide +kernel, ok_pair (by decide +kernel)⟩⟩
  intro x hx
  simp only [List.mem_cons, List.not_mem_nil, or_false] at hx
  rcases hx with rfl | rfl <;> exact ⟨rfl, tile_ok (by decide +kernel), rfl, rfl, rfl, by decide +kernel, rfl, rfl⟩

/-- Tiles of tag raw, f32 and bf16; a strand with and without a tile error and with a command in its queue. -/
theorem witness_TileRowsAndElements_rows : let s := boxT [] [(1, tileAs .f32)]
    (∀ n ∈ [(0 : Fin 8), 1], s.holds s.st 0 n = true ∧ (s.tileOf s.st n).poison = []) ∧ (s.tileOf s.st 0).tag = .raw ∧
    (s.tileOf s.st 1).tag = .f32 ∧ Fmt.f32 ≠ .bf16 ∧ opMisuse (.lit 127) = none ∧ takeOp s s.st (.lit 127) = .ok (litSrc 127, s.st) ∧
    (litSrc 127).val.toNat = 127 ∧ tileGroup (128 * Fmt.bf16.bits / 512) (0 : Fin 32).val = .ok () ∧
    (∀ n, TileReady (.trd .bf16 0 n (.lit 127)) s ∧ TileReady (.twr .bf16 n 0 (.lit 127)) s) ∧
    tileGroupTags s.st (128 * Fmt.bf16.bits / 512) (0 : Fin 32).val .bf16 = .ok () ∧
    Clean (s.st.vsrc (128 * Fmt.bf16.bits / 512) Fmt.bf16.bits (0 : Fin 32).val) 128 allElems ∧
    s.st.vq = [] ∧ s.st.loop.active = false ∧ s.st.tileCount ≤ 0 ∧ s.st.terr = none ∧ (box fun t => { t with terr := some 0x80 }).st.terr = some 0x80 ∧
    (let q := box fun t => { t with tileq := [⟨0, 0, false, .bf16, 0, 0, 0, []⟩] }; 0 < q.st.tileCount) := by
  refine ⟨by decide +kernel, rfl, rfl, by decide, rfl, rfl, rfl, rfl, fun n => ⟨?_, ?_⟩, by decide +kernel,
    clean_of (by decide +kernel), rfl, rfl, by decide +kernel, rfl, rfl, by decide +kernel⟩ <;>
  exact tile_ready ⟨⟨rfl, rfl, rfl, rfl, rfl⟩, rfl, rfl, rfl, rfl, rfl⟩

/-- A tile that the launch holds and one that it does not; an accumulator of each tag; a scalar factor, a group, a third tile. -/
theorem witness_TileRowsAndElements_elements : let s := boxT [(2, 0x3F800000)] [(1, tileAs .f32), (2, tileAs .x96)]
    let y : Src := src 0x3F800000 2
    (∀ a, TileReady (.tzero a) s) ∧ s.holds s.st 0 6 = true ∧ s.holds s.st 0 7 = false ∧
    (∀ b, TileReady (.tcvt .bf16 .rne false 0 1 b) s ∧ ∀ v, TileReady (.tgate v 0 1 b) s) ∧
    takeOp s s.st (.reg (.g 2)) = .ok (y, s.st) ∧ takeOp s s.st (.lit 3) = .ok (litSrc 3, s.st) ∧ opMisuse (.vec 0) = none ∧
    TileOperandOk s.st (.reg (.g 2)) y ∧ TileOperandOk s.st (.vec 0) y ∧ TileOperandOk s.st (.lit 3) (litSrc 3) ∧
    (∃ z, takeOp s s.st (.vec 0) = .ok (z, s.st)) ∧
    TileOk s 1 [.f32, .x96] ∧ TileOk s 2 [.f32, .x96] ∧ TileOk s 0 [(s.tileOf s.st 0).tag] ∧ TileOk s 1 [.f32] ∧ TileOk s 3 [.f32] := by
  refine ⟨fun _ => tile_ready ⟨⟨rfl, rfl, rfl, rfl, rfl⟩, rfl, rfl, rfl, rfl, rfl⟩, by decide +kernel, by decide +kernel, fun b => ⟨?_, fun v => ?_⟩, rfl, rfl, rfl,
    ⟨tagOk_of rfl, rfl⟩, ⟨rfl, by decide +kernel, clean_of (by decide +kernel)⟩, trivial, ⟨_, rfl⟩,
    ⟨by decide +kernel, .inl (by decide +kernel), by decide +kernel⟩, ⟨by decide +kernel, .inl (by decide +kernel), by decide +kernel⟩,
    tile_ok (by decide +kernel), ⟨by decide +kernel, .inl (by decide +kernel), by decide +kernel⟩, tile_ok (by decide +kernel)⟩
  · cases b <;> exact tile_ready ⟨⟨rfl, rfl, rfl, rfl, rfl⟩, rfl, rfl, rfl, rfl, rfl⟩
  · cases b <;> exact tile_ready ⟨⟨rfl, rfl, rfl, rfl, rfl⟩, rfl, rfl, rfl, rfl, rfl⟩

/-- The page pieces of an image at 0x10000 of the box. -/
def imageAt : List (Loc × Nat × Nat) := [(⟨0x100000010000, false⟩, 65536, 0x10000), (⟨0x100000020000, false⟩, 65536, 0x20000),
  (⟨0x100000030000, false⟩, 65536, 0x30000), (⟨0x100000040000, false⟩, 64, 0x40000)]

/-- The box with all of an image's pages in the SRAM of cell 0. -/
def boxI : State := (boxT [(1, 0x10000)] []).modCell 0 fun c => { c with tlb := ⟨0, 0, 20, 0x100000000000, true, true, false, false⟩ :: c.tlb }

/-- Vector lengths 0, 1, 128 and 129. -/
theorem witness_TileScansAndImages_scans : ∀ n ∈ [0, 1, 128, 129], let s := boxT [(1, 0x10000)] []
      let q : State := { s with st := { s.st with vl := n } }
      (∀ pair, TileReady (.tscan pair 1 0 1 0) q) ∧ q.st.vl = n ∧ TileOk q 1 [.f32] ∧ TileOk q 0 [.f32] ∧
      (∀ k ∈ [8, 16], tileGroupTags q.st k 0 .f32 = .ok ()) ∧ tileGroup 8 0 = .ok () ∧ Clean (q.st.vsrc 8 32 0) 128 allElems ∧
      Clean (q.st.vsrc 8 32 8) 128 allElems := by
  intro n hn
  simp only [List.mem_cons, List.not_mem_nil, or_false] at hn
  rcases hn with rfl | rfl | rfl | rfl <;>
    exact ⟨fun _ => tile_ready ⟨⟨rfl, rfl, rfl, rfl, rfl⟩, rfl, rfl, rfl, rfl, rfl⟩, rfl, tile_ok (by decide +kernel), tile_ok (by decide +kernel),
      by decide +kernel, rfl, clean_of (by decide +kernel), clean_of (by decide +kernel)⟩

/-- An image to SRAM, one of zeros from it, and an image with a reserved bit set. -/
theorem witness_TileScansAndImages_images : baseMisuse (.reg (.g 1)) = none ∧
    takeBase boxI boxI.st (.reg (.g 1)) = .ok (src 0x10000 1, boxI.st) ∧ accessVa boxI.st (src 0x10000 1).val 0 % 64 = 0 ∧
    TileOk boxI 0 [(boxI.tileOf boxI.st 0).tag] ∧ (∀ a, boxI.sweepWeight a = 0) ∧
    TileReady (.tst 0 (.reg (.g 1)) 0) boxI ∧ TileReady (.tld 0 (.reg (.g 1)) 0) boxI ∧
    (∀ w, boxI.pieces boxI.st (accessVa boxI.st (src 0x10000 1).val 0) w 196672 5 = .ok imageAt) ∧ (∀ p ∈ imageAt, p.1.watched = false) ∧
    (tileFrom 0 Tile.zero).isSome = true ∧ tileFrom 64 Tile.zero = none := by
  refine ⟨rfl, by decide +kernel, by decide +kernel, tile_ok (by decide +kernel), weight_zero (by decide +kernel),
    tile_ready (by decide +kernel), tile_ready (by decide +kernel), by decide +kernel, by decide +kernel, by decide +kernel, by decide +kernel⟩

/-! ### Evolving words, knots, populations -/

theorem witness_LawValues : (∀ k ∈ [0, 1, 2, 3], let e : LawEntry := ⟨k, 3, 0, 0, 0, 0, 0, 5, 0, 0, 0, 0, false⟩
    e.kind = k ∧ 0 ≤ e.m ∧ ((e.dir = 1 ∨ e.dir = 3) ∧ (0 : Int) < e.theta) ∧ ((e.dir = 2 ∨ e.dir = 3) ∧ e.theta < (9 : Int))) ∧
    LawEntry.hold.dir = 0 := by decide

/-- A law entry: kind, dir, act and next, with a threshold of 5. -/
def lawWords (kind dir act next : Nat) : List Word :=
  [BitVec.ofNat 64 (kind + 4 * dir + 16 * act + 256 * next), BitVec.ofNat 64 (5 * 2 ^ 32), 0, 0]

/-- A STEP region over the first 4096 bytes of page 0, with its law table at 0x800. -/
def stepRegion : Region := ⟨true, 0, 0x800, 0, [0], 0x800, [0], 0, 4096, 0, [0, 0, 0, 0], 0, false, 1, true, none, 0⟩

/-- The box with regions, words at 0x200, and a law 1 of the act given that may switch to law 0; law 2 is OSCILLATE. -/
def boxW (g : List (Fin 32 × Int)) (rs : List (Nat × Region)) (ws : List Word) (act : Nat) : State :=
  (boxM g 0x820 (lawWords 1 1 act 0 ++ lawWords 3 0 0 0)).modPart 1 (fun x => { x with regions := rs }) |>
    fun s => { s with mem := memPutWords s.mem 0x200 ws }

theorem record_off {i : Instr} {s : State} {base : Base} {off : Int} {n acc : Nat} {r w : Bool} {x : Src} {t1 t : Strand} {pa : Nat}
    (hb : takeBase s s.st base = .ok (x, t1)) (h : (hazard i s = false ∧ s.st.vq = [] ∧ s.st.loop.active = false
      ∧ s.storesDue s.st.uid = 0 ∧ s.accs = []) ∧ baseMisuse base = none
      ∧ x.bad = false ∧ accessVa t x.val off % n = 0 ∧ s.locate t (accessVa t x.val off) acc r w false = .ok ⟨pa, false⟩
      ∧ s.pairBusy s.st.cell pa = false ∧ s.remote pa = false ∧ s.flips = [] ∧ s.poison = [] ∧ s.arrays = []) : RecordOff i s base off n acc r w x t1 t pa := record_at hb h

/-- The word evolved that an access at `pa` finds, and a law of the region. -/
def evAt (s : State) (pa : Nat) (c : ErrCtx := s.st.ctx) : Evolved :=
  match s.evolve c stepRegion pa pa with
  | .ok (e, _) => e
  | .error _ => ⟨0, .first, ⟨0, 0, 0, false, 0, false, [], false⟩, 0, 0, 0⟩

def lawAt (s : State) (n : Nat) : LawEntry :=
  match s.lawEntry s.st.ctx stepRegion n with
  | .ok (e, _) => e
  | .error _ => LawEntry.hold

theorem laws_at {s : State} (h0 : s.lawEntry s.st.ctx stepRegion 0 = .ok (lawAt s 0, s))
    (h1 : s.lawEntry s.st.ctx stepRegion 1 = .ok (lawAt s 1, s)) (h2 : s.lawEntry s.st.ctx stepRegion 2 = .ok (lawAt s 2, s))
    (h : ∀ n ∈ [0, 1, 2], ((lawAt s n).osc = decide (n = 2)) ∧ (lawAt s n).bad = false) :
    ∀ n ∈ [0, 1, 2], s.lawEntry s.st.ctx stepRegion n = .ok (lawAt s n, s) ∧ ((lawAt s n).osc = decide (n = 2)) ∧ (lawAt s n).bad = false := by
  intro n hn
  refine ⟨?_, h n hn⟩
  simp only [List.mem_cons, List.not_mem_nil, or_false] at hn
  rcases hn with rfl | rfl | rfl
  exacts [h0, h1, h2]

/-- Words of laws 0, 1 and 2, even and odd, for each act of law 1; a pair's y; an address outside every region. -/
theorem witness_EvolvingWords : (∀ p ∈ ([(0x200, [0, 0], 0), (0x200, [1, 0], 0), (0x200, [1, 0], 1), (0x200, [1, 0], 2), (0x208, [0, 1], 2),
      (0x208, [2, 0], 0)] : List (Int × List Word × Nat)), let s := boxW [(1, p.1), (2, 9), (4, 2)] [(0, stepRegion)] p.2.1 p.2.2
      let x := src p.1 1
      let pa := x.val.toNat
      RecordOff (.swld (.g 3) (.reg (.g 1)) 0) s (.reg (.g 1)) 0 8 3 true true x s.st s.st pa ∧
      RecordOff (.swst (.g 2) (.reg (.g 1)) 0) s (.reg (.g 1)) 0 8 3 false true x s.st s.st pa ∧
      RecordOff (.swadd (.g 3) (.reg (.g 1)) (.reg (.g 2))) s (.reg (.g 1)) 0 8 3 true true x s.st s.st pa ∧
      RecordOff (.swlaw (.g 3) (.reg (.g 1)) (.reg (.g 4))) s (.reg (.g 1)) 0 8 3 true true x s.st s.st pa ∧
      s.locate s.st (accessVa s.st x.val 0) 3 true true false = .ok ⟨pa, false⟩ ∧ s.async = false ∧ s.st.loop.active = false ∧
      (s.part s.st.part).log.window pa = none ∧ takeReg s s.st (.g 2) = .ok (src 9 2, s.st) ∧ misuseRead (.g 2) = none ∧
      takeOp s s.st (.reg (.g 2)) = .ok (src 9 2, s.st) ∧ takeOp s s.st (.reg (.g 4)) = .ok (src 2 4, s.st) ∧
      misuseWrite (.g 3) = none ∧ hasRoom s.st (.g 3) = .ok () ∧ (s.part s.st.part).regionAt pa = some (0, stepRegion) ∧
      (∀ n ∈ [0, 1, 2], s.lawEntry s.st.ctx stepRegion n = .ok (lawAt s n, s) ∧ ((lawAt s n).osc = decide (n = 2)) ∧ (lawAt s n).bad = false) ∧
      accessVa s.st x.val 0 % 2 ^ 64 = pa ∧ s.evolve s.st.ctx stepRegion pa pa = .ok (evAt s pa, s) ∧
      ((evAt s pa).place = .y ↔ p.2.1 = [2, 0]) ∧ (p.2.1 ≠ [0, 0] → p.2.1 ≠ [2, 0] →
        let law := lawAt s 1
        let v := (evAt s pa).v
        v.law = 1 ∧ law.act = p.2.2 ∧ law.short v.x = some true ∧ law.theta ≤ law.clamp (v.x + 9) ∧ v.osc = false ∧ law.next = 0) ∧
      ∃ t', putReg s.st (.g 3) (BitVec.ofInt 64 (evAt s pa).v.x) .raw = .ok t') ∧
    ((box id).part 1).regionAt 0x200 = none ∧
    (∃ s2, putWords (box id) (box id) (box id).st.writer true false 0 [(0x200, 5)] = .ok s2) ∧ (∀ a, (box id).sweepWeight a = 0) ∧
    (let s := boxW [] [] [1] 0
     let law := lawAt s 1
     Quiet s ∧ s.lawEntry s.st.ctx { stepRegion with seen := [3, 3, 3, 3] } 1 = .ok (law, s) ∧ law.bad = false ∧ law.osc = false ∧
      Region.tick s { stepRegion with seen := [3, 3, 3, 3] } 0 = 3 ∧ memRead s.mem 0x200 8 = 1 ∧ law.first 0 0 3 = none) := by
  refine ⟨fun p hp => ?_, rfl, ⟨_, rfl⟩, weight_zero (by decide +kernel), ⟨rfl, rfl, rfl⟩, rfl, by decide +kernel, by decide +kernel,
    by decide +kernel, by decide +kernel, by decide +kernel⟩
  simp only [List.mem_cons, List.not_mem_nil, or_false] at hp
  rcases hp with rfl | rfl | rfl | rfl | rfl | rfl <;>
    exact ⟨record_off rfl (by decide +kernel), record_off rfl (by decide +kernel), record_off rfl (by decide +kernel),
      record_off rfl (by decide +kernel), by decide +kernel, rfl, rfl, rfl, rfl, rfl, rfl, rfl, rfl, rfl, rfl, laws_at rfl rfl rfl (by decide +kernel), by decide +kernel, rfl, by decide +kernel, by decide +kernel, _, rfl⟩

/-- No region, a WALL region, n above 2^22, a step that crosses 2^21 and one that does not, a pass that runs and ends. -/
theorem witness_StepsAndSweeps : (∀ p ∈ ([(5, 0), (1, 1), (0, 2 ^ 22 + 1), (0, 2 ^ 22), (0, 2 ^ 21 - 1), (2, 2 ^ 21), (63, 1), (64, 1)] : List (Int × Int)),
      let s := boxW [(1, p.1), (2, p.2)] [(0, stepRegion), (1, { stepRegion with step := false }), (2, { stepRegion with pass := some 0 })] [1] 0
      HomeReady (.step (.g 3) (.reg (.g 1)) (.reg (.g 2))) s ∧ s.async = false ∧ s.st.loop.active = false ∧ OperandsAB s (.reg (.g 1)) (.reg (.g 2)) (src p.1 1) (src p.2 2) s.st ∧
      misuseWrite (.g 3) = none ∧ hasRoom s.st (.g 3) = .ok () ∧ (∃ t', putReg s.st (.g 3) 0 .raw = .ok t') ∧
      HomeReady (.swsweep (.reg (.g 1))) s ∧ opMisuse (.reg (.g 1)) = none ∧ takeOp s s.st (.reg (.g 1)) = .ok (src p.1 1, s.st) ∧
      (src p.1 1).bad = false ∧ ((s.part 1).region? (src p.1 1).val).isSome = decide (p.1 < 3)) ∧
    (let s := boxW [] [(1, { stepRegion with step := false })] [1] 0
     (s.part 1).region? (BitVec.ofNat 64 1) = some { stepRegion with step := false }) ∧
    (let r := { stepRegion with pass := some 0 }
     let s := boxW [] [(1, r)] [1] 0
     (s.part 1).regions.find? (fun e => e.2.pass.isSome) = some (1, r) ∧ Region.nextWord s r 0 = some 0x200 ∧
      Region.nextWord s r 0x900 = none) ∧
    (let s := boxM [] 0x820 (lawWords 1 1 0 0)
     Quiet s ∧ (∀ a, s.sweepWeight a = 0) ∧
      stepRegion.addrOf 0x200 = 0x200 ∧ stepRegion.wordAddr 0x200 = 0x200 ∧
      s.evolve ErrCtx.engine stepRegion 0x200 0x200 = .ok (evAt s 0x200 ErrCtx.engine, s) ∧
      (∀ w ∈ (evAt s 0x200 ErrCtx.engine).words, Unloaded s w.1 8)) := by
  refine ⟨fun p hp => ?_, by decide +kernel, by decide +kernel, ⟨rfl, rfl, rfl⟩, weight_zero (by decide +kernel), rfl, rfl, rfl,
    fun w _ a _ _ => weight_zero (by decide +kernel) a⟩
  simp only [List.mem_cons, List.not_mem_nil, or_false] at hp
  rcases hp with rfl | rfl | rfl | rfl | rfl | rfl | rfl | rfl <;>
    exact ⟨home_ready (by decide +kernel), rfl, rfl, operands_ab rfl rfl (by decide +kernel), rfl, rfl, ⟨_, rfl⟩, home_ready (by decide +kernel),
      rfl, rfl, rfl, by decide +kernel⟩

/-- A pair whose evolution ends it: its odd word is an ordinary word again. -/
theorem witness_EvolvingWords_ended : let s := boxM [] 0x820 (lawWords 1 1 0 0 ++ lawWords 3 2 2 0)
    let s := { s with mem := memPutWords s.mem 0x200 [BitVec.ofNat 64 (9 * 2 ^ 32 + 2), 0] }
    (match s.evolve s.st.ctx { stepRegion with seen := [3, 3, 3, 3] } 0x208 0x208 with
      | .ok (e, _) => decide (e.place = .odd ∧ e.v.osc = false ∧ e.ylaw = 0)
      | .error _ => false) = true := by decide +kernel

/-- The box with its partition changed and knots written; the knot table starts at 0x1000 of page 0. -/
def boxK (g : List (Fin 32 × Int)) (f : Part → Part) (ks : List (Nat × Knot)) : State :=
  let s := (boxG g).modPart 1 fun x => f { x with desc := x.desc.set 13 0x1000, knotTop := 8 }
  ks.foldl (fun s k => s.putKnot 1 k.1 k.2) s

/-- Knots 0, 1 below 0, 2 below 1; knot 5 has the greatest depth. -/
def someKnots : List (Nat × Knot) := [(0, ⟨0, noParent, 0, true, false, 0, 0⟩), (1, ⟨7, 0, 1, true, false, 0, 0⟩),
  (2, ⟨0, 1, 2, true, false, 0, 0⟩), (5, ⟨0, 0, 16, true, false, 0, 0⟩)]

/-- A knot table of `n` live knots from `a` on: byte 11 of each record is 0x20. -/
def fullTable (a : Nat) : Nat → List Host.Cell
  | 0 => []
  | n + 1 => (a + 11, 0x20) :: fullTable (a + 32) n

theorem get_fullTable (n : Nat) : ∀ a b : Nat, a ≤ b → b < a + 32 * n →
    memGet (fullTable a n) b = if (b - a) % 32 = 11 then 0x20 else 0 := by
  induction n with
  | zero => intro a b h1 h2; omega
  | succ n ih =>
    intro a b h1 h2
    by_cases h : b < a + 32
    · have h3 : (b - a) % 32 = b - a := Nat.mod_eq_of_lt (by omega)
      rw [h3]
      by_cases h4 : a + 11 < b
      · have h5 : memGet (fullTable (a + 32) n) b = unlisted := by
          cases n with
          | zero => rfl
          | succ n => simp only [fullTable, memGet]; rw [if_neg (by omega), if_neg (by omega)]
        rw [fullTable, memGet, if_pos h4, h5, if_neg (by omega)]; rfl
      · by_cases h5 : a + 11 = b
        · rw [fullTable, memGet, if_neg h4, if_pos h5, if_pos (by omega)]
        · rw [fullTable, memGet, if_neg h4, if_neg h5, if_neg (by omega)]; rfl
    · rw [fullTable, memGet, if_pos (by omega), ih (a + 32) b (by omega) (by omega)]
      have h3 : (b - (a + 32)) % 32 = (b - a) % 32 := by omega
      rw [h3]

/-- The box with a knot table of `n` knots, every one live. -/
def boxFull (n : Nat) : State := { boxK [(1, 0)] (fun x => { x with knotTop := n }) [] with mem := fullTable 0x1000 n }

theorem full_knot (n k : Nat) (h : k < n) : (boxFull n).knot 1 k = ⟨0, 0, 0, true, false, 0, 0⟩ := by
  have h1 : (boxFull n).knotAddr 1 k = 0x1000 + 32 * k := rfl
  have h2 : ∀ j, j < 32 → memGet (boxFull n).mem (0x1000 + 32 * k + j) = if j = 11 then 0x20 else 0 := by
    intro j hj
    have h3 : (boxFull n).mem = fullTable 0x1000 n := rfl
    rw [h3, get_fullTable _ _ _ (by omega) (by omega)]
    have h4 : (0x1000 + 32 * k + j - 0x1000) % 32 = j := by omega
    rw [h4]
  have h5 : ∀ m j, j + m ≤ 32 → (j + m ≤ 11 ∨ 12 ≤ j) → memRead (boxFull n).mem (0x1000 + 32 * k + j) m = 0 := by
    intro m
    induction m with
    | zero => intros; rfl
    | succ m ih =>
      intro j hj hk
      have h6 := ih (j + 1) (by omega) (by omega)
      rw [← Nat.add_assoc] at h6
      rw [memRead, h6, h2 j (by omega), if_neg (by omega)]
      rfl
  have h8 : memRead (boxFull n).mem (0x1000 + 32 * k + 8) 8 = 0x20000000 := by
    have h6 := h5 4 12 (by decide) (by decide)
    simp only [memRead, Nat.add_assoc, Nat.reduceAdd] at h2 h6 ⊢
    rw [h2 8 (by decide), h2 9 (by decide), h2 10 (by decide), h2 11 (by decide), h6]
    decide
  have h9 := h5 8 0 (by decide) (by decide)
  have h10 := h5 8 16 (by decide) (by decide)
  have h11 := h5 8 24 (by decide) (by decide)
  rw [Nat.add_zero] at h9
  simp only [State.knot, h1, h8, h9, h10, h11]
  decide

theorem full_free (n : Nat) (h : 2 ^ 24 ≤ n) : (boxFull n).freeKnot 1 = none := by
  have h0 : ((boxFull n).part 1).knotTop = n := rfl
  have h1 : (List.range n).find? (fun k => !(boxFull n).knotLive 1 k) = none := by
    rw [List.find?_eq_none]
    intro k hk
    have h2 : k < n := List.mem_range.mp hk
    simp [State.knotLive, h0, full_knot n k h2, h2]
  simp only [State.freeKnot, h0, h1]
  rw [if_neg (by omega)]

theorem full_ready (n : Nat) : HomeReady (.knew (.g 3) (.reg (.g 1))) (boxFull n) ∧
    takeOp (boxFull n) (boxFull n).st (.reg (.g 1)) = .ok (src 0 1, (boxFull n).st) ∧ hasRoom (boxFull n).st (.g 3) = .ok () :=
  have h : (boxFull n).st = (boxG [(1, 0)]).st := rfl
  have h1 : takeOp (boxFull n) (boxG [(1, 0)]).st (.reg (.g 1)) = .ok (src 0 1, (boxG [(1, 0)]).st) := by
    simp only [takeOp, takeReg]
    decide +kernel
  ⟨home_ready ⟨rfl, rfl, rfl, rfl, rfl⟩, by rw [h]; exact h1, rfl⟩

/-- A knot that is not live, one at the greatest depth, one with room for a child, and a full table. -/
theorem witness_Knots_new : (∀ n ∈ ([3, 5, 0, 2] : List Int), let s := boxK [(1, n)] id someKnots
      let y := src n 1
      HomeReady (.knew (.g 3) (.reg (.g 1))) s ∧ HomeReady (.kread (.g 3) (.reg (.g 1))) s ∧ HomeReady (.ksettle (.g 3) (.reg (.g 1))) s ∧
      HomeReady (.kfree (.reg (.g 1))) s ∧ opMisuse (.reg (.g 1)) = none ∧ takeOp s s.st (.reg (.g 1)) = .ok (y, s.st) ∧ y.bad = false ∧
      misuseWrite (.g 3) = none ∧ hasRoom s.st (.g 3) = .ok () ∧ (∃ t', putReg s.st (.g 3) 0 .raw = .ok t')) ∧
    (let s := boxK [] id someKnots
     s.knotInterior 1 3 = false ∧ s.knotInterior 1 5 = true ∧ 16 ≤ (s.knot 1 5).depth ∧ s.knotInterior 1 0 = true ∧ (s.knot 1 0).depth < 16 ∧
      s.freeKnot 1 = some 3 ∧ s.knotLive 1 2 = true ∧ s.settled 1 2 = true ∧ s.hasChildren 1 0 = true ∧ s.hasChildren 1 2 = false ∧
      s.unitRoom (s.knotDie 1 2) 1 = true ∧ ((boxK [] id someKnots).modDie 0 fun x => { x with rollups := [(1, 2, 1)] }).settled 1 0 = false ∧
      ((boxK [] id someKnots).modDie 0 fun x => { x with rollups := List.replicate 4096 (1, 2, 1) }).unitRoom (s.knotDie 1 2) 1 = false) ∧
    ∃ s : State, HomeReady (.knew (.g 3) (.reg (.g 1))) s ∧ takeOp s s.st (.reg (.g 1)) = .ok (src 0 1, s.st) ∧ hasRoom s.st (.g 3) = .ok () ∧
      s.st.part = 1 ∧ s.knotInterior 1 0 = true ∧ (s.knot 1 0).depth < 16 ∧ s.freeKnot 1 = none := by
  refine ⟨fun n hn => ?_, by decide +kernel, ?_⟩
  · simp only [List.mem_cons, List.not_mem_nil, or_false] at hn
    rcases hn with rfl | rfl | rfl | rfl <;>
      exact ⟨home_ready (by decide +kernel), home_ready (by decide +kernel), home_ready (by decide +kernel), home_ready (by decide +kernel),
        rfl, rfl, rfl, rfl, rfl, _, rfl⟩
  · have h : ∀ n, 0 < n → 2 ^ 24 ≤ n → HomeReady (.knew (.g 3) (.reg (.g 1))) (boxFull n) ∧
        takeOp (boxFull n) (boxFull n).st (.reg (.g 1)) = .ok (src 0 1, (boxFull n).st) ∧ hasRoom (boxFull n).st (.g 3) = .ok () ∧
        (boxFull n).st.part = 1 ∧ (boxFull n).knotInterior 1 0 = true ∧ ((boxFull n).knot 1 0).depth < 16 ∧ (boxFull n).freeKnot 1 = none := by
      intro n h0 h1
      have h2 : ((boxFull n).part 1).knotTop = n := rfl
      refine ⟨(full_ready n).1, (full_ready n).2.1, (full_ready n).2.2, rfl, ?_, ?_, full_free n h1⟩
      · simp [State.knotInterior, State.knotLive, h2, full_knot n 0 h0, h0]
      · simp [full_knot n 0 h0]
    exact ⟨_, h (2 ^ 24) (by decide) (Nat.le_refl _)⟩

/-- Knot 1 moved beneath its child and beneath knot 0; objects misplaced, overlapping, and new; an increment held. -/
theorem witness_Knots_move : (∀ n ∈ ([2, 0] : List Int), let s := boxK [(1, 1), (2, n)] id someKnots
      HomeReady (.kmove (.reg (.g 1)) (.reg (.g 2))) s ∧ OperandsAB s (.reg (.g 1)) (.reg (.g 2)) (src 1 1) (src n 2) s.st) ∧
    (let s := boxK [] id someKnots
     let sub := (List.range (s.part 1).knotTop).filter fun k => s.knotLive 1 k && s.beneath 1 1 k
     s.knotLive 1 1 = true ∧ s.knotInterior 1 2 = true ∧ s.knotInterior 1 0 = true ∧ 2 ∈ sub ∧ 0 ∉ sub ∧
      (∀ k ∈ sub, (s.knot 1 k).depth - (s.knot 1 1).depth + ((s.knot 1 2).depth + 1) ≤ 16)) ∧
    (∀ p ∈ ([(0x1001, 0x1000), (0x1000, 0), (0x1000, 1), (0x1000, 0x1000), (0x2000, 0xF000)] : List (Int × Int)),
      let s := boxK [(1, p.1), (2, p.2), (3, 0)] (fun x => { x with objects := [⟨2, 0, 0x1000, 0x1000, [(0x1000, 0x1000)]⟩] }) someKnots
      let i := Instr.kenrol (.g 3) (.reg (.g 1)) (.reg (.g 2))
      HomeReady i s ∧ baseMisuse (.reg (.g 1)) = none ∧ opMisuse (.reg (.g 2)) = none ∧ misuseRead (.g 3) = none ∧ misuseWrite (.g 3) = none ∧
      takeBase s s.st (.reg (.g 1)) = .ok (src p.1 1, s.st) ∧ takeOp s s.st (.reg (.g 2)) = .ok (src p.2 2, s.st) ∧
      takeReg s s.st (.g 3) = .ok (src 0 3, s.st) ∧ hasRoom s.st (.g 3) = .ok () ∧ s.knotInterior 1 0 = true ∧ (s.knot 1 0).depth < 16 ∧
      s.freeKnot 1 = some 3 ∧ s.unitRoom (s.knotDie 1 3) 1 = true ∧ ∃ t', putReg s.st (.g 3) 3 .raw = .ok t') ∧
    (let l := [(⟨2, 0, 0x1000, 0x1000, [(0x1000, 0x1000)]⟩ : Watched)]
     let s := boxK [] (fun x => { x with objects := l }) someKnots
     objectPieces s s.st (accessVa s.st 0x1000 0) 0x1000 2 = .ok ([(0x1000, 0x1000)], s) ∧ l.any (fun o => o.touched 0x1000 0x1000) = true ∧
      objectPieces s s.st (accessVa s.st 0x2000 0) 0xE000 2 = .ok ([(0x2000, 0xE000)], s) ∧ l.any (fun o => o.touched 0x2000 0xE000) = false) ∧
    (let s (d : Nat) := (boxK [] id someKnots).modDie d fun x => { x with rollups := [(1, 1, 2)] }
     let holds (s : State) (d : Nat) := (s.die d).rollups.find? fun e => e.1 == 1 && e.2.1 == 1
     let w : Writer := ⟨1, ErrCtx.engine, 0, 0⟩
     ((s 0).part w.part).bumps.contains (2, w.who, w.num) = false ∧ (s 0).knotDie 1 1 = 0 ∧ holds (s 0) 0 = some (1, 1, 2) ∧
      (∀ d, d < 4 → d ≠ 0 → holds (s 0) d = none) ∧ (s 3).knotDie 1 1 = 0 ∧ holds (s 3) 3 = some (1, 1, 2) ∧
      ∀ d, d < 3 → d ≠ 0 → holds (s 3) d = none) := by
  refine ⟨fun n hn => ?_, by decide +kernel, fun p hp => ?_, by decide +kernel, by decide +kernel⟩
  · simp only [List.mem_cons, List.not_mem_nil, or_false] at hn
    rcases hn with rfl | rfl <;> exact ⟨home_ready (by decide +kernel), operands_ab rfl rfl (by decide +kernel)⟩
  · simp only [List.mem_cons, List.not_mem_nil, or_false] at hp
    rcases hp with rfl | rfl | rfl | rfl | rfl <;>
      exact ⟨home_ready (by decide +kernel), rfl, rfl, rfl, rfl, rfl, rfl, rfl, rfl, by decide +kernel, by decide +kernel, by decide +kernel,
        by decide +kernel, _, rfl⟩

/-- The box in population 3, whose sole member it is, with weight register g6. -/
def boxP (g : List (Fin 32 × Int)) (w : Option Word) (slots : Nat) : State :=
  (({ boxG g with st := { (boxG g).st with popId := 3, status := if w.isSome then .blocked (.collective 3) else .ready } } : State).modPart 1
    fun x => { x with pops := [(3, ⟨0, 0, 1, [⟨5, 4, w, 6⟩], false⟩)] }).modPart 1 fun x => x.modLaunch 1 fun y => { y with
      eff := { y.eff with slots := slots } }

/-- A number out of range, a rank out of range, a strand in a population, a new population and one whose members wait or
whose lineage is held; leaving outside and inside; `resample`. -/
theorem witness_Populations_members : (∀ j ∈ ([256, 255, 3] : List Int), let s := boxG [(1, j), (3, 2)]
      HomeReady (.pjoin (.reg (.g 1)) (.g 6)) s ∧ opMisuse (.reg (.g 1)) = none ∧ takeOp s s.st (.reg (.g 1)) = .ok (src j 1, s.st) ∧
      (src j 1).bad = false ∧ s.st.act = false ∧ s.st.rank.toNat < 2 ^ 24 ∧ s.st.popId = noPop ∧ HomeReady .pleave s ∧ (s.part 1).pop? j.toNat = none ∧
      HomeReady (.resample (.g 3) (.g 4)) s ∧ takeReg s s.st (.g 3) = .ok (src 2 3, s.st) ∧ (s.part 1).pop? s.st.popId.toNat = none) ∧
    (0 < (SReg.g 6).num ∧ (SReg.g 6).num < 32) ∧ (let s := boxG []; (s.seedOf s.st = 0 ∧ s.st.launch = 1)) ∧
    (box fun t => { t with rank := 0x1000000 }).st.rank.toNat = 2 ^ 24 ∧
    (∀ q ∈ [(⟨0, 0, 2, [], false⟩ : Pop), ⟨0, 0, 1, [⟨7, 4, some 1, 6⟩], false⟩, ⟨0, 0, 1, [⟨5, 4, none, 6⟩], false⟩],
      let s := (boxG [(1, 3)]).modPart 1 fun x => { x with pops := [(3, q)] }
      (s.part 1).pop? 3 = some q ∧ s.st.popId = noPop ∧ (q.busy = true ↔ q.members = [⟨7, 4, some 1, 6⟩])) ∧
    (let s := box fun t => { t with lin := lineage 0 0 0xFFFFFF }
     s.st.rank = 0 ∧ s.strand? 5 = some s.st ∧ s.st.lin = lineage 0 s.st.rank.toNat 0xFFFFFF) ∧
    (let s := boxP [(1, 7), (3, 2)] none 1
     HomeReady (.pjoin (.reg (.g 1)) (.g 6)) s ∧ takeOp s s.st (.reg (.g 1)) = .ok (src 7 1, s.st) ∧ s.st.act = false ∧ s.st.popId ≠ noPop ∧
      HomeReady .pleave s ∧ HomeReady (.resample (.g 3) (.g 4)) s ∧ misuseRead (.g 3) = none ∧ misuseWrite (.g 4) = none ∧
      takeReg s s.st (.g 3) = .ok (src 2 3, s.st) ∧ (s.part 1).pop? 3 = some ⟨0, 0, 1, [⟨5, 4, none, 6⟩], false⟩ ∧
      s.st.popId.toNat = 3 ∧ s.st.uid = 5 ∧ s.st.gpois.getLsbD 6 = false) := by
  refine ⟨fun j hj => ?_, by decide, by decide +kernel, rfl, by decide +kernel, ⟨rfl, rfl, rfl⟩, home_ready (by decide +kernel), rfl, rfl, by decide +kernel, home_ready (by decide +kernel),
    home_ready (by decide +kernel), rfl, rfl, rfl, rfl, rfl, rfl, rfl⟩
  simp only [List.mem_cons, List.not_mem_nil, or_false] at hj
  rcases hj with rfl | rfl | rfl <;>
    exact ⟨home_ready (by decide +kernel), rfl, rfl, rfl, rfl, by decide, rfl, home_ready (by decide +kernel), rfl, home_ready (by decide +kernel), rfl, rfl⟩

/-- Requests of 0 and 2^24 copies, weights that sum to 0, a budget with room and without; a clone with a free slot. -/
theorem witness_Populations_collective : (∀ p ∈ ([(0, 0x3F800000, 1), (2 ^ 24, 0x3F800000, 1), (1, 0, 1), (2, 0x3F800000, 2), (2, 0x3F800000, 1)] :
      List (Nat × Int × Nat)), let s := boxP [(6, p.2.1)] (some (BitVec.ofNat 64 p.1)) p.2.2
      let pop : Pop := ⟨0, 0, 1, [⟨5, 4, some (BitVec.ofNat 64 p.1), 6⟩], false⟩
      let pairs : List Pair := [(⟨5, 4, some (BitVec.ofNat 64 p.1), 6⟩, s.st)]
      (s.part 1).pop? 3 = some pop ∧ pop.fixed = false ∧ (∀ m ∈ pop.members, m.waiting.isSome = true) ∧ s.strand? 5 = some s.st ∧
      (∀ x ∈ pairs, Pair.fault s x = none) ∧ ((pairs.map Pair.units).sum = 0 ↔ p.2.1 = 0) ∧
      (s.strands.filter fun t => (t.part == 1 && t.launch == 1) && !t.act && t.status != .free).length = 1 ∧
      (s.part 1).clones = [] ∧ ∃ y, (s.part 1).launch? 1 = some y ∧ y.eff.slots = p.2.2) ∧
    (let s := (boxG []).modPart 1 fun x => { x with clones := [⟨3, 1, 6, { Strand.empty with launch := 1 }, false⟩] }
     (s.part 1).clones.find? (fun c => !c.waiting) = some ⟨3, 1, 6, { Strand.empty with launch := 1 }, false⟩ ∧
      (∃ l, (s.part 1).launch? 1 = some l ∧
        (cloneOrder l.cellSet 0).findSome? (fun k => (s.freeSlot k).map fun i => (k, i)) = some (0, 1))) := by
  refine ⟨fun p hp => ?_, rfl, _, rfl, by decide +kernel⟩
  simp only [List.mem_cons, List.not_mem_nil, or_false] at hp
  rcases hp with rfl | rfl | rfl | rfl | rfl <;>
    exact ⟨rfl, rfl, by decide +kernel, rfl, by decide +kernel, by decide +kernel, by decide +kernel, rfl, _, rfl, rfl⟩

/-- A cell with no free slot, a clone that waits for one, and a free slot for it. -/
theorem witness_Populations_clones : let c : Clone := ⟨3, 1, 6, { Strand.empty with launch := 1 }, false⟩
    let full := { boxG [] with parked := (List.range 7).map fun i => { (boxG []).st with uid := 10 + i, slot := i + 1 } }.modPart 1 fun x =>
      { x with clones := [c] }
    let some1 := (boxG []).modPart 1 fun x => { x with clones := [{ c with waiting := true }] }
    (full.part 1).clones.find? (fun c => !c.waiting) = some c ∧ full.freeSlot 0 = none ∧
    (∃ l, (full.part 1).launch? 1 = some l ∧ ∀ k ∈ cloneOrder l.cellSet 0, full.freeSlot k = none) ∧
    (∀ c ∈ (some1.part 1).clones, c.waiting = true) ∧
    (some1.part 1).clones.findSome? (fun c => (some1.freeSlot c.image.cell).map fun i => (c, i)) = some ({ c with waiting := true }, 1) :=
  ⟨rfl, by decide +kernel, ⟨_, rfl, by decide +kernel⟩, by decide +kernel, by decide +kernel⟩

/-! ### Engine commands -/

/-- A command of the box's strand with its descriptor at 0x1000. -/
def cmdOf (kind : Nat) (v : CpyVar) (desc : List Word) (stage : Nat) : EngCmd :=
  { newCmd 7 kind v (box id).st desc 0x1000 0 with stage := stage }

/-- Descriptors of each command in form: a copy of 64 bytes, one to slices, a group unpacked, a gather, a route. -/
def copyDesc : List Word := [0x2000, 0x3000, 64, 0, 0, 0, 0, 0]
def codedDesc : List Word := [0x2000, 0x3000, 64, 0, 0x4000, 64, 0, 0]
def sliceDesc : List Word := [0x2000, BitVec.ofNat 64 (64 * 2 ^ 22), 64, 0, 0, 0, 0, 0]
def groupDesc : List Word := [0x2000, BitVec.ofNat 64 (33 * 2 * 2 ^ 22), 8512, 0, 0x6000, 0, 0, 0]
def gatherDesc : List Word := [0x2000, 0x3000, BitVec.ofNat 64 (1 + 2 ^ 32), 0x4000, 0, 0, 0, 0]
def routeDesc : List Word := [0x2000, 1, BitVec.ofNat 64 (1 + 2 ^ 32), 0x3000, 0x4000, 0x5000, 0, 0]

/-- The box with commands, and page 0 known to the die's service or not. -/
def boxC (cs : List EngCmd) (known : Bool) : State :=
  { ((box id).modDie 0 fun d => { d with tlb := if known then [⟨0, 0, 16, 0, true, true, false, false⟩] else [] }) with cmds := cs }

/-- Descriptors in form and malformed; a queue with room and a full one; a command that its engine takes next. -/
theorem witness_EngineCommands_issue : (∀ p ∈ ([(.cpy .plain (.reg (.g 1)), copyDesc), (.cpyb .plain (.reg (.g 1)), sliceDesc), (.gath (.reg (.g 1)), gatherDesc),
      (.route (.reg (.g 1)), routeDesc), (.cpy .plain (.reg (.g 1)), [0]), (.cpyb .plain (.reg (.g 1)), [0]), (.gath (.reg (.g 1)), [0]),
      (.route (.reg (.g 1)), [0])] : List (Instr × List Word)), let s := boxM [(1, 0x1000)] 0x1000 p.2
      RecordAt p.1 s (.reg (.g 1)) 64 0 true false (src 0x1000 1) s.st s.st 0x1000 ∧ s.queued 5 true = 0 ∧ s.queued 5 false = 0) ∧
    (copyBad false .plain copyDesc = false ∧ copyBad true .plain sliceDesc = false ∧ gatherBad gatherDesc = false ∧ routeBad routeDesc = false ∧
      copyBad false .plain [0] = true ∧ copyBad true .plain [0] = true ∧ gatherBad [0] = true ∧ routeBad [0] = true) ∧
    (let s := boxM [(1, 0x1000)] 0x1000 gatherDesc
     s.tlbFind 0 0 (s.st.dataVa 0x3000) = some ⟨0, 0, 16, 0, true, true, true, false⟩ ∧ placeOf 0x3000 = .hbm 0 ∧ placeOf 0x100000000000 = .sram 0) ∧
    8 ≤ (boxC (List.replicate 8 (cmdOf 1 .plain copyDesc 0)) true).queued 5 true ∧
    4 ≤ (boxC (List.replicate 4 (cmdOf 4 .plain routeDesc 0)) true).queued 5 false ∧
    (boxC [cmdOf 1 .plain copyDesc 0] true).nextAccept 5 = some (cmdOf 1 .plain copyDesc 0) := by
  refine ⟨fun p hp => ?_, by decide +kernel, by decide +kernel, by decide +kernel, by decide +kernel, by decide +kernel⟩
  simp only [List.mem_cons, List.not_mem_nil, or_false] at hp
  rcases hp with rfl | rfl | rfl | rfl | rfl | rfl | rfl | rfl <;> exact ⟨record_at rfl (by decide +kernel), rfl, rfl⟩

/-- The head command of each engine, stalled and not; a write due with its page translated, without, and denied; a read due;
neither. -/
theorem witness_EngineCommands_heads : ∀ p ∈ ([(0, cmdOf 1 .plain copyDesc 1), (0, cmdOf 1 .enc codedDesc 1), (0, cmdOf 1 .dec codedDesc 1),
      (0, cmdOf 2 .q4g groupDesc 1), (1, cmdOf 3 .plain gatherDesc 1), (2, cmdOf 4 .plain routeDesc 1)] : List (Nat × EngCmd)),
    let s := boxC [p.2] true
    let q := boxC [p.2] false
    let d := (boxC [p.2] true).modDie 0 fun d => { d with tlb := [⟨0, 0, 16, 0, false, false, false, false⟩] }
    let wr : EngCmd := { p.2 with out := [⟨false, 0x3000, [1, 2, 3, 4, 5, 6, 7, 8]⟩] }
    let st : EngCmd := { p.2 with out := [⟨true, 0x3000, [1]⟩] }
    let rd : EngCmd := { p.2 with rdAt := 0x2000, rdLeft := 20 }
    s.engineQueue p.1 0 = [p.2] ∧ p.2.walk = none ∧ p.2.out = [] ∧ p.2.rdLeft = 0 ∧ Quiet s ∧
    (boxC [{ p.2 with walk := some (9, 0x2000) }] true).engineQueue p.1 0 = [{ p.2 with walk := some (9, 0x2000) }] ∧
    s.engineLoc wr.ctx 0x3000 false true = .ok ⟨0x3000, false⟩ ∧
    s.writeOk wr.ctx.w false 0x3000 8 (takeBytes [1, 2, 3, 4, 5, 6, 7, 8] 8).1 0x3000 = .ok () ∧
    s.writeOk st.ctx.w false 0x3000 1 (takeBytes [1] 1).1 0x3000 = .ok () ∧
    s.engineLoc rd.ctx rd.rdAt true false = .ok ⟨0x2000, false⟩ ∧
    q.engineLoc wr.ctx 0x3000 false true = .error (.miss 0x3000 1) ∧ q.engineLoc rd.ctx 0x2000 true false = .error (.miss 0x2000 0) ∧
    d.engineLoc wr.ctx 0x3000 false true = .error (.trap 0x0303 0x3000) ∧ d.engineLoc rd.ctx 0x2000 true false = .error (.trap 0x0303 0x2000) := by
  intro p hp
  simp only [List.mem_cons, List.not_mem_nil, or_false] at hp
  rcases hp with rfl | rfl | rfl | rfl | rfl | rfl <;>
    exact ⟨rfl, rfl, rfl, rfl, ⟨rfl, rfl, rfl⟩, rfl, by decide +kernel, by decide +kernel, by decide +kernel, by decide +kernel,
      by decide +kernel, by decide +kernel, by decide +kernel, by decide +kernel⟩

/-- A unit of roll-up increments that is full holds a write to a watched page back. -/
theorem witness_EngineCommands_full : let s := (boxC [cmdOf 1 .plain copyDesc 1] true).modPart 1 fun x => { x with
      objects := [⟨2, 0, 0x3000, 0x1000, [(0x3000, 0x1000)]⟩] }
    let s := s.modDie 0 fun d => { d with rollups := List.replicate 4096 (1, 2, 1) }
    s.writeOk (cmdOf 1 .plain copyDesc 1).ctx.w true 0x3000 8 0 0x3000 = .error (.wait .issue) := by decide +kernel

/-- A copy of 64 bytes between two places of page 0; a gather of a row in range; ids of experts; two codes of one bit. -/
theorem witness_CopiesAndCodes : (let c := cmdOf 1 .plain copyDesc 1
     let s := boxC [c] true
     c.kind = 1 ∧ c.var = .plain ∧ (c.walk = none ∧ c.phase = 0 ∧ c.pos = 0 ∧ c.rdLeft = 0 ∧ c.out = [] ∧ c.w2 = 0 ∧ c.w3 = 0 ∧ c.status = 0) ∧
      Quiet s ∧ memWf s.mem = true ∧ s.async = false ∧ s.engineQueue 0 0 = [c] ∧ Unloaded s 0x3000 64 ∧ c.src = 0x2000 ∧
      wordAt c.desc 1 = 0x3000 ∧ bitsOf (wordAt c.desc 2) 47 0 = 64 ∧
      ∀ j, j < 64 → s.engineLoc c.ctx (0x2000 + j) true false = .ok ⟨0x2000 + j, false⟩ ∧
        s.engineLoc c.ctx (0x3000 + j) false true = .ok ⟨0x3000 + j, false⟩) ∧
    (let c := cmdOf 3 .plain gatherDesc 1
     let s := boxC [c] true
     c.kind = 3 ∧ c.src = 0x2000 ∧ s.engineQueue 1 0 = [c] ∧ bitsOf (wordAt c.desc 2) 23 0 = 1 ∧ bitsOf (wordAt c.desc 2) 63 32 = 1 ∧
      memRead s.mem 0x2000 4 = 0 ∧ (∀ j, j < 4 → s.engineLoc c.ctx (0x2000 + j) true false = .ok ⟨0x2000 + j, false⟩) ∧
      (∀ j, j < 64 → s.engineLoc c.ctx (wordAt c.desc 1 + j) true false = .ok ⟨0x3000 + j, false⟩) ∧
      (∀ j, j < 64 → s.engineLoc c.ctx (wordAt c.desc 3 + j) false true = .ok ⟨0x4000 + j, false⟩) ∧ Unloaded s 0x4000 64) ∧
    accepted [1, 0, 1, 1] 1 2 = [0, 2] ∧ dropped [1, 0, 1, 1] 2 2 = [3] ∧
    (let cs : List HCode := [⟨0x41, 1, 0⟩, ⟨0x42, 1, 1⟩]
     cs.Pairwise (fun a b => (codeBits a).isPrefixOf (codeBits b) = false ∧ (codeBits b).isPrefixOf (codeBits a) = false) ∧
      encodeBlock cs [0x41, 0x42] = some [false, true]) :=
  ⟨⟨rfl, rfl, by decide +kernel, ⟨rfl, rfl, rfl⟩, by decide +kernel, rfl, rfl, (noWatch_of (by decide +kernel)).1, by decide +kernel,
    by decide +kernel, by decide +kernel, by decide +kernel⟩, ⟨rfl, by decide +kernel, rfl, by decide +kernel, by decide +kernel,
    by decide +kernel, by decide +kernel, by decide +kernel, by decide +kernel, (noWatch_of (by decide +kernel)).1⟩, by decide +kernel,
    by decide +kernel, by decide +kernel⟩

/-- A barrier to be credited, a malformed one; a completion for q15 with room, for a full q15, for an ended strand, and one
that is not asked for. -/
theorem witness_EngineCompletions : (∀ w ∈ ([[0, 64], [0, 1], [2 ^ 33, 0]] : List (List Word)),
      let c := cmdOf 1 .plain [0x2000, 0x3000, 64, 0x300, 0, 0, 0, 0] 2
      let s0 := boxC [c] true
      let s : State := { s0 with mem := memPutWords s0.mem 0x300 w }
      s.cmds.find? (fun c => c.num == 7 && c.stage == 2 && c.walk.isNone) = some c ∧
      s.engineLoc c.ctx c.bar false true = .ok ⟨0x300, false⟩ ∧
      (s.flips = [] ∧ s.poison = [] ∧ s.arrays = []) ∧ s.waitersAt c.part 0x300 = [] ∧
      (barrierParts (memRead s.mem 0x300 16)).isSome = decide (w ≠ [2 ^ 33, 0])) ∧
    (∀ w2 ∈ ([64, 2 ^ 48 + 64] : List Word), let c := cmdOf 1 .plain [0x2000, 0x3000, w2, 0, 0, 0, 0, 0] 3
      let s := boxC [c] true
      s.cmds.find? (fun c => c.num == 7 && c.stage == 3) = some c ∧ c.task = none ∧ c.noEntry = decide (w2 ≠ 64) ∧ s.strand? c.uid = some s.st ∧
      s.sidings.find? (fun d => d.uid == c.uid && d.cell == c.cell) = none ∧ s.q15Room s.st = true ∧
      (State.q15Room { s with st := { s.st with q15 := List.replicate 16 ⟨0, []⟩ } } { s.st with q15 := List.replicate 16 ⟨0, []⟩ }) = false ∧
      s.strand? 4 = none) := by
  refine ⟨fun w hw => ?_, fun w hw => ?_⟩ <;> simp only [List.mem_cons, List.not_mem_nil, or_false] at hw
  · rcases hw with rfl | rfl | rfl <;> decide +kernel
  · rcases hw with rfl | rfl <;> exact ⟨by decide +kernel, rfl, by decide +kernel, rfl, by decide +kernel, by decide +kernel, by decide +kernel, by decide +kernel⟩

/-! ### Events -/

/-- The box with room for another strand in its budget and its constant bank on cell 0. -/
def boxN : State := (boxB 2 []).modCell 0 fun c => { c with cbank := [(2 ^ 32 + 1, [])] }

/-- A message from cell 0 to itself. -/
def msgOf (kind : MsgKind) (entry : BitVec 40) (launch : Nat) (coord : Word) : Msg := ⟨7, 7, kind, 0, 0, 0, 1, launch, entry, 3, coord, [1], none⟩

/-- The box with a second strand in slot 1 of its cell. -/
def boxO (f : Strand → Strand) : State := { boxN with parked := [f { boxN.st with uid := 6, slot := 1 }] }

theorem witness_MessageEvents : (let s := boxN.modCell 0 fun c => { c with outbox := [⟨msgOf .normal 0x100 1 0, [0, 16]⟩] }
     (s.cell 0).outbox = ⟨msgOf .normal 0x100 1 0, [0, 16]⟩ :: [] ∧ [0, 16].find? (fun d => decide (s.boxed d < 64)) = some 0) ∧
    (∀ m ∈ [msgOf .normal 0x100 1 0, msgOf .spawn 0x100 1 0, msgOf .normal 0x100 9 0], let s := { boxN with flight := [m] }
      s.flight.find? (fun y => y.id == 7) = some m ∧ (∀ y ∈ s.flight, y.src = m.src → y.dst = m.dst → 7 ≤ y.id) ∧ m.host = none ∧ s.behind m = false ∧
      deviceOf m.dst = s.boot.device.toNat ∧ ((s.part m.part).launch? m.launch).isSome = decide (m.launch = 1) ∧ (m.entry ≠ 0 ∨ m.kind ≠ .normal) ∧ (s.cell m.dst).inbox.length < 64) ∧
    (∀ m ∈ [msgOf .normal 0x100 1 0, msgOf .spawn 0x100 1 0], let s := boxN.modCell 0 fun c => { c with inbox := [m] }
      s.firstEligible 0 [] (s.cell 0).inbox = some m ∧ s.freeSlot 0 = some 1 ∧ ((s.part m.part).launch? m.launch).isSome = true ∧
      Tab.has (s.cell 0).cbank (m.part * 2 ^ 32 + 1) = true ∧ (s.part m.part).dbg.attach = false) ∧
    (∀ m ∈ [msgOf .normal 0 1 0, msgOf .normal 0 1 5], let s := boxN.modCell 0 fun c => { c with inbox := [m] }
      (s.cell 0).inbox.find? (s.deliverable 0) = some m ∧ s.rankOn m.part m.launch 0 m.rank = (if m.coord = 0 then some s.st else none) ∧
      (s.part m.part).dbg.recording = false ∧ (s.part m.part).dbg.replaying = false ∧ s.sidingFor m.part m.launch 0 m.rank = none) ∧
    (let m := msgOf .normal 0 1 5
     let g : Siding := ⟨4, 6, 0, []⟩
     let s : State := { boxN with flight := [m], sidings := [g], parked := [{ boxN.st with uid := 6, cell := 3, slot := 1, rank := 5 }] }
     s.flight.find? (fun y => y.id == 7) = some m ∧ s.behind m = false ∧ s.rankOn m.part m.launch m.dst m.rank = none ∧
      s.sidingFor m.part m.launch m.dst m.rank = some g ∧ ((s.part m.part).launch? m.launch).isSome = true) ∧
    (let m : Msg := { msgOf .normal 0x100 1 0 with dst := 16 }
     let early : Msg := { m with id := 6 }
     let x : Access := ⟨5, 5, 0, 0x100, boxN.st.checkpoint, .st .s64 (.g 3) (.reg (.g 1)) 0, 0, 0x100000400000, 0, 0, false, 0, 0, 0,
       false, 0, 0, none, false, none, none⟩
     (∃ y ∈ [early, m], y.src = m.src ∧ y.dst = m.dst ∧ y.id < m.id) ∧
      m.src ≠ m.dst ∧ x.done = false ∧ x.cell = m.src ∧ homeCell x.pa = some m.dst ∧ x.id < m.sent) := by decide +kernel

/-- A start due, a context on its way, a siding with an item, every blocked status, and a `tlbinv` under way. -/
theorem witness_StrandEvents : (let s := boxN.modCell 0 fun c => { c with toStart := [(1, 3)] }
     s.clusterOwner (clusterOf 0) = some 1 ∧ s.freeSlot 0 = some 1 ∧ (s.cell 0).toStart.find? (fun e => match (s.part 1).launch? e.1 with
        | some l => (s.part 1).runs l
        | none => false) = some (1, 3) ∧ Tab.has (s.cell 0).cbank (1 * 2 ^ 32 + 1) = true) ∧
    (let s := boxO fun t => { t with status := .moving }
     s.parked.find? (fun t => t.uid == 6 && t.status == .moving) = s.parked.head? ∧ s.parked ≠ [] ∧ s.freeSlot 0 = some 1 ∧ Tab.has (s.cell 0).cbank (2 ^ 32 + 1) = true) ∧
    (let s := { boxN with sidings := [⟨7, 5, 0, [(none, [1]), (none, [2])]⟩] }
     s.sidings.find? (fun d => d.id == 7) = some ⟨7, 5, 0, [(none, [1]), (none, [2])]⟩ ∧ s.strand? 5 = some s.st ∧ s.st.inSlot = true ∧ s.q15Room s.st = true) ∧
    (∀ w ∈ [Wait.served, .issue, .walk 3 0x500, .sleep none, .sleep (some 0), .sysc 0, .sysc 1, .sysc 2, .sysc 7],
      let s := box fun t => { t with status := .blocked w, q15 := if w = .sleep none then [⟨0, [1]⟩] else [] }
      s.strand? 5 = some s.st ∧ s.st.stepping = false ∧ s.st.status = .blocked w ∧ (∀ w ∈ s.walks, w.id ≠ 3) ∧
      (w = .sleep none → s.st.q15 ≠ []) ∧ (w = .sleep (some 0) → 0 ≤ s.now ∧ s.st.q15 = []) ∧ (s.part s.st.part).resetting = none) ∧
    (let s := { boxN with invs := [⟨7, some 5, 1, 0, 0, 1⟩] }
     s.invs.find? (fun v => v.id == 7) = some ⟨7, some 5, 1, 0, 0, 1⟩ ∧ (s.strand? 5).isSome = true) := by
  refine ⟨by decide +kernel, ⟨by decide +kernel, by decide, by decide +kernel⟩, ⟨by decide +kernel, rfl, by decide +kernel, by decide +kernel⟩,
    fun w hw => ?_, by decide +kernel⟩
  simp only [List.mem_cons, List.not_mem_nil, or_false] at hw
  rcases hw with rfl | rfl | rfl | rfl | rfl | rfl | rfl | rfl | rfl <;>
    exact ⟨rfl, rfl, rfl, by decide, by decide, by decide +kernel, rfl⟩

/-- An access of the box's strand under way. -/
def accOf (i : Instr) (done : Bool) (fault : Option (Nat × Nat)) : Access :=
  { accNow i done with va := 0x500, pa := 0x500, d := 9, res := 3, fault := fault }

/-- A walk for page 5 of the box's strand. -/
def walkOf (miss : Bool) (rec : Option Nat) : Walk := ⟨7, 0, 1, 0, 5, 0x50000, 0, false, 0, 0, miss, rec, none⟩

/-- The box with tables for its address space: the root at 0x20000, and one leaf of 2^44 bytes below it. -/
def boxT2 : State := { box id with
  asids := [(0, 0x20003)], mem := memPutWords (memPutWords (box id).mem 0x20000 [0x40001]) 0x40000 [0xF] }

/-- A load and a store to be performed, a load's reply and a fault's; walks with a leaf and without; a miss to post; a
pending record answered. -/
theorem witness_AccessEvents : (∀ i ∈ [Instr.ld .s32 (.g 3) (.reg (.g 1)) 0, .st .s32 (.g 3) (.reg (.g 1)) 0],
      let s := { box id with accs := [accOf i false none] }
      s.accs.find? (fun x => x.id == 7) = some (accOf i false none) ∧ s.strand? 5 = some s.st ∧ s.canPerform (accOf i false none) s.st = true ∧
      (∀ y ∈ s.accs, y.id = 7 → y = accOf i false none) ∧ (s.flips = [] ∧ s.poison = [] ∧ s.arrays = []) ∧ s.overAt 0x500 4 9 0x500 = none ∧
      (s.part 1).watches 0x500 4 = false) ∧

    (∀ f ∈ [none, some (0x0605, 0x500)], let x := accOf (.ld .s32 (.g 3) (.reg (.g 1)) 0) true f
      let s := { box id with accs := [x] }
      s.accs.find? (fun x => x.id == 7 && x.done) = some x ∧ s.strand? 5 = some s.st ∧ s.replyHeld x = false ∧ s.st.uid = x.uid ∧ x.poison = false ∧ x.rstat = none ∧
      s.st.takesLate x = true ∧ (Strand.takesLate { s.st with status := .blocked .served } x) = false ∧
      (putReg s.st (.g 3) x.res .s32).toOption.isSome = true) ∧
    (∀ b ∈ [box id, boxT2], let s : State := { b with walks := [walkOf false none] }
      s.walks.find? (fun w => w.id == 7 && !w.miss) = some (walkOf false none) ∧ (s.walking 0).any (fun x => x.id == 7) = true) ∧
    ((box id).walk 0 0x50000).2 = none ∧ (boxT2.walk 0 0x50000).2 = some ⟨0, 0, 44, 0, true, true, false, false⟩ ∧
    (let s : State := { box id with walks := [walkOf true none] }
     s.walks.find? (fun w => w.id == 7) = some (walkOf true none) ∧ s.canPost (walkOf true none) = true ∧ s.flips = [] ∧ s.poison = [] ∧ s.arrays = []) ∧
    (let s : State := { box (fun t => { t with status := .blocked (.walk 7 0x50000) }) with walks := [walkOf true (some 3)] }
     let q : State := { s with mem := memWrite s.mem (s.recordAddr 1 3 + 24) 8 3 }
     s.recordWalk 1 3 = some (walkOf true (some 3)) ∧ (s.flips = [] ∧ s.poison = [] ∧ s.arrays = []) ∧ (walkOf true (some 3)).ans = none ∧ q.denyWaits 7 = false ∧
      s.strands.filter (fun t => (t.stall 7).isSome) = [s.st] ∧ s.st.stall 7 = some (none, 0x50000) ∧ q.taskStalls (walkOf true (some 3)) = [] ∧
      State.denyWaits { s with st := { s.st with vq := [newEntry s (.vadd .s32 Keys.dflt 1 2 (.lit 1)) 0x100 0x104 false] } } 7 = true) := by
  decide +kernel

/-- An entry of the sequencer that executes, and one whose source has another tag. -/
def seqBox (tag : Fmt) : State :=
  let s := box fun t => { t with vtag := t.vtag.set 2 tag }
  { s with st := { s.st with vq := [newEntry s (.vadd .s32 Keys.dflt 1 2 (.lit 1)) s.st.pc s.st.npc false] } }

/-- The oldest entry executes (or, if not asked to, takes a fault). -/
def entryEnds (s : State) (runs : Bool) : Bool :=
  match s.st.vq with
  | [e] => (match runEntry s e with
    | .ok s1 => runs && s1.st.vq == [e] && !s1.st.stepping && s1.st.undo.isNone && s1.accs.isEmpty
    | .error (.trap _ _) => !runs
    | .error _ => false)
  | _ => false

/-- A product stands at the PC, and one step of it succeeds. -/
def productFetched (s : State) (i : Instr) : Bool :=
  match s.fetchAt s.st s.st.pc.toNat with
  | .ok (.ok j len, s1) => j == i &&
    (match productOne i { s1 with st := { s1.st with npc := s1.st.pc + BitVec.ofNat 40 (2 * len), status := .ready } } with
    | some (.ok _) => true
    | _ => false)
  | _ => false

theorem witness_ExecutionEvents : (∀ tag ∈ [Fmt.s32, .bf16], let s := seqBox tag
      s.parked = [] ∧ s.async = false ∧ s.accs = [] ∧ (s.st.vq.map fun e => (e.body, e.started, e.walk)) = [(false, false, none)] ∧ s.st.status = .ready ∧ s.st.loop.active = false ∧
      entryEnds s (tag == .s32) = true) ∧
    (∀ tag ∈ [Fmt.bf16, .f32], let s := boxT [] [(0, tileAs tag)]
      let q : State := { s with st := { s.st with tileq := [⟨0x80, 0, true, .bf16, 0, 0, 3, []⟩] } }
      q.st.status = .ready ∧ q.st.vq = [] ∧ (q.tileOf q.st 0).tag = tag ∧ q.flips = [] ∧ (q.tileOf q.st 0).poison = []) ∧
    (let i := Instr.mma .bf16 .asA false 0 (.g 1) (.reg (.g 2))
     let ws := encode i
     let b := boxT [(1, 0x10000), (2, 2 ^ 14)] []
     let s : State := { b with mem := ws.zipIdx.foldl (fun m w => memWrite m (0x100 + 2 * w.2) 2 w.1) b.mem }
     s.st.status = .ready ∧ s.mayIssue s.st = true ∧ productFetched s i = true) ∧
    (let s := box fun t => { t with wdue := true }
     s.st.vq = [] ∧ s.watchdogDue s.st = true ∧ s.st.status = .ready) ∧
    (let x := (((box id).modPart 1 fun x => { x with desc := x.desc.set 19 5 }).part 1)
     x.w 19 ≠ 0 ∧ x.wdLeft = 0 ∧ x.live = true ∧ x.resetting = none) := by
  refine ⟨fun tag ht => ?_, by decide +kernel, by decide +kernel, by decide +kernel, by decide +kernel⟩
  simp only [List.mem_cons, List.not_mem_nil, or_false] at ht
  rcases ht with rfl | rfl <;> exact ⟨rfl, rfl, rfl, rfl, rfl, rfl, by decide +kernel⟩

/-- `n` words with law 1 from `a` on. -/
def lawRun (a : Nat) : Nat → List Host.Cell
  | 0 => []
  | n + 1 => (a, 1) :: lawRun (a + 8) n

theorem lawRun_wf (n : Nat) : ∀ a, memWf (lawRun a n) = true := by
  induction n with
  | zero => intro; rfl
  | succ n ih =>
    intro a
    refine Sys2Proof.Laws.memWf_cons.mpr ⟨by decide, ?_, ih _⟩
    have h : ∀ n b, a < b → ∀ c ∈ lawRun b n, a < c.1 := by
      intro n
      induction n with
      | zero => intro b _ c hc; simp [lawRun] at hc
      | succ n ih =>
        intro b hb c hc
        simp only [lawRun, List.mem_cons] at hc
        rcases hc with rfl | hc
        · exact hb
        · exact ih (b + 8) (by omega) c hc
    exact h n (a + 8) (by omega)

/-- The box with words under law 1 from 0x600 on, in a WALL region of tick 2^0 over `pages` pages. -/
def boxOver (pages n : Nat) : State :=
  { (box id).modPart 1 (fun x => { x with regions := [(0, ⟨false, 0, 0, 0, [], 0, List.range pages, 0, 65536 * pages, 0, [0, 0, 0, 0], 0, true, 1, true, none, 0⟩)] })
    with mem := lawRun 0x600 n }

theorem over_weight {pages n a : Nat} (h : a < 65536 * pages) : (boxOver pages n).sweepWeight a = 2 ^ 24 := by
  have h1 : (List.range pages).findIdx? (fun g => g == a / 65536) = some (a / 65536) := by
    rw [List.findIdx?_eq_some_iff_getElem]
    refine ⟨by simp only [List.length_range]; omega, by simp, fun j hj => by simp; omega⟩
  have h2 : a / 65536 * 65536 + a % 65536 = a := by omega
  have h3 : (boxOver pages n).liveParts = [(boxOver pages n).part 1] := by with_unfolding_all rfl
  have h4 : ((boxOver pages n).part 1).regions = [(0, ⟨false, 0, 0, 0, [], 0, List.range pages, 0, 65536 * pages, 0, [0, 0, 0, 0], 0, true, 1, true, none, 0⟩)] := rfl
  simp [State.sweepWeight, h3, Part.regionAt, h4, Region.offsetOf, h1, h2, h]

theorem over_load {s : State} {b : Nat} (hb : b ≤ 2 ^ 36) (hw : ∀ l a, a < b → ({ s with mem := l } : State).sweepWeight a = 2 ^ 24)
    (n : Nat) : ∀ a, a % 8 = 0 → a + 8 * n ≤ b → ({ s with mem := lawRun a n } : State).sweepLoad 0 = n * 2 ^ 24 := by
  unfold State.sweepLoad
  induction n with
  | zero => intro a _ _; simp [lawRun]
  | succ n ih =>
    intro a ha hn
    have h1 : homeDie a = 0 := by
      have h2 : a % 2 ^ 48 < 0x8000000000 := by omega
      have h3 : a % 2 ^ 48 / 2 ^ 36 = 0 := by omega
      simp only [homeDie, placeOf, h2, if_true, h3, Nat.zero_div]
    have h3 := ih (a + 8) (by omega) (by omega)
    have h4 : ∀ c, ({ s with mem := (a, 1) :: lawRun (a + 8) n } : State).sweepWeight c =
      ({ s with mem := lawRun (a + 8) n } : State).sweepWeight c := fun c => rfl
    simp only [lawRun, List.map_cons, List.sum_cons, ha, h1, and_self, if_true, h4]
    rw [h3, hw _ _ (by omega), Nat.succ_mul, Nat.add_comm]

/-- 2^29 words of tick 2^0 load their die to its limit: one more takes it too far. -/
theorem witness_AccessEvents_over : ∃ s : State, memWf s.mem = true ∧ s.overAt 0x500 4 9 0x500 = some 0x500 := by
  have h : ∀ n, n = 2 ^ 29 → memWf (boxOver 70000 n).mem = true ∧ (boxOver 70000 n).overAt 0x500 4 9 0x500 = some 0x500 := by
    intro n hn
    refine ⟨lawRun_wf n _, ?_⟩
    have hw : ∀ m l a, a < 65536 * 70000 → ({ boxOver 70000 m with mem := l } : State).sweepWeight a = 2 ^ 24 :=
      fun m l a h => over_weight (n := 0) h
    have h1 : (boxOver 70000 n).sweepLoad 0 = n * 2 ^ 24 := over_load (by decide) (hw n) n 0x600 (by decide) (by omega)
    have h5 : ∀ a, a < 0x600 → ∀ k, memSet (lawRun 0x600 k) a 0 = lawRun 0x600 k := by
      intro a ha k
      cases k with
      | zero => rfl
      | succ k => simp only [lawRun, memSet]; rw [if_neg (by omega), if_neg (by omega)]; rfl
    have h6 : ∀ k, memSet (lawRun 0x600 k) 0x500 9 = (0x500, 9) :: lawRun 0x600 k := by
      intro k
      cases k with
      | zero => rfl
      | succ k => simp only [lawRun, memSet]; rfl
    have h2 : memWrite (boxOver 70000 n).mem 0x500 4 9 = (0x500, 9) :: lawRun 0x600 n := by
      have h7 : (boxOver 70000 n).mem = lawRun 0x600 n := rfl
      rw [h7]
      have h16 : memWrite (lawRun 0x600 n) 0x500 4 9 =
          memSet (memSet (memSet (memSet (lawRun 0x600 n) 0x500 9) 0x501 0) 0x502 0) 0x503 0 := rfl
      rw [h16, h6]
      have h17 : ∀ b, 0x500 < b → b < 0x600 → memSet ((0x500, 9) :: lawRun 0x600 n) b 0 = (0x500, 9) :: lawRun 0x600 n := by
        intro b h1 h2
        rw [memSet, if_pos h1, h5 b h2]
      rw [h17 _ (by decide) (by decide), h17 _ (by decide) (by decide), h17 _ (by decide) (by decide)]
    have h3 : ∀ k ≤ 4, ({ boxOver 70000 n with mem := memWrite (boxOver 70000 n).mem 0x500 4 9 } : State).sweepLoad 0 = (n + 1) * 2 ^ 24 := by
      intro k hk
      have h8 := over_load (s := boxOver 70000 n) (by decide) (hw n) n 0x600 (by decide) (by omega)
      unfold State.sweepLoad at h8 ⊢
      rw [h2]
      simp only [List.map_cons, List.sum_cons]
      have h9 : ∀ c, ({ boxOver 70000 n with mem := (0x500, 9) :: lawRun 0x600 n } : State).sweepWeight c =
        ({ boxOver 70000 n with mem := lawRun 0x600 n } : State).sweepWeight c := fun c => rfl
      have h10 : ({ boxOver 70000 n with mem := lawRun 0x600 n } : State).sweepWeight 0x500 = 2 ^ 24 := over_weight (n := n) (by decide)
      have h11 : homeDie 0x500 = 0 := by decide
      simp only [h9] at *
      rw [h8, h10]
      simp only [h11, and_self, if_true]
      omega
    have h4 : (boxOver 70000 n).overload 0x500 4 9 = true := by
      have h12 := h3 4 (by decide)
      have h13 : homeDie 0x500 = 0 := by decide
      have h14 := over_weight (pages := 70000) (n := n) (a := 0x500) (by decide)
      simp only [State.overload, h13, h1, h12, Nat.reduceDiv, Nat.reduceMul, h14]
      simp only [hn]
      decide
    have h15 : wordSpan 0x500 4 = 1 := by decide
    simp [State.overAt, h4, h15]
  exact ⟨_, h _ rfl⟩

/-! ### Tasks, launches, suspension -/

/-- Task 3 of launch 1: an activation that waits on event 7 if `w0` says so, with a skip test if `w1` says so. -/
def taskOf (w0 w1 : Nat) (stage : TStage) : Task :=
  ⟨3, 0, 1, 0, 0, 0, [BitVec.ofNat 64 w0, BitVec.ofNat 64 (0x100 + w1), 2, 9, 0, 0, 0, 0], stage, 0, false, false, none⟩

/-- The cluster that cluster 0 tries first. -/
def victim0 : Nat := victimOf 0 0

/-- The box with a task, its deque, and knots; its partition has the clusters 0 and `victim0`. -/
def boxJ (t : Task) (deque : List (Nat × Nat)) (ks : List (Nat × Knot)) (f : Part → Part) : State :=
  let s := (boxN.modPart 1 fun x => f { x with tasks := [t], desc := (x.desc.set 13 0x1000).set 1 (BitVec.ofNat 64 (2 ^ victim0 + 1)), knotTop := 8 }).modCluster 0 fun c =>
    { c with deque := deque, counter := 64 }
  ks.foldl (fun s k => s.putKnot 1 k.1 k.2) s

/-- A partition with a waiting task; and a machine in which its pool of waiters holds `n`. -/
def waitPart : Part := { Part.reset with
  tasks := [taskOf (7 * 2 ^ 16) (2 ^ 40) .waiting], launches := [placedLaunch { Strand.empty with launch := 1 }] }

def boxPool (n : Nat) : State := { State.reset with
  parts := [(1, { waitPart with events := [(7, ⟨0, List.replicate n (.task 0 1)⟩)] })] }

theorem pool_wait : ∃ s : State, (s.part 1).taskAt 3 = some (taskOf (7 * 2 ^ 16) (2 ^ 40) .waiting) ∧
    ((s.part 1).launch? 1).isSome = true ∧ (s.part 1).waiterRoom 7 = false := by
  have h : ∀ n, 65540 ≤ n → ((boxPool n).part 1).taskAt 3 = some (taskOf (7 * 2 ^ 16) (2 ^ 40) .waiting) ∧
      (((boxPool n).part 1).launch? 1).isSome = true ∧ ((boxPool n).part 1).waiterRoom 7 = false := fun n hn =>
    ⟨show waitPart.taskAt 3 = _ by decide +kernel, show (waitPart.launch? 1).isSome = true by decide +kernel, pool_full _ n hn⟩
  exact ⟨_, h _ (Nat.le_refl _)⟩

/-- A waiting task that its event covers, tasks ready without a skip test and with each outcome of it; a task to dispatch;
an empty victim and one with a task that the thief cannot dispatch. -/
theorem witness_TaskEvents : (let t := taskOf (7 * 2 ^ 16) (2 ^ 40) .waiting
     let s := boxJ t [] [] id
     (s.part 1).taskAt 3 = some t ∧ (s.part 1).waiterRoom t.wev = true ∧ t.wcnt ≤ ((s.part 1).event t.wev).count.toNat ∧
      ((s.part 1).event t.wev).waiters = [] ∧ t.placed = false) ∧
    (taskOf 0 0 .ready).skips = false ∧ (taskOf 0 (2 ^ 42) .ready).skips = true ∧
    ((boxJ (taskOf 0 (2 ^ 42) .ready) [] [] id).knotLive 1 2 = false) ∧
    ((boxJ (taskOf 0 (2 ^ 42) .ready) [] someKnots id).knotLive 1 2 = true ∧ (boxJ (taskOf 0 (2 ^ 42) .ready) [] someKnots id).settled 1 2 = true ∧
      ((boxJ (taskOf 0 (2 ^ 42) .ready) [] someKnots id).knot 1 2).count ≠ 9) ∧
    ((boxJ (taskOf 0 (2 ^ 42) .ready) [] someKnots id).modDie 0 fun x => { x with rollups := [(1, 2, 1)] }).settled 1 2 = false ∧
    ((boxJ (taskOf 0 (2 ^ 42) .ready) [] (someKnots ++ [(2, ⟨9, 1, 2, true, false, 0, 0⟩)]) id).knot 1 2).count = 9 ∧
    (let s := boxJ (taskOf 0 0 .queued) [(1, 3)] [] id
     s.clusterOwner 0 = some 1 ∧ ((s.dequeTasks 0).map fun e => (e.1, e.2.1)) = [(1, taskOf 0 0 .queued)] ∧ (taskOf 0 0 .queued).kind = 0 ∧
      ((s.dequeTasks 0).map fun e => (s.dispatchable e.1 e.2.2 e.2.1 0, s.taskCell e.2.2 0)) = [(true, some 0)]) ∧
    (let s := boxJ (taskOf 0 0 .queued) [] [] id
     s.clusterOwner 0 = some 1 ∧ (s.cluster 0).attempts.toNat < (s.cluster 0).counter.toNat / 64 ∧ s.dequeTasks victim0 = [] ∧
      ((s.cluster 0).failed + 1) % 65536 ≠ 0) ∧
    (let s := ((boxJ (taskOf 0 0 .queued) [] [] id).modCluster victim0 fun c => { c with deque := [(1, 3)] }).modCell 0 fun c => { c with stopped := true }
     s.clusterOwner 0 = some 1 ∧ (s.cluster 0).attempts.toNat < (s.cluster 0).counter.toNat / 64 ∧
      (match ((s.dequeTasks victim0).filter fun e => !e.2.1.stolen).getLast? with
      | some (_, t, l) => !t.pinned && l.inCluster 0 &&
        !(((s.modCluster 0 fun c => { c with attempts := c.attempts + 1 }).traceSteal 1 0 true).steal 1 t 0).dispatchable 1 l { t with stolen := true } 0
      | none => false) = true) := by decide +kernel

/-- A task that a thief has taken already is no longer the victim's to give; one that the thief dispatches at once. -/
theorem witness_TaskEvents_steal : (let t := { taskOf 0 0 .queued with stolen := true }
     let s := (boxJ t [] [] id).modCluster victim0 fun c => { c with deque := [(1, 3)] }
     (s.dequeTasks victim0).map (·.2.1) = [t] ∧ ((s.dequeTasks victim0).filter fun e => !e.2.1.stolen).getLast? = none) ∧
    (let t := taskOf 0 0 .queued
     let s := (boxJ t [] [] id).modCluster victim0 fun c => { c with deque := [(1, 3)] }
     match ((s.dequeTasks victim0).filter fun e => !e.2.1.stolen).getLast? with
      | some (_, t, l) => !t.pinned && l.inCluster 0 &&
        (((s.modCluster 0 fun c => { c with attempts := c.attempts + 1 }).traceSteal 1 0 true).steal 1 t 0).dispatchable 1 l { t with stolen := true } 0
      | none => false) = true := by decide +kernel

/-- An RCB in form: entry 0x100, every field its own, one cell and one slot, a constant bank at 0x3000. -/
def rcbWords : List Word := [0, BitVec.ofNat 64 (0x100 + 0x3FFF * 2 ^ 48), BitVec.ofNat 64 (1 + 2 ^ 20), 0, 0, 0x3000]

/-- The box with an RCB at 0x2000 and a command that names it. -/
def boxR (ws : List Word) : State :=
  let b := (boxC [] true).modPart 1 fun x => { x with pending := [⟨0x2000, 0, 0, false, 0, 0, false, some 5⟩] }
  { b with mem := memPutWords b.mem 0x2000 ws }

/-- How a chain reads, and the code that it gets. -/
def rcbCode (s : State) : Nat × Nat × Bool :=
  let s0 := s.setPart 1 { s.part 1 with pending := [] }
  let r := readChain s0 (s.part 1).homeDie 1 0 0x2000 0 8
  (r.2.stop, r.2.code r.1 1 ⟨0x2000, 0, 0, false, 0, 0, false, some 5⟩,
    (engWords r.1 (unitCtx (s.part 1).homeDie 1 0 r.2.eff.cbankUab.toNat) r.2.eff.cbank.toNat 256).2.toOption.isSome)

/-- The box with a second launch. -/
def boxL (f : Launch → Launch) : State := boxN.modPart 1 fun x => { x with launches := x.launches ++ [f { placedLaunch boxN.st with
  num := 2, stage := .queued, fixed := false, cellSet := [], hbmHeld := false, slotsUsed := 0, launcher := some 5
  eff := ⟨1, 1, 0, 0, 0, 0, 0, 0, 0, 0, 0, .rne, 0, 0, 0, 0, 0, 0, 0, 0⟩ }] }

/-- A chain too deep, one refused, one accepted. -/
theorem witness_LaunchEvents_accept : (rcbCode (boxR [0x2000])).1 = 1 ∧ rcbCode (boxR []) = (0, 2, true) ∧ rcbCode (boxR rcbWords) = (0, 0, true) ∧
    (let s := boxR rcbWords
     (s.part 1).pending = [⟨0x2000, 0, 0, false, 0, 0, false, some 5⟩] ∧ (s.part 1).resetting = none) := by decide +kernel

/-- Does the head of the queue, or a launch by number, satisfy a test? -/
def onHead (s : State) (f : Launch → Bool) : Bool :=
  match s.queueHead 1 with
  | some l => f l
  | none => false

def onLaunch (s : State) (n : Nat) (f : Launch → Bool) : Bool :=
  match (s.part 1).launch? n with
  | some l => f l
  | none => false

/-- A queued launch with eligible cells; steps left and the last one; a cell to be woken; a launch of which nothing is left. -/
theorem witness_LaunchEvents_place : (let s := boxL id
     onHead s (fun l => l.num == 2 && l.stage == .queued && !l.fixed && l.eff.gang == 0 && !(s.part 1).ending l && !s.accepting 1 2 && s.chooseSet 1 l [] == some [1]
      && decide ((s.part 1).hbmUsed + l.eff.hbm ≤ (s.part 1).quota)) = true) ∧
    (∀ cs ∈ [[1], [1, 16]], let s := boxL fun l => { l with stage := .placing, cellSet := cs, placed := 0 }
      onLaunch s 2 (fun l => (s.part 1).launches.find? (fun l => l.stage == .placing) == some l && l.placed == 0 && l.steps == cs.length) = true) ∧
    (let s := boxL fun l => { l with stage := .woken, cellSet := [1], wakeDue := [1] }
     onLaunch s 2 (fun l => l.stage == .woken && l.wakeDue == [1] && !(s.part 1).ending l) = true) ∧
    (let s := boxL fun l => { l with stage := .running, cellSet := [1] }
     onLaunch s 2 (fun l => s.launchOver 1 l && !(s.part 1).ending l && l.launcher == some 5) = true ∧ (s.strand? 5).isSome = true) := by
  decide +kernel

/-- A spilled strand whose frame has one byte that is not zero, its launch; and the box with it and bytes of its frame. -/
def spilled : Strand := { boxN.st with
  uid := 6, slot := 1, status := .spilled false, pc := 0, trapv := 0, vl := 0, popId := 0, m := Vector.replicate 8 0
  g := Vector.replicate 32 0, frame := some 1 }

def boxF (m : List Host.Cell) : State :=
  { boxN.modPart 1 fun x => { x with desc := x.desc.set 17 0x8000 } with parked := [spilled], mem := m }

/-- A launch suspended with its strand at rest; a frame as it was written, one changed, one with a reserved bit set; a
suspended launch at the head of the queue. -/
theorem witness_SpillAndRestore : (let s := (boxN.modPart 1 fun x => { x with desc := x.desc.set 17 0x8000 }).modPart 1 (fun x =>
      x.modLaunch 1 fun l => { l with stage := .suspended })
     (s.launchOf s.st).map (·.stage) = some .suspended ∧ s.st.status = .ready ∧ s.st.vq = [] ∧ s.st.tileCount = 0 ∧ s.accs = [] ∧
      (s.flips = [] ∧ s.poison = [] ∧ s.arrays = []) ∧ s.st.act = false) ∧
    (∀ m ∈ ([[(0x9070, 1)], [(0x9000, 2)], [(0x9FA0, 1)]] : List (List Host.Cell)), let s := boxF m
      s.strand? 6 = some spilled ∧ s.openSlot 0 = some 1 ∧ (s.launchOf spilled).map (fun l => (s.part 1).runs l) = some true ∧
      s.frameAddr spilled = 0x9000 ∧ s.flips = []) ∧
    (let s := boxF []; (s.chooseFrame s.st = 0 ∧ s.slotFrame { s.st with slot := 1 } = 1 ∧
      s.chooseFrame { s.st with slot := 1 } ≠ 1 ∧ ∃ x ∈ s.strands, x.frame = some 1)) ∧
    (let s := boxL fun l => { l with stage := .suspended, cellSet := [1] }
     onHead s (fun l => l.num == 2 && l.stage == .suspended && (s.chooseSet 1 l []).isSome && !(s.part 1).ending l) = true ∧
      (s.part 1).resetting = none ∧ (∀ t ∈ s.strands, t.part = 1 → t.launch ≠ 2)) ∧
    (let t := boxN.st; t.g.get 0 = 0 ∧ t.gtag.get 0 = .raw ∧ t.m.get 0 = BitVec.allOnes 512 ∧ t.vl ≤ 512 ∧ t.gc = 1 ∧ t.pc.getLsbD 0 = false ∧
      t.trapv.getLsbD 0 = false ∧ t.fpc.getLsbD 0 = false) := by decide +kernel

set_option maxRecDepth 100000 in
theorem witness_SpillAndRestore_frames : memWords (boxF [(0x9070, 1)]).mem 0x9000 512 = spilled.frameWords ∧
    frameBad (memWords (boxF [(0x9070, 1)]).mem 0x9000 512) = false ∧
    memWords (boxF [(0x9000, 2)]).mem 0x9000 512 ≠ spilled.frameWords ∧ frameBad (memWords (boxF [(0x9000, 2)]).mem 0x9000 512) = false ∧
    frameBad (memWords (boxF [(0x9FA0, 1)]).mem 0x9000 512) = true := by decide +kernel

theorem load_blank {s : State} (h : s.flips = [] ∧ s.poison = [] ∧ s.mem = []) (c : ErrCtx) (l : List EngRead) :
    makeReads s c l = (l.map fun _ => (0, 0), s) := by
  have h0 : ∀ n a, memRead [] a n = 0 := by
    intro n
    induction n with
    | zero => intro; rfl
    | succ n ih => intro a; rw [memRead, ih]; rfl
  have h1 : ∀ n a, s.readAt c a n = (0, false, s) := fun n a => by simp [State.readAt, h, h0]
  have h2 : ∀ n a, s.readMasked c a n = (0, 0, s) := by
    intro n
    induction n with
    | zero => intro; rfl
    | succ n ih => intro a; simp [State.readMasked, h1, ih, bitOf]
  induction l with
  | nil => rfl
  | cons x r ih => by_cases hx : x.image = true <;> simp [makeReads, EngRead.make, h1, h2, ih, hx, bitOf]

theorem join_blank {α : Type} (l : List α) : ∀ n, joinImage n (l.map fun _ => (0, 0)) = (0, []) := by
  induction l with
  | nil => intro; rfl
  | cons x r ih =>
    intro n
    rw [List.map_cons, joinImage, ih (n + 1)]
    simp [bitAt]

theorem blank_tile : ∃ x, tileFrom 0 Tile.zero = some x := by
  unfold tileFrom
  refine ⟨_, (if_neg ?_).trans (if_neg ?_)⟩
  · simp
  · simp

/-- A tile image of zeros is a valid image. -/
theorem witness_SpillAndRestore_image : ∃ x, (boxF []).getImage ((boxF []).imageAddr 1 3) = (.ok x, boxF []) := by
  obtain ⟨x, hx⟩ := blank_tile
  refine ⟨x, ?_⟩
  unfold State.getImage
  rw [load_blank ⟨rfl, rfl, rfl⟩]
  simp only [join_blank, List.any_nil, hx, if_true, Bool.false_eq_true, if_false]

/-! ### Domains, the host -/

/-- The end of fault domain 0 in a phase, and one of another domain whose dump is queued. -/
def endOf (fdom phase : Nat) : DomainEnd := ⟨fdom, 1, 0x0303, 0, 0, 0x100, 5, 10, 5, phase, false, false, [[1, 2, 3, 4, 5]]⟩

/-- The box with ends of domains, no strand in a slot but one on its way, a message in an inbox, a dump buffer at 0x6000. -/
def boxE2 (es : List DomainEnd) : State :=
  let s := (boxN.modPart 1 fun x => { x with ends := es, desc := (x.desc.set 15 0x6000).set 16 (BitVec.ofNat 64 (2 ^ 13 + 2 ^ 50)) }).modCell 0
    fun c => { c with inbox := [msgOf .normal 0x100 1 0] }
  { s with st := Strand.empty, parked := [{ boxN.st with status := .moving }] }

/-- The box with its strand in its slot and its dump queued. -/
def boxD : State := boxN.modPart 1 fun x => { x with ends := [endOf 0 1], desc := (x.desc.set 15 0x6000).set 16 (2 ^ 13) }

/-- A stop with and without four dumps that wait; a dump with a buffer that is free, and one being written; a teardown point; a
release; a reset. -/
theorem witness_DomainEvents : (∀ n ∈ [0, 4], let s := boxE2 (endOf 0 0 :: List.replicate n (endOf 9 1))
      (s.part 1).inPhase 0 = some (endOf 0 0) ∧ (s.part 1).resetting = none ∧ s.strandsOf 1 ((s.part 1).subtree 0) ≠ [] ∧
      (∀ t ∈ s.strandsOf 1 ((s.part 1).subtree 0), t.inSlot = false) ∧
      decide (4 ≤ ((s.part 1).ends.filter fun e => e.phase == 1).length) = decide (n = 4)) ∧
    ((boxD.part 1).inPhase 1 = some (endOf 0 1) ∧ (boxD.part 1).resetting = none ∧ (∀ y ∈ (boxD.part 1).ends, y.writing = false) ∧
      memRead boxD.mem ((boxD.part 1).w 15) 1 % 4 = 0 ∧ (boxD.flips = [] ∧ boxD.poison = [] ∧ boxD.arrays = [])) ∧
    (let e := { endOf 0 1 with writing := true }
     (boxE2 [endOf 9 1, e]).part 1 |>.ends.find? (fun y => y.writing)) = some { endOf 0 1 with writing := true } ∧
    (let s := boxE2 [endOf 0 2]
     (s.part 1).inPhase 2 = some (endOf 0 2) ∧ s.accs = [] ∧ s.subtreeHomes 1 0 ≠ []) ∧
    ((boxE2 [endOf 0 3]).part 1).inPhase 3 = some (endOf 0 3) ∧
    (let s := (boxE2 [endOf 0 3]).modPart 1 fun x => { x with resetting := some 1 }
     (s.part 1).resetting.isSome = true ∧ s.quiet 1 = true) := by decide +kernel

/-- The box whose home die translates page 0 for the host, with queues of 16 entries. -/
def boxH (f : HostFn → HostFn) : State :=
  let s := (boxN.modPart 1 fun x => { x with fn := f { x.fn with lqSize := 4, mqSize := 4, rqSize := 4, lqBase := 0x1000, mqBase := 0x2000 } })
  s.modDie 0 fun d => { d with tlb := [⟨0, 0, 16, 0, true, true, false, false⟩] }

/-- A launch entry's words, and a message entry's. -/
def launchEntryWords : List Word := [0x2000, 0x300205, 7, 0x55, 0, 0, 0, 0]
def messageEntryWords (w0 launch w10 : Nat) : List Word :=
  [BitVec.ofNat 64 (w0 + 0x100 * 2 ^ 20), 3, 0, 0, 0, 0, 0, 0, BitVec.ofNat 64 launch, 0x66, BitVec.ofNat 64 w10, 0, 0, 0, 0, 0]

/-- BAR2 at an aligned offset; queue heads that meet and that do not; entries to be taken. -/
theorem witness_HostAndPartitionEvents_host : (let s := boxH id
     (s.part 1).live = true ∧ (s.part 1).fn.results = [] ∧ (s.part 1).resetting = none ∧
      (s.die (s.part 1).homeDie).tlb.find? (fun e => e.hits (s.part 1).fn.hasid 0x500) = some ⟨0, 0, 16, 0, true, true, false, false⟩ ∧
      s.permit 1 ⟨0, 0, 16, 0, true, true, false, false⟩ 0x500 true false false = .ok ⟨0x500, false⟩ ∧
      s.permit 1 ⟨0, 0, 16, 0, true, true, false, false⟩ 0x500 false true false = .ok ⟨0x500, false⟩ ∧
      0x500 % 8 = 0 ∧ (s.part 1).fn.lqHead = (s.part 1).fn.lqTail) ∧
    ((boxH fun f => { f with lqTail := 1, mqTail := 1, rqTail := 1 }).part 1).fn.lqTail ≠ 0 ∧
    ((boxH fun f => { f with ipend := 5 }).part 1).fn.imask = 0x3F ∧
    (let s := { boxH (fun f => { f with lqTail := 1 }) with hostMem := memPutWords [] 0x1000 launchEntryWords }
     (s.part 1).launchEntryDue = true) ∧
    (∀ ws ∈ [messageEntryWords 0 9 0, messageEntryWords 0 1 1, messageEntryWords 0 (2 ^ 32 + 1) 0, messageEntryWords (2 ^ 60) 1 0,
        messageEntryWords 4095 1 0, messageEntryWords 0 1 0], let s := { boxH (fun f => { f with mqTail := 1 }) with hostMem := memPutWords [] 0x2000 ws }
      s.messageEntryDue 1 = true ∧ memWords s.hostMem ((s.part 1).fn.mqBase.toNat + (s.part 1).fn.mqHead.toNat % 2 ^ (s.part 1).fn.mqSize * 128) 16 = ws ∧
      ((s.part 1).launch? ((ws.getD 8 0).toNat % 2 ^ 32) = none ↔ ws = messageEntryWords 0 9 0)) ∧
    imageBad (messageEntryWords (2 ^ 60) 1 0) = true ∧ imageBad (messageEntryWords 0 1 0) = false ∧
    (boxH id).hasCell 1 (imageDest (messageEntryWords 4095 1 0)) = false ∧ (boxH id).hasCell 1 (imageDest (messageEntryWords 0 1 0)) = true := by
  decide +kernel

theorem quiet_boxH (f : HostFn → HostFn) : Quiet (boxH f) ∧ ∀ a, (boxH id).sweepWeight a = 0 :=
  ⟨⟨rfl, rfl, rfl⟩, weight_zero (by decide +kernel)⟩

/-- Partition 2 made live: with a clash, with ASIDs past the table, with live clear; and without. A device that partition 1
spans; planes. -/
theorem witness_HostAndPartitionEvents_partitions : (let s : State := { boxN.modPart 2 (fun x => { x with desc := (x.desc.set 1 2).set 13 0x3000 }) with
       boot := { Boot.reset with powered := true, stage := 4 } }
     let w0 := 1 + 100 * 2 ^ 24 + 8 * 2 ^ 37
     s.boot.serving = true ∧ State.reset.boot.serving = false ∧ (s.part 2).live = false ∧ Nat.land w0 0x7FFFFFFFFFF07 = w0 ∧ bitAt w0 0 = true ∧ w0 / 2 ^ 24 % 2 ^ 13 + w0 / 2 ^ 37 % 2 ^ 14 ≤ 8192 ∧
      s.clashes 2 w0 = false ∧ (s.part 2).desc.length = 20 ∧ (s.part 2).w 13 = 0x3000 ∧ (s.part 2).clusters = [1] ∧ s.boot.device = 0 ∧
      (let u := boxN.modPart 2 fun x => { x with desc := x.desc.set 1 1 }
       u.clashes 2 w0 = true) ∧ s.clashes 1 w0 = false ∧ (s.part 1).live = true) ∧
    Nat.land (1 + 8191 * 2 ^ 24 + 2 * 2 ^ 37) 0x7FFFFFFFFFF07 = 1 + 8191 * 2 ^ 24 + 2 * 2 ^ 37 ∧
    8192 < (1 + 8191 * 2 ^ 24 + 2 * 2 ^ 37) / 2 ^ 24 % 2 ^ 13 + (1 + 8191 * 2 ^ 24 + 2 * 2 ^ 37) / 2 ^ 37 % 2 ^ 14 ∧
    (let s := boxN.modPart 1 fun x => { x with peers := [(3, [])] }
     s.boot.minimal = false ∧ (s.part 1).live = true ∧ Tab.has (s.part 1).peers 3 = true ∧ (s.part 1).resetting = none ∧ (1#32 &&& s.boot.planes) ≠ 0) := by decide +kernel

/-! ### The debugger, power, errors -/

/-- The box with a debugger, its strand in a state. -/
def boxG2 (d : Debug → Debug) (f : Strand → Strand) : State :=
  let s := boxN.modPart 1 fun x => { x with dbg := d { x.dbg with attach := true, frame := 0x9000 } }
  { s with st := f s.st }

/-- The box with a log of one entry that cell 0 enforces. -/
def boxLog : State :=
  let s := (boxG2 (fun d => { d with replaying := true }) id).modPart 1 fun x => { x with log := { x.log with base := 0x7000, seg := 0x100 } }
  { s with mem := memWrite s.mem 0x7000 8 1, now := 2 ^ 30 }

set_option maxRecDepth 100000 in
/-- A ring off and one on; no debugger, one with a command in progress, one free; no strand of the partition; a halted
strand, a slot with none, a frame that may be written, one that may not, one with a reserved bit set; a step that is over; a
log that does not go on. -/
theorem witness_DebugEvents : (Tab.get (boxN.part 1).rings Ring.reset 0).en = false ∧
    (Tab.get ((boxN.modPart 1 fun x => { x with rings := [(0, { Ring.reset with en := true })] }).part 1).rings Ring.reset 0).en = true ∧
    (boxN.part 1).dbg.attach = false ∧ (boxN.part 1).dbg.busy = false ∧
    ((boxG2 (fun d => { d with busy := true }) id).part 1).dbg.busy = true ∧
    (let s := boxG2 id fun _ => Strand.empty
     s.strands.any (fun t => decide (t.part = 1)) = false ∧ s.hasCell 1 0 = true ∧ s.inSlotOf 1 0 0 = none ∧
      (s.part 1).dbg.busy = false ∧ (s.part 1).dbg.attach = true) ∧
    (let s := boxG2 id fun t => { t with status := .halted }
     s.inSlotOf 1 0 0 = some s.st ∧ s.st.status = .halted ∧ (s.flips = [] ∧ s.poison = [] ∧ s.arrays = []) ∧ s.frameOk 1 0x9000 = true ∧
      frameBad (memWords s.mem 0x9000 512) = false ∧ s.frameOk 1 0x9008 = false ∧
      frameBad (memWords (memWrite s.mem 0x9FA0 8 1) 0x9000 512) = true) ∧
    (let s := boxG2 id id; s.inSlotOf 1 0 0 = some s.st ∧ s.st.status ≠ .halted) ∧
    (let s := boxG2 (fun d => { d with busy := true, op := 6 }) fun t => { t with status := .halted }
     (s.part 1).dbg.busy = true ∧ (s.part 1).dbg.op = 6 ∧ (∀ t ∈ s.strands, t.part = 1 → t.status = .halted ∧ t.stepping = false)) ∧
    (boxLog.nextLogged 1 0 = some (0x7010, 8) ∧ boxLog.diverges 1 0 = true) := by
  have h1 : boxLog.nextLogged 1 0 = some (0x7010, 8) := by decide +kernel
  have h2 : decide (Tab.get (boxLog.part 1).log.lastTime 0 0 + 2 ^ 30 ≤ boxLog.now) = true := by decide +kernel
  refine ⟨by decide +kernel, by decide +kernel, by decide +kernel, by decide +kernel, by decide +kernel, by decide +kernel,
    by decide +kernel, by decide +kernel, by decide +kernel, h1, ?_⟩
  simpa [State.diverges, h1] using of_decide_eq_true h2

/-- Machines before POWER_ON, in a boot that has failed twice and that has failed once, after a thermal shutdown; a gated
cluster with a waiter served, and a hot one. -/
theorem witness_BootAndPowerEvents : State.reset.boot.reason ≠ 0x0B ∧
    (∀ n ∈ [1, 2], let s := { State.reset with boot := { Boot.reset with powered := true, stage := 1, starts := BitVec.ofNat _ n } }
      s.boot.powered = true ∧ s.boot.ready = false ∧ s.boot.minimal = false ∧ s.boot.stage ≠ 0 ∧ s.boot.reason ≠ 0x0B ∧
      decide (s.boot.starts = 2) = decide (n = 2)) ∧
    (let s := (box fun t => { t with status := .ready }).modCluster 0 fun c => { c with gated := true }
     (s.cluster 0).gated = true ∧ s.gateable 0 = false) ∧
    (let s : State := { State.reset with now := 1000 }
     State.reset.now < State.reset.power.sampled.getD 17 0 + 1000 ∧ s.power.sampled.getD 17 0 + 1000 ≤ s.now ∧
      State.reset.now < State.reset.power.managed + 1000 ∧ s.power.managed + 1000 ≤ s.now ∧
      ∀ q, q < 16 → (s.part q).live = false) ∧
    (let fast := State.reset.modCluster 64 fun c => { c with clock := 13 }
     let slow := (dieClusters 1).foldl (fun s k => s.modCluster k fun c => { c with clock := 5 }) State.reset
     (∃ i ∈ dieClusters 1, 11 < (fast.cluster i).clock) ∧ (∀ i ∈ dieClusters 1, (State.reset.cluster i).clock ≤ 11) ∧
      (∃ i ∈ dieClusters 1, (State.reset.cluster i).clock ≠ 5) ∧ (∀ i ∈ dieClusters 1, (slow.cluster i).clock = 5)) ∧
    State.reset.parts = [] ∧ (((box id).modCluster 0 fun c => { c with hot := true }).cluster 0).hot = true := by decide +kernel

/-- A word of HBM without an error, with one bit flipped, and with two. -/
theorem witness_ErrorEvents : holdsWord (.hbm 0) 0x500 = true ∧ (∀ f ∈ (box id).flips, f.addr ≠ 0x500 / 8) ∧
    (∀ m ∈ [1#64, 3#64], let s := { box id with flips := [⟨0x500 / 8, m, 0, false⟩] }
      s.flips.find? (fun f => f.addr == s.boot.device.toNat * 2 ^ 45 + 0x500 / 8) = some ⟨0x500 / 8, m, 0, false⟩ ∧
      countBits m.toNat 64 + countBits 0 8 = (if m = 1#64 then 1 else 2)) :=
  ⟨by decide +kernel, by decide +kernel, fun m hm => ⟨by simp [show (box id).boot.device.toNat = 0 by decide +kernel], by
    simp only [List.mem_cons, List.not_mem_nil, or_false] at hm
    rcases hm with rfl | rfl <;> decide⟩⟩

/-! ### Steps -/

/-- The box about to issue `add g1, g1, g1` by its agenda. -/
def boxS : State := State.placeCode (box id) (bytesOfWords (encode (.add .s64 (.g 1) (.reg (.g 1)) (.reg (.g 1)))))

/-- The word fetched and executed from a state. -/
def fetched (s : State) : Option Instr :=
  match s.fetchAt s.st s.st.pc.toNat with
  | .ok (.ok i _, _) => some i
  | _ => none

theorem witness_StepRunsTheInstruction : (let s := boxS
     s.agenda.head? = some (.issue 0 0) ∧ s.turnStrand 0 0 = some s.st ∧ (s.part s.st.part).dbg.attach = false ∧
      (s.st.loop.suspended = false ∨ s.st.handler = true) ∧ s.sameClk (clusterOf 0) (s.cell 0).issuedAt = false ∧ s.st.cell = 0 ∧ s.st.slot = 0 ∧
      fetched { s with agenda := s.agenda.tail, st := { s.st with status := .running, bpDone := true } } =
        some (.add .s64 (.g 1) (.reg (.g 1)) (.reg (.g 1)))) ∧
    (∃ t : Strand, t.status = .running ∧ t.stepping = false) ∧
    isEvent .powerOn = true ∧
    (let s := { box (fun t => { t with status := .blocked .served }) with agenda := [] }
     s.agenda = [] ∧ s.sampleRail = none ∧ s.nextEvent.isSome = true) ∧
    (State.reset.agenda = [] ∧ State.reset.sampleRail = none ∧ State.reset.parts = [] ∧ State.reset.walks = [] ∧ State.reset.nextEvent = none ∧ State.reset.nextIssue.isNone = true) ∧
    (let s := box id
     s.locate s.st 0x500 2 false false true = .ok ⟨0x500, false⟩ ∧ Tab.has (s.cell s.st.cell).fetch (fetchKey s.st.asid 0x500) = false ∧
      0x500 % 64 = 0x500 % 64 ∧ 0x500 % 2 = 0) := by
  refine ⟨by decide +kernel, ⟨{ Strand.empty with status := .running }, rfl, rfl⟩, rfl, by decide +kernel, by decide +kernel, by decide +kernel⟩

/-- The placed instruction runs in the next step: g1 is doubled. -/
theorem witness_step_next : (match step { boxS with st := boxS.st.setG 1 5 .raw } with
    | .next s => some (s.st.g.get 1, s.st.pc)
    | _ => none) = some (10, 0x102) := by decide +kernel

/-- A canonical state with a step. -/
theorem witness_StepKeepsMemoryCanonical : ∃ s s' : State, Canonical s ∧ step s = .next s' ∧ s.mem ≠ [] :=
  ⟨boxS, (match step boxS with | .next s => s | _ => State.reset), ⟨by decide +kernel, by decide +kernel⟩, by
    have h : (match step boxS with | .next _ => true | _ => false) = true := by decide +kernel
    cases h2 : step boxS <;> simp_all, by decide +kernel⟩

/-- Well-formed instructions that fit in four words, with the least and the greatest operands. -/
theorem witness_DecodeInvertsEncode : ∀ i ∈ [Instr.add .s64 (.g 3) (.reg (.g 6)) (.reg (.g 4)), .trap 0, .trap 32767,
    .mma .bf16 .asA false 2 (.g 4) (.reg (.g 5))], i.wf = true ∧ encodable i = true := by decide

/-- A hypervisor that runs, and none. -/
theorem witness_ErrorEvents_serving : State.reset.boot.serving = false ∧
    ({ Boot.reset with powered := true, stage := 4 } : Boot).serving = true := by decide

/-! ### Further clauses: the turn of a fault, homes on this device, waits that end -/

/-- A fault may be taken at once: in and out of a handler, under a debugger, with a suspended loop, with a tile error; and not
yet, behind a vector instruction. -/
theorem witness_fault_turn : (∀ f ∈ [id, fun t : Strand => { t with handler := true }, fun t => { t with loop := { Loop.idle with suspended := true } },
      fun t => { t with terr := some 0x80 }], (box f).faultTurn = true ∧ (box f).st.loop.active = false) ∧
    (boxG2 id id).faultTurn = true ∧
    (box fun t => { t with terr := some 0x80, vq := [newEntry (box id) .nop 0 0 false] }).faultTurn = false := by
  refine ⟨fun f hf => ?_, rfl, rfl⟩
  simp only [List.mem_cons, List.not_mem_nil, or_false] at hf
  rcases hf with rfl | rfl | rfl | rfl <;> exact ⟨rfl, rfl⟩

/-- The memory that the witnesses of loads and stores use is on this device, and nothing is on its way to it. -/
theorem witness_homes_here : let s := boxG [(1, 0x200)]
    (∀ a < 0x400, s.remote a = false) ∧ s.remote 0xFFFC = false ∧ s.pairBusy s.st.cell 0xFFFC = false ∧
    s.storesDue s.st.uid = 0 ∧ Tab.get s.st.ldcSeen 0 (0x202 / 64) = 0 ∧ (∀ t ∈ s.parked, t.uid ≠ s.st.uid) ∧
    (∃ t, putReg s.st (.g 3) 1 .s16 = .ok t) := by
  refine ⟨fun a h => ?_, by decide, by decide +kernel, by decide, by decide, by simp [show (boxG [(1, 0x200)]).parked = [] from rfl], _, rfl⟩
  simp [State.remote, show (boxG [(1, 0x200)]).boot.device = 0 from rfl]
  omega

/-- `vrep` with its count in a queue that is empty, with room in the sequencer and with none. -/
theorem witness_VectorLoops_due : let body (s : State) := { s with mem := memPut s.mem 0x104 (bytesOfWords [0xF118, 0x1299]) }
    let s := body (box id)
    let q := { s with st := { s.st with vq := List.replicate 16 (newEntry s .nop 0 0 false) } }
    (∀ x ∈ [s, q], x.st.loop.suspended = false ∧ x.st.loop.active = false ∧ hazard (.vrep 0 (.q 2)) x = false ∧
      vectorMisuse (some (.reg (.q 2))) = none ∧ x.st.q.get 2 = [] ∧
      (match fetchBody x x.st.npc.toNat x.st.vnum 1 with
      | .ok (es, _, s1) => es.all (fun e => !hazard e.ins x && (tilesClear x.st e.ins).isOk) &&
          decide (s1.seqCount s1.st.cell + es.length ≤ 16) == x.st.vq.isEmpty
      | _ => false) = true) ∧
    SReg.q 2 = .q (Fin.castLE (by decide) (2 : Fin 4)) := by
  refine ⟨fun x hx => ?_, rfl⟩
  simp only [List.mem_cons, List.not_mem_nil, or_false] at hx
  rcases hx with rfl | rfl <;> exact ⟨rfl, rfl, by decide +kernel, rfl, rfl, by decide +kernel⟩

/-- A loop whose count has come, and is 0 or 3; one that has its count. -/
theorem witness_VectorLoops_count : (∀ n ∈ [(0 : Word), 3], let b := loopBox .s32 0 0
      let s : State := { b with st := { b.st with q := b.st.q.set 2 [⟨n, .raw, false⟩], loop := { b.st.loop with due := some 2 } } }
      s.st.loop.due = some 2 ∧ s.st.q.get ((2 : Fin 4).castLE (by decide)) = [⟨n, .raw, false⟩] ∧ s.st.saves = [] ∧ s.accs = [] ∧
      (match s.st.vq with
        | h :: _ => h.body && (s.st.vq[s.st.loop.idx]?.any fun e => e.body && e.walk.isNone) && s.st.vq.all (!·.started)
        | [] => false) = true ∧ s.parked = [] ∧ s.st.status = .ready ∧ s.st.stepping = false ∧ s.async = false) ∧
    (let s := loopBox .s32 0 2
     s.st.saves = [] ∧ s.accs = [] ∧ s.st.loop.due = none) := by
  refine ⟨fun n hn => ?_, rfl, rfl, rfl⟩
  simp only [List.mem_cons, List.not_mem_nil, or_false] at hn
  rcases hn with rfl | rfl <;> exact ⟨rfl, rfl, rfl, rfl, by decide +kernel, rfl, rfl, rfl, rfl⟩

/-- A ring operation that is sent on its way; a slot of a ring on this device. -/
theorem witness_RingsAndBarriers_async : let s := { boxM [(1, 0x200), (2, 9)] 0x200 [0, 1, 1, 0x300] with async := true }
    RecordAt (.enq (.g 3) (.reg (.g 1)) (.reg (.g 2))) s (.reg (.g 1)) 32 3 true true (src 0x200 1) s.st s.st 0x200 ∧
    RecordAt (.deq (.g 3) (.reg (.g 1))) s (.reg (.g 1)) 32 3 true true (src 0x200 1) s.st s.st 0x200 ∧ NoWatch s 0x200 32 ∧
    (boxM [] 0x200 []).async = false ∧ s.remote 0x300 = false ∧ s.remote 0x301 = false :=
  ⟨record_at rfl (by decide +kernel), record_at rfl (by decide +kernel), noWatch_of (by decide +kernel), rfl, by decide, by decide⟩

/-- Event 7 with no waiter, a strand that the count covers, a task that it covers, and one that it does not; room for another. -/
theorem witness_Events_waiters : ∀ p ∈ ([(0, []), (2, [.strand 5 2]), (2, [.task 3 1]), (1, [.strand 5 2])] : List (Nat × List Waiter)),
    let s := (boxE [(1, 7), (2, 3)]).modPart 1 fun x => { x with events := [(7, ⟨BitVec.ofNat 32 p.1, p.2⟩)] }
    ((s.part 1).event 7).waiters = p.2 ∧ (s.part 1).waiterRoom 7 = true ∧
    (p.2.head?.all fun w => decide (((s.part 1).event 7).count.toNat < w.wanted) == decide (p.1 = 1)) = true ∧
    OperandsAB s (.reg (.g 1)) (.reg (.g 2)) (src 7 1) (src 3 2) s.st ∧ HomeReady (.evwait (.reg (.g 1)) (.reg (.g 2))) s ∧
    (∃ l, s.launchOf s.st = some l ∧ l.eff.evBase = 4 ∧ l.eff.evCount = 4) := by
  intro p hp
  simp only [List.mem_cons, List.not_mem_nil, or_false] at hp
  rcases hp with rfl | rfl | rfl | rfl <;>
    exact ⟨by decide +kernel, by decide +kernel, by decide +kernel, operands_ab rfl rfl (by decide +kernel), home_ready (by decide +kernel), _, rfl, rfl, rfl⟩

/-- Every piece of the image is on this device, with nothing on its way to it. -/
theorem witness_TileScansAndImages_homes : boxI.st.top = none ∧
    ∀ p ∈ imagePieces imageAt, boxI.remote p.2.1.pa = false ∧ boxI.pairBusy boxI.st.cell p.2.1.pa = false := by decide +kernel

/-- A region as its homes hold it. -/
theorem witness_StepsAndSweeps_seen : let s := boxW [] [(1, stepRegion)] [1] 0
    (s.part 1).region? (BitVec.ofNat 64 1) = some stepRegion ∧ stepRegion.seen.length = 4 := by decide +kernel

/-- Knot 0 to be moved; memory without an error; a unit with room and a full one that holds another knot's increments. -/
theorem witness_Knots_more : (let s := boxK [(1, 0), (2, 2)] id someKnots
     HomeReady (.kmove (.reg (.g 1)) (.reg (.g 2))) s ∧ OperandsAB s (.reg (.g 1)) (.reg (.g 2)) (src 0 1) (src 2 2) s.st ∧ Quiet s ∧
      s.knotLive 1 0 = true ∧ s.knotInterior 1 2 = true ∧
      ((List.range (s.part 1).knotTop).filter fun k => s.knotLive 1 k && s.beneath 1 0 k).all (fun k =>
        decide ((s.knot 1 k).depth - (s.knot 1 0).depth + ((s.knot 1 2).depth + 1) ≤ 16)) = false) ∧
    (let s := boxK [(1, 0), (2, 2)] id (someKnots.take 3)
     s.knotLive 1 0 = true ∧ s.knotInterior 1 2 = true ∧
      ((List.range (s.part 1).knotTop).filter fun k => s.knotLive 1 k && s.beneath 1 0 k).all (fun k =>
        decide ((s.knot 1 k).depth - (s.knot 1 0).depth + ((s.knot 1 2).depth + 1) ≤ 16)) = true) ∧
    (let s (n : Nat) := ((boxK [] id someKnots).modDie 3 fun x => { x with rollups := [(1, 1, 2)] }).modDie 0 fun x => { x with rollups := List.replicate n (9, 1, 1) }
     (s 1).unitRoom 0 1 = true ∧ (s 4096).unitRoom 0 1 = false ∧ ((s 4096).die 0).rollups.find? (fun e => e.1 == 1 && e.2.1 == 1) = none) :=
  ⟨⟨home_ready (by decide +kernel), operands_ab rfl rfl (by decide +kernel), ⟨by decide +kernel, by decide +kernel, by decide +kernel⟩, by decide +kernel, by decide +kernel, by decide +kernel⟩,
    by decide +kernel, by decide +kernel⟩

/-- A population whose collective is in its copies, and one that is not. -/
theorem witness_Populations_fixed : let s (b : Bool) := (boxP [(1, 7), (3, 2)] none 1).modPart 1 fun x => { x with
      pops := [(3, ⟨0, 0, 1, [⟨5, 4, none, 6⟩], b⟩)] }
    ∀ b, HomeReady (.resample (.g 3) (.g 4)) (s b) ∧ ((s b).part 1).pop? (s b).st.popId.toNat = some ⟨0, 0, 1, [⟨5, 4, none, 6⟩], b⟩ ∧
      takeReg (s b) (s b).st (.g 3) = .ok (src 2 3, (s b).st) := by
  intro s b
  cases b <;> exact ⟨home_ready (by decide +kernel), rfl, run_eq (by decide +kernel)⟩

/-- A B-store that is dead for a command, and one that is not. -/
theorem witness_EngineCommands_dead : let pa := bstoreBase 0 0
    let s := boxC [cmdOf 2 .plain sliceDesc 1] true
    let q := s.modPart 1 fun x => { x with dead := [homeOf pa] }
    (s.part 1).dead.contains (homeOf pa) = false ∧ (q.part 1).dead.contains (homeOf pa) = true ∧ s.remote pa = false := by decide +kernel

/-! ### Further clauses of the events -/

/-- A message behind an access of its pair that has entered its path, one behind a reply, and one for another device; a slot
that may be taken, and a moving context on this device. -/
theorem witness_MessageEvents_pairs : (let m : Msg := { msgOf .normal 0x100 1 0 with dst := 16 }
     let x : Access := { accNow (.st .s64 (.g 3) (.reg (.g 1)) 0) false with id := 5, pa := 0x100000400000 }
     let r : Access := { accNow (.ld .s64 (.g 3) (.reg (.g 1)) 0) true with cell := 16, pa := 0x100000000000, doneAt := 5 }
     let s : State := { boxN with flight := [m], accs := [x] }
     s.flight.find? (fun y => y.id == 7) = some m ∧ m.host = none ∧ m.src ≠ m.dst ∧ x.done = false ∧ x.cell = m.src ∧
      homeCell x.pa = some m.dst ∧ x.id < m.sent ∧ s.strand? x.uid = some s.st ∧ s.entered x s.st = true ∧
      r.done = true ∧ r.fault = none ∧ r.cell = m.dst ∧ homeCell r.pa = some m.src ∧ r.doneAt < m.sent) ∧
    (let m : Msg := { msgOf .normal 0x100 1 0 with dst := 2 * 4096 }
     let s : State := { boxN with flight := [m] }
     s.flight.find? (fun y => y.id == 7) = some m ∧ s.behind m = false ∧ deviceOf m.dst ≠ s.boot.device.toNat) ∧
    boxN.openSlot 0 = some 1 ∧ deviceOf (boxO fun t => { t with status := .moving }).st.cell = boxN.boot.device.toNat ∧
    (boxO fun t => { t with status := .moving }).openSlot 0 = some 1 := by decide +kernel

/-- A fault of an access whose strand has been stopped; an answer that no access waits for, with no access that may fault. -/
theorem witness_AccessEvents_more : (let x := accOf (.ld .s32 (.g 3) (.reg (.g 1)) 0) true (some (0x0605, 0x500))
     let s : State := { box (fun t => { t with status := .stopped }) with accs := [x] }
     s.accs.find? (fun y => y.id == 7 && y.done) = some x ∧ s.strand? 5 = some s.st ∧ s.replyHeld x = false ∧ s.st.uid = x.uid ∧
      s.st.status = .stopped) ∧
    (Strand.takesLate { (box id).st with status := .blocked .served } (accOf .nop true none) = false ∧
      Status.blocked .served ≠ .stopped) ∧
    (box id).accs = [] ∧ (box id).risky = false := by decide +kernel

/-- What the events that execute ask besides: settled accesses, and the turn of a fault. -/
theorem witness_ExecutionEvents_more : (box id).unsettledBefore 5 0 = false ∧ (box id).faultTurn = true ∧
    (seqBox .s32).faultTurn = false := by decide +kernel

/-- A tile task and a copy task of the box's launch at the head of cluster 0's deque, with a product in page 1 or not in SRAM. -/
def boxTask (words : List Nat) (async : Bool) (mem : List Word) : State :=
  let s := (boxT [] []).modPart 1 fun x => { x with tasks := [⟨3, 0, 1, 0, 0, 0, words.map (BitVec.ofNat 64), .queued, 0, false, false, none⟩] }
  let s := (s.modCluster 0 fun c => { c with deque := [(1, 3)] }).modDie 0 fun d => { d with tlb := [⟨0, 0, 16, 0, true, true, false, false⟩,
    ⟨0, 1, 16, 0x100000000000, true, true, false, false⟩] }
  { s with async := async, mem := memPutWords s.mem 0x2000 mem }

/-- The words of a tile task: `mma.bf16` of tile 0 with A at an address. -/
def tileWords (a : Nat) : List Nat := [1, 0, 0, 0, 32 * 8 * Fmt.bf16.code, a, 0, 0]

/-- How a task's product ends: complete, under way, or with a fault. -/
def productEnds (s : State) : Nat :=
  match s.dequeTasks 0 with
  | (p, t, l) :: _ => if s.dispatchable p l t 0 && p == 1 && t.kind == 1 then
      (match t.product { s with st := t.engineStrand (s.cellZero 0) p } with
      | .ok s1 => if s1.st.pc ≠ 0 then 1 else 2
      | .error (.trap _ _) => 3
      | .error _ => 4) else 5
  | [] => 6

/-- Does a task of kind 2 give its engine a command, or a fault? -/
def descEnds (s : State) : Nat :=
  match s.dequeTasks 0 with
  | (p, t, l) :: _ => if s.dispatchable p l t 0 && p == 1 && t.kind == 2 then
      (match s.taskDesc (t.unit 0 p) t with
      | .ok (ws, stack, s1) =>
        let cmd := t.cmd s1.nextId (s.cellZero 0) p ws stack
        if (s1.engineQueue cmd.engine.1 cmd.engine.2.1).length < cmd.engine.2.2 then 1 else 2
      | .error (.trap _ _) => 3
      | .error _ => 4) else 5
  | [] => 6

theorem witness_TaskEvents_kinds : productEnds (boxTask (tileWords 0x10000) false []) = 1 ∧
    productEnds (boxTask (tileWords 0x10000) true []) = 2 ∧ productEnds (boxTask (tileWords 0x1000) false []) = 3 ∧
    descEnds (boxTask [2, 0x2000, 0, 0, 0, 0, 0, 0] false copyDesc) = 1 ∧ descEnds (boxTask [2, 0x2000, 0, 0, 0, 0, 0, 0] false [0]) = 3 ∧
    (let s := boxJ (taskOf 0 (2 ^ 42) .ready) [] someKnots id; s.flips = [] ∧ s.poison = [] ∧ s.arrays = []) := by decide +kernel

/-- A machine whose one launch waits for the 32 cells of a gang of two clusters. -/
def gangBox : State := { State.reset with parts := [(1, { Part.reset with desc := Part.reset.desc.set 1 3, launches := [{ placedLaunch Strand.empty with
  num := 2, stage := .queued, fixed := false, cellSet := [], hbmHeld := false, slotsUsed := 0
  eff := ⟨32, 1, 0, 0, 0, 0, 0, 0, 1, 0, 0, .rne, 0, 0, 0, 0, 0, 0, 0, 0⟩ }] })] }

/-- A fixed set of a gang that is not aligned; a queued launch with a gang, and one with fixed cells. -/
theorem witness_LaunchEvents_sets : (let cmd : LaunchCmd := ⟨0x2000, 0, 0, true, 1, 0, false, some 5⟩
     cmd.fixed = true ∧ cmd.first % 16 ≠ 0) ∧
    onHead gangBox (fun l => l.num == 2 && l.stage == .queued && !l.fixed && l.eff.gang == 1 && !(gangBox.part 1).ending l
      && !gangBox.accepting 1 2 && (gangBox.chooseSet 1 l []).isSome && decide ((gangBox.part 1).hbmUsed + l.eff.hbm ≤ (gangBox.part 1).quota)) = true ∧
    (let s := boxL fun l => { l with fixed := true, first := 2 }
     onHead s (fun l => l.num == 2 && l.stage == .queued && l.fixed && !(s.part 1).ending l && !s.accepting 1 2
      && s.chooseSet 1 l [] == some [2] && decide ((s.part 1).hbmUsed + l.eff.hbm ≤ (s.part 1).quota)) = true) := by decide +kernel

/-- A strand at rest with no poisoned word of its own; memory without poison. -/
theorem witness_SpillAndRestore_more : boxN.st.top = none ∧ boxN.st.badWords = [] ∧ (boxF []).poison = [] := by decide +kernel

/-- Strands of a domain that is ending: one stopped with an access still out, one that cannot stop yet, and ones that can; a dead home. -/
theorem witness_DomainEvents_stops : (let s := { boxE2 [endOf 0 0] with
      st := { boxN.st with status := .stopped }, accs := [accNow (.ld .s64 (.g 3) (.reg (.g 1)) 0) false] }
     (s.part 1).inPhase 0 = some (endOf 0 0) ∧ (∃ t ∈ s.strandsOf 1 ((s.part 1).subtree 0), t.status = .stopped ∧ s.atRest t = false)) ∧
    (let s := { boxE2 [endOf 0 0] with st := { boxN.st with status := .blocked .served } }
     ∃ t ∈ s.strandsOf 1 ((s.part 1).subtree 0), t.status ≠ .stopped ∧ t.inSlot = true ∧ s.canStop t = false) ∧
    (let s := { boxE2 [endOf 0 0] with st := boxN.st }
     (∀ t ∈ s.strandsOf 1 ((s.part 1).subtree 0), (t.status = .stopped → s.atRest t = true) ∧ (t.status ≠ .stopped → t.inSlot = true →
      s.canStop t = true ∧ (let s1 := (s.focus t.uid).takeBack; s1.atRest s1.st = true))) ∧
      (∃ t ∈ s.strandsOf 1 ((s.part 1).subtree 0), t.inSlot = true)) ∧
    (let s := (boxE2 [endOf 0 3]).modPart 1 fun x => { x with dead := [homeOf (sramBase 0)] }
     (s.part 1).inPhase 3 = some (endOf 0 3) ∧ (s.part 1).dead.contains (homeOf (sramBase 0)) = true ∧ 0 ∈ s.subtreeCells 1 0) := by
  decide +kernel

/-- A page of BAR2 on this device. -/
theorem witness_HostAndPartitionEvents_here : (boxH id).remote 0x500 = false ∧ (1 : Nat) < 16 := by decide +kernel

set_option maxRecDepth 100000 in
/-- Samples taken and not; a stop that is hardened; strands that a stop halts, that a command waits for, and neither; uids apart. -/
theorem witness_DebugEvents_more : (let s := (boxN.modPart 1 fun x => { x with rings := [(0, { Ring.reset with en := true, kmask := 0xFFFF })] })
     { s with boot := { s.boot with ready := true } }.sampling = true) ∧ boxN.sampling = false ∧
    (let g (op : BitVec 4) := (boxG2 (fun d => { d with busy := true, op := op }) id |>.part 1).dbg
     ((g 1).op = 1 ∧ 0 = (g 1).cell.toNat) ∧ ((g 2).op = 2) ∧ ((g 6).op = 6) ∧ (g 4).op ≠ 1 ∧ (g 4).op ≠ 2 ∧ (g 4).op ≠ 6) ∧
    (let s := (boxG2 (fun d => { d with busy := true, op := 1 }) id).modCell 0 fun c => { c with stopped := true }
     s.parked = [] ∧ s.st.part = 1 ∧ s.residentStops s.st = true ∧ s.canHalt s.st = true) ∧
    (let s := (boxG2 (fun d => { d with busy := true, op := 1 }) fun t => { t with act := true }).modCell 0 fun c => { c with stopped := true }
     s.parked = [] ∧ s.residentStops s.st = false ∧ s.hardens s.st = false ∧ s.st.act = true ∧ (s.part 1).dbg.targets s.st.cell = true ∧
      s.st.inSlot = true ∧ s.st.status ≠ .halted) ∧
    (let s := boxG2 (fun d => { d with busy := true, op := 1 }) id
     s.parked = [] ∧ s.residentStops s.st = false ∧ s.hardens s.st = false ∧ s.st.act = false) ∧
    ((boxG2 id id).st :: (boxG2 id id).parked |>.map (·.uid)).Nodup ∧ (boxG2 id id).hasCell 1 0 = true ∧
    ((boxG2 id id).part 1).dbg.busy = false ∧ ((boxG2 id id).part 1).dbg.attach = true ∧ (boxG2 id id).st.badWords = [] := by
  decide +kernel

/-- A module shut down while it is hot and one that has cooled; a hot cluster before POWER_ON; work that has arrived. -/
theorem witness_BootAndPowerEvents_hot : (let s (c : Int) : State := { State.reset with
      boot := { Boot.reset with shut := true }, power := { State.reset.power with sensors := [(256, c)] } }
     ((s 90).boot.shut = true ∧ ¬∀ e ∈ (s 90).power.sensors, e.2 < 85) ∧ ∀ e ∈ (s 84).power.sensors, e.2 < 85) ∧
    State.reset.boot.shut = false ∧ (∀ e ∈ State.reset.clusters, e.2.hot = false) ∧
    (∃ e ∈ ((box id).modCluster 0 fun c => { c with hot := true }).clusters, e.2.hot = true) ∧
    (let s := (box id).modCluster 0 fun c => { c with gated := true, arrived := true }
     (s.cluster 0).gated = true ∧ (s.cluster 0).arrived = true) ∧
    ({ Boot.reset with powered := true } : Boot).powered = true := by decide +kernel

theorem filter_self (f : Flip) : [f].filter (fun y => y.addr / 2 == f.addr / 2) = [f] := by simp

/-- A tile word with one bit flipped and with two; an array that lacks a word; log entries empty, older and newer. -/
theorem witness_ErrorEvents_tiles : holdsWord (.tiles 0) 5 = true ∧ 5 < 2 ^ 18 ∧ holdsWord (.sram 0) (2 ^ 40) = false ∧
    (let e (kind time : Nat) : ErrEntry := ⟨BitVec.ofNat 64 (kind * 2 ^ 56), 0, BitVec.ofNat 64 time⟩
     (e 0 0).kind = 0 ∧ (e 1 9).kind ≠ 2 ∧ (e 1 9).kind ≠ 0 ∧ (e 2 9).kind = 2 ∧ (e 1 9).w2.toNat = 9) ∧
    (∀ m ∈ [1#64, 3#64], let f : Flip := ⟨2 ^ 62 + 0 * 2 ^ 18 + 5, m, 0, false⟩
      [f].filter (fun f => f.addr / 2 == (2 ^ 62 + 0 * 2 ^ 18 + 5) / 2) = [f] ∧
      countBits f.dmask.toNat 64 + countBits f.cmask.toNat 8 = (if m = 1#64 then 1 else 2)) :=
  ⟨by decide +kernel, by decide, by decide +kernel, by decide +kernel, fun m hm => ⟨filter_self _, by
    simp only [List.mem_cons, List.not_mem_nil, or_false] at hm
    rcases hm with rfl | rfl <;> decide⟩⟩

/-- Cached lines in parity error: in the cell's cache, in the cluster's, in the fetch path. -/
theorem witness_ErrorEvents_lines : (let s := (box id).modCell 0 fun c => { c with ldc := [(8, [1])], flawed := [8] }
     s.ownAnswers 0 8 0 = true ∧ (s.cell 0).flawed.contains 8 = true) ∧
    (let s := (box id).modCluster 0 fun c => { c with ldc := [(8, [1])], flawed := [8] }
     s.ownAnswers 0 8 0 = false ∧ Tab.has (s.cluster (clusterOf 0)).ldc 8 = true ∧ (s.cluster (clusterOf 0)).flawed.contains 8 = true) ∧
    (let key := fetchKey 0 0x500
     let s := (box id).modCell 0 fun c => { c with fetch := [(key, [1])], flawed := [key] }
     s.locate s.st 0x500 2 false false true = .ok ⟨0x500, false⟩ ∧ Tab.has (s.cell 0).fetch (fetchKey s.st.asid 0x500) = true ∧
      (s.cell 0).flawed.contains key = true) := by decide +kernel

/-- The hypervisor's registers: a partition live and not, queues at rest and not, words 0 and 1 of a descriptor, a peer that is
live and one that is not, commands 0 and 6. -/
theorem witness_ErrorEvents_registers : (let s : State := { boxH id with boot := { Boot.reset with powered := true, stage := 4 } }
     s.boot.serving = true ∧ (s.part 1).live = true ∧ (s.part 2).live = false ∧ (s.part 1).fn.lqHead = (s.part 1).fn.lqTail ∧
      s.boot.device.toNat = 0 ∧ descLive (Tab.get (s.part 1).peers (List.replicate 20 0) 3) = false ∧ (s.part 1).dbg.busy = false) ∧
    ((boxH fun f => { f with lqTail := 1 }).part 1).fn.lqHead ≠ ((boxH fun f => { f with lqTail := 1 }).part 1).fn.lqTail ∧
    descLive ((List.replicate 20 (0 : Word)).set 0 1) = true ∧ (1 : Word).getLsbD 0 = true ∧ (2 : Word).getLsbD 0 = false := by
  decide +kernel

/-- A strand with no breakpoint; one that a single step ends; one that still waits; the turn of a sequencer in its clk and in a
later one; a home on this device. -/
theorem witness_StepRunsTheInstruction_more : boxS.bpHits boxS.st = [] ∧
    (∀ st ∈ [true, false], let t := (box fun t => { t with status := .running, stepping := st }).st
      t.status = .running ∧ t.stepping = st ∧ t.top = none ∧ t.vq = []) ∧
    (box fun t => { t with status := .blocked .issue }).st.status = .blocked .issue ∧
    (let s (b : Bool) := { seqBox .s32 with agenda := [.event (.sequencerExecute 0)] }.modCell 0 fun c => { c with
      seqAt := if b then some (seqBox .s32).units else none }
     ∀ b, (s b).agenda = .event (.sequencerExecute 0) :: [] ∧ (s b).sameClk (clusterOf 0) ((s b).cell 0).seqAt = b ∧
      (match exec (.sequencerExecute 0) (s b) with
      | .next _ => true
      | _ => false) = true) ∧ (box id).remote 0x500 = false := by decide +kernel

end Sys2Proof.Tests
end

section
namespace Sys2Proof.Proofs
open Sys2Proof Sys2Proof.Machine Sys2Proof.Safety Sys2Proof.Laws

/-! ### Reads and writes of byte spans (O21) -/

/-- The one arithmetic fact about little-endian numbers: byte `b - a` of `x` is byte `b - (a + 1)` of `x / 256`. -/
theorem div_pow_succ_sub {a b : Nat} (x : Nat) (h : a < b) :
    x / 256 / 256 ^ (b - (a + 1)) = x / 256 ^ (b - a) := by
  rw [Nat.div_div_eq_div_mul, ← pow_succ', show b - (a + 1) + 1 = b - a by omega]

theorem memGet_memWrite_outside (n : Nat) {m : List Host.Cell} (h : memWf m = true) {a b : Nat} (x : Nat)
    (hb : b < a ∨ a + n ≤ b) : memGet (memWrite m a n x) b = memGet m b := by
  induction n generalizing m a x with
  | zero => rfl
  | succ n ih =>
    rw [memWrite, ih (memSet_wf h _ _) _ (by omega), memGet_memSet h, if_neg (by omega)]

theorem memGet_memWrite_inside (n : Nat) {m : List Host.Cell} (h : memWf m = true) {a b : Nat} (x : Nat)
    (ha : a ≤ b) (hb : b < a + n) : memGet (memWrite m a n x) b = BitVec.ofNat 8 (x / 256 ^ (b - a) % 256) := by
  induction n generalizing m a x with
  | zero => omega
  | succ n ih =>
    have hset := memSet_wf h a (BitVec.ofNat 8 (x % 256))
    rcases Nat.eq_or_lt_of_le ha with rfl | hlt
    · rw [memWrite, memGet_memWrite_outside n hset _ (by omega), memGet_memSet h]
      simp
    · rw [memWrite, ih hset _ hlt (by omega), div_pow_succ_sub x hlt]

/-- A span that holds the bytes of `x` reads as `x` modulo its size. -/
theorem memRead_of_bytes (n : Nat) {m : List Host.Cell} {a x : Nat}
    (h : ∀ b, a ≤ b → b < a + n → memGet m b = BitVec.ofNat 8 (x / 256 ^ (b - a) % 256)) :
    memRead m a n = x % 256 ^ n := by
  induction n generalizing a x with
  | zero => simp [memRead, Nat.mod_one]
  | succ n ih =>
    have hrest : memRead m (a + 1) n = x / 256 % 256 ^ n := ih fun b hb hlt => by
      rw [h b (by omega) (by omega), div_pow_succ_sub x (by omega)]
    rw [memRead, h a le_rfl (by omega), hrest, Nat.pow_succ', Nat.mod_mul]
    simp

/-- Settles O21: induction on the number of bytes of the written span. -/
theorem readAfterWrite : Obligations.ReadAfterWrite := by
  unfold Obligations.ReadAfterWrite
  intro m a n x b hm
  exact ⟨memGet_memWrite_inside n hm x, memGet_memWrite_outside n hm x, memWrite_wf hm a n x,
    memRead_of_bytes n fun _ => memGet_memWrite_inside n hm x⟩

end Sys2Proof.Proofs

end

section
namespace Sys2Proof.Proofs
open Sys2Proof Sys2Proof.Machine Sys2Proof.Safety Sys2Proof.Laws

/-- The state that a stop holds, if it holds one, is canonical. -/
def StopCanonical : Stop → Prop
  | .found s _ _ => Canonical s
  | _ => True

/-- A run keeps memory canonical: what it answers has the property `P`, and what stops it holds no other state. -/
structure RunKeeps {α : Type} (P : α → Prop) (r : Run α) : Prop where
  ok : ∀ a, r = .ok a → P a
  error : ∀ e, r = .error e → StopCanonical e

/-- The next state that an instruction or event answers is canonical. -/
structure OutCanonical (o : Out) : Prop where
  of_next : ∀ s, o = .next s → Canonical s

theorem OutCanonical.next {s : State} (h : Canonical s) : OutCanonical (.next s) where
  of_next _ hs := by cases hs; exact h

section
variable {α β : Type} {P : α → Prop} {Q : β → Prop}

theorem RunKeeps.ret {a : α} (h : P a) : RunKeeps P (.ok a) where
  ok _ ha := by cases ha; exact h
  error _ he := by cases he

theorem RunKeeps.stop {e : Stop} (h : StopCanonical e) : RunKeeps P (.error e) where
  ok _ ha := by cases ha
  error _ he := by cases he; exact h

theorem RunKeeps.bind {r : Run α} {f : α → Run β} (h : RunKeeps P r) (hf : ∀ a, P a → RunKeeps Q (f a)) :
    RunKeeps Q (r >>= f) := by
  cases r with
  | ok a => exact hf a (h.ok a rfl)
  | error e => exact .stop (h.error e rfl)

/-- A run of which nothing is asked but how it stops. -/
theorem RunKeeps.bind_any {r : Run α} {f : α → Run β} (h : RunKeeps (fun _ => True) r) (hf : ∀ a, RunKeeps Q (f a)) :
    RunKeeps Q (r >>= f) :=
  h.bind fun a _ => hf a

theorem RunKeeps.ok_bind {a : α} {f : α → Run β} (hf : RunKeeps Q (f a)) : RunKeeps Q (Except.ok a >>= f) := hf

/-- A check in the middle of a run: the two ways meet again in `f`. -/
theorem RunKeeps.ite_bind {c : Prop} [Decidable c] {r r' : Run α} {f : α → Run β} (h : RunKeeps P r) (h' : RunKeeps P r')
    (hf : ∀ a, P a → RunKeeps Q (f a)) : RunKeeps Q (if c then r >>= f else r' >>= f) := by
  split
  · exact h.bind hf
  · exact h'.bind hf

theorem RunKeeps.ite_bind_any {c : Prop} [Decidable c] {r r' : Run α} {f : α → Run β} (h : RunKeeps (fun _ => True) r)
    (h' : RunKeeps (fun _ => True) r') (hf : ∀ a, RunKeeps Q (f a)) : RunKeeps Q (if c then r >>= f else r' >>= f) :=
  h.ite_bind h' fun a _ => hf a

/-- A check that stops the run. -/
theorem RunKeeps.guard {c : Prop} [Decidable c] {e : Stop} {r : Run α} (he : StopCanonical e) (hr : RunKeeps P r) :
    RunKeeps P (if c then .error e else r) := by
  split
  · exact .stop he
  · exact hr

theorem RunKeeps.map {r : Run α} {f : α → β} (h : RunKeeps P r) (hf : ∀ a, P a → Q (f a)) : RunKeeps Q (r.map f) := by
  cases r with
  | ok a => exact .ret (hf a (h.ok a rfl))
  | error e => exact .stop (h.error e rfl)

theorem RunKeeps.forM {l : List α} {f : α → Run PUnit} (hf : ∀ a, RunKeeps (fun _ => True) (f a)) :
    RunKeeps (fun _ => True) (l.forM f) := by
  induction l with
  | nil => exact .ret trivial
  | cons a l ih => exact (hf a).bind_any fun _ => ih

theorem RunKeeps.mapM {l : List α} {f : α → Run β} (hf : ∀ a, RunKeeps (fun _ => True) (f a)) :
    RunKeeps (fun _ => True) (l.mapM f) := by
  induction l with
  | nil => exact .ret trivial
  | cons a l ih =>
    rw [List.mapM_cons]
    exact (hf a).bind_any fun _ => ih.bind_any fun _ => .ret trivial

theorem RunKeeps.mono {P' : α → Prop} {r : Run α} (h : RunKeeps P r) (hp : ∀ a, P a → P' a) : RunKeeps P' r where
  ok a ha := hp a (h.ok a ha)
  error := h.error

end

/-- Memory is all that the canonical form speaks of: every other field may change. -/
theorem canonical_update {s : State} {now phase agenda async free nextId st parked poison flips cells clusters dies accs
    flight cmds sidings walks invs parts asids arrays boot power} (h : Canonical s) :
    Canonical ⟨now, phase, agenda, async, free, nextId, st, parked, s.mem, poison, flips, s.hostMem, cells, clusters, dies,
      accs, flight, cmds, sidings, walks, invs, parts, asids, arrays, boot, power⟩ := h

theorem canonical_fst {β : Type} {x : State × β} {s : State} {b : β} (h : Canonical x.1) (hx : x = (s, b)) : Canonical s := by
  subst hx
  exact h

theorem canonical_snd {α : Type} {x : α × State} {s : State} {a : α} (h : Canonical x.2) (hx : x = (a, s)) : Canonical s := by
  subst hx
  exact h

theorem canonical_thd {α β : Type} {x : α × β × State} {s : State} {a : α} {b : β} (h : Canonical x.2.2)
    (hx : x = (a, b, s)) : Canonical s := by
  subst hx
  exact h

theorem foldl_canonical {α : Type} {f : State → α → State} (hf : ∀ s x, Canonical s → Canonical (f s x)) {s : State}
    (h : Canonical s) (l : List α) : Canonical (l.foldl f s) := by
  induction l generalizing s with
  | nil => exact h
  | cons x l ih => exact ih (hf _ _ h)


/-! #### Machine/Ops.lean -/

theorem setCell_canonical {s c x} (h : Canonical s) : Canonical (s.setCell c x) := h
theorem modCell_canonical {s c f} (h : Canonical s) : Canonical (s.modCell c f) := setCell_canonical h
theorem setCluster_canonical {s k x} (h : Canonical s) : Canonical (s.setCluster k x) := h
theorem modCluster_canonical {s k f} (h : Canonical s) : Canonical (s.modCluster k f) := setCluster_canonical h
theorem modDie_canonical {s d f} (h : Canonical s) : Canonical (s.modDie d f) := h
theorem setPart_canonical {s p x} (h : Canonical s) : Canonical (s.setPart p x) := h
theorem modPart_canonical {s p f} (h : Canonical s) : Canonical (s.modPart p f) := setPart_canonical h
theorem modStrand_canonical {s uid f} (h : Canonical s) : Canonical (s.modStrand uid f) := h

theorem focus_canonical {s uid} (h : Canonical s) : Canonical (s.focus uid) := by
  unfold State.focus
  split
  · exact h
  · split <;> exact h

theorem addStrand_canonical {s t} (h : Canonical s) : Canonical (s.addStrand t) := h
theorem raise_canonical {s p n} (h : Canonical s) : Canonical (s.raise p n) := modPart_canonical h
theorem setArray_canonical {s a r} (h : Canonical s) : Canonical (s.setArray a r) := h

theorem logError_canonical {s a addr kind inj syn c owner} (h : Canonical s) :
    Canonical (s.logError a addr kind inj syn c owner) := by
  unfold State.logError
  dsimp only
  split
  · split
    · exact raise_canonical (setArray_canonical h)
    · exact setArray_canonical h
  · exact setArray_canonical h

theorem findError_canonical {s w c} (h : Canonical s) : Canonical (s.findError w c) := by
  unfold State.findError
  dsimp only
  split
  · exact h
  · split
    · exact h
    · split
      · exact logError_canonical h
      · exact canonical_update (logError_canonical h)

theorem findErrors_canonical {s c w n} (h : Canonical s) : Canonical (s.findErrors c w n) := by
  induction n generalizing s c w h with
  | zero => exact h
  | succ n ih =>
    unfold State.findErrors
    exact ih (findError_canonical h)

theorem readAt_canonical {s c pa n} (h : Canonical s) : Canonical (s.readAt c pa n).2.2 := by
  unfold State.readAt
  dsimp only
  split
  · exact h
  · split
    · exact canonical_update (findErrors_canonical h)
    · exact findErrors_canonical h

theorem inject_canonical {s pa n} (h : Canonical s) : Canonical (s.inject pa n) := by
  unfold State.inject
  dsimp only
  split
  · exact h
  · split
    · exact setArray_canonical h
    · exact h

/-- Memory written, everything else as it is. -/
theorem canonical_memWrite {s : State} (h : Canonical s) (a n x : Nat) :
    Canonical { s with mem := memWrite s.mem a n x } := ⟨memWrite_wf h.1 a n x, h.2⟩

theorem writeAt_canonical {s c pa n x} (h : Canonical s) : Canonical (s.writeAt c pa n x) := by
  unfold State.writeAt
  split
  · exact inject_canonical (canonical_memWrite h _ _ _)
  · refine inject_canonical (canonical_memWrite ?_ _ _ _)
    exact findErrors_canonical h

theorem writeWords_canonical {s pa l} (h : Canonical s) : Canonical (s.writeWords pa l) := by
  induction l generalizing s pa h with
  | nil => exact h
  | cons x l ih =>
    unfold State.writeWords
    exact ih (writeAt_canonical h)

theorem meet_canonical {s pa n} (h : Canonical s) : Canonical (s.meet pa n) := by
  unfold State.meet
  split
  · exact h
  · exact findErrors_canonical h

theorem ringWrite_canonical {s r ws} (h : Canonical s) : Canonical (s.ringWrite r ws).1 := by
  unfold State.ringWrite
  extract_lets bytes after
  split
  · exact h
  · split
    · exact h
    · exact writeAt_canonical h

theorem setRing_canonical {s p d r} (h : Canonical s) : Canonical (s.setRing p d r) := modPart_canonical h

theorem traceOn_canonical {s p d k slot cell flag corr w2 w3 time} (h : Canonical s) :
    Canonical (s.traceOn p d k slot cell flag corr w2 w3 time) := by
  unfold State.traceOn
  dsimp only
  split
  · refine setRing_canonical (ringWrite_canonical ?_)
    split
    · exact ringWrite_canonical h
    · exact h
  · exact h

theorem traceStrand_canonical {s t k flag w2 w3} (h : Canonical s) : Canonical (s.traceStrand t k flag w2 w3) :=
  traceOn_canonical h

theorem fatal_canonical {s p launch cell slot uid cause pc addr} (h : Canonical s) :
    Canonical (s.fatal p launch cell slot uid cause pc addr) := by
  unfold State.fatal
  split
  · exact setPart_canonical h
  · exact h

theorem takeFault_canonical {s cause pc addr} (h : Canonical s) : Canonical (s.takeFault cause pc addr) := by
  unfold State.takeFault
  dsimp only
  split
  · exact fatal_canonical h
  · exact h

theorem startWalk_canonical {s die p asid va acc eng cell slot} (h : Canonical s) :
    Canonical (s.startWalk die p asid va acc eng cell slot).2 := by
  unfold State.startWalk
  split <;> exact h

theorem finish_canonical {s} (h : Canonical s) : Canonical (s.finish) := h
theorem done_canonical {s t} (h : Canonical s) : Canonical (s.done t) := h

/-! #### Machine/Access.lean -/

theorem putKnot_canonical {s p n k} (h : Canonical s) : Canonical (s.putKnot p n k) := writeWords_canonical h

theorem knotAdd_canonical {s p n k} (h : Canonical s) : Canonical (s.knotAdd p n k) := by
  unfold State.knotAdd
  split
  next hr =>
    split
    · exact canonical_thd (readAt_canonical h) hr
    · exact writeAt_canonical (canonical_thd (readAt_canonical h) hr)

theorem rollTo_canonical {s d p n k} (h : Canonical s) : Canonical (s.rollTo d p n k) := modDie_canonical h

theorem rollUp_canonical {s p n k} (h : Canonical s) : Canonical (s.rollUp p n k) := by
  unfold State.rollUp
  split
  · exact h
  · split
    next hr =>
      split
      · exact canonical_thd (readAt_canonical h) hr
      · exact rollTo_canonical (canonical_thd (readAt_canonical h) hr)

theorem bumpLeaf_canonical {s w leaf} (h : Canonical s) : Canonical (s.bumpLeaf w leaf) := by
  unfold State.bumpLeaf
  split
  · exact h
  · exact rollUp_canonical (knotAdd_canonical (modPart_canonical h))

theorem bump_canonical {s w pa n} (h : Canonical s) : Canonical (s.bump w pa n) :=
  foldl_canonical (fun _ _ => bumpLeaf_canonical) h _

theorem writeOk_keeps {s : State} {w watched pa n n1 va} :
    RunKeeps (fun _ => True) (s.writeOk w watched pa n n1 va) := by
  unfold State.writeOk
  split
  · exact .stop trivial
  · split
    · exact .stop trivial
    · exact .ret trivial

theorem write_canonical {s w watched pa n n1} (h : Canonical s) : Canonical (s.write w watched pa n n1) := by
  unfold State.write
  refine writeAt_canonical ?_
  split
  · exact bump_canonical h
  · exact h

theorem walkLevels_canonical {clear s part asid va table n} (h : Canonical s) :
    Canonical (walkLevels clear s part asid va table n).1 := by
  induction n generalizing clear s part asid va table h with
  | zero => exact h
  | succ n ih =>
    unfold walkLevels
    dsimp only
    split
    · exact readAt_canonical h
    · split
      · split
        · exact readAt_canonical h
        · split
          · exact writeAt_canonical (readAt_canonical h)
          · split
            · exact writeAt_canonical (readAt_canonical h)
            · exact readAt_canonical h
      · split
        · exact readAt_canonical h
        · exact ih (readAt_canonical h)

theorem walk_canonical {s asid va} (h : Canonical s) : Canonical (s.walk asid va).1 := by
  unfold State.walk
  split
  · exact h
  · exact walkLevels_canonical h

theorem unwatch_canonical {s asid va} (h : Canonical s) : Canonical (s.unwatch asid va) := by
  unfold State.unwatch
  split
  · exact h
  · exact walkLevels_canonical h

theorem permit_keeps {s : State} {p e va r w x} : RunKeeps (fun _ => True) (s.permit p e va r w x) := by
  unfold State.permit
  dsimp only
  split
  · exact .stop trivial
  · split
    · exact .stop trivial
    · exact .ret trivial

theorem locate_keeps {s : State} {t va acc r w x} : RunKeeps (fun _ => True) (s.locate t va acc r w x) := by
  unfold State.locate
  split
  · exact .stop trivial
  · exact permit_keeps

theorem aligned_keeps {va n} : RunKeeps (fun _ => True) (aligned va n) := by
  unfold aligned
  split
  · exact .ret trivial
  · exact .stop trivial

theorem engineFind_canonical {s die asid va} (h : Canonical s) : Canonical (s.engineFind die asid va).1 := by
  unfold State.engineFind
  split
  · exact h
  · split
    · next hr1 => exact canonical_fst (walk_canonical h) hr1
    · next hr1 => exact modDie_canonical (canonical_fst (walk_canonical h) hr1)

theorem logEntry_canonical {s p point size entry} (h : Canonical s) : Canonical (s.logEntry p point size entry) := by
  unfold State.logEntry
  dsimp only
  split
  · exact h
  · split
    · exact meet_canonical h
    · split
      · exact writeAt_canonical (meet_canonical h)
      · split
        · exact writeAt_canonical (writeAt_canonical (writeAt_canonical (meet_canonical h)))
        · exact writeAt_canonical (writeAt_canonical (meet_canonical h))

theorem logDone_canonical {s p point size entry} (h : Canonical s) : Canonical (s.logDone p point size entry) := by
  unfold State.logDone
  dsimp only
  split
  · exact setPart_canonical (meet_canonical h)
  · exact logEntry_canonical h

theorem windowHold_keeps {s : State} {t n pa} : RunKeeps (fun _ => True) (s.windowHold t n pa) := by
  unfold State.windowHold
  split
  · exact .ret trivial
  · split
    · exact .ret trivial
    · exact .stop trivial

theorem windowLog_canonical {s t n pa} (h : Canonical s) : Canonical (s.windowLog t n pa) := by
  unfold State.windowLog
  split
  · exact h
  · exact logDone_canonical h

theorem windowDone_canonical {s t pa} (h : Canonical s) : Canonical (s.windowDone t pa) :=
  modStrand_canonical (windowLog_canonical h)

/-! #### Machine/Risk.lean -/

theorem ringSlot_canonical {s : State} {part asid cell va r push} :
    RunKeeps (fun _ => True) (s.ringSlot part asid cell va r push).2 := by
  unfold State.ringSlot
  dsimp only
  split
  · exact .stop trivial
  · exact permit_keeps

theorem noRisk_keeps {s} : RunKeeps (fun _ => True) (noRisk s) := by
  unfold noRisk
  split
  · exact .stop trivial
  · exact .ret trivial

theorem allSettled_keeps {s} : RunKeeps (fun _ => True) (allSettled s) := by
  unfold allSettled
  split
  · exact .stop trivial
  · exact .ret trivial

theorem again_canonical {s} (h : Canonical s) : Canonical (s.again) := h

theorem stop_canonical {s x} (h : Canonical s) (h2 : StopCanonical x) : Canonical (s.stop x) := by
  unfold State.stop
  dsimp only
  split
  · split
    · exact takeFault_canonical h
    · exact again_canonical h
  · split
    · exact takeFault_canonical h
    · exact again_canonical h
  · split
    · exact takeFault_canonical h2
    · exact again_canonical h
  · exact h
  · exact canonical_update (startWalk_canonical h)

theorem settle_canonical {s r} (h : Canonical s) (h2 : RunKeeps Canonical r) : Canonical (s.settle r) := by
  unfold State.settle
  split
  · exact h2.ok _ rfl
  · exact stop_canonical h (h2.error _ rfl)

/-! #### Machine/Operands.lean -/

theorem noMisuse_keeps {x} : RunKeeps (fun _ => True) (noMisuse x) := by
  unfold noMisuse
  split
  · exact .ret trivial
  · exact .stop trivial

theorem takeReg_keeps {s t x} : RunKeeps (fun _ => True) (takeReg s t x) := by
  unfold takeReg
  split
  · exact .ret trivial
  · exact .ret trivial
  · split
    · split
      · exact .stop trivial
      · exact .ret trivial
    · split
      · split
        · exact .stop trivial
        · exact .ret trivial
      · exact .stop trivial

theorem takeOp_keeps {s t x} : RunKeeps (fun _ => True) (takeOp s t x) := by
  unfold takeOp
  split
  · exact .ret trivial
  · exact takeReg_keeps
  · exact .ret trivial
  · exact .ret trivial

theorem putReg_keeps {t d v tag} : RunKeeps (fun _ => True) (putReg t d v tag) := by
  unfold putReg
  split
  · exact .ret trivial
  · exact .ret trivial
  · split
    · split
      · exact .ret trivial
      · exact .stop trivial
    · exact .stop trivial

theorem hasRoom_keeps {t x} : RunKeeps (fun _ => True) (hasRoom t x) := by
  unfold hasRoom
  split
  · split
    · split
      · exact .ret trivial
      · exact .stop trivial
    · exact .ret trivial
  · exact .ret trivial

theorem tagCheck_keeps {f x} : RunKeeps (fun _ => True) (tagCheck f x) := by
  unfold tagCheck
  split
  · exact .ret trivial
  · exact .stop trivial

theorem poisonCheck_keeps {x} : RunKeeps (fun _ => True) (poisonCheck x) := by
  unfold poisonCheck
  split
  · exact .stop trivial
  · exact .ret trivial

theorem noHazard_keeps {i s} : RunKeeps (fun _ => True) (noHazard i s) := by
  unfold noHazard
  split
  · exact .stop trivial
  · exact .ret trivial

theorem vectorIdle_keeps {t} : RunKeeps (fun _ => True) (vectorIdle t) := by
  unfold vectorIdle
  split
  · exact .ret trivial
  · exact .stop trivial

theorem vectorAccessIdle_keeps {t} : RunKeeps (fun _ => True) (vectorAccessIdle t) := by
  unfold vectorAccessIdle
  split
  · exact .stop trivial
  · exact .ret trivial

theorem noLoop_keeps {t} : RunKeeps (fun _ => True) (noLoop t) := by
  unfold noLoop
  split
  · exact .stop trivial
  · exact .ret trivial

theorem noStores_keeps {s} : RunKeeps (fun _ => True) (noStores s) := by
  unfold noStores
  split
  · exact .ret trivial
  · exact .stop trivial

theorem noLoads_keeps {s} : RunKeeps (fun _ => True) (noLoads s) := by
  unfold noLoads
  split
  · exact .stop trivial
  · exact .ret trivial

theorem scalarRun_keeps {i s d readsD a b fa fb fd f} (h : Canonical s) :
    RunKeeps Canonical (scalarRun i s d readsD a b fa fb fd f) := by
  unfold scalarRun
  refine .bind_any noHazard_keeps fun _ => .bind_any noMisuse_keeps fun _ => .bind_any noMisuse_keeps fun _ => ?_
  refine .bind_any noMisuse_keeps fun _ => .bind_any noMisuse_keeps fun _ => .bind_any takeOp_keeps fun ⟨x, _⟩ => ?_
  refine .bind_any takeOp_keeps fun ⟨y, _⟩ => ?_
  dsimp -zeta only
  extract_lets checks
  have hchecks : ∀ r, RunKeeps Canonical (checks r) := by
    rintro ⟨z, t⟩
    refine .bind_any hasRoom_keeps fun _ => ?_
    extract_lets r write tagD tagB
    have hwrite : ∀ u, RunKeeps Canonical (write u) := fun _ =>
      poisonCheck_keeps.bind_any fun _ => poisonCheck_keeps.bind_any fun _ => poisonCheck_keeps.bind_any fun _ =>
        putReg_keeps.bind_any fun _ => .ret (done_canonical h)
    have hD : ∀ u, RunKeeps Canonical (tagD u) := by
      intro _
      unfold tagD
      split
      · exact tagCheck_keeps.bind_any fun u => hwrite u
      · exact hwrite ()
    have hB : ∀ u, RunKeeps Canonical (tagB u) := by
      intro _
      unfold tagB
      split
      · exact tagCheck_keeps.bind_any fun u => hD u
      · exact hD ()
    split
    · exact tagCheck_keeps.bind_any fun u => hB u
    · exact hB ()
  split
  · exact takeReg_keeps.bind_any fun r => hchecks r
  · exact hchecks _

theorem scalarAB_canonical {i s f d a b g} (h : Canonical s) : OutCanonical (scalarAB i s f d a b g) :=
  .next (settle_canonical h (scalarRun_keeps h))

/-! #### Machine/Scalar.lean -/

theorem scalarInt_canonical {i s f d a b g} (h : Canonical s) : OutCanonical (scalarInt i s f d a b g) :=
  scalarAB_canonical h

theorem execAdd_canonical {f d a b s} (h : Canonical s) : OutCanonical (execAdd f d a b s) := scalarInt_canonical h
theorem execSub_canonical {f d a b s} (h : Canonical s) : OutCanonical (execSub f d a b s) := scalarInt_canonical h
theorem execMul_canonical {f d a b s} (h : Canonical s) : OutCanonical (execMul f d a b s) := scalarInt_canonical h
theorem execMulh_canonical {f d a b s} (h : Canonical s) : OutCanonical (execMulh f d a b s) := scalarInt_canonical h

theorem execMulhn_canonical {f d a b s} (h : Canonical s) : OutCanonical (execMulhn f d a b s) :=
  scalarInt_canonical h

theorem execDiv_canonical {f d a b s} (h : Canonical s) : OutCanonical (execDiv f d a b s) := scalarAB_canonical h
theorem execDivn_canonical {f d a b s} (h : Canonical s) : OutCanonical (execDivn f d a b s) := scalarAB_canonical h
theorem execRem_canonical {f d a b s} (h : Canonical s) : OutCanonical (execRem f d a b s) := scalarAB_canonical h
theorem execRemn_canonical {f d a b s} (h : Canonical s) : OutCanonical (execRemn f d a b s) := scalarAB_canonical h

theorem scalarShift_canonical {i s f d a b g} (h : Canonical s) : OutCanonical (scalarShift i s f d a b g) :=
  .next (settle_canonical h (scalarRun_keeps h))

theorem execShl_canonical {f d a b s} (h : Canonical s) : OutCanonical (execShl f d a b s) := scalarShift_canonical h
theorem execShr_canonical {f d a b s} (h : Canonical s) : OutCanonical (execShr f d a b s) := scalarShift_canonical h
theorem execSra_canonical {f d a b s} (h : Canonical s) : OutCanonical (execSra f d a b s) := scalarShift_canonical h

theorem execRotl_canonical {f d a b s} (h : Canonical s) : OutCanonical (execRotl f d a b s) :=
  scalarShift_canonical h

theorem scalarBitwise_canonical {i s d a b g} (h : Canonical s) : OutCanonical (scalarBitwise i s d a b g) :=
  .next (settle_canonical h (scalarRun_keeps h))

theorem execAnd_canonical {d a b s} (h : Canonical s) : OutCanonical (execAnd d a b s) := scalarBitwise_canonical h
theorem execOr_canonical {d a b s} (h : Canonical s) : OutCanonical (execOr d a b s) := scalarBitwise_canonical h
theorem execXor_canonical {d a b s} (h : Canonical s) : OutCanonical (execXor d a b s) := scalarBitwise_canonical h
theorem execAndn_canonical {d a b s} (h : Canonical s) : OutCanonical (execAndn d a b s) := scalarBitwise_canonical h

theorem scalarB_canonical {i s d b g} (h : Canonical s) : OutCanonical (scalarB i s d b g) :=
  scalarBitwise_canonical h

theorem execMov_canonical {d b s} (h : Canonical s) : OutCanonical (execMov d b s) := scalarB_canonical h
theorem execClz_canonical {d b s} (h : Canonical s) : OutCanonical (execClz d b s) := scalarB_canonical h
theorem execCtz_canonical {d b s} (h : Canonical s) : OutCanonical (execCtz d b s) := scalarB_canonical h
theorem execPopc_canonical {d b s} (h : Canonical s) : OutCanonical (execPopc d b s) := scalarB_canonical h
theorem execBext_canonical {d a b s} (h : Canonical s) : OutCanonical (execBext d a b s) := scalarBitwise_canonical h

theorem execBins_canonical {d a b s} (h : Canonical s) : OutCanonical (execBins d a b s) :=
  .next (settle_canonical h (scalarRun_keeps h))

theorem execSlt_canonical {f d a b s} (h : Canonical s) : OutCanonical (execSlt f d a b s) := scalarAB_canonical h
theorem execSltn_canonical {f d a b s} (h : Canonical s) : OutCanonical (execSltn f d a b s) := scalarAB_canonical h
theorem execSeq_canonical {f d a b s} (h : Canonical s) : OutCanonical (execSeq f d a b s) := scalarAB_canonical h
theorem execMin_canonical {f d a b s} (h : Canonical s) : OutCanonical (execMin f d a b s) := scalarInt_canonical h
theorem execMax_canonical {f d a b s} (h : Canonical s) : OutCanonical (execMax f d a b s) := scalarInt_canonical h
theorem execMinn_canonical {f d a b s} (h : Canonical s) : OutCanonical (execMinn f d a b s) := scalarInt_canonical h
theorem execMaxn_canonical {f d a b s} (h : Canonical s) : OutCanonical (execMaxn f d a b s) := scalarInt_canonical h

theorem execSel_canonical {f d a b s} (h : Canonical s) : OutCanonical (execSel f d a b s) :=
  .next (settle_canonical h (scalarRun_keeps h))

theorem execLi_canonical {d e s} (h : Canonical s) : OutCanonical (execLi d e s) := scalarBitwise_canonical h

theorem takeBase_keeps {s t x} : RunKeeps (fun _ => True) (takeBase s t x) := by
  unfold takeBase
  split
  · exact takeReg_keeps
  · exact .ret trivial

theorem execLea_canonical {d base e s} (h : Canonical s) : OutCanonical (execLea d base e s) := by
  unfold execLea
  refine .next ?_
  refine settle_canonical h ?_
  refine .bind_any noHazard_keeps fun _ => .bind_any noMisuse_keeps fun _ => .bind_any noMisuse_keeps fun _ => ?_
  refine .bind_any takeBase_keeps fun ⟨_, _⟩ => ?_
  refine .bind_any hasRoom_keeps fun _ => .bind_any poisonCheck_keeps fun _ => .bind_any putReg_keeps fun _ => ?_
  exact .ret (done_canonical h)

/-! #### Machine/ScalarFp.lean -/

theorem scalarFp_canonical {i s f d a b g} (h : Canonical s) : OutCanonical (scalarFp i s f d a b g) :=
  scalarAB_canonical h

theorem execFadd_canonical {f r d a b s} (h : Canonical s) : OutCanonical (execFadd f r d a b s) :=
  scalarFp_canonical h

theorem execFsub_canonical {f r d a b s} (h : Canonical s) : OutCanonical (execFsub f r d a b s) :=
  scalarFp_canonical h

theorem execFmul_canonical {f r d a b s} (h : Canonical s) : OutCanonical (execFmul f r d a b s) :=
  scalarFp_canonical h

theorem execFdiv_canonical {f r d a b s} (h : Canonical s) : OutCanonical (execFdiv f r d a b s) :=
  scalarFp_canonical h

theorem execFma_canonical {f r d a b s} (h : Canonical s) : OutCanonical (execFma f r d a b s) :=
  .next (settle_canonical h (scalarRun_keeps h))

theorem execFsqrt_canonical {f r d b s} (h : Canonical s) : OutCanonical (execFsqrt f r d b s) := scalarFp_canonical h
theorem execFmin_canonical {f d a b s} (h : Canonical s) : OutCanonical (execFmin f d a b s) := scalarFp_canonical h
theorem execFmax_canonical {f d a b s} (h : Canonical s) : OutCanonical (execFmax f d a b s) := scalarFp_canonical h

theorem execFcmp_canonical {f c d a b s} (h : Canonical s) : OutCanonical (execFcmp f c d a b s) :=
  scalarAB_canonical h

theorem execFclass_canonical {f d b s} (h : Canonical s) : OutCanonical (execFclass f d b s) := scalarAB_canonical h

theorem execFcvt_canonical {f r sat d b s} (h : Canonical s) : OutCanonical (execFcvt f r sat d b s) :=
  .next (settle_canonical h (scalarRun_keeps h))

/-! #### Machine/Control.lean -/

theorem goTo_canonical {s t pc} (h : Canonical s) : Canonical (s.goTo t pc) := h

theorem branch_canonical {s t taken off} (h : Canonical s) : Canonical (s.branch t taken off) := by
  unfold State.branch
  split
  · exact goTo_canonical h
  · exact done_canonical h

theorem execB_canonical {off s} (h : Canonical s) : OutCanonical (execB off s) := .next (branch_canonical h)

theorem execBc_canonical {c a b off s} (h : Canonical s) : OutCanonical (execBc c a b off s) := by
  unfold execBc
  refine .next ?_
  refine settle_canonical h ?_
  refine .bind_any noHazard_keeps fun _ => .bind_any noMisuse_keeps fun _ => .bind_any noMisuse_keeps fun _ => ?_
  refine .bind_any takeOp_keeps fun ⟨_, _⟩ => ?_
  refine .bind_any takeOp_keeps fun ⟨_, _⟩ => ?_
  exact .bind_any poisonCheck_keeps fun _ => .bind_any poisonCheck_keeps fun _ => .ret (branch_canonical h)

theorem execLoop_canonical {c off s} (h : Canonical s) : OutCanonical (execLoop c off s) := by
  unfold execLoop
  dsimp only
  refine .next ?_
  refine settle_canonical h ?_
  refine .bind_any noHazard_keeps fun _ => .bind_any noMisuse_keeps fun _ => .bind_any takeReg_keeps fun _ => ?_
  exact .bind_any poisonCheck_keeps fun _ => .bind_any putReg_keeps fun _ => .ret (branch_canonical h)

theorem execJal_canonical {d off s} (h : Canonical s) : OutCanonical (execJal d off s) := by
  unfold execJal
  refine .next ?_
  refine settle_canonical h ?_
  refine .bind_any noHazard_keeps fun _ => .bind_any noMisuse_keeps fun _ => .bind_any hasRoom_keeps fun _ => ?_
  exact .bind_any putReg_keeps fun _ => .ret (branch_canonical h)

theorem execJr_canonical {b s} (h : Canonical s) : OutCanonical (execJr b s) := by
  unfold execJr
  refine .next ?_
  refine settle_canonical h ?_
  refine .bind_any noHazard_keeps fun _ => .bind_any noMisuse_keeps fun _ => .bind_any takeReg_keeps fun ⟨_, _⟩ => ?_
  split
  split
  · exact .stop trivial
  · exact .bind_any poisonCheck_keeps fun _ => .ret (goTo_canonical h)

theorem execBm_canonical {v m off s} (h : Canonical s) : OutCanonical (execBm v m off s) := by
  unfold execBm
  refine .next ?_
  refine settle_canonical h ?_
  exact .bind_any noHazard_keeps fun _ => .ret (branch_canonical h)

theorem execNop_canonical {s} (h : Canonical s) : OutCanonical (execNop s) := .next (finish_canonical h)
theorem execYield_canonical {s} (h : Canonical s) : OutCanonical (execYield s) := .next (done_canonical h)
theorem execSget_canonical {d sel s} (h : Canonical s) : OutCanonical (execSget d sel s) := scalarBitwise_canonical h

theorem execSset_canonical {sel a s} (h : Canonical s) : OutCanonical (execSset sel a s) := by
  unfold execSset
  refine .next ?_
  refine settle_canonical h ?_
  refine .bind_any noLoop_keeps fun _ => .bind_any noHazard_keeps fun _ => .bind_any noMisuse_keeps fun _ => ?_
  refine .bind_any takeOp_keeps fun ⟨_, _⟩ => ?_
  exact .bind_any poisonCheck_keeps fun _ => .ret (done_canonical h)

theorem execWdog_canonical {d s} (h : Canonical s) : OutCanonical (execWdog d s) := by
  unfold execWdog
  refine .next ?_
  refine settle_canonical h ?_
  refine .bind_any noLoop_keeps fun _ => .bind_any noHazard_keeps fun _ => .bind_any noMisuse_keeps fun _ => ?_
  exact .bind_any hasRoom_keeps fun _ => .bind_any putReg_keeps fun _ => .ret (done_canonical h)

theorem execTrap_canonical {n s} (h : Canonical s) : OutCanonical (execTrap n s) := .next (stop_canonical h trivial)

theorem execBkpt_canonical {s} (h : Canonical s) : OutCanonical (execBkpt s) := by
  unfold execBkpt
  dsimp only
  refine .next ?_
  refine settle_canonical h ?_
  refine .bind_any vectorIdle_keeps fun _ => .bind_any noRisk_keeps fun _ => ?_
  split
  · exact .ret (traceStrand_canonical (done_canonical h))
  · exact .stop trivial

/-! #### Machine/Mem.lean -/

theorem perf_s_canonical {self} (h : Canonical self.s) : Canonical (Perf.s self) := h
theorem loadAt_canonical {s c f pa} (h : Canonical s) : Canonical (loadAt s c f pa).s := readAt_canonical h

theorem storeAt_keeps {s q f} (h : Canonical s) : RunKeeps (fun r => Canonical r.s) (storeAt s q f) := by
  unfold storeAt
  exact .bind_any writeOk_keeps fun _ => .ret (write_canonical h)

theorem foundAt_keeps {α : Type} {P : α → Prop} {s : State} {r : Run α} (h : Canonical s) (hr : RunKeeps P r) :
    RunKeeps P (foundAt s r) := by
  unfold foundAt
  split
  · exact .stop h
  · exact hr

theorem atomicAt_keeps {s q f} (h : Canonical s) : RunKeeps (fun r => Canonical r.s) (atomicAt s q f) := by
  unfold atomicAt
  dsimp only
  split
  · exact .stop (readAt_canonical h)
  · split
    · refine .bind_any (foundAt_keeps (readAt_canonical h) writeOk_keeps) fun _ => ?_
      exact .ret (write_canonical (readAt_canonical h))
    · exact .ret (readAt_canonical h)

theorem ldcFill_canonical {s cell line bytes} (h : Canonical s) : Canonical (s.ldcFill cell line bytes) :=
  canonical_update (modCluster_canonical (modCell_canonical h))

theorem dropFlawed_canonical {s c cell line since} (h : Canonical s) :
    Canonical (s.dropFlawed c cell line since) := by
  unfold State.dropFlawed
  dsimp only
  split
  · split
    · exact logError_canonical (modCell_canonical h)
    · split
      · exact logError_canonical (modCluster_canonical (logError_canonical (modCell_canonical h)))
      · exact logError_canonical (modCell_canonical h)
  · split
    · exact h
    · split
      · exact logError_canonical (modCluster_canonical h)
      · exact h

theorem ldcAt_canonical {s c f pa cell since} (h : Canonical s) : Canonical (ldcAt s c f pa cell since).s := by
  unfold ldcAt
  dsimp only
  split
  · exact dropFlawed_canonical h
  · split
    · exact loadAt_canonical (readAt_canonical (dropFlawed_canonical h))
    · exact ldcFill_canonical (readAt_canonical (dropFlawed_canonical h))

theorem replyTo_keeps {t i res rstat poison} : RunKeeps (fun _ => True) (replyTo t i res rstat poison) := by
  unfold replyTo
  extract_lets -underBinder rest
  have hrest : ∀ r, RunKeeps (fun _ => True) (rest r) := by
    intro r
    unfold rest
    exact .ret trivial
  clear_value rest
  split
  · refine .bind_any putReg_keeps fun _ => .ok_bind ?_
    exact hrest _
  · refine .ok_bind ?_
    exact hrest _

theorem turnAt_keeps {s : State} {uid cell pa} : RunKeeps (fun _ => True) (s.turnAt uid cell pa) := by
  unfold State.turnAt
  split
  · exact .stop trivial
  · exact .ret trivial

theorem xredAt_keeps {s q f} (h : Canonical s) : RunKeeps (fun r => Canonical r.s) (xredAt s q f) := by
  unfold xredAt
  dsimp only
  split
  · exact .stop (readAt_canonical h)
  · split
    · exact .stop (readAt_canonical h)
    · refine .bind_any (foundAt_keeps (readAt_canonical h) writeOk_keeps) fun _ => ?_
      exact .ret (write_canonical (readAt_canonical h))

theorem xrdAt_keeps {s q f mode} (h : Canonical s) : RunKeeps (fun r => Canonical r.s) (xrdAt s q f mode) := by
  unfold xrdAt
  dsimp only
  split
  · exact .stop (readAt_canonical h)
  · split
    · exact .stop (readAt_canonical h)
    · exact .ret (readAt_canonical h)

theorem dropLdc_canonical {s cell r} (h : Canonical s) : Canonical (s.dropLdc cell r) := by
  unfold State.dropLdc
  dsimp only
  split
  · refine modCluster_canonical ?_
    split
    · exact modCell_canonical h
    · exact h
  · split
    · exact modCell_canonical h
    · exact h

theorem execFence_canonical {kind sc s} (h : Canonical s) : OutCanonical (execFence kind sc s) := by
  unfold execFence
  dsimp only
  refine .next ?_
  refine settle_canonical h ?_
  refine .bind_any noLoop_keeps fun _ => .bind_any vectorAccessIdle_keeps fun _ => ?_
  split
  · exact .bind_any noStores_keeps fun _ => .ret (finish_canonical h)
  · exact .bind_any noLoads_keeps fun _ => .ret (finish_canonical (dropLdc_canonical h))
  · refine .bind_any noStores_keeps fun _ => .bind_any noLoads_keeps fun _ => ?_
    exact .ret (finish_canonical (dropLdc_canonical h))

theorem dropLine_canonical {s t a r} (h : Canonical s) : Canonical (s.dropLine t a r) := by
  unfold State.dropLine
  dsimp only
  refine modCell_canonical ?_
  split
  · exact h
  · split
    · refine modCluster_canonical ?_
      split
      · exact modCell_canonical h
      · exact h
    · split
      · exact modCell_canonical h
      · exact h

theorem execInv_canonical {sc b s} (h : Canonical s) : OutCanonical (execInv sc b s) := by
  unfold execInv
  dsimp only
  refine .next ?_
  refine settle_canonical h ?_
  refine .bind_any noLoop_keeps fun _ => .bind_any noHazard_keeps fun _ => .bind_any noMisuse_keeps fun _ => ?_
  refine .bind_any takeReg_keeps fun _ => .bind_any poisonCheck_keeps fun _ => ?_
  exact .ret (done_canonical (dropLine_canonical h))

/-! #### Machine/Sync.lean -/

theorem homeTurn_keeps {i s} : RunKeeps (fun _ => True) (homeTurn i s) := by
  unfold homeTurn
  exact .bind_any vectorIdle_keeps fun _ => .bind_any noHazard_keeps fun _ => noRisk_keeps

theorem readHome_keeps {s c pa n va} (h : Canonical s) :
    RunKeeps (fun r => Canonical r.2) (s.readHome c pa n va) := by
  unfold State.readHome
  split
  next hr =>
    split
    · exact .stop (canonical_thd (readAt_canonical h) hr)
    · exact .ret (canonical_thd (readAt_canonical h) hr)

theorem writeHome_keeps {s w loc off n n1 va} (h : Canonical s) :
    RunKeeps Canonical (s.writeHome w loc off n n1 va) := by
  unfold State.writeHome
  exact .bind_any (foundAt_keeps h writeOk_keeps) fun _ => .ret (write_canonical h)

theorem ringAt_keeps {s q push} (h : Canonical s) : RunKeeps (fun r => Canonical r.s) (ringAt s q push) := by
  unfold ringAt
  refine .bind (readHome_keeps h) fun ⟨_, s1⟩ hs => ?_
  dsimp only
  split
  · exact .stop hs
  · split
    · exact .ret hs
    · refine .bind_any ?_ fun _ => ?_
      · refine foundAt_keeps hs ?_
        refine ringSlot_canonical 
      · refine .ite_bind_any (.stop trivial) (.ret trivial) fun _ => .bind (readHome_keeps hs) fun ⟨_, s2⟩ hs2 => ?_
        split
        · refine .bind (writeHome_keeps hs2) fun s3 hs3 => ?_
          refine .bind (writeHome_keeps hs3) fun s4 hs4 => ?_
          exact .ret hs4
        · refine .bind (writeHome_keeps hs2) fun s3 hs4 => ?_
          exact .ret hs4

theorem setWaiters_canonical {s p pa l} (h : Canonical s) : Canonical (s.setWaiters p pa l) := modPart_canonical h

theorem serveBarrier_canonical {s p pa n} (h : Canonical s) : Canonical (serveBarrier s p pa n) := by
  induction n generalizing s p pa h with
  | zero => exact h
  | succ n ih =>
    unfold serveBarrier
    dsimp only
    split
    · exact h
    · split
      · exact h
      · split
        · exact h
        · split
          · exact meet_canonical h
          · exact ih (modStrand_canonical (writeAt_canonical (setWaiters_canonical (meet_canonical h))))

theorem serveTokens_canonical {s p pa} (h : Canonical s) : Canonical (s.serveTokens p pa) := serveBarrier_canonical h

theorem serveAll_canonical {s} (h : Canonical s) : Canonical (s.serveAll) :=
  foldl_canonical (fun _ _ hs => foldl_canonical (fun _ _ => serveTokens_canonical) hs _) h _

theorem readBarrier_keeps {s c pa va} (h : Canonical s) :
    RunKeeps (fun r => Canonical r.2) (readBarrier s c pa va) := by
  unfold readBarrier
  refine .bind (readHome_keeps h) fun ⟨_, s1⟩ hs => ?_
  split
  next hr =>
    split
    · exact .stop (canonical_snd hs hr)
    · exact .ret (canonical_snd hs hr)

theorem barmAt_keeps {s q} (h : Canonical s) : RunKeeps (fun r => Canonical r.s) (barmAt s q) := by
  unfold barmAt
  refine .bind (readBarrier_keeps h) fun ⟨_, s1⟩ hs => ?_
  split
  next hr =>
    split
    split
    · exact .ret (canonical_snd hs hr)
    · refine .bind (writeHome_keeps (canonical_snd hs hr)) fun s3 hs2 => ?_
      exact .ret hs2

theorem bputAt_keeps {s q} (h : Canonical s) : RunKeeps (fun r => Canonical r.s) (bputAt s q) := by
  unfold bputAt
  refine .bind (readBarrier_keeps h) fun ⟨_, s1⟩ hs => ?_
  split
  next hr =>
    split
    · exact .ret (canonical_snd hs hr)
    · refine .bind (writeHome_keeps (canonical_snd hs hr)) fun s3 hs2 => ?_
      exact .ret (serveTokens_canonical hs2)

theorem execBtake_canonical {base b s} (h : Canonical s) : OutCanonical (execBtake base b s) := by
  unfold execBtake
  dsimp only
  refine .next ?_
  refine settle_canonical h ?_
  refine .bind_any homeTurn_keeps fun _ => .bind_any noMisuse_keeps fun _ => .bind_any noMisuse_keeps fun _ => ?_
  refine .bind_any takeBase_keeps fun _ => .bind_any takeOp_keeps fun _ => .bind_any aligned_keeps fun _ => ?_
  refine .bind_any locate_keeps fun _ => .bind_any poisonCheck_keeps fun _ => .bind_any poisonCheck_keeps fun _ => ?_
  refine .bind_any turnAt_keeps fun _ => .bind_any windowHold_keeps fun _ => ?_
  refine .bind (readBarrier_keeps h) fun ⟨_, s1⟩ hs => ?_
  refine .ret ?_
  split
  · exact canonical_update (serveTokens_canonical (windowDone_canonical (canonical_update (setWaiters_canonical hs))))
  · exact serveTokens_canonical (windowDone_canonical (canonical_update (setWaiters_canonical hs)))

/-! #### Machine/Signal.lean -/

theorem serveEvent_canonical {s p e n} (h : Canonical s) : Canonical (serveEvent s p e n) := by
  induction n generalizing s p e h with
  | zero => exact h
  | succ n ih =>
    unfold serveEvent
    dsimp only
    split
    · exact h
    · split
      · refine ih ?_
        split
        · exact modStrand_canonical (setPart_canonical h)
        · exact modPart_canonical (setPart_canonical h)
      · exact h

theorem serveWaiters_canonical {s p e} (h : Canonical s) : Canonical (s.serveWaiters p e) := serveEvent_canonical h

theorem signal_canonical {s p e n} (h : Canonical s) : Canonical (s.signal p e n) :=
  serveWaiters_canonical (setPart_canonical h)

theorem addWaiter_canonical {s p e w} (h : Canonical s) : Canonical (s.addWaiter p e w) :=
  serveWaiters_canonical (setPart_canonical h)

theorem dropWaiter_canonical {s p e uid} (h : Canonical s) : Canonical (s.dropWaiter p e uid) :=
  serveWaiters_canonical (setPart_canonical h)

theorem traceTask_canonical {s p t kind flag} (h : Canonical s) : Canonical (s.traceTask p t kind flag) :=
  traceOn_canonical h

theorem retireTask_canonical {s p k skipped} (h : Canonical s) : Canonical (s.retireTask p k skipped) := by
  unfold State.retireTask
  dsimp only
  split
  · exact h
  · split
    · exact signal_canonical (modPart_canonical (traceTask_canonical h))
    · exact modPart_canonical (traceTask_canonical h)

theorem leavePop_canonical {s p popId uid} (h : Canonical s) : Canonical (s.leavePop p popId uid) := by
  unfold State.leavePop
  dsimp only
  split
  · exact h
  · split
    · exact h
    · exact setPart_canonical h

theorem endStrand_canonical {s t fatal} (h : Canonical s) : Canonical (s.endStrand t fatal) := by
  have hleave : Canonical (s.leavePop t.part t.popId t.uid) := leavePop_canonical h
  unfold State.endStrand
  dsimp only
  split
  · split
    · refine canonical_update (modPart_canonical ?_)
      split
      · exact traceStrand_canonical hleave
      · exact hleave
    · refine retireTask_canonical (canonical_update (modPart_canonical ?_))
      split
      · exact traceStrand_canonical hleave
      · exact hleave
  · refine canonical_update (modPart_canonical ?_)
    split
    · exact traceStrand_canonical hleave
    · exact hleave

theorem clearFocus_canonical {s} (h : Canonical s) : Canonical (s.clearFocus) := h

theorem execDone_canonical {s} (h : Canonical s) : OutCanonical (execDone s) := by
  unfold execDone
  dsimp only
  refine .next ?_
  refine settle_canonical h ?_
  refine .bind_any vectorIdle_keeps fun _ => .ite_bind_any (.stop trivial) (.ret trivial) fun _ => ?_
  exact .bind_any noStores_keeps fun _ => .ret (clearFocus_canonical (endStrand_canonical h))

theorem eventCheck_keeps {s t e n} : RunKeeps (fun _ => True) (eventCheck s t e n) := by
  unfold eventCheck
  split
  split
  · exact .stop trivial
  · split
    · exact .stop trivial
    · exact .ret trivial

theorem takeAB_keeps {s a b} : RunKeeps (fun _ => True) (takeAB s a b) := by
  unfold takeAB
  refine .bind_any noMisuse_keeps fun _ => .bind_any noMisuse_keeps fun _ => .bind_any takeOp_keeps fun ⟨_, _⟩ => ?_
  refine .bind_any takeOp_keeps fun ⟨_, _⟩ => ?_
  exact .ret trivial

theorem execEvsig_canonical {a b s} (h : Canonical s) : OutCanonical (execEvsig a b s) := by
  unfold execEvsig
  refine .next ?_
  refine settle_canonical h ?_
  refine .bind_any homeTurn_keeps fun _ => .bind_any noStores_keeps fun _ => ?_
  refine .bind_any takeAB_keeps fun ⟨_, _, _⟩ => ?_
  refine .bind_any eventCheck_keeps fun _ => .bind_any poisonCheck_keeps fun _ => ?_
  exact .bind_any poisonCheck_keeps fun _ => .ret (signal_canonical (done_canonical h))

theorem execEvwait_canonical {a b s} (h : Canonical s) : OutCanonical (execEvwait a b s) := by
  unfold execEvwait
  dsimp only
  refine .next ?_
  refine settle_canonical h ?_
  refine .bind_any homeTurn_keeps fun _ => .bind_any takeAB_keeps fun _ => .bind_any eventCheck_keeps fun _ => ?_
  refine .bind_any poisonCheck_keeps fun _ => .bind_any poisonCheck_keeps fun _ => ?_
  split
  · exact .ret (done_canonical h)
  · split
    · exact .ret (done_canonical h)
    · refine .ret ?_
      split
      · exact canonical_update (addWaiter_canonical h)
      · exact addWaiter_canonical h

/-! #### Machine/Message.lean -/

theorem readRecord_keeps {s t x n} (h : Canonical s) : RunKeeps (fun r => Canonical r.2) (readRecord s t x n) := by
  unfold readRecord
  refine .bind_any aligned_keeps fun _ => .bind_any locate_keeps fun _ => .bind_any poisonCheck_keeps fun _ => ?_
  refine .bind_any turnAt_keeps fun _ => ?_
  split
  next hr =>
    split
    · exact .stop (canonical_thd (readAt_canonical h) hr)
    · exact .ret (canonical_thd (readAt_canonical h) hr)

theorem destCheck_keeps {s p dests} : RunKeeps (fun _ => True) (destCheck s p dests) := by
  unfold destCheck
  split
  · exact .stop trivial
  · exact .ret trivial

theorem openImage_keeps {s t x} (h : Canonical s) : RunKeeps (fun r => Canonical r.2) (openImage s t x) := by
  unfold openImage
  refine .bind (readRecord_keeps h) fun ⟨_, s1⟩ hs => ?_
  split
  next hr =>
    split
    · exact .stop trivial
    · exact .ret (canonical_snd hs hr)

theorem post_canonical {s cell m dests} (h : Canonical s) : Canonical (s.post cell m dests) :=
  canonical_update (modCell_canonical h)

theorem depart_canonical {s m} (h : Canonical s) : Canonical (s.depart m) := canonical_update (setPart_canonical h)

theorem sendRun_keeps {i s rel base msk} (h : Canonical s) : RunKeeps Canonical (sendRun i s rel base msk) := by
  unfold sendRun
  refine .bind_any homeTurn_keeps fun _ => .ite_bind_any noStores_keeps (.ret trivial) fun _ => ?_
  refine .bind_any noMisuse_keeps fun _ => .bind_any noMisuse_keeps fun _ => .bind_any takeBase_keeps fun ⟨_, _⟩ => ?_
  dsimp only
  split
  · refine .bind_any takeOp_keeps fun _ => .bind (openImage_keeps h) fun ⟨_, s1⟩ hs => ?_
    refine .bind_any destCheck_keeps fun _ => .bind_any poisonCheck_keeps fun _ => ?_
    split
    · exact .stop trivial
    · exact .ret (done_canonical (post_canonical hs))
  · refine .ok_bind ?_
    refine .bind (openImage_keeps h) fun ⟨_, s1⟩ hs => ?_
    refine .bind_any destCheck_keeps fun _ => .bind_any poisonCheck_keeps fun _ => ?_
    split
    · exact .stop trivial
    · exact .ret (done_canonical (post_canonical hs))

theorem execSend_canonical {rel base s} (h : Canonical s) : OutCanonical (execSend rel base s) :=
  .next (settle_canonical h (sendRun_keeps h))

theorem execMcast_canonical {rel base b s} (h : Canonical s) : OutCanonical (execMcast rel base b s) :=
  .next (settle_canonical h (sendRun_keeps h))

theorem execSendn_canonical {rel base s} (h : Canonical s) : OutCanonical (execSendn rel base s) := by
  unfold execSendn
  dsimp only
  refine .next ?_
  refine settle_canonical h ?_
  refine .bind_any homeTurn_keeps fun _ => .ite_bind_any noStores_keeps (.ret trivial) fun _ => ?_
  refine .bind_any noMisuse_keeps fun _ => .bind_any takeBase_keeps fun _ => ?_
  refine .bind (openImage_keeps h) fun ⟨_, s1⟩ hs => ?_
  refine .bind_any destCheck_keeps fun _ => ?_
  split
  · exact .ret (done_canonical hs)
  · exact .ret (done_canonical (post_canonical hs))

theorem execSpawn_canonical {base s} (h : Canonical s) : OutCanonical (execSpawn base s) := by
  unfold execSpawn
  dsimp only
  refine .next ?_
  refine settle_canonical h ?_
  refine .bind_any homeTurn_keeps fun _ => .bind_any noMisuse_keeps fun _ => .bind_any takeBase_keeps fun _ => ?_
  refine .bind (openImage_keeps h) fun ⟨_, s1⟩ hs => ?_
  refine .ite_bind_any (.stop trivial) (.ret trivial) fun _ => .bind_any destCheck_keeps fun _ => ?_
  split
  · split
    · exact .ret (done_canonical hs)
    · split
      · exact .stop trivial
      · exact .ret (done_canonical (post_canonical (modPart_canonical hs)))
  · split
    · exact .ret (done_canonical hs)
    · split
      · exact .stop trivial
      · exact .ret (done_canonical (post_canonical (modPart_canonical hs)))

theorem execMigrate_canonical {b s} (h : Canonical s) : OutCanonical (execMigrate b s) := by
  unfold execMigrate
  dsimp only
  refine .next ?_
  refine settle_canonical h ?_
  refine .bind_any homeTurn_keeps fun _ => .ite_bind_any (.stop trivial) (.ret trivial) fun _ => ?_
  refine .bind_any noStores_keeps fun _ => .bind_any noMisuse_keeps fun _ => .bind_any takeOp_keeps fun _ => ?_
  refine .ite_bind_any (.stop trivial) (.ret trivial) fun _ => .bind_any destCheck_keeps fun _ => ?_
  refine .bind_any poisonCheck_keeps fun _ => ?_
  split
  · exact .ret (done_canonical h)
  · exact .ret (clearFocus_canonical h)

theorem execSleep_canonical {b s} (h : Canonical s) : OutCanonical (execSleep b s) := by
  unfold execSleep
  dsimp only
  refine .next ?_
  refine settle_canonical h ?_
  refine .bind_any homeTurn_keeps fun _ => .bind_any noMisuse_keeps fun _ => .bind_any takeOp_keeps fun _ => ?_
  refine .bind_any poisonCheck_keeps fun _ => ?_
  split
  · exact .ret (done_canonical h)
  · exact .ret h

theorem placeTask_canonical {s p k} (h : Canonical s) : Canonical (s.placeTask p k) := by
  unfold State.placeTask
  dsimp only
  split
  · exact h
  · split
    · exact addWaiter_canonical (modPart_canonical h)
    · exact h

theorem submitTask_canonical {s t ws} (h : Canonical s) : Canonical (s.submitTask t ws) :=
  placeTask_canonical (modPart_canonical h)

theorem execTsub_canonical {base s} (h : Canonical s) : OutCanonical (execTsub base s) := by
  unfold execTsub
  dsimp only
  refine .next ?_
  refine settle_canonical h ?_
  refine .bind_any homeTurn_keeps fun _ => .bind_any noStores_keeps fun _ => .bind_any noMisuse_keeps fun _ => ?_
  refine .bind_any takeBase_keeps fun _ => .bind (readRecord_keeps h) fun ⟨_, s1⟩ hs => ?_
  refine .ite_bind_any (.stop trivial) (.ret trivial) fun _ => ?_
  split
  · split
    · exact .ret (done_canonical hs)
    · exact .ret (submitTask_canonical (done_canonical hs))
  · split
    · exact .ret (done_canonical hs)
    · exact .ret (submitTask_canonical (done_canonical hs))

theorem execLaunch_canonical {base s} (h : Canonical s) : OutCanonical (execLaunch base s) := by
  unfold execLaunch
  refine .next ?_
  refine settle_canonical h ?_
  refine .bind_any homeTurn_keeps fun _ => .bind_any noStores_keeps fun _ => .bind_any noMisuse_keeps fun _ => ?_
  refine .bind_any takeBase_keeps fun ⟨_, _⟩ => ?_
  exact .bind_any poisonCheck_keeps fun _ => .ret (modPart_canonical (done_canonical h))

theorem execRand_canonical {d b s} (h : Canonical s) : OutCanonical (execRand d b s) := by
  unfold execRand
  refine .next ?_
  refine settle_canonical h ?_
  refine .bind_any homeTurn_keeps fun _ => .bind_any noMisuse_keeps fun _ => .bind_any noMisuse_keeps fun _ => ?_
  refine .bind_any takeOp_keeps fun ⟨_, _⟩ => ?_
  refine .bind_any hasRoom_keeps fun _ => .bind_any poisonCheck_keeps fun _ => .bind_any putReg_keeps fun _ => ?_
  exact .ret (done_canonical h)

theorem execClaim_canonical {a b s} (h : Canonical s) : OutCanonical (execClaim a b s) := by
  unfold execClaim
  dsimp only
  refine .next ?_
  refine settle_canonical h ?_
  refine .bind_any homeTurn_keeps fun _ => .bind_any takeAB_keeps fun _ => ?_
  split
  · exact .bind_any poisonCheck_keeps fun _ => .bind_any poisonCheck_keeps fun _ => .ret (done_canonical h)
  · split
    · exact .stop trivial
    · refine .bind_any poisonCheck_keeps fun _ => .bind_any poisonCheck_keeps fun _ => ?_
      split
      · exact .ret (done_canonical h)
      · exact .ret (modPart_canonical (done_canonical h))

theorem execTlbinv_canonical {a b s} (h : Canonical s) : OutCanonical (execTlbinv a b s) := by
  unfold execTlbinv
  refine .next ?_
  refine settle_canonical h ?_
  refine .bind_any homeTurn_keeps fun _ => .bind_any takeAB_keeps fun ⟨_, _, _⟩ => ?_
  exact .bind_any poisonCheck_keeps fun _ => .bind_any poisonCheck_keeps fun _ => .ret (done_canonical h)

theorem execTmark_canonical {a b s} (h : Canonical s) : OutCanonical (execTmark a b s) := by
  unfold execTmark
  refine .next ?_
  refine settle_canonical h ?_
  refine .bind_any homeTurn_keeps fun _ => .bind_any takeAB_keeps fun ⟨_, _, _⟩ => ?_
  refine .bind_any poisonCheck_keeps fun _ => .bind_any poisonCheck_keeps fun _ => ?_
  exact .ret (traceStrand_canonical (done_canonical h))

theorem execSysc_canonical {n s} (h : Canonical s) : OutCanonical (execSysc n s) := by
  unfold execSysc
  dsimp only
  refine .next ?_
  refine settle_canonical h ?_
  refine .bind_any vectorIdle_keeps fun _ => .bind_any noStores_keeps fun _ => .bind_any noLoads_keeps fun _ => ?_
  exact .ret (canonical_update (dropLdc_canonical h))

theorem execEret_canonical {s} (h : Canonical s) : OutCanonical (execEret s) := by
  unfold execEret
  refine .next ?_
  refine settle_canonical h ?_
  refine .bind_any noLoop_keeps fun _ => ?_
  split
  · exact .ret h
  · exact .stop trivial

/-! #### Machine/Engine.lean -/

theorem tableStack_keeps {s t kind ws} : RunKeeps (fun _ => True) (tableStack s t kind ws) := by
  unfold tableStack
  dsimp only
  split
  · split
    · exact .stop trivial
    · exact .ret trivial
  · exact .ret trivial

theorem engineRun_keeps {i s kind v base bad} (h : Canonical s) :
    RunKeeps Canonical (engineRun i s kind v base bad) := by
  unfold engineRun
  refine .bind_any homeTurn_keeps fun _ => .bind_any noStores_keeps fun _ => .bind_any noMisuse_keeps fun _ => ?_
  refine .bind_any takeBase_keeps fun ⟨_, _⟩ => ?_
  refine .bind (readRecord_keeps h) fun ⟨_, s1⟩ hs => ?_
  refine .ite_bind_any (.stop trivial) (.ret trivial) fun _ => .bind_any tableStack_keeps fun _ => ?_
  split
  · exact .stop trivial
  · split
    · split
      · exact .stop trivial
      · exact .ret (done_canonical hs)
    · split
      · exact .stop trivial
      · exact .ret (done_canonical hs)

theorem execCpy_canonical {v base s} (h : Canonical s) : OutCanonical (execCpy v base s) :=
  .next (settle_canonical h (engineRun_keeps h))

theorem execCpyb_canonical {v base s} (h : Canonical s) : OutCanonical (execCpyb v base s) :=
  .next (settle_canonical h (engineRun_keeps h))

theorem execGath_canonical {base s} (h : Canonical s) : OutCanonical (execGath base s) :=
  .next (settle_canonical h (engineRun_keeps h))

theorem execRoute_canonical {base s} (h : Canonical s) : OutCanonical (execRoute base s) :=
  .next (settle_canonical h (engineRun_keeps h))

theorem modCmd_canonical {s n f} (h : Canonical s) : Canonical (s.modCmd n f) := h

theorem execEngineAcceptCommand_canonical {uid s} (h : Canonical s) :
    OutCanonical (execEngineAcceptCommand uid s) := by
  unfold execEngineAcceptCommand
  split <;> exact .next h

theorem engineLoc_keeps {s : State} {c a r w} : RunKeeps (fun _ => True) (s.engineLoc c a r w) := by
  unfold State.engineLoc
  split
  · exact .stop trivial
  · refine .bind_any permit_keeps fun _ => ?_
    split
    · exact .stop trivial
    · exact .ret trivial

theorem storeLoc_keeps {s : State} {p pa n} : RunKeeps (fun _ => True) (s.storeLoc p pa n) := by
  unfold State.storeLoc
  split
  · exact .stop trivial
  · split
    · exact .stop trivial
    · exact .ret trivial

theorem engLoad_canonical {s c a n} (h : Canonical s) : Canonical (engLoad s c a n).1 := by
  unfold engLoad
  split
  · next hr => exact canonical_fst (engineFind_canonical h) hr
  · next hr =>
      split
      · exact canonical_fst (engineFind_canonical h) hr
      · exact canonical_fst (engineFind_canonical h) hr
      · split
        · exact canonical_update (canonical_fst (engineFind_canonical h) hr)
        · split
          next hr2 =>
            split <;> exact canonical_thd (readAt_canonical (canonical_fst (engineFind_canonical h) hr)) hr2

theorem engAt_s_canonical {self} (h : Canonical self.s) : Canonical (EngAt.s self) := h

theorem engAt_stall_canonical {x va acc} (h : Canonical x.s) : Canonical (EngAt.stall x va acc).s :=
  startWalk_canonical h

theorem engAt_stop_canonical {x a x1} (h : Canonical x.s) (h2 : StopCanonical x1) :
    Canonical (EngAt.stop x a x1).s := by
  unfold EngAt.stop
  split
  · exact engAt_stall_canonical h
  · exact h
  · exact h
  · exact h
  · exact h2

theorem engAt_put_canonical {x p} (h : Canonical x.s) : Canonical (EngAt.put x p).s := by
  unfold EngAt.put
  dsimp only
  split
  next e hr =>
    refine engAt_stop_canonical h (@RunKeeps.error _ (fun _ => True) _ ?_ _ hr)
    split
    · exact storeLoc_keeps
    · exact engineLoc_keeps
  · split
    · next hr => exact engAt_stop_canonical h (writeOk_keeps.error _ hr)
    · exact write_canonical h

theorem engAt_get_canonical {x} (h : Canonical x.s) : Canonical (EngAt.get x).s := by
  unfold EngAt.get
  dsimp only
  split
  · next hr => exact engAt_stop_canonical h (engineLoc_keeps.error _ hr)
  · split
    · exact engAt_stop_canonical h (readAt_canonical h)
    · exact readAt_canonical h

theorem engAt_act_canonical {x} (h : Canonical x.s) : Canonical (EngAt.act x).s := by
  unfold EngAt.act
  dsimp only
  split
  · exact engAt_put_canonical h
  · split
    · exact engAt_get_canonical h
    · exact h

theorem engAt_run_canonical {x n} (h : Canonical x.s) : Canonical (EngAt.run x n).s := by
  induction n generalizing x h with
  | zero => exact h
  | succ n ih =>
    unfold EngAt.run
    split
    · exact ih (engAt_act_canonical h)
    · exact h

theorem runHead_canonical {s cls n pick} (h : Canonical s) : Canonical (s.runHead cls n pick) := by
  unfold State.runHead
  dsimp only
  split
  · exact h
  · split
    · exact h
    · exact modCmd_canonical (engAt_run_canonical h)

theorem execCopyPlain_canonical {cluster s} (h : Canonical s) : OutCanonical (execCopyPlain cluster s) :=
  .next (runHead_canonical h)

theorem execCopyEncode_canonical {cluster s} (h : Canonical s) : OutCanonical (execCopyEncode cluster s) :=
  .next (runHead_canonical h)

theorem execCopyDecode_canonical {cluster s} (h : Canonical s) : OutCanonical (execCopyDecode cluster s) :=
  .next (runHead_canonical h)

theorem execQ4gUnpack_canonical {cluster s} (h : Canonical s) : OutCanonical (execQ4gUnpack cluster s) :=
  .next (runHead_canonical h)

theorem execGather_canonical {stack s} (h : Canonical s) : OutCanonical (execGather stack s) :=
  .next (runHead_canonical h)

theorem execRouteAssign_canonical {die s} (h : Canonical s) : OutCanonical (execRouteAssign die s) :=
  .next (runHead_canonical h)

theorem favour_canonical {s n} (h : Canonical s) : Canonical (s.favour n) := by
  unfold State.favour
  dsimp only
  split
  · exact h
  · split <;> exact h

theorem execEngineCredit_canonical {n s} (h : Canonical s) : OutCanonical (execEngineCredit n s) := by
  unfold execEngineCredit
  dsimp only
  split
  · exact .next h
  · split
    · exact .next (modCmd_canonical (engAt_stall_canonical h))
    · exact .next (modCmd_canonical h)
    · exact .next h
    · split
      · exact .next (modCmd_canonical (readAt_canonical h))
      · split
        · exact .next (modCmd_canonical (readAt_canonical h))
        · exact .next (serveTokens_canonical (modCmd_canonical (writeAt_canonical (readAt_canonical h))))

theorem execCompletionEntryPush_canonical {n s} (h : Canonical s) : OutCanonical (execCompletionEntryPush n s) := by
  unfold execCompletionEntryPush
  dsimp only
  split
  · exact .next h
  · split
    · split
      · exact .next (fatal_canonical h)
      · exact .next (retireTask_canonical h)
    · split
      · exact .next h
      · split
        · exact .next h
        · split
          · exact .next h
          · split
            · exact .next (modStrand_canonical h)
            · exact .next h

theorem engWords_canonical {s c a n} (h : Canonical s) : Canonical (engWords s c a n).1 := by
  induction n generalizing s c a h with
  | zero => exact h
  | succ n ih =>
    unfold engWords
    split
    · next hr => exact canonical_fst (engLoad_canonical h) hr
    · next hr =>
        split
        · next hr1 => exact canonical_fst (ih (canonical_fst (engLoad_canonical h) hr)) hr1
        · next hr1 => exact canonical_fst (ih (canonical_fst (engLoad_canonical h) hr)) hr1

theorem copyBank_canonical {s p l cell} (h : Canonical s) : Canonical (s.copyBank p l cell).1 := by
  unfold State.copyBank
  dsimp only
  split
  · exact h
  · split
    · next hr => exact canonical_fst (engWords_canonical h) hr
    · next hr => exact modCell_canonical (canonical_fst (engWords_canonical h) hr)

/-! #### Machine/Fetch.lean -/

theorem dropFetchLine_canonical {s c cell key pa} (h : Canonical s) : Canonical (s.dropFetchLine c cell key pa) := by
  unfold State.dropFetchLine
  split
  · exact logError_canonical (modCell_canonical h)
  · exact h

theorem fetchWord_keeps {s t a} (h : Canonical s) : RunKeeps (fun r => Canonical r.2) (s.fetchWord t a) := by
  unfold State.fetchWord
  refine .bind_any locate_keeps fun _ => ?_
  dsimp only
  split
  · exact .ret (dropFetchLine_canonical h)
  · split
    · exact .stop trivial
    · split
      · split
        · exact .stop (readAt_canonical (readAt_canonical (dropFetchLine_canonical h)))
        · exact .ret (readAt_canonical (readAt_canonical (dropFetchLine_canonical h)))
      · exact .ret (modCell_canonical (readAt_canonical (dropFetchLine_canonical h)))

theorem fetchFrom_keeps {s t pc ws n} (h : Canonical s) :
    RunKeeps (fun r => Canonical r.2) (fetchFrom s t pc ws n) := by
  induction n generalizing s t pc ws h with
  | zero => exact .ret h
  | succ n ih =>
    unfold fetchFrom
    refine .bind (fetchWord_keeps h) fun ⟨_, s1⟩ hs => ?_
    split
    next hr =>
      split
      · exact ih (canonical_snd hs hr)
      · exact .ret (canonical_snd hs hr)

theorem fetchAt_keeps {s t pc} (h : Canonical s) : RunKeeps (fun r => Canonical r.2) (s.fetchAt t pc) :=
  fetchFrom_keeps h

/-! #### Machine/VectorCore.lean -/

theorem vIn_s_canonical {self} (h : Canonical self.s) : Canonical (VIn.s self) := h

theorem tilesClear_keeps {t i} : RunKeeps (fun _ => True) (tilesClear t i) := by
  unfold tilesClear
  split
  · exact .stop trivial
  · exact .ret trivial

theorem rowClear_keeps {t f v} : RunKeeps (fun _ => True) (rowClear t f v) := by
  unfold rowClear
  split
  · exact .stop trivial
  · exact .ret trivial

theorem groupCheck_keeps {t eg w reg} : RunKeeps (fun _ => True) (groupCheck t eg w reg) := by
  unfold groupCheck
  split
  · exact .stop trivial
  · split
    · exact .stop trivial
    · exact .ret trivial

theorem groupTags_keeps {t eg w reg f} : RunKeeps (fun _ => True) (groupTags t eg w reg f) := by
  unfold groupTags
  split
  · exact .stop trivial
  · exact .ret trivial

theorem vSrc_use_keeps {x vl p} : RunKeeps (fun _ => True) (VSrc.use x vl p) := by
  unfold VSrc.use
  split
  · exact .ret trivial
  · split
    · exact .stop trivial
    · exact .ret trivial

theorem vIn_out_keeps {c t} (h : Canonical c.s) : RunKeeps Canonical (VIn.out c t) := .ret h

theorem vIn_outReg_keeps {c d r} (h : Canonical c.s) : RunKeeps Canonical (VIn.outReg c d r) := by
  unfold VIn.outReg
  exact .bind_any putReg_keeps fun _ => vIn_out_keeps h

theorem bTags_keeps {c eg w b f} : RunKeeps (fun _ => True) (bTags c eg w b f) := by
  unfold bTags
  split
  · exact .ret trivial
  · exact groupTags_keeps
  · exact tagCheck_keeps

theorem bGroup_keeps {c eg w b} : RunKeeps (fun _ => True) (bGroup c eg w b) := by
  unfold bGroup
  split
  · exact groupCheck_keeps
  · exact .ret trivial

theorem bUse_keeps {c x p} : RunKeeps (fun _ => True) (bUse c x p) := by
  unfold bUse
  split
  · exact vSrc_use_keeps
  · exact poisonCheck_keeps

theorem elemRun_keeps {c f k d a b fa fb fd useD tag g} (h : Canonical c.s) :
    RunKeeps Canonical (elemRun c f k d a b fa fb fd useD tag g) := by
  unfold elemRun
  extract_lets -underBinder _ _ rest
  have hrest : ∀ r, RunKeeps Canonical (rest r) := by
    intro r
    unfold rest
    refine .bind_any bTags_keeps fun _ => ?_
    extract_lets -underBinder rest1
    have hrest : ∀ r, RunKeeps Canonical (rest1 r) := by
      intro r
      unfold rest1
      refine .bind_any groupCheck_keeps fun _ => .bind_any bGroup_keeps fun _ => ?_
      refine .bind_any groupCheck_keeps fun _ => .bind_any vSrc_use_keeps fun _ => .bind_any bUse_keeps fun _ => ?_
      exact .ite_bind_any vSrc_use_keeps (.ret trivial) fun _ => vIn_out_keeps h
    clear_value rest1
    split
    · exact .bind_any groupTags_keeps fun _ => hrest _
    · refine .ok_bind ?_
      exact hrest _
  clear_value rest
  split
  · exact .bind_any groupTags_keeps fun _ => hrest _
  · refine .ok_bind ?_
    exact hrest _

theorem unaryRun_keeps {c f k d src ws fs tag g} (h : Canonical c.s) :
    RunKeeps Canonical (unaryRun c f k d src ws fs tag g) := by
  unfold unaryRun
  refine .bind_any groupTags_keeps fun _ => .bind_any groupCheck_keeps fun _ => .bind_any groupCheck_keeps fun _ => ?_
  exact .bind_any vSrc_use_keeps fun _ => vIn_out_keeps h

/-! #### Machine/VectorOps.lean -/

theorem setConfig_keeps {c d f g len} (h : Canonical c.s) : RunKeeps Canonical (setConfig c d f g len) := by
  unfold setConfig
  exact .bind_any putReg_keeps fun _ => vIn_out_keeps h

theorem vsetvlRun_keeps {c d} (h : Canonical c.s) : RunKeeps Canonical (vsetvlRun c d) := by
  unfold vsetvlRun
  refine .bind_any hasRoom_keeps fun _ => ?_
  dsimp only
  split
  · exact .stop trivial
  · exact .bind_any poisonCheck_keeps fun _ => .bind_any poisonCheck_keeps fun _ => setConfig_keeps h

theorem vsetvliRun_keeps {c f grp d} (h : Canonical c.s) : RunKeeps Canonical (vsetvliRun c f grp d) := by
  unfold vsetvliRun
  exact .bind_any hasRoom_keeps fun _ => .bind_any poisonCheck_keeps fun _ => setConfig_keeps h

theorem intElem_keeps {c f k d a b acc g} (h : Canonical c.s) : RunKeeps Canonical (intElem c f k d a b acc g) :=
  elemRun_keeps h

theorem bitElem_keeps {c f k d a b g} (h : Canonical c.s) : RunKeeps Canonical (bitElem c f k d a b g) :=
  elemRun_keeps h

theorem shiftElem_keeps {c f k d a b g} (h : Canonical c.s) : RunKeeps Canonical (shiftElem c f k d a b g) :=
  elemRun_keeps h

theorem vabsRun_keeps {c f k d b} (h : Canonical c.s) : RunKeeps Canonical (vabsRun c f k d b) := unaryRun_keeps h

theorem vnarrowRun_keeps {c f k d a b} (h : Canonical c.s) : RunKeeps Canonical (vnarrowRun c f k d a b) := by
  unfold vnarrowRun
  refine .bind_any groupTags_keeps fun _ => .bind_any groupCheck_keeps fun _ => .bind_any bGroup_keeps fun _ => ?_
  refine .bind_any groupCheck_keeps fun _ => .bind_any vSrc_use_keeps fun _ => .bind_any bUse_keeps fun _ => ?_
  exact vIn_out_keeps h

theorem vwidenRun_keeps {c f k d b} (h : Canonical c.s) : RunKeeps Canonical (vwidenRun c f k d b) := unaryRun_keeps h

theorem fpElem_keeps {c f k d a b g} (h : Canonical c.s) : RunKeeps Canonical (fpElem c f k d a b g) :=
  elemRun_keeps h

theorem vfmaRun_keeps {c f r k d a b} (h : Canonical c.s) : RunKeeps Canonical (vfmaRun c f r k d a b) :=
  elemRun_keeps h

theorem specRun_keeps {c k d b g} (h : Canonical c.s) : RunKeeps Canonical (specRun c k d b g) := unaryRun_keeps h

theorem compareRun_keeps {c f k d a b g} (h : Canonical c.s) : RunKeeps Canonical (compareRun c f k d a b g) := by
  unfold compareRun
  refine .bind_any groupTags_keeps fun _ => .bind_any bTags_keeps fun _ => .bind_any groupCheck_keeps fun _ => ?_
  refine .bind_any bGroup_keeps fun _ => .bind_any vSrc_use_keeps fun _ => .bind_any bUse_keeps fun _ => ?_
  exact vIn_out_keeps h

theorem vselRun_keeps {c f k d a b} (h : Canonical c.s) : RunKeeps Canonical (vselRun c f k d a b) := by
  unfold vselRun
  refine .bind_any groupTags_keeps fun _ => .bind_any bTags_keeps fun _ => .bind_any groupCheck_keeps fun _ => ?_
  refine .bind_any bGroup_keeps fun _ => .bind_any groupCheck_keeps fun _ => .bind_any vSrc_use_keeps fun _ => ?_
  exact .bind_any bUse_keeps fun _ => vIn_out_keeps h

theorem vmvRun_keeps {c f k d b} (h : Canonical c.s) : RunKeeps Canonical (vmvRun c f k d b) := by
  unfold vmvRun
  refine .bind_any bGroup_keeps fun _ => .bind_any groupCheck_keeps fun _ => .bind_any bUse_keeps fun _ => ?_
  exact vIn_out_keeps h

theorem vslideRun_keeps {c f down k d a} (h : Canonical c.s) : RunKeeps Canonical (vslideRun c f down k d a) := by
  unfold vslideRun
  refine .bind_any groupCheck_keeps fun _ => .bind_any groupCheck_keeps fun _ => ?_
  exact .bind_any poisonCheck_keeps fun _ => .bind_any vSrc_use_keeps fun _ => vIn_out_keeps h

theorem vpermRun_keeps {c f k d a b} (h : Canonical c.s) : RunKeeps Canonical (vpermRun c f k d a b) := by
  unfold vpermRun
  refine .bind_any groupCheck_keeps fun _ => .bind_any groupCheck_keeps fun _ => ?_
  refine .bind_any groupCheck_keeps fun _ => .bind_any vSrc_use_keeps fun _ => .bind_any vSrc_use_keeps fun _ => ?_
  exact vIn_out_keeps h

theorem vcompressRun_keeps {c f k d b} (h : Canonical c.s) : RunKeeps Canonical (vcompressRun c f k d b) := by
  unfold vcompressRun
  refine .bind_any groupCheck_keeps fun _ => .bind_any groupCheck_keeps fun _ => .bind_any vSrc_use_keeps fun _ => ?_
  exact vIn_out_keeps h

theorem reduceRun_keeps {c f k d a g} (h : Canonical c.s) : RunKeeps Canonical (reduceRun c f k d a g) := by
  unfold reduceRun
  refine .bind_any hasRoom_keeps fun _ => .bind_any groupTags_keeps fun _ => .bind_any tagCheck_keeps fun _ => ?_
  refine .bind_any groupCheck_keeps fun _ => .bind_any vSrc_use_keeps fun _ => .bind_any poisonCheck_keeps fun _ => ?_
  exact vIn_outReg_keeps h

theorem vdotxRun_keeps {c f r k d a b} (h : Canonical c.s) : RunKeeps Canonical (vdotxRun c f r k d a b) := by
  unfold vdotxRun
  refine .bind_any hasRoom_keeps fun _ => .bind_any groupTags_keeps fun _ => .bind_any groupTags_keeps fun _ => ?_
  refine .ite_bind_any tagCheck_keeps (.ret trivial) fun _ => .bind_any groupCheck_keeps fun _ => ?_
  refine .bind_any groupCheck_keeps fun _ => .bind_any vSrc_use_keeps fun _ => .bind_any vSrc_use_keeps fun _ => ?_
  exact .ite_bind_any poisonCheck_keeps (.ret trivial) fun _ => vIn_outReg_keeps h

theorem vcvtRun_keeps {c f r k d src} (h : Canonical c.s) : RunKeeps Canonical (vcvtRun c f r k d src) :=
  unaryRun_keeps h

theorem vdeqRun_keeps {c f r k d a} (h : Canonical c.s) : RunKeeps Canonical (vdeqRun c f r k d a) := by
  unfold vdeqRun
  extract_lets -underBinder _ rest
  have hrest : ∀ r, RunKeeps Canonical (rest r) := by
    intro r
    unfold rest
    refine .bind_any tagCheck_keeps fun _ => .bind_any groupCheck_keeps fun _ => ?_
    refine .bind_any groupCheck_keeps fun _ => .bind_any vSrc_use_keeps fun _ => ?_
    exact .bind_any poisonCheck_keeps fun _ => vIn_out_keeps h
  clear_value rest
  split
  · exact .bind_any (.stop trivial) fun _ => hrest _
  · refine .ok_bind ?_
    exact hrest _

theorem vprune4Run_keeps {c f k d a b} (h : Canonical c.s) : RunKeeps Canonical (vprune4Run c f k d a b) := by
  unfold vprune4Run
  refine .bind_any groupTags_keeps fun _ => .bind_any groupCheck_keeps fun _ => ?_
  refine .ite_bind_any (.stop trivial) (.ret trivial) fun _ => .bind_any groupCheck_keeps fun _ => ?_
  exact .ite_bind_any (.stop trivial) (.ret trivial) fun _ => .bind_any vSrc_use_keeps fun _ => vIn_out_keeps h

theorem maskRun_keeps {c k d g} (h : Canonical c.s) : RunKeeps Canonical (maskRun c k d g) := vIn_out_keeps h

theorem msetRun_keeps {c d} (h : Canonical c.s) : RunKeeps Canonical (msetRun c d) := by
  unfold msetRun
  exact .bind_any poisonCheck_keeps fun _ => vIn_out_keeps h

theorem mpopRun_keeps {c d m} (h : Canonical c.s) : RunKeeps Canonical (mpopRun c d m) := by
  unfold mpopRun
  exact .bind_any hasRoom_keeps fun _ => vIn_outReg_keeps h

theorem mfirstRun_keeps {c d m} (h : Canonical c.s) : RunKeeps Canonical (mfirstRun c d m) := by
  unfold mfirstRun
  exact .bind_any hasRoom_keeps fun _ => vIn_outReg_keeps h

/-! #### Machine/VectorMem.lean -/

theorem vIn_locs_keeps {c store n l} : RunKeeps (fun _ => True) (VIn.locs c store n l) := by
  induction l generalizing c store n with
  | nil => exact .ret trivial
  | cons x l ih =>
    unfold VIn.locs
    exact .bind_any aligned_keeps fun _ => .bind_any locate_keeps fun _ => .bind_any ih fun _ => .ret trivial

theorem locateNow_keeps {s t va} (h : Canonical s) : RunKeeps (fun r => Canonical r.2) (locateNow s t va) := by
  unfold locateNow
  split
  · exact .bind_any permit_keeps fun _ => .ret h
  · split
    · exact .stop trivial
    · next hr1 =>
        exact .bind_any permit_keeps fun _ => .ret (canonical_fst (walk_canonical h) hr1)

theorem locsFirst_keeps {s t n l} (h : Canonical s) : RunKeeps (fun r => Canonical r.2.2) (locsFirst s t n l) := by
  induction l generalizing s with
  | nil => exact .ret h
  | cons x r ih =>
    unfold locsFirst
    extract_lets place
    have hplace : RunKeeps (fun r => Canonical r.2) place := by
      unfold place
      split
      · exact aligned_keeps.bind_any fun _ => locate_keeps.bind_any fun _ => .ret h
      · split
        · exact .stop trivial
        · exact locateNow_keeps h
    clear_value place
    cases place with
    | error e =>
      dsimp only
      split
      · exact .stop (hplace.error e rfl)
      · exact .ret h
    | ok p =>
      obtain ⟨l, s1⟩ := p
      exact (ih (hplace.ok _ rfl)).bind fun ⟨_, _, _⟩ hs => .ret hs

theorem vPlan_s_canonical {self} (h : Canonical self.s) : Canonical (VPlan.s self) := h

theorem vmemChecks_keeps {c f k d store e b} : RunKeeps (fun _ => True) (vmemChecks c f k d store e b) := by
  unfold vmemChecks
  extract_lets -underBinder _ _ _ rest
  have hrest : ∀ r, RunKeeps (fun _ => True) (rest r) := by
    intro r
    unfold rest
    refine .ite_bind_any groupTags_keeps (.ret trivial) fun _ => ?_
    dsimp only
    split
    · exact .bind_any groupCheck_keeps fun _ => .bind_any groupCheck_keeps fun _ => .ret trivial
    · refine .ok_bind ?_
      exact .bind_any groupCheck_keeps fun _ => .ret trivial
  clear_value rest
  split
  · exact .bind_any groupTags_keeps fun _ => hrest _
  · refine .ok_bind ?_
    exact hrest _

theorem vmemPoison_keeps {c k p} : RunKeeps (fun _ => True) (vmemPoison c k p) := by
  unfold vmemPoison
  refine .bind_any poisonCheck_keeps fun _ => ?_
  split
  · exact .ret trivial
  · exact poisonCheck_keeps
  · exact vSrc_use_keeps

theorem vloadPlan_keeps {c f k d e b} (h : Canonical c.s) :
    RunKeeps (fun r => Canonical r.s) (vloadPlan c f k d e b) := by
  unfold vloadPlan
  refine .bind_any vmemChecks_keeps fun _ => .bind_any vIn_locs_keeps fun _ => .bind_any vmemPoison_keeps fun _ => ?_
  exact .ret h

theorem vldffPlan_keeps {c f k d e} (h : Canonical c.s) :
    RunKeeps (fun r => Canonical r.s) (vldffPlan c f k d e) := by
  unfold vldffPlan
  refine .bind_any vmemChecks_keeps fun _ => .bind (locsFirst_keeps h) fun ⟨_, _, s⟩ hs => ?_
  exact .bind_any vmemPoison_keeps fun _ => .ret hs

theorem vstorePlan_keeps {c f k d e b} (h : Canonical c.s) :
    RunKeeps (fun r => Canonical r.s) (vstorePlan c f k d e b) := by
  unfold vstorePlan
  refine .bind_any vmemChecks_keeps fun _ => .bind_any vIn_locs_keeps fun _ => .bind_any vmemPoison_keeps fun _ => ?_
  refine .bind_any vSrc_use_keeps fun _ => .ite_bind_any (.stop trivial) (.ret trivial) fun _ => ?_
  exact .ite_bind_any (.stop trivial) (.ret trivial) fun _ => .ret h

theorem vmemPlan_keeps {c i} (h : Canonical c.s) : RunKeeps (fun r => Canonical r.s) (vmemPlan c i) := by
  unfold vmemPlan
  split
  · exact vloadPlan_keeps h
  · exact vloadPlan_keeps h
  · exact vloadPlan_keeps h
  · exact vldffPlan_keeps h
  · exact vstorePlan_keeps h
  · exact vstorePlan_keeps h
  · exact vstorePlan_keeps h
  · exact .ret h

theorem elemRead_canonical {s c f i pa} (h : Canonical s) : Canonical (elemRead s c f i pa).2.2 := readAt_canonical h

theorem readElems_canonical {s ctx f l} (h : Canonical s) : Canonical (readElems s ctx f l).2 := by
  induction l generalizing s with
  | nil => exact h
  | cons x r ih =>
    obtain ⟨i, l⟩ := x
    have hread : Canonical (elemRead s ctx f i l.pa).2.2 := elemRead_canonical h
    unfold readElems
    dsimp only
    exact ih hread

theorem writeElems_keeps {s w f va x l} (h : Canonical s) : RunKeeps Canonical (writeElems s w f va x l) := by
  induction l generalizing s w f va x h with
  | nil => exact .ret h
  | cons x l ih =>
    unfold writeElems
    dsimp only
    split
    · exact .stop trivial
    · exact ih (write_canonical h)

theorem vIn_turn_keeps {c ls} : RunKeeps (fun _ => True) (VIn.turn c ls) := by
  unfold VIn.turn
  split
  · exact .stop trivial
  · exact .ret trivial

theorem vmemRun_keeps {c i} (h : Canonical c.s) : RunKeeps Canonical (vmemRun c i) := by
  unfold vmemRun
  refine .bind (vmemPlan_keeps h) fun x hs => ?_
  refine .bind_any vIn_turn_keeps fun _ => ?_
  dsimp only
  split
  · exact .ret (canonical_update (readElems_canonical hs))
  · refine .bind (writeElems_keeps hs) fun s hs2 => ?_
    exact .ret hs2

theorem vmemSend_keeps {c e} (h : Canonical c.s) : RunKeeps (fun r => Canonical r.1) (vmemSend c e) := by
  unfold vmemSend
  refine .bind (vmemPlan_keeps h) fun x hs => ?_
  exact .ret hs

/-! #### Machine/Sequencer.lean -/

theorem takeV_keeps {s t o cap} : RunKeeps (fun _ => True) (takeV s t o cap) := by
  unfold takeV
  split
  · exact .ret trivial
  · exact .ret trivial
  · exact takeReg_keeps
  · exact .ret trivial
  · exact .ret trivial

theorem vectorEffect_keeps {i c} (h : Canonical c.s) : RunKeeps Canonical (vectorEffect i c) := by
  unfold vectorEffect
  split
  · exact vsetvlRun_keeps h
  · exact vsetvliRun_keeps h
  · exact intElem_keeps h
  · exact intElem_keeps h
  · exact intElem_keeps h
  · exact intElem_keeps h
  · exact intElem_keeps h
  · exact bitElem_keeps h
  · exact bitElem_keeps h
  · exact bitElem_keeps h
  · exact shiftElem_keeps h
  · exact shiftElem_keeps h
  · exact shiftElem_keeps h
  · exact intElem_keeps h
  · exact intElem_keeps h
  · exact intElem_keeps h
  · exact intElem_keeps h
  · exact vabsRun_keeps h
  · exact vnarrowRun_keeps h
  · exact vwidenRun_keeps h
  · exact fpElem_keeps h
  · exact fpElem_keeps h
  · exact fpElem_keeps h
  · exact vfmaRun_keeps h
  · exact fpElem_keeps h
  · exact fpElem_keeps h
  · exact fpElem_keeps h
  · exact compareRun_keeps h
  · exact compareRun_keeps h
  · exact vselRun_keeps h
  · exact vmvRun_keeps h
  · exact vslideRun_keeps h
  · exact vpermRun_keeps h
  · exact vcompressRun_keeps h
  · exact reduceRun_keeps h
  · exact reduceRun_keeps h
  · exact reduceRun_keeps h
  · exact vdotxRun_keeps h
  · exact vdeqRun_keeps h
  · exact vprune4Run_keeps h
  · exact maskRun_keeps h
  · exact maskRun_keeps h
  · exact maskRun_keeps h
  · exact msetRun_keeps h
  · exact specRun_keeps h
  · exact specRun_keeps h
  · exact specRun_keeps h
  · exact specRun_keeps h
  · exact specRun_keeps h
  · exact specRun_keeps h
  · exact vcvtRun_keeps h
  · exact maskRun_keeps h
  · exact mpopRun_keeps h
  · exact mfirstRun_keeps h
  · exact vmemRun_keeps h
  · exact vmemRun_keeps h
  · exact vmemRun_keeps h
  · exact vmemRun_keeps h
  · exact vmemRun_keeps h
  · exact vmemRun_keeps h
  · exact vmemRun_keeps h
  · exact .ret h

theorem vectorChecks_keeps {i} : RunKeeps (fun _ => True) (vectorChecks i) := by
  unfold vectorChecks
  exact .bind_any noMisuse_keeps fun _ => .bind_any noMisuse_keeps fun _ => noMisuse_keeps

theorem entryIn_keeps {s e} (h : Canonical s) : RunKeeps (fun r => Canonical r.s) (entryIn s e) := by
  unfold entryIn
  refine .bind_any vectorChecks_keeps fun _ => .bind_any takeV_keeps fun ⟨_, _⟩ => ?_
  refine .bind_any takeV_keeps fun ⟨_, _⟩ => ?_
  refine .bind_any takeV_keeps fun ⟨_, _⟩ => ?_
  exact .ret h

theorem runEntry_keeps {s e} (h : Canonical s) : RunKeeps Canonical (runEntry s e) := by
  unfold runEntry
  refine .bind (entryIn_keeps h) fun x hs => ?_
  exact vectorEffect_keeps hs

theorem enterEntry_keeps {s e} (h : Canonical s) : RunKeeps Canonical (enterEntry s e) := by
  unfold enterEntry
  dsimp only
  split
  · exact .ret (finish_canonical h)
  · exact .stop trivial

theorem markSequencer_canonical {s cell} (h : Canonical s) : Canonical (s.markSequencer cell) := modCell_canonical h

theorem issueVector_keeps {i s} (h : Canonical s) : RunKeeps Canonical (issueVector i s) := by
  unfold issueVector
  refine .bind_any noHazard_keeps fun _ => .bind_any vectorChecks_keeps fun _ => ?_
  refine .bind_any tilesClear_keeps fun _ => ?_
  dsimp only
  split
  · split
    · next hr1 => exact .ret (markSequencer_canonical (finish_canonical ((runEntry_keeps h).ok _ hr1)))
    · exact enterEntry_keeps h
    · next hr1 => exact .stop ((runEntry_keeps h).error _ hr1)
  · exact enterEntry_keeps h

theorem vector_canonical {i s} (h : Canonical s) : OutCanonical (vector i s) :=
  .next (settle_canonical h (issueVector_keeps h))

theorem fetchBody_keeps {s pc num n} (h : Canonical s) :
    RunKeeps (fun r => Canonical r.2.2) (fetchBody s pc num n) := by
  induction n generalizing s pc num h with
  | zero => exact .ret h
  | succ n ih =>
    unfold fetchBody
    refine .bind (fetchAt_keeps h) fun ⟨_, s1⟩ hs => ?_
    dsimp only
    split
    · exact .stop trivial
    · exact .stop trivial
    · split
      · refine .bind (ih hs) fun ⟨_, _, s2⟩ hs1 => ?_
        exact .ret hs1
      · exact .stop trivial

theorem enterBody_keeps {s l es pc} (h : Canonical s) : RunKeeps Canonical (enterBody s l es pc) := by
  unfold enterBody
  dsimp only
  split
  · exact .ret h
  · exact .stop trivial

theorem vrepRun_keeps {k1 c s} (h : Canonical s) : RunKeeps Canonical (vrepRun k1 c s) := by
  unfold vrepRun
  dsimp only
  split
  · exact .stop trivial
  · split
    · exact .stop trivial
    · refine .bind_any noHazard_keeps fun _ => .bind_any noMisuse_keeps fun _ => ?_
      refine .bind (fetchBody_keeps h) fun ⟨_, _, s1⟩ hs2 => ?_
      refine .ite_bind_any (.stop trivial) (.ret trivial) fun _ => ?_
      refine .bind_any (RunKeeps.forM (fun a => tilesClear_keeps)) fun _ => ?_
      split
      · refine .bind_any takeReg_keeps fun _ => .bind_any poisonCheck_keeps fun _ => ?_
        split
        · exact .ret hs2
        · exact enterBody_keeps hs2
      · exact enterBody_keeps hs2

theorem resumeLoop_keeps {s} (h : Canonical s) : RunKeeps Canonical (resumeLoop s) := by
  unfold resumeLoop
  dsimp only
  split
  · exact enterBody_keeps h
  · refine .bind (fetchAt_keeps h) fun ⟨_, s1⟩ hs1 => ?_
    refine .bind (fetchBody_keeps hs1) fun ⟨_, _, s2⟩ hs2 => ?_
    exact enterBody_keeps hs2

theorem giveBack_canonical {s x} (h : Canonical s) : Canonical (s.giveBack x) :=
  canonical_update (foldl_canonical (fun _ _ => modCluster_canonical) h _)

theorem undoTiles_canonical {s num} (h : Canonical s) : Canonical (s.undoTiles num) :=
  canonical_update (foldl_canonical (fun _ _ => giveBack_canonical) h _)

theorem undoFrom_canonical {s e} (h : Canonical s) : Canonical (s.undoFrom e) :=
  canonical_update (undoTiles_canonical h)

theorem pullBack_canonical {s} (h : Canonical s) : Canonical (s.pullBack) := by
  unfold State.pullBack
  dsimp only
  split
  · exact h
  · split
    · exact canonical_update (undoFrom_canonical h)
    · split
      · refine canonical_update ?_
        split
        · exact undoFrom_canonical h
        · exact h
      · exact canonical_update (undoFrom_canonical h)

theorem followFrom_canonical {s old e d} (h : Canonical s) : Canonical (s.followFrom old e d) := h

theorem stepDone_canonical {s} (h : Canonical s) : Canonical (s.stepDone) := by
  unfold State.stepDone
  dsimp only
  split
  · exact canonical_update (pullBack_canonical h)
  · exact h

theorem endEntry_canonical {s old e d} (h : Canonical s) : Canonical (s.endEntry old e d) :=
  stepDone_canonical (followFrom_canonical h)

theorem takeCount_canonical {s : State} {n s'} (h : Canonical s) (hs : s.takeCount n = some (.ok s')) :
    Canonical s' := by
  unfold State.takeCount at hs
  dsimp only at hs
  split at hs
  · split at hs
    · simp at hs
    · simp only [Option.some.injEq, Except.ok.injEq] at hs
      rw [← hs]
      exact stepDone_canonical (followFrom_canonical h)
  · simp at hs

theorem wholeEntry_keeps {s e c} (h2 : Canonical c.s) : RunKeeps Canonical (wholeEntry s e c) := by
  unfold wholeEntry
  refine .ite_bind_any (.stop trivial) (.ret trivial) fun _ => .bind (vectorEffect_keeps h2) fun s1 hs => ?_
  exact .ret (endEntry_canonical hs)

theorem beginEntry_keeps {s e} (h : Canonical s) : RunKeeps Canonical (beginEntry s e) := by
  unfold beginEntry
  refine .bind (entryIn_keeps h) fun x hs => ?_
  split
  · refine .bind (vmemPlan_keeps hs) fun x1 _ => ?_
    split
    · refine .bind (vmemSend_keeps hs) fun ⟨s1, _⟩ hs2 => ?_
      split
      next hr2 =>
        split
        · exact .ret (followFrom_canonical (canonical_update (canonical_fst hs2 hr2)))
        · exact .ret (endEntry_canonical (canonical_fst hs2 hr2))
    · exact wholeEntry_keeps hs
  · exact wholeEntry_keeps hs

theorem entryFault_canonical {s e cause addr} (h : Canonical s) : Canonical (s.entryFault e cause addr) :=
  takeFault_canonical (canonical_update (pullBack_canonical h))

theorem execEntry_canonical {s s' : State} (h : Canonical s) (hs : s.execEntry = some s') : Canonical s' := by
  unfold State.execEntry at hs
  split at hs
  · split at hs
    · cases hs
    · cases hs
      exact endEntry_canonical (canonical_update h)
  · split at hs
    · split at hs
      · split at hs
        · split at hs
          next hc =>
            cases hs
            exact takeCount_canonical h hc
          · split at hs
            · cases hs
              exact entryFault_canonical h
            · cases hs
          · cases hs
        · cases hs
      · cases hs
    · split at hs
      · cases hs
      · split at hs
        next hb =>
          cases hs
          exact (beginEntry_keeps h).ok _ hb
        · split at hs <;> cases hs
          exact entryFault_canonical h
        · split at hs <;> cases hs
          exact entryFault_canonical h
        next hb =>
          have hfound := (beginEntry_keeps h).error _ hb
          split at hs <;> cases hs
          exact entryFault_canonical (canonical_update hfound)
        · cases hs
        · cases hs
          exact canonical_update (startWalk_canonical h)

theorem execSequencerExecute_canonical {cell s} (h : Canonical s) : OutCanonical (execSequencerExecute cell s) := by
  unfold execSequencerExecute
  extract_lets l
  refine .next ?_
  split
  · exact h
  next t _ =>
    cases hs : (s.focus t.uid).execEntry with
    | none => exact h
    | some s' => exact execEntry_canonical (focus_canonical h) hs

/-! #### Machine/Vector.lean -/

theorem execVsetvl_canonical {d a b s} (h : Canonical s) : OutCanonical (execVsetvl d a b s) := vector_canonical h

theorem execVsetvli_canonical {f grp d b s} (h : Canonical s) : OutCanonical (execVsetvli f grp d b s) :=
  vector_canonical h

theorem execVadd_canonical {f k d a b s} (h : Canonical s) : OutCanonical (execVadd f k d a b s) := vector_canonical h
theorem execVsub_canonical {f k d a b s} (h : Canonical s) : OutCanonical (execVsub f k d a b s) := vector_canonical h
theorem execVmul_canonical {f k d a b s} (h : Canonical s) : OutCanonical (execVmul f k d a b s) := vector_canonical h

theorem execVmulh_canonical {f k d a b s} (h : Canonical s) : OutCanonical (execVmulh f k d a b s) :=
  vector_canonical h

theorem execVmacc_canonical {f k d a b s} (h : Canonical s) : OutCanonical (execVmacc f k d a b s) :=
  vector_canonical h

theorem execVand_canonical {f k d a b s} (h : Canonical s) : OutCanonical (execVand f k d a b s) := vector_canonical h
theorem execVor_canonical {f k d a b s} (h : Canonical s) : OutCanonical (execVor f k d a b s) := vector_canonical h
theorem execVxor_canonical {f k d a b s} (h : Canonical s) : OutCanonical (execVxor f k d a b s) := vector_canonical h
theorem execVshl_canonical {f k d a b s} (h : Canonical s) : OutCanonical (execVshl f k d a b s) := vector_canonical h
theorem execVshr_canonical {f k d a b s} (h : Canonical s) : OutCanonical (execVshr f k d a b s) := vector_canonical h
theorem execVsra_canonical {f k d a b s} (h : Canonical s) : OutCanonical (execVsra f k d a b s) := vector_canonical h
theorem execVmin_canonical {f k d a b s} (h : Canonical s) : OutCanonical (execVmin f k d a b s) := vector_canonical h
theorem execVmax_canonical {f k d a b s} (h : Canonical s) : OutCanonical (execVmax f k d a b s) := vector_canonical h

theorem execVminn_canonical {f k d a b s} (h : Canonical s) : OutCanonical (execVminn f k d a b s) :=
  vector_canonical h

theorem execVmaxn_canonical {f k d a b s} (h : Canonical s) : OutCanonical (execVmaxn f k d a b s) :=
  vector_canonical h

theorem execVabs_canonical {f k d b s} (h : Canonical s) : OutCanonical (execVabs f k d b s) := vector_canonical h

theorem execVnarrow_canonical {f k d a b s} (h : Canonical s) : OutCanonical (execVnarrow f k d a b s) :=
  vector_canonical h

theorem execVwiden_canonical {f k d b s} (h : Canonical s) : OutCanonical (execVwiden f k d b s) := vector_canonical h

theorem execVfadd_canonical {f r k d a b s} (h : Canonical s) : OutCanonical (execVfadd f r k d a b s) :=
  vector_canonical h

theorem execVfsub_canonical {f r k d a b s} (h : Canonical s) : OutCanonical (execVfsub f r k d a b s) :=
  vector_canonical h

theorem execVfmul_canonical {f r k d a b s} (h : Canonical s) : OutCanonical (execVfmul f r k d a b s) :=
  vector_canonical h

theorem execVfma_canonical {f r k d a b s} (h : Canonical s) : OutCanonical (execVfma f r k d a b s) :=
  vector_canonical h

theorem execVfdiv_canonical {f r k d a b s} (h : Canonical s) : OutCanonical (execVfdiv f r k d a b s) :=
  vector_canonical h

theorem execVfmin_canonical {f k d a b s} (h : Canonical s) : OutCanonical (execVfmin f k d a b s) :=
  vector_canonical h

theorem execVfmax_canonical {f k d a b s} (h : Canonical s) : OutCanonical (execVfmax f k d a b s) :=
  vector_canonical h

theorem execVcmp_canonical {f c k d a b s} (h : Canonical s) : OutCanonical (execVcmp f c k d a b s) :=
  vector_canonical h

theorem execVfcmp_canonical {f c k d a b s} (h : Canonical s) : OutCanonical (execVfcmp f c k d a b s) :=
  vector_canonical h

theorem execVsel_canonical {f k d a b s} (h : Canonical s) : OutCanonical (execVsel f k d a b s) := vector_canonical h
theorem execVmv_canonical {f k d b s} (h : Canonical s) : OutCanonical (execVmv f k d b s) := vector_canonical h

theorem execVslide_canonical {f down k d a b s} (h : Canonical s) : OutCanonical (execVslide f down k d a b s) :=
  vector_canonical h

theorem execVperm_canonical {f k d a b s} (h : Canonical s) : OutCanonical (execVperm f k d a b s) :=
  vector_canonical h

theorem execVcompress_canonical {f k d b s} (h : Canonical s) : OutCanonical (execVcompress f k d b s) :=
  vector_canonical h

theorem execVredsum_canonical {f r k d a b s} (h : Canonical s) : OutCanonical (execVredsum f r k d a b s) :=
  vector_canonical h

theorem execVredmax_canonical {f k d a b s} (h : Canonical s) : OutCanonical (execVredmax f k d a b s) :=
  vector_canonical h

theorem execVredmin_canonical {f k d a b s} (h : Canonical s) : OutCanonical (execVredmin f k d a b s) :=
  vector_canonical h

theorem execVdotx_canonical {f r k d a b s} (h : Canonical s) : OutCanonical (execVdotx f r k d a b s) :=
  vector_canonical h

theorem execVdeq_canonical {f r k d a b s} (h : Canonical s) : OutCanonical (execVdeq f r k d a b s) :=
  vector_canonical h

theorem execVprune4_canonical {f k d a b s} (h : Canonical s) : OutCanonical (execVprune4 f k d a b s) :=
  vector_canonical h

theorem execMand_canonical {k d a b s} (h : Canonical s) : OutCanonical (execMand k d a b s) := vector_canonical h
theorem execMor_canonical {k d a b s} (h : Canonical s) : OutCanonical (execMor k d a b s) := vector_canonical h
theorem execMxor_canonical {k d a b s} (h : Canonical s) : OutCanonical (execMxor k d a b s) := vector_canonical h
theorem execMset_canonical {d b s} (h : Canonical s) : OutCanonical (execMset d b s) := vector_canonical h
theorem execVexp2_canonical {k d b s} (h : Canonical s) : OutCanonical (execVexp2 k d b s) := vector_canonical h
theorem execVlog2_canonical {k d b s} (h : Canonical s) : OutCanonical (execVlog2 k d b s) := vector_canonical h
theorem execVrcp_canonical {k d b s} (h : Canonical s) : OutCanonical (execVrcp k d b s) := vector_canonical h
theorem execVrsq_canonical {k d b s} (h : Canonical s) : OutCanonical (execVrsq k d b s) := vector_canonical h
theorem execVsigm_canonical {k d b s} (h : Canonical s) : OutCanonical (execVsigm k d b s) := vector_canonical h
theorem execVtanh_canonical {k d b s} (h : Canonical s) : OutCanonical (execVtanh k d b s) := vector_canonical h
theorem execVcvt_canonical {f r k d b s} (h : Canonical s) : OutCanonical (execVcvt f r k d b s) := vector_canonical h
theorem execMnot_canonical {k d b s} (h : Canonical s) : OutCanonical (execMnot k d b s) := vector_canonical h
theorem execMpop_canonical {d m s} (h : Canonical s) : OutCanonical (execMpop d m s) := vector_canonical h
theorem execMfirst_canonical {d m s} (h : Canonical s) : OutCanonical (execMfirst d m s) := vector_canonical h

theorem execVrep_canonical {k1 c s} (h : Canonical s) : OutCanonical (execVrep k1 c s) :=
  .next (settle_canonical h (vrepRun_keeps h))

theorem execVld_canonical {f k d base e s} (h : Canonical s) : OutCanonical (execVld f k d base e s) :=
  vector_canonical h

theorem execVlds_canonical {f k d base b s} (h : Canonical s) : OutCanonical (execVlds f k d base b s) :=
  vector_canonical h

theorem execVldx_canonical {f k d base b s} (h : Canonical s) : OutCanonical (execVldx f k d base b s) :=
  vector_canonical h

theorem execVldff_canonical {f k d base e s} (h : Canonical s) : OutCanonical (execVldff f k d base e s) :=
  vector_canonical h

theorem execVst_canonical {f k d base e s} (h : Canonical s) : OutCanonical (execVst f k d base e s) :=
  vector_canonical h

theorem execVsts_canonical {f k d base b s} (h : Canonical s) : OutCanonical (execVsts f k d base b s) :=
  vector_canonical h

theorem execVstx_canonical {f k d base b s} (h : Canonical s) : OutCanonical (execVstx f k d base b s) :=
  vector_canonical h

/-! #### Machine/TileCore.lean -/

theorem holdOn_keeps {s : State} {t n k} : RunKeeps (fun _ => True) (s.holdOn t n k) := by
  unfold State.holdOn
  split
  · exact .ret trivial
  · exact .stop trivial

theorem holdCheck_keeps {s : State} {t n} : RunKeeps (fun _ => True) (s.holdCheck t n) := holdOn_keeps

theorem tagOn_keeps {s : State} {t n ok k} : RunKeeps (fun _ => True) (s.tagOn t n ok k) := by
  unfold State.tagOn
  dsimp only
  split
  · exact .stop trivial
  · exact .ret trivial

theorem tileTag_keeps {s : State} {t n ok} : RunKeeps (fun _ => True) (s.tileTag t n ok) := tagOn_keeps

theorem tileFind_canonical {s c k n p} (h : Canonical s) : Canonical (s.tileFind c k n p) := by
  unfold State.tileFind
  dsimp only
  refine foldl_canonical (fun _ _ hs => ?_) ?_ _
  · split
    · exact hs
    · split
      · exact logError_canonical hs
      · exact modCluster_canonical (logError_canonical hs)
  · exact h

theorem tilePut_canonical {s k n x p} (h : Canonical s) : Canonical (s.tilePut k n x p) := by
  unfold State.tilePut
  dsimp only
  split
  · exact setArray_canonical (canonical_update (modCluster_canonical h))
  · exact modCluster_canonical h

theorem readTile_keeps {s t n p} (h : Canonical s) : RunKeeps (fun r => Canonical r.2) (s.readTile t n p) := by
  unfold State.readTile
  dsimp only
  split
  · exact .stop (tileFind_canonical h)
  · exact .ret (tileFind_canonical h)

theorem pieces_keeps {s : State} {t va store n n1} : RunKeeps (fun _ => True) (s.pieces t va store n n1) := by
  induction n1 generalizing s t va store n with
  | zero => exact .ret trivial
  | succ n1 ih =>
    unfold State.pieces
    dsimp only
    split
    · exact .ret trivial
    · exact .bind_any locate_keeps fun _ => .bind_any ih fun _ => .ret trivial

theorem readPieces_canonical {s c l} (h : Canonical s) : Canonical (readPieces s c l).2.2 := by
  induction l generalizing s c h with
  | nil => exact h
  | cons x l ih =>
    unfold readPieces
    exact ih (readAt_canonical h)

theorem readMasked_canonical {s c pa n} (h : Canonical s) : Canonical (s.readMasked c pa n).2.2 := by
  induction n generalizing s c pa h with
  | zero => exact h
  | succ n ih =>
    unfold State.readMasked
    exact ih (readAt_canonical h)

theorem engRead_make_canonical {r s c} (h : Canonical s) : Canonical (EngRead.make r s c).2 := by
  unfold EngRead.make
  split
  · exact readMasked_canonical h
  · exact readAt_canonical h

theorem makeReads_canonical {s c l} (h : Canonical s) : Canonical (makeReads s c l).2 := by
  induction l generalizing s c h with
  | nil => exact h
  | cons x l ih =>
    unfold makeReads
    exact ih (engRead_make_canonical h)

theorem partWay_canonical {s t o} (h : Canonical s) : Canonical (s.partWay t o) := h

theorem tileReads_keeps {s t l f} (h : Canonical s) (hf : ∀ got s, Canonical s → RunKeeps Canonical (f got s)) :
    RunKeeps Canonical (tileReads s t l f) := by
  unfold tileReads
  split
  · dsimp only
    split
    · exact hf _ _ h
    · exact .bind_any turnAt_keeps fun _ => .ret (partWay_canonical (engRead_make_canonical h))
  · exact .bind_any (RunKeeps.forM fun _ => turnAt_keeps) fun _ => hf _ _ (makeReads_canonical h)

theorem tilesIdle_keeps {t} : RunKeeps (fun _ => True) (tilesIdle t) := by
  unfold tilesIdle
  split
  · exact .ret trivial
  · exact .stop trivial

theorem tileTurn_keeps {i s} : RunKeeps (fun _ => True) (tileTurn i s) := by
  unfold tileTurn
  refine .bind_any noLoop_keeps fun _ => .bind_any noHazard_keeps fun _ => .bind_any allSettled_keeps fun _ => ?_
  exact tilesIdle_keeps

theorem readTurn_keeps {s} : RunKeeps (fun _ => True) (readTurn s) := by
  unfold readTurn
  exact .bind_any vectorAccessIdle_keeps fun _ => noStores_keeps

theorem groupClear_keeps {t b} : RunKeeps (fun _ => True) (groupClear t b) := by
  unfold groupClear
  split
  · exact rowClear_keeps
  · exact .ret trivial

theorem keepUndo_canonical {s old after} (h : Canonical s) : Canonical (s.keepUndo old after) := by
  unfold State.keepUndo
  dsimp only
  split <;> exact h

theorem tileDone_keeps {old r} (h : RunKeeps Canonical r) : RunKeeps Canonical (tileDone old r) :=
  h.map fun _ hs => keepUndo_canonical hs

theorem tileGroup_keeps {eg reg} : RunKeeps (fun _ => True) (tileGroup eg reg) := by
  unfold tileGroup
  split
  · exact .ret trivial
  · exact .stop trivial

theorem tileGroupTags_keeps {t eg reg f} : RunKeeps (fun _ => True) (tileGroupTags t eg reg f) := by
  unfold tileGroupTags
  split
  · exact .stop trivial
  · exact .ret trivial

/-! #### Machine/Product.lean -/

theorem shapeCheck_keeps {w b complex} : RunKeeps (fun _ => True) (shapeCheck w b complex) := by
  unfold shapeCheck
  dsimp only
  split
  · exact .stop trivial
  · exact .ret trivial

theorem prod_aPieces_keeps {p s t n} : RunKeeps (fun _ => True) (Prod.aPieces p s t n) := by
  induction n generalizing p s t with
  | zero => exact .ret trivial
  | succ n ih =>
    unfold Prod.aPieces
    exact .bind_any ih fun _ => .bind_any pieces_keeps fun _ => .ret trivial

theorem aPlacement_keeps {device home l} : RunKeeps (fun _ => True) (aPlacement device home l) := by
  unfold aPlacement
  dsimp only
  split
  · exact .stop trivial
  · exact .ret trivial

theorem prod_metaReads_keeps {p s t n} : RunKeeps (fun _ => True) (Prod.metaReads p s t n) := by
  unfold Prod.metaReads
  split
  · exact .ret trivial
  · refine RunKeeps.mapM ?_
    intro _
    exact .bind_any pieces_keeps fun _ => .ret trivial

theorem prod_rowReads_keeps {p s t k n} : RunKeeps (fun _ => True) (Prod.rowReads p s t k n) := by
  unfold Prod.rowReads
  dsimp only
  refine RunKeeps.mapM ?_
  intro _
  exact .bind_any pieces_keeps fun _ => .ret trivial

theorem prod_reads_keeps {p s t k n} : RunKeeps (fun _ => True) (Prod.reads p s t k n) := by
  unfold Prod.reads
  exact .bind_any prod_metaReads_keeps fun _ => .bind_any prod_rowReads_keeps fun _ => .ret trivial

theorem joinGroups_keeps {l l1} : RunKeeps (fun _ => True) (joinGroups l l1) := by
  induction l generalizing l1 with
  | nil => exact .ret trivial
  | cons x l ih =>
    unfold joinGroups
    split
    · exact .stop trivial
    · exact .bind_any ih fun _ => .ret trivial

theorem prod_entries_keeps {p gm n i l l1} : RunKeeps (fun _ => True) (Prod.entries p gm n i l l1) := by
  induction l generalizing p gm n i l1 with
  | nil => exact .ret trivial
  | cons x l ih =>
    unfold Prod.entries
    dsimp only
    split
    · exact .stop trivial
    · split
      · exact .stop trivial
      · exact .bind_any ih fun _ => .ret trivial

theorem prod_operands_keeps {p n r l} : RunKeeps (fun _ => True) (Prod.operands p n r l) := by
  unfold Prod.operands
  refine .bind_any prod_entries_keeps fun _ => .bind_any joinGroups_keeps fun _ => ?_
  exact .bind_any joinGroups_keeps fun _ => .ret trivial

theorem prod_stepReads_keeps {p s t n} : RunKeeps (fun _ => True) (Prod.stepReads p s t n) := by
  unfold Prod.stepReads
  refine RunKeeps.mapM ?_
  intro _
  exact .bind_any prod_reads_keeps fun _ => .ret trivial

theorem prod_stepTiles_canonical {p : Prod} {s t n rs l} (h : Canonical s) :
    Canonical (p.stepTiles s t n rs l).2 := by
  induction rs generalizing s l with
  | nil => exact h
  | cons x rs ih =>
    unfold Prod.stepTiles
    split
    · exact h
    · dsimp only
      split
      · exact tileFind_canonical h
      · split
        next hr => exact canonical_snd (ih (tileFind_canonical h)) hr
        next hr => exact canonical_snd (ih (tileFind_canonical h)) hr

theorem prod_putAll_canonical {p s l f} (h : Canonical s) : Canonical (Prod.putAll p s l f) :=
  foldl_canonical (fun _ _ => tilePut_canonical) h _

theorem prod_markAll_canonical {p s f} (h : Canonical s) : Canonical (Prod.markAll p s f) :=
  foldl_canonical (fun _ _ => modCluster_canonical) h _

theorem prod_record_canonical {p s t n} (h : Canonical s) : Canonical (Prod.record p s t n) := by
  unfold Prod.record
  split
  · exact h
  · exact prod_markAll_canonical h

theorem prod_stepTiles_keeps {p : Prod} {s t n rs l} : RunKeeps (fun _ => True) (p.stepTiles s t n rs l).1 := by
  induction rs generalizing s l with
  | nil => exact .ret trivial
  | cons x rs ih =>
    unfold Prod.stepTiles
    split
    next e hr => exact .stop (prod_operands_keeps.error e hr)
    · dsimp only
      split
      · exact .stop trivial
      · split
        next e _ hr => exact .stop (ih.error e (congrArg Prod.fst hr))
        · exact .ret trivial

theorem prod_stepDone_keeps {p : Prod} {s t n rs l} (h : Canonical s) :
    RunKeeps Canonical (p.stepDone s t n rs l) := by
  unfold Prod.stepDone
  split
  next hr => exact .ret (prod_putAll_canonical (canonical_snd (prod_stepTiles_canonical h) hr))
  next hr => exact .stop (prod_record_canonical (canonical_snd (prod_stepTiles_canonical h) hr))
  next e _ _ hr => exact .stop (prod_stepTiles_keeps.error e (congrArg Prod.fst hr))

theorem prod_steps_keeps {p s t n n1} (h : Canonical s) :
    RunKeeps (fun r => Canonical r.1) (Prod.steps p s t n n1) := by
  induction n1 generalizing p s t n h with
  | zero => exact .ret h
  | succ n1 ih =>
    unfold Prod.steps
    dsimp only
    split
    · exact .ret h
    · refine .bind_any prod_stepReads_keeps fun _ => .bind_any (RunKeeps.forM (fun _ => turnAt_keeps)) fun _ => ?_
      refine .bind (prod_stepDone_keeps (makeReads_canonical h)) fun s1 hs1 => ?_
      exact ih hs1

theorem prod_metaCheck_keeps {p s t} : RunKeeps (fun _ => True) (Prod.metaCheck p s t) := by
  unfold Prod.metaCheck
  split
  · exact .ret trivial
  · exact .bind_any pieces_keeps fun _ => .ret trivial

theorem shapeWord_keeps {s t sparse y} (h : Canonical s) :
    RunKeeps (fun r => Canonical r.2) (shapeWord s t sparse y) := by
  unfold shapeWord
  split
  · split
    · exact .ret h
    · refine .bind_any pieces_keeps fun _ => .bind_any (RunKeeps.forM (fun _ => turnAt_keeps)) fun _ => ?_
      split
      next hr2 =>
        split
        · exact .stop (canonical_thd (readPieces_canonical h) hr2)
        · exact .ret (canonical_thd (readPieces_canonical h) hr2)
  · exact .ret h

theorem keepWord_canonical {s w} (h : Canonical s) : Canonical (s.keepWord w) := h

theorem prod_leave_canonical {p s old t m} (h : Canonical s) : Canonical (Prod.leave p s old t m) := by
  unfold Prod.leave
  dsimp only
  split
  · exact done_canonical (prod_markAll_canonical h)
  · exact prod_record_canonical h

theorem productRun_keeps {i s limit f tb g4 sparse complex d a b} (h : Canonical s) :
    RunKeeps Canonical (productRun i s limit f tb g4 sparse complex d a b) := by
  unfold productRun
  refine .bind_any tileTurn_keeps fun _ => .bind_any noMisuse_keeps fun _ => .bind_any noMisuse_keeps fun _ => ?_
  refine .bind_any takeReg_keeps fun ⟨_, _⟩ => ?_
  refine .bind_any takeOp_keeps fun ⟨_, _⟩ => ?_
  refine .bind_any (RunKeeps.forM (fun _ => tagOn_keeps)) fun _ => ?_
  refine .bind_any (RunKeeps.forM (fun _ => holdOn_keeps)) fun _ => ?_
  refine .ite_bind_any (.stop trivial) (.ret trivial) fun _ => ?_
  refine .ite_bind_any shapeCheck_keeps aligned_keeps fun _ => .bind_any readTurn_keeps fun _ => ?_
  refine .bind (shapeWord_keeps h) fun ⟨_, s1⟩ hs => ?_
  refine .ite_bind_any shapeCheck_keeps (.ret trivial) fun _ => .bind_any prod_aPieces_keeps fun _ => ?_
  refine .bind_any aPlacement_keeps fun _ => .bind_any prod_metaCheck_keeps fun _ => ?_
  refine .bind_any poisonCheck_keeps fun _ => .bind_any poisonCheck_keeps fun _ => ?_
  dsimp only
  split
  · split
    · refine .bind_any prod_stepReads_keeps fun _ => @.bind _ _ (Canonical) _ _ _ ?_ fun s2 hs2 => ?_
      · refine tileReads_keeps hs ?_
        intro _ _ hs2
        refine .bind (prod_stepDone_keeps hs2) fun s2 hs3 => ?_
        exact .ret (prod_leave_canonical hs3)
      · exact .ret (keepWord_canonical hs2)
    · refine .bind (prod_steps_keeps hs) fun ⟨s2, _⟩ hs2 => ?_
      exact .ret (prod_leave_canonical hs2)
  · split
    · refine .bind_any prod_stepReads_keeps fun _ => @.bind _ _ (Canonical) _ _ _ ?_ fun s2 hs3 => ?_
      · refine tileReads_keeps hs ?_
        intro _ _ hs3
        refine .bind (prod_stepDone_keeps hs3) fun s2 hs4 => ?_
        exact .ret (prod_leave_canonical hs4)
      · exact .ret (keepWord_canonical hs3)
    · refine .bind (prod_steps_keeps hs) fun ⟨s2, _⟩ hs3 => ?_
      exact .ret (prod_leave_canonical hs3)

theorem execMma_canonical {f tb g4 d a b s} (h : Canonical s) : OutCanonical (execMma f tb g4 d a b s) :=
  .next (settle_canonical h (tileDone_keeps (productRun_keeps h)))

theorem execMmas_canonical {f tb g4 d a b s} (h : Canonical s) : OutCanonical (execMmas f tb g4 d a b s) :=
  .next (settle_canonical h (tileDone_keeps (productRun_keeps h)))

theorem execMmac_canonical {f tb g4 d a b s} (h : Canonical s) : OutCanonical (execMmac f tb g4 d a b s) :=
  .next (settle_canonical h (tileDone_keeps (productRun_keeps h)))

theorem productOne_keeps {i s r} (h : Canonical s) (hr : productOne i s = some r) : RunKeeps Canonical r := by
  unfold productOne at hr
  split at hr
  · cases hr
    exact productRun_keeps h
  · cases hr
    exact productRun_keeps h
  · cases hr
    exact productRun_keeps h
  · cases hr

theorem execMacroOpStep_canonical {uid s} (h : Canonical s) : OutCanonical (execMacroOpStep uid s) := by
  unfold execMacroOpStep
  split
  · exact .next h
  · split
    · dsimp only
      split
      next s1 hf =>
        have h1 : Canonical s1 := (fetchAt_keeps (focus_canonical h)).ok _ hf
        have hone {i : Instr} {s2 : State} {r} (h2 : Canonical s2) (hr : (productOne i s2).map (tileDone s2) = some r) :
            RunKeeps Canonical r := by
          obtain ⟨r', hr', rfl⟩ := Option.map_eq_some_iff.mp hr
          exact tileDone_keeps (productOne_keeps h2 hr')
        split
        next hr => exact .next ((hone (canonical_update h1) hr).ok _ rfl)
        next hr =>
          refine .next ?_
          split
          · exact stop_canonical (canonical_update h1) ((hone (canonical_update h1) hr).error _ rfl)
          · exact h
        · exact .next h
      · exact .next h
    · exact .next h

/-! #### Machine/Tiles.lean -/

theorem tileCmd_canonical {s c} (h : Canonical s) : Canonical (s.tileCmd c) := by
  unfold State.tileCmd
  dsimp only
  split
  · exact h
  · split
    · exact canonical_update (modCluster_canonical (tileFind_canonical h))
    · exact tilePut_canonical h

theorem runTileCmd_canonical {s} (h : Canonical s) : Canonical (s.runTileCmd) := by
  unfold State.runTileCmd
  dsimp only
  split
  · exact h
  · exact keepUndo_canonical (tileCmd_canonical h)

theorem pushTile_keeps {s t c} (h : Canonical s) : RunKeeps Canonical (pushTile s t c) := by
  unfold pushTile
  dsimp only
  split
  · exact .stop trivial
  · refine .ret ?_
    split
    · exact done_canonical h
    · exact runTileCmd_canonical (done_canonical h)

theorem rowCheck_keeps {x} : RunKeeps (fun _ => True) (rowCheck x) := by
  unfold rowCheck
  split
  · exact .stop trivial
  · exact .ret trivial

theorem rowTurn_keeps {i s f v} : RunKeeps (fun _ => True) (rowTurn i s f v) := by
  unfold rowTurn
  refine .bind_any noLoop_keeps fun _ => .bind_any rowClear_keeps fun _ => .bind_any noHazard_keeps fun _ => ?_
  exact allSettled_keeps

theorem execTrd_canonical {f d a b s} (h : Canonical s) : OutCanonical (execTrd f d a b s) := by
  unfold execTrd
  dsimp only
  refine .next ?_
  refine settle_canonical h ?_
  refine .bind_any rowTurn_keeps fun _ => .bind_any noMisuse_keeps fun _ => .bind_any takeOp_keeps fun _ => ?_
  refine .bind_any holdCheck_keeps fun _ => .bind_any rowCheck_keeps fun _ => .bind_any tileGroup_keeps fun _ => ?_
  refine .bind_any poisonCheck_keeps fun _ => ?_
  split
  · refine .bind_any vectorIdle_keeps fun _ => .bind_any tilesIdle_keeps fun _ => ?_
    refine .bind (readTile_keeps h) fun ⟨_, s1⟩ hs => ?_
    exact pushTile_keeps hs
  · exact pushTile_keeps h

theorem execTwr_canonical {f d a b s} (h : Canonical s) : OutCanonical (execTwr f d a b s) := by
  unfold execTwr
  dsimp only
  refine .next ?_
  refine settle_canonical h ?_
  refine .bind_any rowTurn_keeps fun _ => .ite_bind_any (.stop trivial) (.ret trivial) fun _ => ?_
  refine .bind_any noMisuse_keeps fun _ => .bind_any takeOp_keeps fun _ => .bind_any tileGroupTags_keeps fun _ => ?_
  refine .bind_any holdCheck_keeps fun _ => .bind_any rowCheck_keeps fun _ => .bind_any tileGroup_keeps fun _ => ?_
  exact .bind_any vSrc_use_keeps fun _ => .bind_any poisonCheck_keeps fun _ => pushTile_keeps h

theorem execTileCommandExecute_canonical {uid s} (h : Canonical s) : OutCanonical (execTileCommandExecute uid s) := by
  unfold execTileCommandExecute
  split
  · exact .next h
  · refine .next ?_
    split
    · exact h
    · exact runTileCmd_canonical (focus_canonical h)

theorem execTwait_canonical {n s} (h : Canonical s) : OutCanonical (execTwait n s) := by
  unfold execTwait
  dsimp only
  refine .next ?_
  refine settle_canonical h ?_
  refine .bind_any noLoop_keeps fun _ => .ite_bind_any (.stop trivial) (.ret trivial) fun _ => ?_
  split
  · exact .stop h
  · exact .ret (finish_canonical h)

theorem tileBTags_keeps {t b y} : RunKeeps (fun _ => True) (tileBTags t b y) := by
  unfold tileBTags
  split
  · exact tileGroupTags_keeps
  · exact .ret trivial
  · exact tagCheck_keeps

theorem tileBGroup_keeps {b} : RunKeeps (fun _ => True) (tileBGroup b) := by
  unfold tileBGroup
  split
  · exact tileGroup_keeps
  · exact .ret trivial

theorem tileBUse_keeps {t b y} : RunKeeps (fun _ => True) (tileBUse t b y) := by
  unfold tileBUse
  split
  · exact vSrc_use_keeps
  · exact poisonCheck_keeps

theorem execTcvt_canonical {f r sat d a b s} (h : Canonical s) : OutCanonical (execTcvt f r sat d a b s) := by
  unfold execTcvt
  dsimp only
  refine .next ?_
  refine settle_canonical h ?_
  refine tileDone_keeps ?_
  refine .bind_any tileTurn_keeps fun _ => .bind_any groupClear_keeps fun _ => .bind_any noMisuse_keeps fun _ => ?_
  refine .bind_any takeOp_keeps fun _ => .bind_any tileTag_keeps fun _ => .bind_any tileBTags_keeps fun _ => ?_
  refine .bind_any holdCheck_keeps fun _ => .bind_any holdCheck_keeps fun _ => .bind_any tileBGroup_keeps fun _ => ?_
  refine .bind_any tileBUse_keeps fun _ => .bind (readTile_keeps h) fun ⟨_, s1⟩ hs => ?_
  exact .ret (done_canonical (tilePut_canonical (modCluster_canonical hs)))

theorem execTgate_canonical {v d a b s} (h : Canonical s) : OutCanonical (execTgate v d a b s) := by
  refine .next (settle_canonical h (tileDone_keeps ?_))
  refine .bind_any tileTurn_keeps fun _ => .bind_any groupClear_keeps fun _ => .bind_any noMisuse_keeps fun _ => ?_
  refine .bind_any takeOp_keeps fun yt => ?_
  split
  refine .bind_any tileTag_keeps fun _ => ?_
  generalize gateTile v b = other
  extract_lets -underBinder rest
  have hrest : ∀ r, RunKeeps Canonical (rest r) := by
    intro r
    refine .bind_any tileTag_keeps fun _ => .bind_any holdCheck_keeps fun _ => ?_
    extract_lets -underBinder rest
    have hrest : ∀ r, RunKeeps Canonical (rest r) := by
      intro r
      refine .bind_any holdCheck_keeps fun _ => .ite_bind_any tileBGroup_keeps (.ret trivial) fun _ => ?_
      refine .ite_bind_any tileBUse_keeps (.ret trivial) fun _ => (readTile_keeps h).bind fun x h1 => ?_
      split
      extract_lets -underBinder rest
      have hrest : ∀ r, Canonical r.2 → RunKeeps Canonical (rest r) := by
        intro z h2
        unfold rest
        split
        refine .ite_bind (readTile_keeps h2) (.ret h2) fun y h3 => ?_
        beta_reduce
        split
        extract_lets k clear s1 s2 second new
        have hclear : ∀ s n, Canonical s → Canonical (clear s n) := fun s n hs => modCluster_canonical hs
        have hs2 : Canonical s2 := by
          unfold s2
          split
          · exact hclear _ _ (hclear _ _ h3)
          · exact hclear _ _ h3
        exact .ret (done_canonical (tilePut_canonical hs2))
      clear_value rest
      split
      · exact (readTile_keeps h1).bind hrest
      · exact .ok_bind (hrest _ h1)
    clear_value rest
    split
    · exact .bind_any holdCheck_keeps hrest
    · exact .ok_bind (hrest _)
  clear_value rest
  split
  · exact .bind_any tileTag_keeps hrest
  · exact .ite_bind_any tileBTags_keeps (.ret trivial) hrest

theorem execTscan_canonical {pair m d a b s} (h : Canonical s) : OutCanonical (execTscan pair m d a b s) := by
  refine .next (settle_canonical h (tileDone_keeps ?_))
  refine .bind_any tileTurn_keeps fun _ => .bind_any rowClear_keeps fun _ => ?_
  refine .ite_bind_any rowClear_keeps (.ret trivial) fun _ => ?_
  refine .bind_any tileTag_keeps fun _ => .bind_any tileGroupTags_keeps fun _ => .bind_any tileTag_keeps fun _ => ?_
  refine .bind_any holdCheck_keeps fun _ => .bind_any holdCheck_keeps fun _ => ?_
  refine .ite_bind_any (.stop trivial) (.ret trivial) fun _ => ?_
  refine .ite_bind_any (.stop trivial) (.ret trivial) fun _ => ?_
  refine .bind_any tileGroup_keeps fun _ => .bind_any vSrc_use_keeps fun _ => ?_
  refine .ite_bind_any vSrc_use_keeps (.ret trivial) fun _ => (readTile_keeps h).bind fun x h1 => ?_
  split
  refine (readTile_keeps h1).bind fun y h2 => ?_
  split
  exact .ret (done_canonical (tilePut_canonical (modCluster_canonical h2)))

theorem storePieces_keeps {s w x l} (h : Canonical s) : RunKeeps Canonical (storePieces s w x l) := by
  induction l generalizing s w x h with
  | nil => exact .ret h
  | cons x l ih =>
    unfold storePieces
    dsimp only
    split
    · exact .stop trivial
    · exact ih (canonical_update (write_canonical h))

theorem tileStores_keeps {s t x l f} (h : Canonical s) (hf : ∀ a0, Canonical a0 → Canonical (f a0)) :
    RunKeeps Canonical (tileStores s t x l f) := by
  unfold tileStores
  dsimp only
  split
  · split
    · exact .ret (hf _ h)
    · refine .bind_any turnAt_keeps fun _ => .bind (storePieces_keeps h) fun s1 hs1 => ?_
      refine .ret ?_
      split
      · exact partWay_canonical hs1
      · exact hf _ hs1
  · refine .bind_any (RunKeeps.forM (fun _ => turnAt_keeps)) fun _ => .bind (storePieces_keeps h) fun s1 hs1 => ?_
    exact .ret (hf _ hs1)

theorem execTst_canonical {d base e s} (h : Canonical s) : OutCanonical (execTst d base e s) := by
  unfold execTst
  dsimp only
  refine .next ?_
  refine settle_canonical h ?_
  refine .bind_any noLoop_keeps fun _ => .bind_any homeTurn_keeps fun _ => .bind_any tilesIdle_keeps fun _ => ?_
  refine .bind_any noMisuse_keeps fun _ => .bind_any takeBase_keeps fun _ => .bind_any holdCheck_keeps fun _ => ?_
  refine .bind_any aligned_keeps fun _ => .bind_any pieces_keeps fun _ => .bind_any poisonCheck_keeps fun _ => ?_
  refine .ite_bind_any (.stop trivial) (.ret trivial) fun _ => ?_
  exact tileStores_keeps (tileFind_canonical h) (fun _ hs => done_canonical (modCluster_canonical hs))

theorem execTld_canonical {d base e s} (h : Canonical s) : OutCanonical (execTld d base e s) := by
  unfold execTld
  dsimp only
  refine .next ?_
  refine settle_canonical h ?_
  refine tileDone_keeps ?_
  refine .bind_any tileTurn_keeps fun _ => .bind_any readTurn_keeps fun _ => .bind_any noMisuse_keeps fun _ => ?_
  refine .bind_any takeBase_keeps fun _ => .bind_any holdCheck_keeps fun _ => .bind_any aligned_keeps fun _ => ?_
  refine .bind_any pieces_keeps fun _ => .bind_any poisonCheck_keeps fun _ => tileReads_keeps h ?_
  intro _ _ hs
  split
  · exact .stop hs
  · split
    · exact .stop hs
    · refine .ret ?_
      refine done_canonical ?_
      split
      · exact tilePut_canonical hs
      · exact modCluster_canonical (tilePut_canonical hs)

theorem execTzero_canonical {a s} (h : Canonical s) : OutCanonical (execTzero a s) := by
  unfold execTzero
  refine .next ?_
  refine settle_canonical h ?_
  refine tileDone_keeps ?_
  refine .bind_any tileTurn_keeps fun _ => .bind_any holdCheck_keeps fun _ => ?_
  exact .ret (finish_canonical (tilePut_canonical h))

/-! #### Machine/Evolution.lean -/

theorem lawEntry_keeps {s c r law} (h : Canonical s) : RunKeeps (fun r => Canonical r.2) (s.lawEntry c r law) := by
  unfold State.lawEntry
  dsimp only
  split
  · exact .ret h
  · split
    · exact .stop (readAt_canonical h)
    · exact .ret (readAt_canonical h)

theorem evolveLoop_keeps {s c r va t0 delta solo v n} (h : Canonical s) :
    RunKeeps (fun x => Canonical x.2) (evolveLoop s c r va t0 delta solo v n) := by
  induction n generalizing s v with
  | zero => exact .ret h
  | succ fuel ih =>
    show RunKeeps _ (if delta ≤ v.t then _ else _)
    split
    · exact .ret h
    split
    · exact .ret h
    split
    · exact .ret h
    refine (lawEntry_keeps h).bind fun x h1 => ?_
    split
    refine .guard h1 ?_
    extract_lets rem b
    split
    · exact .ret h1
    · split
      · split
        refine (lawEntry_keeps h1).bind fun y h2 => ?_
        split
        exact .guard h2 (ih h2)
      · split
        exact .ret h1

theorem evolve_keeps {s c r va pa} (h : Canonical s) : RunKeeps (fun x => Canonical x.2) (s.evolve c r va pa) := by
  unfold State.evolve
  extract_lets even odd
  split
  next w0 bad0 s0 hr0 =>
  have h0 : Canonical s0 := canonical_thd (readAt_canonical h) hr0
  split
  next w1 bad1 s1 hr1 =>
  have h1 : Canonical s1 := canonical_thd (readAt_canonical h0) hr1
  refine .guard h1 ((lawEntry_keeps h1).bind fun x h2 => ?_)
  split
  next e0 s2 =>
  refine .guard h2 ?_
  extract_lets -underBinder rest
  have hrest : ∀ x, Canonical x.2 → RunKeeps (fun x => Canonical x.2) (rest x) := by
    intro y hy
    unfold rest
    split
    refine .guard hy ((evolveLoop_keeps hy).bind fun z hz => ?_)
    split
    exact .guard hz (.ret hz)
  exact .ite_bind (lawEntry_keeps h2) (.ret h2) hrest

theorem putWords_keeps {s0 s w bump watched va l} (h : Canonical s0) (h2 : Canonical s) :
    RunKeeps Canonical (putWords s0 s w bump watched va l) := by
  induction l generalizing s0 s w bump watched va h h2 with
  | nil => exact .ret h2
  | cons x l ih =>
    unfold putWords
    split
    · exact .stop h
    · refine ih h ?_
      split
      · exact write_canonical h2
      · exact writeAt_canonical h2

theorem report_canonical {s p n r x sweep} (h : Canonical s) : Canonical (s.report p n r x sweep) := by
  unfold State.report
  dsimp only
  split
  · exact h
  · exact foldl_canonical (fun _ _ hs1 => depart_canonical (traceOn_canonical hs1)) h _

/-! #### Machine/Laws.lean -/

theorem swAct_keeps {i s c r va pa b x} (h : Canonical s) :
    RunKeeps (fun r => Canonical r.2) (swAct i s c r va pa b x) := by
  unfold swAct
  dsimp only
  split
  · exact .ret h
  · refine .bind (lawEntry_keeps h) fun ⟨_, s1⟩ hs => ?_
    split
    · exact .stop hs
    · refine .ite_bind (lawEntry_keeps hs) (.ret hs) fun ⟨_, s1⟩ hs2 => ?_
      split
      · exact .stop hs2
      · exact .ret hs2
  · refine .bind (lawEntry_keeps h) fun ⟨_, s1⟩ hs => ?_
    split
    · exact .stop hs
    · exact .ret hs
  · exact .ret h

theorem swPerform_keeps {s q} (h : Canonical s) : RunKeeps (fun r => Canonical r.s) (swPerform s q) := by
  unfold swPerform
  dsimp only
  split
  · exact .stop trivial
  · refine .ite_bind_any (.stop trivial) (.ret trivial) fun _ => .bind (evolve_keeps h) fun ⟨_, s1⟩ hs => ?_
    refine .bind (swAct_keeps hs) fun ⟨_, s2⟩ hs1 => ?_
    refine .bind (putWords_keeps hs1 hs1) fun s3 hs2 => ?_
    exact .ret (report_canonical hs2)

theorem sweepWord_canonical {s p n r o} (h : Canonical s) : Canonical (s.sweepWord p n r o) := by
  unfold State.sweepWord
  dsimp only
  split
  · next hr =>
      split
      · next hr1 => exact report_canonical ((putWords_keeps ((evolve_keeps h).ok _ hr) ((evolve_keeps h).ok _ hr)).ok _ hr1)
      · exact (evolve_keeps h).ok _ hr
  · next hr => exact (evolve_keeps h).error _ hr
  · exact h

theorem sweepAll_canonical {s p n r o n1} (h : Canonical s) : Canonical (s.sweepAll p n r o n1) := by
  induction n1 generalizing s p n r o h with
  | zero => exact h
  | succ n1 ih =>
    unfold State.sweepAll
    split
    · exact h
    · exact ih (sweepWord_canonical h)

theorem modRegion_canonical {s p n f} (h : Canonical s) : Canonical (s.modRegion p n f) := modPart_canonical h

theorem traceSweep_canonical {s p n fin} (h : Canonical s) : Canonical (s.traceSweep p n fin) := by
  unfold State.traceSweep
  dsimp only
  split
  · exact h
  · exact foldl_canonical (fun _ _ => traceOn_canonical) h _

theorem stepPerform_keeps {s q n} (h : Canonical s) : RunKeeps (fun r => Canonical r.s) (stepPerform s q n) := by
  unfold stepPerform
  dsimp only
  split
  · exact .stop trivial
  · split
    · split
      · exact .stop trivial
      · exact .ret (traceSweep_canonical (modRegion_canonical h))
    · exact .ret (modRegion_canonical h)

theorem stepReach_canonical {s s' : State} {p n new} (h : Canonical s) (hs : s.stepReach p n new = some s') :
    Canonical s' := by
  unfold State.stepReach at hs
  split at hs
  · cases hs
  · obtain ⟨d, -, rfl⟩ := Option.map_eq_some_iff.mp hs
    exact modRegion_canonical h

theorem stepSeen_canonical {s p n new} (h : Canonical s) : Canonical (s.stepSeen p n new) := modRegion_canonical h

theorem execSwsweep_canonical {b s} (h : Canonical s) : OutCanonical (execSwsweep b s) := by
  unfold execSwsweep
  refine .next ?_
  refine settle_canonical h ?_
  refine .bind_any homeTurn_keeps fun _ => .bind_any noMisuse_keeps fun _ => .bind_any takeOp_keeps fun ⟨_, _⟩ => ?_
  refine .bind_any poisonCheck_keeps fun _ => ?_
  split
  · exact .stop trivial
  · exact .ret (traceSweep_canonical (sweepAll_canonical (traceSweep_canonical (done_canonical h))))

theorem execSweepPass_canonical {p region s} (h : Canonical s) : OutCanonical (execSweepPass p region s) := by
  unfold execSweepPass
  split
  · split
    · exact .next (traceSweep_canonical (modRegion_canonical h))
    · exact .next h
  · exact .next h

theorem execSweepEvolution_canonical {p s} (h : Canonical s) : OutCanonical (execSweepEvolution p s) := by
  unfold execSweepEvolution
  split
  · exact .next h
  · split
    · exact .next (traceSweep_canonical (modRegion_canonical h))
    · exact .next (modRegion_canonical (sweepWord_canonical h))

/-! #### Machine/Home.lean -/

theorem homeOp_keeps {s q} (h : Canonical s) : RunKeeps (fun r => Canonical r.s) (homeOp s q) := by
  unfold homeOp
  dsimp only
  split
  · exact .ret (loadAt_canonical h)
  · exact .ret (ldcAt_canonical h)
  · exact storeAt_keeps h
  · exact xredAt_keeps h
  · exact xrdAt_keeps h
  · exact ringAt_keeps h
  · exact ringAt_keeps h
  · exact barmAt_keeps h
  · exact bputAt_keeps h
  · exact swPerform_keeps h
  · exact swPerform_keeps h
  · exact swPerform_keeps h
  · exact swPerform_keeps h
  · exact stepPerform_keeps h
  · split
    · exact .ret (@elemRead_canonical s q.w.ctx _ q.b.toNat _ h)
    · split
      · exact .bind_any writeOk_keeps fun _ => .ret (write_canonical h)
      · exact atomicAt_keeps h

theorem accessNow_keeps {s t i loc va b d} (h : Canonical s) : RunKeeps Canonical (accessNow s t i loc va b d) := by
  unfold accessNow
  refine .ite_bind_any windowHold_keeps (.ret trivial) fun _ => .bind (homeOp_keeps h) fun x hs => ?_
  refine .bind_any replyTo_keeps fun _ => .ret ?_
  split
  · refine windowDone_canonical ?_
    refine done_canonical ?_
    split
    · exact stepSeen_canonical hs
    · exact hs
  · refine done_canonical ?_
    split
    · exact stepSeen_canonical hs
    · exact hs

theorem sendAccess_canonical {s t i loc va b d} (h : Canonical s) : Canonical (s.sendAccess t i loc va b d) :=
  done_canonical h

theorem access_keeps {s t i loc va b d} (h : Canonical s) : RunKeeps Canonical (access s t i loc va b d) := by
  unfold access
  split
  · exact .ret (sendAccess_canonical h)
  · exact accessNow_keeps h

theorem accessTurn_keeps {i s} : RunKeeps (fun _ => True) (accessTurn i s) := by
  unfold accessTurn
  exact .bind_any noLoop_keeps fun _ => noHazard_keeps

theorem loadRun_keeps {i s f d base e} (h : Canonical s) : RunKeeps Canonical (loadRun i s f d base e) := by
  unfold loadRun
  refine .bind_any accessTurn_keeps fun _ => .bind_any noMisuse_keeps fun _ => .bind_any noMisuse_keeps fun _ => ?_
  refine .bind_any takeBase_keeps fun ⟨_, _⟩ => ?_
  refine .bind_any hasRoom_keeps fun _ => .bind_any aligned_keeps fun _ => .bind_any locate_keeps fun _ => ?_
  exact .bind_any poisonCheck_keeps fun _ => access_keeps h

theorem execLd_canonical {f d base e s} (h : Canonical s) : OutCanonical (execLd f d base e s) :=
  .next (settle_canonical h (loadRun_keeps h))

theorem execLdc_canonical {f d base e s} (h : Canonical s) : OutCanonical (execLdc f d base e s) :=
  .next (settle_canonical h (loadRun_keeps h))

theorem execSt_canonical {f d base e s} (h : Canonical s) : OutCanonical (execSt f d base e s) := by
  unfold execSt
  dsimp only
  refine .next ?_
  refine settle_canonical h ?_
  refine .bind_any accessTurn_keeps fun _ => .bind_any noMisuse_keeps fun _ => .bind_any noMisuse_keeps fun _ => ?_
  refine .bind_any takeBase_keeps fun _ => .bind_any takeReg_keeps fun _ => .bind_any tagCheck_keeps fun _ => ?_
  refine .bind_any aligned_keeps fun _ => .bind_any locate_keeps fun _ => .bind_any poisonCheck_keeps fun _ => ?_
  exact .bind_any poisonCheck_keeps fun _ => access_keeps h

theorem atomicRun_keeps {i s f d base b checkB readsD checkD} (h : Canonical s) :
    RunKeeps Canonical (atomicRun i s f d base b checkB readsD checkD) := by
  unfold atomicRun
  refine .bind_any accessTurn_keeps fun _ => .bind_any noMisuse_keeps fun _ => .bind_any noMisuse_keeps fun _ => ?_
  refine .bind_any noMisuse_keeps fun _ => .bind_any noMisuse_keeps fun _ => .bind_any takeBase_keeps fun ⟨_, _⟩ => ?_
  refine .bind_any takeOp_keeps fun ⟨_, _⟩ => ?_
  refine .ite_bind_any takeReg_keeps (.ret trivial) fun ⟨_, _⟩ => ?_
  refine .bind_any hasRoom_keeps fun _ => .ite_bind_any tagCheck_keeps (.ret trivial) fun _ => ?_
  refine .ite_bind_any tagCheck_keeps (.ret trivial) fun _ => .bind_any aligned_keeps fun _ => ?_
  refine .bind_any locate_keeps fun _ => .bind_any poisonCheck_keeps fun _ => .bind_any poisonCheck_keeps fun _ => ?_
  exact .bind_any poisonCheck_keeps fun _ => access_keeps h

theorem execAadd_canonical {f d base b s} (h : Canonical s) : OutCanonical (execAadd f d base b s) :=
  .next (settle_canonical h (atomicRun_keeps h))

theorem execAand_canonical {f d base b s} (h : Canonical s) : OutCanonical (execAand f d base b s) :=
  .next (settle_canonical h (atomicRun_keeps h))

theorem execAor_canonical {f d base b s} (h : Canonical s) : OutCanonical (execAor f d base b s) :=
  .next (settle_canonical h (atomicRun_keeps h))

theorem execAxor_canonical {f d base b s} (h : Canonical s) : OutCanonical (execAxor f d base b s) :=
  .next (settle_canonical h (atomicRun_keeps h))

theorem execAmin_canonical {f d base b s} (h : Canonical s) : OutCanonical (execAmin f d base b s) :=
  .next (settle_canonical h (atomicRun_keeps h))

theorem execAmax_canonical {f d base b s} (h : Canonical s) : OutCanonical (execAmax f d base b s) :=
  .next (settle_canonical h (atomicRun_keeps h))

theorem execAxchg_canonical {f d base b s} (h : Canonical s) : OutCanonical (execAxchg f d base b s) :=
  .next (settle_canonical h (atomicRun_keeps h))

theorem execAcas_canonical {f d base b s} (h : Canonical s) : OutCanonical (execAcas f d base b s) :=
  .next (settle_canonical h (atomicRun_keeps h))

theorem execIncw_canonical {f d base b s} (h : Canonical s) : OutCanonical (execIncw f d base b s) :=
  .next (settle_canonical h (atomicRun_keeps h))

theorem execBfadd_canonical {f d base b s} (h : Canonical s) : OutCanonical (execBfadd f d base b s) :=
  .next (settle_canonical h (atomicRun_keeps h))

theorem execXred_canonical {f base b s} (h : Canonical s) : OutCanonical (execXred f base b s) := by
  unfold execXred
  dsimp only
  refine .next ?_
  refine settle_canonical h ?_
  refine .bind_any noLoop_keeps fun _ => .bind_any homeTurn_keeps fun _ => .bind_any noMisuse_keeps fun _ => ?_
  refine .bind_any noMisuse_keeps fun _ => .bind_any takeBase_keeps fun _ => .bind_any takeOp_keeps fun _ => ?_
  refine .bind_any tagCheck_keeps fun _ => .bind_any aligned_keeps fun _ => .bind_any locate_keeps fun _ => ?_
  refine .bind_any poisonCheck_keeps fun _ => .bind_any poisonCheck_keeps fun _ => .bind_any turnAt_keeps fun _ => ?_
  exact accessNow_keeps h

theorem execXrd_canonical {f r d base e s} (h : Canonical s) : OutCanonical (execXrd f r d base e s) := by
  unfold execXrd
  dsimp only
  refine .next ?_
  refine settle_canonical h ?_
  refine .bind_any accessTurn_keeps fun _ => .bind_any noMisuse_keeps fun _ => .bind_any noMisuse_keeps fun _ => ?_
  refine .bind_any takeBase_keeps fun _ => .bind_any hasRoom_keeps fun _ => .bind_any aligned_keeps fun _ => ?_
  exact .bind_any locate_keeps fun _ => .bind_any poisonCheck_keeps fun _ => access_keeps h

theorem ringElement_keeps {s t va pa push} : RunKeeps (fun _ => True) (ringElement s t va pa push) := by
  unfold ringElement
  split
  · exact .ret trivial
  · split
    · exact .ret trivial
    · split
      · exact ringSlot_canonical.map fun _ _ => trivial
      · exact .ret trivial

theorem ringRun_keeps {i s d base b push} (h : Canonical s) : RunKeeps Canonical (ringRun i s d base b push) := by
  unfold ringRun
  refine .bind_any noMisuse_keeps fun _ => .bind_any noMisuse_keeps fun _ => .bind_any noMisuse_keeps fun _ => ?_
  refine .bind_any takeBase_keeps fun ⟨_, _⟩ => ?_
  dsimp only
  split
  · refine .bind_any takeOp_keeps fun _ => .bind_any hasRoom_keeps fun _ => .bind_any aligned_keeps fun _ => ?_
    refine .bind_any locate_keeps fun _ => .ite_bind_any ringElement_keeps (.ret trivial) fun _ => ?_
    exact .bind_any poisonCheck_keeps fun _ => .bind_any poisonCheck_keeps fun _ => access_keeps h
  · refine .ok_bind ?_
    refine .bind_any hasRoom_keeps fun _ => .bind_any aligned_keeps fun _ => .bind_any locate_keeps fun _ => ?_
    refine .ite_bind_any ringElement_keeps (.ret trivial) fun _ => .bind_any poisonCheck_keeps fun _ => ?_
    exact .bind_any poisonCheck_keeps fun _ => access_keeps h

theorem execEnq_canonical {d base b s} (h : Canonical s) : OutCanonical (execEnq d base b s) := by
  unfold execEnq
  refine .next ?_
  refine settle_canonical h ?_
  exact .bind_any accessTurn_keeps fun _ => .bind_any noStores_keeps fun _ => ringRun_keeps h

theorem execDeq_canonical {d base s} (h : Canonical s) : OutCanonical (execDeq d base s) := by
  unfold execDeq
  refine .next ?_
  refine settle_canonical h ?_
  exact .bind_any accessTurn_keeps fun _ => ringRun_keeps h

theorem execBarm_canonical {base b s} (h : Canonical s) : OutCanonical (execBarm base b s) := by
  unfold execBarm
  dsimp only
  refine .next ?_
  refine settle_canonical h ?_
  refine .bind_any accessTurn_keeps fun _ => .bind_any noMisuse_keeps fun _ => .bind_any noMisuse_keeps fun _ => ?_
  refine .bind_any takeBase_keeps fun _ => .bind_any takeOp_keeps fun _ => .bind_any aligned_keeps fun _ => ?_
  refine .bind_any locate_keeps fun _ => .bind_any poisonCheck_keeps fun _ => .bind_any poisonCheck_keeps fun _ => ?_
  exact access_keeps h

theorem execBput_canonical {base s} (h : Canonical s) : OutCanonical (execBput base s) := by
  unfold execBput
  dsimp only
  refine .next ?_
  refine settle_canonical h ?_
  refine .bind_any accessTurn_keeps fun _ => .bind_any noStores_keeps fun _ => .bind_any noMisuse_keeps fun _ => ?_
  refine .bind_any takeBase_keeps fun _ => .bind_any aligned_keeps fun _ => .bind_any locate_keeps fun _ => ?_
  exact .bind_any poisonCheck_keeps fun _ => access_keeps h

theorem swRun_keeps {i s dst src base e b r} (h : Canonical s) :
    RunKeeps Canonical (swRun i s dst src base e b r) := by
  unfold swRun
  refine .bind_any accessTurn_keeps fun _ => .bind_any noMisuse_keeps fun _ => .bind_any noMisuse_keeps fun _ => ?_
  refine .bind_any noMisuse_keeps fun _ => .bind_any noMisuse_keeps fun _ => .bind_any takeBase_keeps fun ⟨_, _⟩ => ?_
  dsimp only
  split
  · refine .bind_any takeOp_keeps fun ⟨_, _⟩ => ?_
    split
    · refine .bind_any takeReg_keeps fun ⟨_, _⟩ => ?_
      split
      · refine .bind_any hasRoom_keeps fun _ => .bind_any aligned_keeps fun _ => .bind_any locate_keeps fun _ => ?_
        refine .bind_any poisonCheck_keeps fun _ => .bind_any poisonCheck_keeps fun _ => ?_
        exact .bind_any poisonCheck_keeps fun _ => access_keeps h
      · refine .ok_bind ?_
        refine .bind_any aligned_keeps fun _ => .bind_any locate_keeps fun _ => ?_
        refine .bind_any poisonCheck_keeps fun _ => .bind_any poisonCheck_keeps fun _ => ?_
        exact .bind_any poisonCheck_keeps fun _ => access_keeps h
    · refine .ok_bind ?_
      split
      · refine .bind_any hasRoom_keeps fun _ => .bind_any aligned_keeps fun _ => .bind_any locate_keeps fun _ => ?_
        refine .bind_any poisonCheck_keeps fun _ => .bind_any poisonCheck_keeps fun _ => ?_
        exact .bind_any poisonCheck_keeps fun _ => access_keeps h
      · refine .ok_bind ?_
        refine .bind_any aligned_keeps fun _ => .bind_any locate_keeps fun _ => ?_
        refine .bind_any poisonCheck_keeps fun _ => .bind_any poisonCheck_keeps fun _ => ?_
        exact .bind_any poisonCheck_keeps fun _ => access_keeps h
  · refine .ok_bind ?_
    split
    · refine .bind_any takeReg_keeps fun ⟨_, _⟩ => ?_
      split
      · refine .bind_any hasRoom_keeps fun _ => .bind_any aligned_keeps fun _ => .bind_any locate_keeps fun _ => ?_
        refine .bind_any poisonCheck_keeps fun _ => .bind_any poisonCheck_keeps fun _ => ?_
        exact .bind_any poisonCheck_keeps fun _ => access_keeps h
      · refine .ok_bind ?_
        refine .bind_any aligned_keeps fun _ => .bind_any locate_keeps fun _ => ?_
        refine .bind_any poisonCheck_keeps fun _ => .bind_any poisonCheck_keeps fun _ => ?_
        exact .bind_any poisonCheck_keeps fun _ => access_keeps h
    · refine .ok_bind ?_
      split
      · refine .bind_any hasRoom_keeps fun _ => .bind_any aligned_keeps fun _ => .bind_any locate_keeps fun _ => ?_
        refine .bind_any poisonCheck_keeps fun _ => .bind_any poisonCheck_keeps fun _ => ?_
        exact .bind_any poisonCheck_keeps fun _ => access_keeps h
      · refine .ok_bind ?_
        refine .bind_any aligned_keeps fun _ => .bind_any locate_keeps fun _ => ?_
        refine .bind_any poisonCheck_keeps fun _ => .bind_any poisonCheck_keeps fun _ => ?_
        exact .bind_any poisonCheck_keeps fun _ => access_keeps h

theorem execSwld_canonical {d base e s} (h : Canonical s) : OutCanonical (execSwld d base e s) :=
  .next (settle_canonical h (swRun_keeps h))

theorem execSwst_canonical {d base e s} (h : Canonical s) : OutCanonical (execSwst d base e s) :=
  .next (settle_canonical h (swRun_keeps h))

theorem execSwadd_canonical {d base b s} (h : Canonical s) : OutCanonical (execSwadd d base b s) :=
  .next (settle_canonical h (swRun_keeps h))

theorem execSwlaw_canonical {d base b s} (h : Canonical s) : OutCanonical (execSwlaw d base b s) :=
  .next (settle_canonical h (swRun_keeps h))

theorem execStep_canonical {d a b s} (h : Canonical s) : OutCanonical (execStep d a b s) := by
  unfold execStep
  dsimp only
  refine .next ?_
  refine settle_canonical h ?_
  refine .bind_any accessTurn_keeps fun _ => .bind_any noMisuse_keeps fun _ => .bind_any takeAB_keeps fun _ => ?_
  refine .bind_any hasRoom_keeps fun _ => ?_
  split
  · refine .bind_any (.stop trivial) fun _ => .bind_any poisonCheck_keeps fun _ => ?_
    refine .bind_any poisonCheck_keeps fun _ => .ite_bind_any (.stop trivial) (.ret trivial) fun _ => ?_
    exact .bind_any noStores_keeps fun _ => access_keeps h
  · refine .ite_bind_any (.stop trivial) (.ret trivial) fun _ => .bind_any poisonCheck_keeps fun _ => ?_
    refine .bind_any poisonCheck_keeps fun _ => .ite_bind_any (.stop trivial) (.ret trivial) fun _ => ?_
    exact .bind_any noStores_keeps fun _ => access_keeps h

theorem performed_canonical {s n res rstat poison fault} (h : Canonical s) :
    Canonical (s.performed n res rstat poison fault) := h

theorem execAccessPerform_canonical {n s} (h : Canonical s) : OutCanonical (execAccessPerform n s) := by
  unfold execAccessPerform
  split
  · exact .next h
  next x hx =>
  split
  · exact .next (canonical_update h)
  next t ht =>
  have hop : RunKeeps (fun r => Canonical r.s) (homeOp s (x.req s t)) := homeOp_keeps h
  split
  · split
    next p hp =>
      have hlog : Canonical (if isHomeOp x.ins then p.s.windowLog t x.wop x.pa else p.s) := by
        split
        · exact windowLog_canonical (hop.ok _ hp)
        · exact hop.ok _ hp
      dsimp only
      split
      · exact .next (performed_canonical (modStrand_canonical hlog))
      · exact .next (performed_canonical hlog)
    · exact .next (performed_canonical h)
    next hp => exact .next (performed_canonical (hop.error _ hp))
    · exact .next (canonical_update (startWalk_canonical h))
    · exact .next h
  · exact .next h

theorem replyAfter_canonical {s x} (h : Canonical s) : Canonical (s.replyAfter x) := modStrand_canonical h

theorem lateFault_canonical {s x cause addr} (h : Canonical s) : Canonical (s.lateFault x cause addr) :=
  takeFault_canonical (canonical_update (focus_canonical h))

theorem execAccessReply_canonical {n s} (h : Canonical s) : OutCanonical (execAccessReply n s) := by
  unfold execAccessReply
  split
  · exact .next h
  next x hx =>
  extract_lets gone
  have hgone : ∀ s, Canonical s → Canonical (gone s) := fun _ hs => canonical_update hs
  split
  · exact .next (hgone s h)
  split
  · exact .next h
  split
  · split
    · exact .next (hgone s h)
    · split
      · exact .next (lateFault_canonical h)
      · exact .next h
  · split
    · exact .next (modStrand_canonical (hgone s h))
    · extract_lets reach
      have hreach : ∀ s1, reach = some s1 → Canonical s1 := by
        intro s1 hs
        unfold reach at hs
        split at hs
        · exact stepReach_canonical h hs
        · cases hs
      split
      next hs => exact .next (hreach _ hs)
      · exact .next (hgone _ (replyAfter_canonical (modStrand_canonical h)))
      · exact .next h

/-! #### Machine/Knots.lean -/

theorem makeKnot_canonical {s p n parent leaf obase osize} (h : Canonical s) :
    Canonical (s.makeKnot p n parent leaf obase osize) := modPart_canonical (putKnot_canonical h)

theorem readLinks_keeps {s p l} (h : Canonical s) : RunKeeps Canonical (s.readLinks p l) := by
  induction l generalizing s p h with
  | nil => exact .ret h
  | cons x l ih =>
    unfold State.readLinks
    split
    next hr =>
      split
      · exact .stop (canonical_thd (readAt_canonical h) hr)
      · exact ih (canonical_thd (readAt_canonical h) hr)

theorem readTable_keeps {s p} (h : Canonical s) : RunKeeps Canonical (s.readTable p) := readLinks_keeps h

theorem knotCheck_keeps {s p n interior} (h : Canonical s) : RunKeeps Canonical (s.knotCheck p n interior) := by
  unfold State.knotCheck
  refine .bind (readLinks_keeps h) fun s1 hs => ?_
  split
  · split
    · exact .ret hs
    · exact .stop hs
  · split
    · exact .ret hs
    · exact .stop hs

theorem putLink_canonical {s p n k} (h : Canonical s) : Canonical (s.putLink p n k) := writeAt_canonical h

theorem rollRoom_keeps {s : State} {p n} : RunKeeps (fun _ => True) (s.rollRoom p n) := by
  unfold State.rollRoom
  split
  · exact .ret trivial
  · exact .stop trivial

theorem readKnot_keeps {s p n} (h : Canonical s) : RunKeeps (fun r => Canonical r.2) (s.readKnot p n) := by
  unfold State.readKnot
  split
  next hr =>
    split
    · exact .stop (canonical_thd (readAt_canonical h) hr)
    · exact .ret (canonical_thd (readAt_canonical h) hr)

theorem takeB_keeps {s b} : RunKeeps (fun _ => True) (takeB s b) := by
  unfold takeB
  exact .bind_any noMisuse_keeps fun _ => takeOp_keeps

theorem execKnew_canonical {d b s} (h : Canonical s) : OutCanonical (execKnew d b s) := by
  unfold execKnew
  dsimp only
  refine .next ?_
  refine settle_canonical h ?_
  refine .bind_any homeTurn_keeps fun _ => .bind_any noMisuse_keeps fun _ => .bind_any takeB_keeps fun _ => ?_
  refine .bind_any hasRoom_keeps fun _ => .bind_any poisonCheck_keeps fun _ => ?_
  refine .bind (knotCheck_keeps h) fun s1 hs => ?_
  refine .ite_bind_any (.stop hs) (.ret trivial) fun _ => .bind (readTable_keeps hs) fun s2 hs1 => ?_
  split
  · exact .ret (done_canonical hs1)
  · exact .bind_any putReg_keeps fun _ => .ret (done_canonical (makeKnot_canonical hs1))

theorem dropPages_canonical {s p l} (h : Canonical s) : Canonical (s.dropPages p l) := h

theorem pageOf_keeps {s t va} (h : Canonical s) : RunKeeps (fun r => Canonical r.2) (s.pageOf t va) := by
  unfold State.pageOf
  split
  · exact .bind_any permit_keeps fun _ => .ret h
  · split
    · exact .stop trivial
    · next hr1 =>
        exact .bind_any permit_keeps fun _ => .ret (canonical_fst (walk_canonical h) hr1)

theorem objectPieces_keeps {s t va n n1} (h : Canonical s) :
    RunKeeps (fun r => Canonical r.2) (objectPieces s t va n n1) := by
  induction n1 generalizing s t va n h with
  | zero => exact .ret h
  | succ n1 ih =>
    unfold objectPieces
    dsimp only
    split
    · exact .ret h
    · refine .bind (pageOf_keeps h) fun ⟨_, s1⟩ hs1 => ?_
      refine .bind (ih hs1) fun ⟨_, s2⟩ hs2 => ?_
      exact .ret hs2

theorem walkPages_canonical {f s asid va n} (hf : ∀ a0 a1 a2, Canonical a0 → Canonical (f a0 a1 a2)) (h : Canonical s) :
    Canonical (walkPages f s asid va n) := by
  induction n generalizing f s asid va hf h with
  | zero => exact h
  | succ n ih =>
    unfold walkPages
    exact ih hf (hf _ _ _ h)

theorem execKenrol_canonical {d base b s} (h : Canonical s) : OutCanonical (execKenrol d base b s) := by
  unfold execKenrol
  dsimp only
  refine .next ?_
  refine settle_canonical h ?_
  refine .bind_any homeTurn_keeps fun _ => .bind_any noMisuse_keeps fun _ => .bind_any noMisuse_keeps fun _ => ?_
  refine .bind_any noMisuse_keeps fun _ => .bind_any noMisuse_keeps fun _ => .bind_any takeBase_keeps fun _ => ?_
  refine .bind_any takeOp_keeps fun _ => .bind_any takeReg_keeps fun _ => .bind_any hasRoom_keeps fun _ => ?_
  refine .ite_bind (.ret h) (objectPieces_keeps h) fun ⟨_, s1⟩ hs => ?_
  refine .bind_any poisonCheck_keeps fun _ => .bind_any poisonCheck_keeps fun _ => ?_
  refine .bind_any poisonCheck_keeps fun _ => .ite_bind_any (.stop trivial) (.ret trivial) fun _ => ?_
  refine .bind (knotCheck_keeps hs) fun s2 hs1 => ?_
  refine .ite_bind_any (.stop hs1) (.ret trivial) fun _ => .ite_bind_any (.stop hs1) (.ret trivial) fun _ => ?_
  refine .bind (readTable_keeps hs1) fun s3 hs2 => ?_
  split
  · exact .ret (done_canonical hs2)
  · refine .bind_any rollRoom_keeps fun _ => .bind_any putReg_keeps fun _ => ?_
    exact .ret (done_canonical (rollUp_canonical (dropPages_canonical (walkPages_canonical (fun _ _ _ => walk_canonical) (modPart_canonical (makeKnot_canonical hs2))))))

theorem execKfree_canonical {b s} (h : Canonical s) : OutCanonical (execKfree b s) := by
  refine .next (settle_canonical h ?_)
  refine .bind_any homeTurn_keeps fun _ => .bind_any takeB_keeps fun _ => ?_
  split
  refine .bind_any poisonCheck_keeps fun _ => ?_
  refine (knotCheck_keeps h).bind fun s1 h1 => (readTable_keeps h1).bind fun s2 h2 => ?_
  refine .ite_bind_any (.stop h2) (.ret trivial) fun _ => .bind_any rollRoom_keeps fun _ => .ret (done_canonical ?_)
  refine foldl_canonical (fun _ _ hs => dropPages_canonical (walkPages_canonical (fun _ _ _ => unwatch_canonical) hs)) ?_ _
  exact putKnot_canonical (modPart_canonical (canonical_update (rollUp_canonical h2)))

theorem execKread_canonical {d b s} (h : Canonical s) : OutCanonical (execKread d b s) := by
  unfold execKread
  refine .next ?_
  refine settle_canonical h ?_
  refine .bind_any homeTurn_keeps fun _ => .bind_any noMisuse_keeps fun _ => .bind_any takeB_keeps fun ⟨_, _⟩ => ?_
  refine .bind_any hasRoom_keeps fun _ => .bind_any poisonCheck_keeps fun _ => ?_
  refine .bind (knotCheck_keeps h) fun s1 hs => ?_
  refine .bind (readKnot_keeps hs) fun ⟨_, s2⟩ hs1 => ?_
  exact .bind_any putReg_keeps fun _ => .ret (done_canonical hs1)

theorem countOf_keeps {s p n} (h : Canonical s) : RunKeeps (fun r => Canonical r.2) (s.countOf p n) := by
  unfold State.countOf
  refine .bind (knotCheck_keeps h) fun s1 hs => ?_
  exact readKnot_keeps hs

theorem execKsettle_canonical {d b s} (h : Canonical s) : OutCanonical (execKsettle d b s) := by
  unfold execKsettle
  refine .next ?_
  refine settle_canonical h ?_
  refine .bind_any homeTurn_keeps fun _ => .bind_any noStores_keeps fun _ => .bind_any noMisuse_keeps fun _ => ?_
  refine .bind_any takeB_keeps fun ⟨_, _⟩ => ?_
  refine .bind_any hasRoom_keeps fun _ => .bind_any poisonCheck_keeps fun _ => ?_
  refine .bind (knotCheck_keeps h) fun s1 hs => ?_
  split
  · refine .bind (readKnot_keeps hs) fun ⟨_, s2⟩ hs1 => ?_
    exact .bind_any putReg_keeps fun _ => .ret (traceStrand_canonical (done_canonical hs1))
  · exact .stop trivial

theorem execKmove_canonical {a b s} (h : Canonical s) : OutCanonical (execKmove a b s) := by
  refine .next (settle_canonical h ?_)
  refine .bind_any homeTurn_keeps fun _ => .bind_any takeAB_keeps fun _ => ?_
  split
  refine .bind_any poisonCheck_keeps fun _ => .bind_any poisonCheck_keeps fun _ => ?_
  refine (knotCheck_keeps h).bind fun s1 h1 => (knotCheck_keeps h1).bind fun s2 h2 => ?_
  refine (readTable_keeps h2).bind fun s3 h3 => ?_
  refine .ite_bind_any (.stop h3) (.ret trivial) fun _ => .ite_bind_any (.stop h3) (.ret trivial) fun _ => ?_
  refine .ite_bind_any (.stop h3) (.ret trivial) fun _ => .ret (done_canonical ?_)
  exact foldl_canonical (fun _ _ => putLink_canonical) (foldl_canonical (fun _ _ => knotAdd_canonical) h3 _) _

theorem execRollupIncrement_canonical {p n s} (h : Canonical s) : OutCanonical (execRollupIncrement p n s) := by
  unfold execRollupIncrement
  dsimp only
  split
  · exact .next h
  · refine .next ?_
    split
    · exact rollUp_canonical (knotAdd_canonical (modDie_canonical h))
    · split
      · exact rollTo_canonical (modDie_canonical h)
      · exact h

theorem execCloseNotice_canonical {p s} (h : Canonical s) : OutCanonical (execCloseNotice p s) :=
  .next (modPart_canonical h)

/-! #### Machine/Populations.lean -/

theorem execPjoin_canonical {a b s} (h : Canonical s) : OutCanonical (execPjoin a b s) := by
  unfold execPjoin
  dsimp only
  refine .next ?_
  refine settle_canonical h ?_
  refine .bind_any homeTurn_keeps fun _ => .bind_any noMisuse_keeps fun _ => .bind_any takeOp_keeps fun _ => ?_
  refine .bind_any poisonCheck_keeps fun _ => .ite_bind_any (.stop trivial) (.ret trivial) fun _ => ?_
  refine .ite_bind_any (.stop trivial) (.ret trivial) fun _ => ?_
  refine .ite_bind_any (.stop trivial) (.ret trivial) fun _ => ?_
  refine .ite_bind_any (.stop trivial) (.ret trivial) fun _ => ?_
  refine .ite_bind_any (.stop trivial) (.ret trivial) fun _ => ?_
  refine .ite_bind_any (.stop trivial) (.ret trivial) fun _ => ?_
  split
  · split
    · exact .stop trivial
    · exact .ret (done_canonical (modPart_canonical h))
  · split
    · exact .stop trivial
    · exact .ret (done_canonical (modPart_canonical h))

theorem execPleave_canonical {s} (h : Canonical s) : OutCanonical (execPleave s) := by
  unfold execPleave
  dsimp only
  refine .next ?_
  refine settle_canonical h ?_
  refine .bind_any homeTurn_keeps fun _ => .ite_bind_any (.stop trivial) (.ret trivial) fun _ => ?_
  exact .ret (done_canonical (leavePop_canonical h))

theorem execResample_canonical {d a s} (h : Canonical s) : OutCanonical (execResample d a s) := by
  unfold execResample
  dsimp only
  refine .next ?_
  refine settle_canonical h ?_
  refine .bind_any homeTurn_keeps fun _ => .bind_any noStores_keeps fun _ => .bind_any noLoads_keeps fun _ => ?_
  refine .bind_any noMisuse_keeps fun _ => .bind_any noMisuse_keeps fun _ => .bind_any takeReg_keeps fun _ => ?_
  refine .bind_any poisonCheck_keeps fun _ => ?_
  split
  · exact .stop trivial
  · refine .ite_bind_any (.stop trivial) (.ret trivial) fun _ => ?_
    split
    · exact .stop trivial
    · exact .ite_bind_any (.stop trivial) (.ret trivial) fun _ => .ret (canonical_update (modPart_canonical h))

theorem endCollective_canonical {s uid status} (h : Canonical s) : Canonical (s.endCollective uid status) :=
  modStrand_canonical h

theorem clearCollective_canonical {s p k} (h : Canonical s) : Canonical (s.clearCollective p k) := modPart_canonical h

theorem dropStrand_canonical {s uid} (h : Canonical s) : Canonical (s.dropStrand uid) := by
  unfold State.dropStrand
  dsimp only
  refine canonical_update ?_
  split
  · exact clearFocus_canonical h
  · exact h

theorem faultMember_canonical {s uid cause addr} (h : Canonical s) : Canonical (s.faultMember uid cause addr) :=
  takeFault_canonical (canonical_update (focus_canonical h))

theorem resampled_canonical {s p k pop l weight} (h : Canonical s) : Canonical (s.resampled p k pop l weight) := by
  unfold State.resampled
  dsimp only
  split
  · exact clearCollective_canonical (foldl_canonical (fun _ _ => endCollective_canonical) (modPart_canonical (foldl_canonical (fun _ _ => modStrand_canonical) (foldl_canonical (fun _ _ hs => dropStrand_canonical (endStrand_canonical hs)) h _) _)) _)
  · exact modPart_canonical (foldl_canonical (fun _ _ => modStrand_canonical) (foldl_canonical (fun _ _ hs1 => dropStrand_canonical (endStrand_canonical hs1)) h _) _)

theorem traceResample_canonical {s p k members n status} (h : Canonical s) :
    Canonical (s.traceResample p k members n status) := by
  unfold State.traceResample
  dsimp only
  split
  · exact h
  · exact traceOn_canonical h

theorem execResampleCollective_canonical {p k s} (h : Canonical s) : OutCanonical (execResampleCollective p k s) := by
  unfold execResampleCollective
  dsimp only
  split
  · exact .next h
  · split
    · exact .next h
    · split
      · refine .next ?_
        refine traceResample_canonical ?_
        refine clearCollective_canonical ?_
        refine foldl_canonical (fun _ _ hs1 => ?_) ?_ _
        · split
          · exact faultMember_canonical hs1
          · exact endCollective_canonical hs1
        · exact h
      · split
        · split
          · exact .next (traceResample_canonical (clearCollective_canonical (foldl_canonical (fun _ _ => endCollective_canonical) h _)))
          · split
            · exact .next (traceResample_canonical (clearCollective_canonical (foldl_canonical (fun _ _ => endCollective_canonical) h _)))
            · split
              · exact .next (traceResample_canonical (resampled_canonical h))
              · exact .next (traceResample_canonical (clearCollective_canonical (foldl_canonical (fun _ _ => endCollective_canonical) h _)))
        · split
          · exact .next (traceResample_canonical (clearCollective_canonical (foldl_canonical (fun _ _ => endCollective_canonical) h _)))
          · split
            · exact .next (traceResample_canonical (clearCollective_canonical (foldl_canonical (fun _ _ => endCollective_canonical) h _)))
            · split
              · exact .next (traceResample_canonical (resampled_canonical h))
              · exact .next (traceResample_canonical (clearCollective_canonical (foldl_canonical (fun _ _ => endCollective_canonical) h _)))

theorem joinClone_canonical {s p c cell slot} (h : Canonical s) : Canonical (s.joinClone p c cell slot) := by
  unfold State.joinClone
  dsimp only
  split
  · exact canonical_update (modPart_canonical (addStrand_canonical h))
  · exact clearCollective_canonical (foldl_canonical (fun _ _ => endCollective_canonical) (canonical_update (modPart_canonical (addStrand_canonical h))) _)

theorem placeClone_canonical {s p c cell slot} (h : Canonical s) : Canonical (s.placeClone p c cell slot) := by
  unfold State.placeClone
  dsimp only
  split
  · exact modPart_canonical h
  · split
    · next hr1 => exact fatal_canonical (canonical_fst (copyBank_canonical (modPart_canonical h)) hr1)
    · next hr1 => exact joinClone_canonical (canonical_fst (copyBank_canonical (modPart_canonical h)) hr1)

theorem execClonePlacement_canonical {p s} (h : Canonical s) : OutCanonical (execClonePlacement p s) := by
  unfold execClonePlacement
  dsimp only
  split
  · split
    · exact .next (placeClone_canonical h)
    · exact .next (modPart_canonical h)
  · split
    · exact .next (placeClone_canonical h)
    · exact .next h

/-! #### Machine/Starts.lean -/

theorem setStops_canonical {s on cells} (h : Canonical s) : Canonical (s.setStops on cells) :=
  foldl_canonical (fun _ _ => modCell_canonical) h _

theorem notify_canonical {s uid kind status w1 w2} (h : Canonical s) :
    Canonical (s.notify uid kind status w1 w2) := by
  unfold State.notify
  dsimp only
  split <;> exact h

theorem hit_canonical {s t pc l} (h : Canonical s) : Canonical (s.hit t pc l) := by
  unfold State.hit
  dsimp only
  split
  · exact traceStrand_canonical h
  · exact setStops_canonical (traceStrand_canonical h)
  · exact setStops_canonical (traceStrand_canonical h)

theorem unbox_canonical {s cell id} (h : Canonical s) : Canonical (s.unbox cell id) := modCell_canonical h

theorem startMsg_canonical {s cell slot m l} (h : Canonical s) : Canonical (s.startMsg cell slot m l) := by
  unfold State.startMsg
  dsimp only
  split
  · next hr => exact fatal_canonical (canonical_fst (copyBank_canonical h) hr)
  · next hr =>
      split
      · split
        · exact traceStrand_canonical (logDone_canonical (modPart_canonical (canonical_update (addStrand_canonical (unbox_canonical (canonical_fst (copyBank_canonical h) hr))))))
        · split
          · exact hit_canonical (traceStrand_canonical (logDone_canonical (modPart_canonical (canonical_update (addStrand_canonical (unbox_canonical (canonical_fst (copyBank_canonical h) hr)))))))
          · exact modStrand_canonical (hit_canonical (traceStrand_canonical (logDone_canonical (modPart_canonical (canonical_update (addStrand_canonical (unbox_canonical (canonical_fst (copyBank_canonical h) hr))))))))
      · exact canonical_update (addStrand_canonical (unbox_canonical (canonical_fst (copyBank_canonical h) hr)))

theorem startResident_canonical {s p l cell slot i} (h : Canonical s) :
    Canonical (s.startResident p l cell slot i) := by
  unfold State.startResident
  dsimp only
  split
  · next hr => exact fatal_canonical (canonical_fst (copyBank_canonical h) hr)
  · next hr => exact canonical_update (addStrand_canonical (canonical_fst (copyBank_canonical h) hr))

/-! #### Machine/Network.lean -/

theorem execMessageDeparture_canonical {cell s} (h : Canonical s) : OutCanonical (execMessageDeparture cell s) := by
  unfold execMessageDeparture
  dsimp only
  split
  · exact .next h
  · split
    · exact .next h
    · exact .next (depart_canonical (modCell_canonical h))

theorem undeliverable_canonical {s cell} (h : Canonical s) : Canonical (s.undeliverable cell) := modCell_canonical h

theorem hostMem_canonical {s : State} {m} (h : Canonical s) (hm : memWf m = true) :
    Canonical { s with hostMem := m } := ⟨h.1, hm⟩

theorem writeResults_canonical {s p l} (h : Canonical s) : Canonical (s.writeResults p l) := by
  induction l generalizing s with
  | nil => exact modPart_canonical h
  | cons r rs ih =>
    unfold State.writeResults
    extract_lets f at32 s1
    have h1 : Canonical s1 := hostMem_canonical h (memPutWords_wf h.2 _ _)
    clear_value s1
    split
    · exact ih (raise_canonical (modPart_canonical h1))
    · exact modPart_canonical h

theorem flushResults_canonical {s p} (h : Canonical s) : Canonical (s.flushResults p) := writeResults_canonical h

theorem owe_canonical {s p r} (h : Canonical s) : Canonical (s.owe p r) :=
  flushResults_canonical (modPart_canonical h)

theorem oweMsg_canonical {s m status} (h : Canonical s) : Canonical (s.oweMsg m status) := by
  unfold State.oweMsg
  split
  · exact h
  · exact owe_canonical h

theorem modSiding_canonical {s n f} (h : Canonical s) : Canonical (s.modSiding n f) := h
theorem arrival_canonical {s k} (h : Canonical s) : Canonical (s.arrival k) := modCluster_canonical h

theorem execMessageArrival_canonical {n s} (h : Canonical s) : OutCanonical (execMessageArrival n s) := by
  unfold execMessageArrival
  dsimp only
  split
  · exact .next h
  · split
    · exact .next h
    · split
      · exact .next h
      · split
        · exact .next (oweMsg_canonical (undeliverable_canonical h))
        · split
          · split
            · exact .next (oweMsg_canonical (modSiding_canonical h))
            · exact .next (oweMsg_canonical (undeliverable_canonical h))
            · split
              · exact .next (oweMsg_canonical (arrival_canonical (modCell_canonical h)))
              · exact .next h
          · split
            · exact .next (oweMsg_canonical (arrival_canonical (modCell_canonical h)))
            · exact .next h

theorem execActivationStart_canonical {cell s} (h : Canonical s) : OutCanonical (execActivationStart cell s) := by
  unfold execActivationStart
  split
  · split
    · exact .next (startMsg_canonical h)
    · exact .next h
  · exact .next h

theorem execHandler0Delivery_canonical {cell s} (h : Canonical s) : OutCanonical (execHandler0Delivery cell s) := by
  unfold execHandler0Delivery
  dsimp only
  split
  · exact .next h
  · split
    · split
      · exact .next (modSiding_canonical (unbox_canonical h))
      · exact .next (undeliverable_canonical (unbox_canonical h))
    · exact .next (logDone_canonical (modStrand_canonical (unbox_canonical h)))

theorem execMigrateArrival_canonical {uid s} (h : Canonical s) : OutCanonical (execMigrateArrival uid s) := by
  unfold execMigrateArrival
  dsimp only
  split
  · exact .next h
  · split
    · exact .next h
    · split
      · split
        · next hr3 => exact .next (fatal_canonical (canonical_fst (copyBank_canonical h) hr3))
        · next hr3 => exact .next (modStrand_canonical (canonical_fst (copyBank_canonical h) hr3))
      · exact .next h

theorem execSidingForward_canonical {n s} (h : Canonical s) : OutCanonical (execSidingForward n s) := by
  unfold execSidingForward
  split
  · exact .next h
  next d hd =>
  extract_lets gone
  have hgone : Canonical gone := canonical_update h
  clear_value gone
  split
  · exact .next (foldl_canonical (fun _ _ => undeliverable_canonical) hgone _)
  · refine iteInduction (fun _ => ?_) fun _ => .next h
    · dsimp only
      split
      · exact .next (logDone_canonical (modSiding_canonical (modStrand_canonical h)))
      · exact .next (modSiding_canonical (modStrand_canonical h))
  · split
    · exact .next h
    · exact .next hgone

theorem execStrandWake_canonical {uid s} (h : Canonical s) : OutCanonical (execStrandWake uid s) := by
  unfold execStrandWake
  dsimp only
  split
  · exact .next h
  · split
    · exact .next (modStrand_canonical h)
    · exact .next (modStrand_canonical h)
    · split
      · exact .next h
      · exact .next (modStrand_canonical h)
    · split
      · exact .next h
      · exact .next (modStrand_canonical h)
    · exact .next h

theorem execSleepTimeout_canonical {uid s} (h : Canonical s) : OutCanonical (execSleepTimeout uid s) := by
  unfold execSleepTimeout
  dsimp only
  split
  · exact .next h
  · split
    · split
      · exact .next (modStrand_canonical h)
      · exact .next h
    · exact .next h

theorem dropTlb_canonical {s f} (h : Canonical s) : Canonical (s.dropTlb f) := h

theorem execTlbinvComplete_canonical {n s} (h : Canonical s) : OutCanonical (execTlbinvComplete n s) := by
  unfold execTlbinvComplete
  dsimp only
  split
  · exact .next h
  · split
    · exact .next (dropTlb_canonical h)
    · exact .next (notify_canonical (dropTlb_canonical h))

/-! #### Machine/Tasks.lean -/

theorem modTask_canonical {s p k f} (h : Canonical s) : Canonical (s.modTask p k f) := modPart_canonical h

theorem enqueue_canonical {s p l t} (h : Canonical s) : Canonical (s.enqueue p l t) :=
  traceTask_canonical (modCluster_canonical (modTask_canonical h))

theorem execTaskReady_canonical {p n s} (h : Canonical s) : OutCanonical (execTaskReady p n s) := by
  unfold execTaskReady
  dsimp only
  split
  · exact .next h
  · split
    · exact .next (placeTask_canonical h)
    · split
      · exact .next h
      · split
        · split
          · next hr4 =>
              split
              · exact .next (retireTask_canonical (traceTask_canonical (traceOn_canonical ((countOf_keeps h).ok _ hr4))))
              · exact .next (enqueue_canonical (traceOn_canonical ((countOf_keeps h).ok _ hr4)))
          · next hr4 => exact .next (fatal_canonical ((countOf_keeps h).error _ hr4))
          · exact .next h
        · exact .next (enqueue_canonical h)
    · exact .next h

theorem task_product_keeps {t s} (h : Canonical s) : RunKeeps Canonical (Task.product t s) := by
  unfold Task.product
  dsimp only
  split <;> exact productRun_keeps h

theorem taskFault_canonical {s p t cause addr} (h : Canonical s) : Canonical (s.taskFault p t cause addr) :=
  fatal_canonical h

theorem leaveDeque_canonical {s p key} (h : Canonical s) : Canonical (s.leaveDeque p key) := h

theorem beginTask_canonical {s p t k} (h : Canonical s) : Canonical (s.beginTask p t k) := by
  unfold State.beginTask
  dsimp only
  split
  · exact modTask_canonical h
  · exact traceTask_canonical (modTask_canonical h)

theorem takeTask_canonical {s p t k} (h : Canonical s) : Canonical (s.takeTask p t k) :=
  beginTask_canonical (leaveDeque_canonical h)

theorem steal_canonical {s p t k} (h : Canonical s) : Canonical (s.steal p t k) :=
  traceTask_canonical (modCluster_canonical (modTask_canonical (leaveDeque_canonical h)))

theorem taskStack_keeps {s : State} {c kind ws} : RunKeeps (fun _ => True) (s.taskStack c kind ws) := by
  unfold State.taskStack
  split
  · split
    · next hr1 => exact .stop (engineLoc_keeps.error _ hr1)
    · exact .ret trivial
  · exact .ret trivial

theorem taskDesc_keeps {s c t} (h : Canonical s) : RunKeeps (fun r => Canonical r.2.2) (s.taskDesc c t) := by
  unfold State.taskDesc
  refine .bind_any engineLoc_keeps fun loc => ?_
  split
  next bad s1 hr =>
  have h1 : Canonical s1 := canonical_thd (readAt_canonical h) hr
  refine .ite_bind_any (.stop h1) (.ret trivial) fun _ => .ite_bind_any (.stop trivial) (.ret trivial) fun _ => ?_
  refine .bind_any taskStack_keeps fun k => ?_
  split
  · exact .ret h1
  · exact .stop trivial

theorem dispatch_canonical {s p l t k} (h : Canonical s) : Canonical (s.dispatch p l t k) := by
  have htake : Canonical (s.takeTask p t k) := takeTask_canonical h
  unfold State.dispatch
  split
  · split
    · exact h
    · exact arrival_canonical (modCell_canonical (canonical_update htake))
  · extract_lets e
    have hprod : RunKeeps Canonical (t.product { s with st := e }) := task_product_keeps (canonical_update h)
    split
    next hr =>
      extract_lets s1
      have h1 : Canonical s1 := canonical_update (hprod.ok _ hr)
      split
      · exact modTask_canonical (beginTask_canonical h1)
      · exact retireTask_canonical (takeTask_canonical h1)
    · exact taskFault_canonical htake
    · exact taskFault_canonical htake
    next hr => exact taskFault_canonical (takeTask_canonical (canonical_update (hprod.error _ hr)))
    · exact startWalk_canonical h
    · exact h
  · have hdesc : RunKeeps (fun r => Canonical r.2.2) (s.taskDesc (t.unit k p) t) := taskDesc_keeps h
    split
    · exact startWalk_canonical h
    · exact taskFault_canonical htake
    · exact taskFault_canonical htake
    next hr => exact taskFault_canonical (takeTask_canonical (hdesc.error _ hr))
    · exact h
    next hr =>
      have h1 := hdesc.ok _ hr
      dsimp only
      split
      · exact canonical_update (takeTask_canonical h1)
      · exact h1

theorem execTaskDispatch_canonical {k s} (h : Canonical s) : OutCanonical (execTaskDispatch k s) := by
  unfold execTaskDispatch
  split
  · exact .next h
  · split
    · exact .next (dispatch_canonical h)
    · exact .next h

theorem traceSteal_canonical {s p k ok} (h : Canonical s) : Canonical (s.traceSteal p k ok) :=
  modCluster_canonical (traceOn_canonical h)

theorem execStealAttempt_canonical {k s} (h : Canonical s) : OutCanonical (execStealAttempt k s) := by
  unfold execStealAttempt
  dsimp only
  split
  · split
    · exact .next h
    · split
      · refine .next ?_
        split
        · exact traceSteal_canonical (modCluster_canonical (modCluster_canonical h))
        · exact modCluster_canonical (modCluster_canonical h)
      · split
        · exact .next (dispatch_canonical (steal_canonical (traceSteal_canonical (modCluster_canonical h))))
        · exact .next (steal_canonical (traceSteal_canonical (modCluster_canonical h)))
  · exact .next h

/-! #### Machine/Launches.lean -/

theorem readChain_canonical {s die p asid va uab n} (h : Canonical s) :
    Canonical (readChain s die p asid va uab n).1 := by
  induction n generalizing s die p asid va uab h with
  | zero => exact h
  | succ n ih =>
    unfold readChain
    split
    · exact h
    · split
      · next hr => exact canonical_fst (engWords_canonical h) hr
      · next hr =>
          split
          · exact canonical_fst (engWords_canonical h) hr
          · exact ih (canonical_fst (engWords_canonical h) hr)

theorem answer_canonical {s p cmd code num} (h : Canonical s) : Canonical (s.answer p cmd code num) := by
  unfold State.answer
  split
  · exact notify_canonical h
  · exact owe_canonical h

theorem execLaunchAccept_canonical {p s} (h : Canonical s) : OutCanonical (execLaunchAccept p s) := by
  unfold execLaunchAccept
  dsimp only
  split
  · exact .next h
  · split
    · exact .next h
    · split
      · exact .next (answer_canonical (readChain_canonical (setPart_canonical h)))
      · split
        · exact .next (answer_canonical (readChain_canonical (setPart_canonical h)))
        · split
          · next hr1 => exact .next (answer_canonical (canonical_fst (engWords_canonical (readChain_canonical (setPart_canonical h))) hr1))
          · next hr1 =>
              split
              · exact .next (answer_canonical (canonical_fst (engWords_canonical (readChain_canonical (setPart_canonical h))) hr1))
              · exact .next (answer_canonical (modPart_canonical (canonical_fst (engWords_canonical (readChain_canonical (setPart_canonical h))) hr1)))

theorem putImage_canonical {s a x} (h : Canonical s) : Canonical (s.putImage a x) :=
  foldl_canonical (fun _ _ hs => canonical_update (writeAt_canonical hs)) h _

theorem getImage_canonical {s a} (h : Canonical s) : Canonical (s.getImage a).2 := by
  unfold State.getImage
  generalize imageReads _ = l
  split
  next got s1 hr =>
  have h1 : Canonical s1 := canonical_snd (makeReads_canonical h) hr
  clear hr
  generalize joinImage 0 got = x
  obtain ⟨img, bads⟩ := x
  dsimp only
  split
  · exact h1
  · split <;> exact h1

theorem saveTile_canonical {s p num e} (h : Canonical s) : Canonical (s.saveTile p num e) := by
  have hfind : Canonical (s.tileFind ErrCtx.engine e.1 e.2 allElems) := tileFind_canonical h
  unfold State.saveTile
  generalize s.tileFind ErrCtx.engine e.1 e.2 allElems = s1 at hfind
  exact modPart_canonical (putImage_canonical hfind)

theorem saveTiles_canonical {s p l} (h : Canonical s) : Canonical (s.saveTiles p l) := by
  unfold State.saveTiles
  split
  · exact foldl_canonical (fun _ _ => saveTile_canonical) h _
  · exact h

theorem suspend_canonical {s p n} (h : Canonical s) : Canonical (s.suspend p n) := by
  unfold State.suspend
  dsimp only
  split
  · exact saveTiles_canonical (modPart_canonical h)
  · exact modPart_canonical h

theorem execLaunchPlacement_canonical {p s} (h : Canonical s) : OutCanonical (execLaunchPlacement p s) := by
  unfold execLaunchPlacement
  dsimp only
  split
  · exact .next h
  · split
    · exact .next h
    · split
      · split
        · exact .next h
        · exact .next (modPart_canonical h)
      · split
        · exact .next h
        · split
          · exact .next h
          · exact .next (foldl_canonical (fun _ _ => suspend_canonical) h _)

theorem execPlacementStep_canonical {p s} (h : Canonical s) : OutCanonical (execPlacementStep p s) := by
  unfold execPlacementStep
  dsimp only
  split
  · exact .next h
  · split <;> exact .next (modPart_canonical h)

theorem startResidents_canonical {s p l cell base l1} (h : Canonical s) :
    Canonical (s.startResidents p l cell base l1) := by
  induction l1 generalizing s p l cell base h with
  | nil => exact h
  | cons x l1 ih =>
    unfold State.startResidents
    dsimp only
    refine ih ?_
    split
    · exact startResident_canonical h
    · exact modCell_canonical h

theorem execWakeMessage_canonical {p n cell s} (h : Canonical s) : OutCanonical (execWakeMessage p n cell s) := by
  unfold execWakeMessage
  dsimp only
  split
  · exact .next h
  · split
    · exact .next (startResidents_canonical (modPart_canonical h))
    · exact .next h

theorem execResidentStrandStart_canonical {cell s} (h : Canonical s) :
    OutCanonical (execResidentStrandStart cell s) := by
  unfold execResidentStrandStart
  dsimp only
  split
  · split
    · exact .next h
    · split
      · exact .next (startResident_canonical (modCell_canonical h))
      · exact .next (modCell_canonical h)
  · exact .next h

theorem endLaunch_canonical {s p l} (h : Canonical s) : Canonical (s.endLaunch p l) := by
  unfold State.endLaunch
  dsimp only
  split
  · exact notify_canonical (modPart_canonical h)
  · split
    · exact owe_canonical (modPart_canonical h)
    · exact modPart_canonical h

theorem execLaunchEnd_canonical {p n s} (h : Canonical s) : OutCanonical (execLaunchEnd p n s) := by
  unfold execLaunchEnd
  split
  · exact .next h
  · split
    · exact .next (endLaunch_canonical h)
    · exact .next h

/-! #### Machine/Frames.lean -/

theorem withdraw_canonical {s} (h : Canonical s) : Canonical (s.withdraw) := by
  unfold State.withdraw
  dsimp only
  split
  · exact canonical_update (setWaiters_canonical h)
  · exact canonical_update (dropWaiter_canonical h)
  · exact h
  · exact canonical_update (modPart_canonical h)
  · exact h
  · exact h

theorem takeBack_canonical {s} (h : Canonical s) : Canonical (s.takeBack) :=
  canonical_update (pullBack_canonical (withdraw_canonical h))

theorem putWords_canonical {s a ws bad} (h : Canonical s) : Canonical (s.putWords a ws bad) := by
  unfold State.putWords
  dsimp only
  split
  · exact writeWords_canonical h
  · exact canonical_update (writeWords_canonical h)

theorem putFrame_canonical {s a t} (h : Canonical s) : Canonical (s.putFrame a t) := putWords_canonical h

theorem spillFocus_canonical {s halted} (h : Canonical s) : Canonical (s.spillFocus halted) := by
  unfold State.spillFocus
  dsimp only
  split
  · exact modPart_canonical (canonical_update (putFrame_canonical h))
  · exact canonical_update (putFrame_canonical h)

theorem execStrandSpill_canonical {uid s} (h : Canonical s) : OutCanonical (execStrandSpill uid s) := by
  unfold execStrandSpill
  dsimp only
  split
  · exact .next h
  · split
    · exact .next h
    · split
      · split
        · exact .next (saveTiles_canonical (spillFocus_canonical (takeBack_canonical (focus_canonical h))))
        · exact .next h
      · exact .next h

theorem restoreStrand_canonical {s t halted slot} (h : Canonical s) : Canonical (s.restoreStrand t halted slot) := by
  unfold State.restoreStrand
  dsimp only
  split
  · exact fatal_canonical (meet_canonical h)
  · split
    · exact fatal_canonical (meet_canonical h)
    · split
      · exact modPart_canonical (modStrand_canonical (meet_canonical h))
      · exact modStrand_canonical (meet_canonical h)

theorem execContextRestore_canonical {uid s} (h : Canonical s) : OutCanonical (execContextRestore uid s) := by
  unfold execContextRestore
  split
  · exact .next h
  · split
    · split
      · exact .next (restoreStrand_canonical h)
      · exact .next h
    · exact .next h

theorem restoreTile_canonical {s p l e} (h : Canonical s) : Canonical (s.restoreTile p l e) := by
  unfold State.restoreTile
  extract_lets a
  have himg : Canonical (s.getImage a).2 := getImage_canonical h
  generalize s.getImage a = x at himg ⊢
  split
  · exact modCluster_canonical (tilePut_canonical himg)
  · exact fatal_canonical himg

theorem execLaunchRestore_canonical {p n s} (h : Canonical s) : OutCanonical (execLaunchRestore p n s) := by
  unfold execLaunchRestore
  dsimp only
  split
  · exact .next h
  · split
    · refine .next ?_
      refine foldl_canonical (fun _ _ hs1 => ?_) ?_ _
      · split
        · exact restoreStrand_canonical hs1
        · exact hs1
      · exact modPart_canonical (foldl_canonical (fun _ _ => restoreTile_canonical) h _)
    · exact .next h

/-! #### Machine/Domains.lean -/

theorem modEnd_canonical {s p fdom f} (h : Canonical s) : Canonical (s.modEnd p fdom f) := modPart_canonical h

theorem halt_canonical {s uid} (h : Canonical s) : Canonical (s.halt uid) :=
  canonical_update (takeBack_canonical (focus_canonical h))

theorem stopStrand_canonical {s uid} (h : Canonical s) : Canonical (s.stopStrand uid) :=
  canonical_update (takeBack_canonical (focus_canonical h))

theorem execFatalFaultStop_canonical {p s} (h : Canonical s) : OutCanonical (execFatalFaultStop p s) := by
  unfold execFatalFaultStop
  dsimp only
  split
  · exact .next h
  · split
    · exact .next h
    · split
      · exact .next (modEnd_canonical (modPart_canonical (foldl_canonical (fun _ _ => stopStrand_canonical) h _)))
      · exact .next h

theorem putRecs_canonical {s base size off fin l} (h : Canonical s) :
    Canonical (putRecs s base size off fin l).1 := by
  induction l generalizing s base size off fin h with
  | nil => exact h
  | cons x l ih =>
    unfold putRecs
    dsimp only
    split
    · exact h
    · exact ih (putWords_canonical h)

theorem beginDump_canonical {s p e} (h : Canonical s) : Canonical (s.beginDump p e) :=
  modEnd_canonical (writeWords_canonical h)

theorem endDump_canonical {s p e} (h : Canonical s) : Canonical (s.endDump p e) :=
  raise_canonical (modEnd_canonical (writeWords_canonical (writeWords_canonical (putRecs_canonical h))))

theorem execDumpWrite_canonical {p s} (h : Canonical s) : OutCanonical (execDumpWrite p s) := by
  unfold execDumpWrite
  split
  · refine .next ?_
    split
    · exact h
    · exact endDump_canonical h
  · refine .next ?_
    split
    · exact h
    · exact beginDump_canonical h
  · exact .next h

theorem execTeardownPoint_canonical {p s} (h : Canonical s) : OutCanonical (execTeardownPoint p s) := by
  unfold execTeardownPoint
  dsimp only
  split
  · exact .next h
  · split
    · exact .next h
    · exact .next (modEnd_canonical (modPart_canonical h))

theorem zeroRange_canonical {s a n} (h : Canonical s) : Canonical (s.zeroRange a n) :=
  inject_canonical ⟨memZero_wf h.1 _ _, h.2⟩

theorem zeroTile_canonical {s k n} (h : Canonical s) : Canonical (s.zeroTile k n) := tilePut_canonical h

theorem clearLaunches_canonical {s p ls} (h : Canonical s) : Canonical (s.clearLaunches p ls) :=
  foldl_canonical (fun _ _ => serveWaiters_canonical) (modPart_canonical (canonical_update (foldl_canonical (fun _ _ => leaveDeque_canonical) (foldl_canonical (fun _ _ hs => dropStrand_canonical (endStrand_canonical hs)) h _) _))) _

theorem execDomainRelease_canonical {p s} (h : Canonical s) : OutCanonical (execDomainRelease p s) := by
  unfold execDomainRelease
  dsimp only
  split
  · exact .next h
  · exact .next (modPart_canonical (foldl_canonical (fun _ _ => endLaunch_canonical) (foldl_canonical (fun _ _ => zeroTile_canonical) (foldl_canonical (fun _ _ => zeroRange_canonical) (foldl_canonical (fun _ _ => zeroRange_canonical) (clearLaunches_canonical h) _) _) _) _))

theorem requestReset_canonical {s p} (h : Canonical s) : Canonical (s.requestReset p) := by
  unfold State.requestReset
  dsimp only
  split
  · exact modPart_canonical h
  · exact h

theorem scrub_canonical {s p} (h : Canonical s) : Canonical (s.scrub p) :=
  putKnot_canonical (modPart_canonical (dropTlb_canonical (canonical_update (foldl_canonical (fun _ _ => modCluster_canonical) (foldl_canonical (fun _ _ hs => foldl_canonical (fun _ _ => zeroTile_canonical) (zeroRange_canonical (foldl_canonical (fun _ _ => zeroRange_canonical) hs _)) _) h _) _))))

theorem execPartitionReset_canonical {p s} (h : Canonical s) : OutCanonical (execPartitionReset p s) := by
  unfold execPartitionReset
  dsimp only
  split
  · exact .next h
  · refine .next ?_
    refine flushResults_canonical ?_
    refine raise_canonical ?_
    refine modPart_canonical ?_
    refine scrub_canonical ?_
    split
    · exact writeAt_canonical (canonical_update (foldl_canonical (fun _ _ => dropStrand_canonical) h _))
    · exact canonical_update (foldl_canonical (fun _ _ => dropStrand_canonical) h _)

/-! #### Machine/Translations.lean -/

theorem fillTlbs_canonical {s die cells e} (h : Canonical s) : Canonical (s.fillTlbs die cells e) :=
  foldl_canonical (fun _ _ => modCell_canonical) (foldl_canonical (fun _ _ => modCluster_canonical) (modDie_canonical h) _) _

theorem releaseWalk_canonical {s id} (h : Canonical s) : Canonical (s.releaseWalk id) :=
  canonical_update (foldl_canonical (fun _ _ => modStrand_canonical) h _)

theorem execTranslationWalk_canonical {n s} (h : Canonical s) : OutCanonical (execTranslationWalk n s) := by
  unfold execTranslationWalk
  dsimp only
  split
  · exact .next h
  · split
    · split
      · next hr2 => exact .next (canonical_update (canonical_fst (walk_canonical h) hr2))
      · next hr2 => exact .next (releaseWalk_canonical (fillTlbs_canonical (canonical_fst (walk_canonical h) hr2)))
    · exact .next h

theorem execTranslationMiss_canonical {n s} (h : Canonical s) : OutCanonical (execTranslationMiss n s) := by
  unfold execTranslationMiss
  dsimp only
  split
  · exact .next h
  · split
    · exact .next (raise_canonical (modPart_canonical (canonical_update (writeWords_canonical h))))
    · exact .next h

theorem deny_canonical {s uid id} (h : Canonical s) : Canonical (s.deny uid id) := by
  unfold State.deny
  dsimp only
  split
  · split
    · exact entryFault_canonical (focus_canonical h)
    · exact focus_canonical h
  · split
    · exact focus_canonical h
    · exact takeFault_canonical (canonical_update (focus_canonical h))
  · exact focus_canonical h

theorem denyAccesses_canonical {s id} (h : Canonical s) : Canonical (s.denyAccesses id) := by
  unfold State.denyAccesses
  refine foldl_canonical (fun _ _ hs => ?_) ?_ _
  · split
    · split
      · exact performed_canonical hs
      · exact hs
    · exact hs
  · exact h

theorem latchAnswer_canonical {s w} (h : Canonical s) : Canonical (s.latchAnswer w) := by
  unfold State.latchAnswer
  dsimp only
  split
  · split
    · exact h
    · split
      · exact meet_canonical h
      · exact canonical_update (meet_canonical h)
  · exact h

theorem latchAnswers_canonical {s} (h : Canonical s) : Canonical (s.latchAnswers) :=
  foldl_canonical (fun _ _ => latchAnswer_canonical) h _

theorem answered_canonical {s w} (h : Canonical s) : Canonical (s.answered w) := modPart_canonical h
theorem retryWalk_canonical {s w} (h : Canonical s) : Canonical (s.retryWalk w) := answered_canonical h

theorem denyWalk_canonical {s w} (h : Canonical s) : Canonical (s.denyWalk w) :=
  answered_canonical (foldl_canonical (fun _ _ hs => taskFault_canonical (leaveDeque_canonical hs)) (canonical_update (foldl_canonical (fun _ _ => deny_canonical) (denyAccesses_canonical h) _)) _)

theorem execTranslationFaultAnswer_canonical {p rec ans s} (h : Canonical s) :
    OutCanonical (execTranslationFaultAnswer p rec ans s) := by
  unfold execTranslationFaultAnswer
  dsimp only
  split
  · exact .next h
  · split
    · exact .next (retryWalk_canonical (writeWords_canonical h))
    · refine .next ?_
      split
      · split
        · exact latchAnswers_canonical (writeWords_canonical h)
        · exact denyWalk_canonical (writeWords_canonical h)
      · split
        · exact latchAnswers_canonical (writeWords_canonical h)
        · exact denyWalk_canonical (writeWords_canonical h)

theorem execStrandWatchdogExpiry_canonical {uid s} (h : Canonical s) :
    OutCanonical (execStrandWatchdogExpiry uid s) := by
  unfold execStrandWatchdogExpiry
  dsimp only
  split
  · exact .next h
  · split
    · exact .next (takeFault_canonical (canonical_update (takeBack_canonical (focus_canonical h))))
    · exact .next h

theorem execPartitionWatchdogExpiry_canonical {p s} (h : Canonical s) :
    OutCanonical (execPartitionWatchdogExpiry p s) := by
  unfold execPartitionWatchdogExpiry
  split
  · exact .next (requestReset_canonical h)
  · exact .next h

theorem execIllegalEncoding_canonical {cause addr s} (h : Canonical s) :
    OutCanonical (execIllegalEncoding cause addr s) := .next (stop_canonical h trivial)

theorem execLdcLineEviction_canonical {cell cluster line s} (h : Canonical s) :
    OutCanonical (execLdcLineEviction cell cluster line s) := by
  unfold execLdcLineEviction
  refine .next ?_
  split
  · exact modCluster_canonical h
  · exact modCell_canonical h

/-! #### Machine/Services.lean -/

theorem regionPages_canonical {s c a write n} (h : Canonical s) : Canonical (regionPages s c a write n).1 := by
  induction n generalizing s c a write h with
  | zero => exact h
  | succ n ih =>
    unfold regionPages
    split
    · next hr => exact canonical_fst (engineFind_canonical h) hr
    · next hr =>
        split
        · exact canonical_fst (engineFind_canonical h) hr
        · split
          · next hr2 => exact canonical_fst (ih (canonical_fst (engineFind_canonical h) hr)) hr2
          · next hr2 => exact canonical_fst (ih (canonical_fst (engineFind_canonical h) hr)) hr2

theorem lawService_canonical {s t} (h : Canonical s) : Canonical (s.lawService t).1 := by
  unfold State.lawService
  dsimp only
  split
  · exact h
  · split
    · exact h
    · split
      · exact modPart_canonical h
      · split
        · next hr => exact canonical_fst (engWords_canonical h) hr
        · next hr =>
            split
            · next hr1 => exact canonical_fst (regionPages_canonical (canonical_fst (engWords_canonical h) hr)) hr1
            · next hr1 =>
                split
                · next hr2 => exact canonical_fst (regionPages_canonical (canonical_fst (regionPages_canonical (canonical_fst (engWords_canonical h) hr)) hr1)) hr2
                · next hr2 =>
                    split
                    · exact canonical_fst (regionPages_canonical (canonical_fst (regionPages_canonical (canonical_fst (engWords_canonical h) hr)) hr1)) hr2
                    · split
                      · exact canonical_fst (regionPages_canonical (canonical_fst (regionPages_canonical (canonical_fst (engWords_canonical h) hr)) hr1)) hr2
                      · exact modPart_canonical (canonical_fst (regionPages_canonical (canonical_fst (regionPages_canonical (canonical_fst (engWords_canonical h) hr)) hr1)) hr2)

theorem reply_canonical {s uid ws status} (h : Canonical s) : Canonical (s.reply uid ws status) :=
  modStrand_canonical h

theorem execSyscReply_canonical {uid s} (h : Canonical s) : OutCanonical (execSyscReply uid s) := by
  unfold execSyscReply
  dsimp only
  split
  · exact .next h
  · split
    · split
      · exact .next h
      · split
        · exact .next (reply_canonical h)
        · exact .next (reply_canonical (modPart_canonical h))
        · exact .next (reply_canonical h)
        · exact .next (reply_canonical (lawService_canonical h))
        · split
          · exact .next (reply_canonical (owe_canonical h))
          · exact .next h
        · exact .next (requestReset_canonical h)
        · exact .next (reply_canonical h)
        · exact .next (reply_canonical h)
    · exact .next h

/-! #### Machine/HostSide.lean -/

theorem hostLoad_canonical {s c a n} (h : Canonical s) : Canonical (hostLoad s c a n).1 := by
  unfold hostLoad
  split
  · next hr => exact canonical_fst (engineFind_canonical h) hr
  · next hr =>
      split
      · exact canonical_fst (engineFind_canonical h) hr
      · split
        · exact canonical_update (canonical_fst (engineFind_canonical h) hr)
        · exact readAt_canonical (canonical_fst (engineFind_canonical h) hr)

theorem hostStore_canonical {s c a n n1} (h : Canonical s) : Canonical (hostStore s c a n n1) := by
  unfold hostStore
  split
  · next hr => exact canonical_fst (engineFind_canonical h) hr
  · next hr =>
      split
      · exact canonical_fst (engineFind_canonical h) hr
      · split
        · exact canonical_fst (engineFind_canonical h) hr
        · exact writeAt_canonical (canonical_fst (engineFind_canonical h) hr)

theorem hostLoads_canonical {s c a n} (h : Canonical s) : Canonical (hostLoads s c a n).1 := by
  induction n generalizing s c a h with
  | zero => exact h
  | succ n ih =>
    unfold hostLoads
    exact ih (hostLoad_canonical h)

theorem hostStores_canonical {s c a n n1} (h : Canonical s) : Canonical (hostStores s c a n n1) := by
  induction n1 generalizing s c a n h with
  | zero => exact h
  | succ n1 ih =>
    unfold hostStores
    exact ih (hostStore_canonical h)

theorem barAccess_canonical {s p write off n n1} (h : Canonical s) : Canonical (s.barAccess p write off n n1) := by
  unfold State.barAccess
  dsimp only
  split
  · split
    · exact hostStore_canonical h
    · exact hostStores_canonical h
  · refine modPart_canonical ?_
    split
    · exact hostLoad_canonical h
    · exact hostLoads_canonical h

theorem execHostBar2Access_canonical {p write off size data s} (h : Canonical s) :
    OutCanonical (execHostBar2Access p write off size data s) := by
  unfold execHostBar2Access
  dsimp only
  split
  · split <;> exact .next h
  · split
    · split
      · exact .next (barAccess_canonical h)
      · exact .next h
    · refine .next ?_
      split
      · exact h
      · exact modPart_canonical h

theorem modFn_canonical {s p f} (h : Canonical s) : Canonical (s.modFn p f) := by
  unfold State.modFn
  split
  · exact modPart_canonical h
  · exact h

theorem execLaunchQueueDoorbell_canonical {p tail s} (h : Canonical s) :
    OutCanonical (execLaunchQueueDoorbell p tail s) := .next (modFn_canonical h)

theorem execMessageQueueDoorbell_canonical {p tail s} (h : Canonical s) :
    OutCanonical (execMessageQueueDoorbell p tail s) := .next (modFn_canonical h)

theorem execResultQueueHeadWrite_canonical {p head s} (h : Canonical s) :
    OutCanonical (execResultQueueHeadWrite p head s) := by
  unfold execResultQueueHeadWrite
  refine .next ?_
  split
  · exact flushResults_canonical (modFn_canonical h)
  · exact h

theorem execQueueSizeWrite_canonical {p q size s} (h : Canonical s) :
    OutCanonical (execQueueSizeWrite p q size s) := by
  unfold execQueueSizeWrite
  dsimp only
  refine .next ?_
  split
  · exact flushResults_canonical (modFn_canonical h)
  · exact modFn_canonical h

theorem execIpendClear_canonical {p bits s} (h : Canonical s) : OutCanonical (execIpendClear p bits s) :=
  .next (modFn_canonical h)

theorem execImaskWrite_canonical {p bits s} (h : Canonical s) : OutCanonical (execImaskWrite p bits s) :=
  .next (modFn_canonical h)

theorem execQerrClear_canonical {p s} (h : Canonical s) : OutCanonical (execQerrClear p s) :=
  .next (modFn_canonical h)

theorem execRstreq_canonical {p s} (h : Canonical s) : OutCanonical (execRstreq p s) :=
  .next (requestReset_canonical h)

theorem execHostLaunchEntry_canonical {p s} (h : Canonical s) : OutCanonical (execHostLaunchEntry p s) := by
  unfold execHostLaunchEntry
  dsimp only
  split
  · exact .next (setPart_canonical h)
  · exact .next h

theorem execHostMessageEntry_canonical {p s} (h : Canonical s) : OutCanonical (execHostMessageEntry p s) := by
  unfold execHostMessageEntry
  dsimp only
  split
  · split
    · exact .next (owe_canonical (setPart_canonical h))
    · split
      · exact .next (owe_canonical (setPart_canonical h))
      · split
        · exact .next (owe_canonical (setPart_canonical h))
        · exact .next (depart_canonical (setPart_canonical h))
  · exact .next h

theorem writePeer_canonical {s p dev w value} (h : Canonical s) : Canonical (s.writePeer p dev w value) := by
  unfold State.writePeer
  dsimp only
  split
  · exact h
  · exact modPart_canonical h

theorem skipSamples_canonical {s} (h : Canonical s) : Canonical (s.skipSamples) := by
  unfold State.skipSamples
  dsimp only
  split <;> exact h

theorem execPartitionLive_canonical {p w0 s} (h : Canonical s) : OutCanonical (execPartitionLive p w0 s) := by
  unfold execPartitionLive
  dsimp only
  split
  · exact .next h
  · exact .next (scrub_canonical (modPart_canonical (skipSamples_canonical h)))

theorem loseDevice_canonical {s dev} (h : Canonical s) : Canonical (s.loseDevice dev) := by
  unfold State.loseDevice
  refine foldl_canonical (fun _ _ hs => ?_) ?_ _
  · split
    · exact requestReset_canonical (raise_canonical hs)
    · exact hs
  · exact h

theorem execPartitionEvent_canonical {dev s} (h : Canonical s) : OutCanonical (execPartitionEvent dev s) :=
  .next (loseDevice_canonical h)

theorem execPlaneChange_canonical {planes s} (h : Canonical s) : OutCanonical (execPlaneChange planes s) := by
  unfold execPlaneChange
  extract_lets live src s1
  have h1 : Canonical s1 := canonical_update h
  clear_value s1
  split
  · exact .next (foldl_canonical (fun _ _ => loseDevice_canonical) h1 _)
  · exact .next h1

theorem execFlitResend_canonical {_port s} (h : Canonical s) : OutCanonical (execFlitResend _port s) := .next h

/-! #### Machine/Debugger.lean -/

theorem modRing_canonical {s p d f} (h : Canonical s) : Canonical (s.modRing p d f) := modPart_canonical h

theorem execTraceRingControlWrite_canonical {p d w value s} (h : Canonical s) :
    OutCanonical (execTraceRingControlWrite p d w value s) := .next (modRing_canonical (skipSamples_canonical h))

theorem execTraceRingRdAdvance_canonical {p d rd s} (h : Canonical s) :
    OutCanonical (execTraceRingRdAdvance p d rd s) := .next (modRing_canonical h)

theorem modDebug_canonical {s p f} (h : Canonical s) : Canonical (s.modDebug p f) := modPart_canonical h

theorem haltWhere_canonical {s p f} (h : Canonical s) : Canonical (s.haltWhere p f) :=
  foldl_canonical (fun _ _ => halt_canonical) h _

theorem completeStop_canonical {s p} (h : Canonical s) : Canonical (s.completeStop p) := by
  unfold State.completeStop
  dsimp only
  split
  · exact modDebug_canonical (haltWhere_canonical h)
  · exact haltWhere_canonical h

theorem execStopComplete_canonical {p s} (h : Canonical s) : OutCanonical (execStopComplete p s) :=
  .next (completeStop_canonical h)

theorem resumeWhere_canonical {s p f} (h : Canonical s) : Canonical (s.resumeWhere p f) := by
  unfold State.resumeWhere
  dsimp only
  refine foldl_canonical (fun _ _ hs => ?_) ?_ _
  · split <;> exact modStrand_canonical hs
  · exact h

theorem resumeAll_canonical {s p} (h : Canonical s) : Canonical (s.resumeAll p) :=
  resumeWhere_canonical (setStops_canonical h)

theorem traceCommand_canonical {s p op cell slot} (h : Canonical s) : Canonical (s.traceCommand p op cell slot) :=
  traceOn_canonical h

theorem named_canonical {s p op cell slot} (h : Canonical s) : Canonical (s.named p op cell slot) :=
  modDebug_canonical h

theorem command_canonical {s p op cell slot target f} (h : Canonical s) (hf : ∀ s, Canonical s → Canonical (f s)) :
    Canonical (s.command p op cell slot target f) := by
  unfold State.command
  extract_lets d s1
  have h1 : Canonical s1 := named_canonical h
  clear_value s1
  split
  · exact modDebug_canonical h
  · split
    · exact modDebug_canonical h1
    · refine hf _ ?_
      split
      · exact traceCommand_canonical h1
      · exact h1

theorem answerCommand_canonical {s p res} (h : Canonical s) : Canonical (s.answerCommand p res) :=
  modDebug_canonical h

theorem applyStop_canonical {s p cells} (h : Canonical s) : Canonical (s.applyStop p cells) :=
  completeStop_canonical (modDebug_canonical (setStops_canonical h))

theorem onHalted_canonical {s p cell slot f} (h : Canonical s) (hf : ∀ a0, Canonical (f a0)) :
    Canonical (s.onHalted p cell slot f) := by
  unfold State.onHalted
  split
  · exact answerCommand_canonical h
  · split
    · exact hf _
    · exact answerCommand_canonical h

theorem opStopCell_canonical {s p cell slot} (h : Canonical s) : Canonical (s.opStopCell p cell slot) :=
  command_canonical h (fun _ => applyStop_canonical)

theorem opStopPartition_canonical {s p cell slot} (h : Canonical s) : Canonical (s.opStopPartition p cell slot) :=
  command_canonical h (fun _ => applyStop_canonical)

theorem opHarden_canonical {s p cell slot} (h : Canonical s) : Canonical (s.opHarden p cell slot) :=
  command_canonical h (fun _ hs => completeStop_canonical (modDebug_canonical hs))

theorem opResumeCell_canonical {s p cell slot} (h : Canonical s) : Canonical (s.opResumeCell p cell slot) := by
  unfold State.opResumeCell
  refine command_canonical h ?_
  intro _ hs
  refine answerCommand_canonical ?_
  refine resumeWhere_canonical ?_
  split
  · exact setStops_canonical hs
  · exact hs

theorem opResumePartition_canonical {s p cell slot} (h : Canonical s) : Canonical (s.opResumePartition p cell slot) :=
  command_canonical h (fun _ hs => answerCommand_canonical (resumeAll_canonical hs))

theorem opStep_canonical {s p cell slot} (h : Canonical s) : Canonical (s.opStep p cell slot) :=
  command_canonical h (fun _ hs => onHalted_canonical hs (fun _ => modDebug_canonical (modStrand_canonical hs)))

theorem opSave_canonical {s p cell slot} (h : Canonical s) : Canonical (s.opSave p cell slot) := by
  unfold State.opSave
  dsimp only
  refine command_canonical h ?_
  intro _ hs
  refine onHalted_canonical hs ?_
  intro _
  split
  · exact answerCommand_canonical (putFrame_canonical hs)
  · exact answerCommand_canonical hs

theorem opLoad_canonical {s p cell slot} (h : Canonical s) : Canonical (s.opLoad p cell slot) := by
  unfold State.opLoad
  dsimp only
  refine command_canonical h ?_
  intro _ hs
  refine onHalted_canonical hs ?_
  intro _
  split
  · split
    · exact answerCommand_canonical (meet_canonical hs)
    · split
      · exact answerCommand_canonical (meet_canonical hs)
      · exact answerCommand_canonical (modStrand_canonical (meet_canonical hs))
  · exact answerCommand_canonical hs

theorem execDebugStopCell_canonical {p cell s} (h : Canonical s) : OutCanonical (execDebugStopCell p cell s) :=
  .next (opStopCell_canonical h)

theorem execDebugStopPartition_canonical {p s} (h : Canonical s) : OutCanonical (execDebugStopPartition p s) :=
  .next (opStopPartition_canonical h)

theorem execDebugHardenStop_canonical {p cell s} (h : Canonical s) : OutCanonical (execDebugHardenStop p cell s) :=
  .next (opHarden_canonical h)

theorem execDebugResumeCell_canonical {p cell s} (h : Canonical s) : OutCanonical (execDebugResumeCell p cell s) :=
  .next (opResumeCell_canonical h)

theorem execDebugResumePartition_canonical {p s} (h : Canonical s) : OutCanonical (execDebugResumePartition p s) :=
  .next (opResumePartition_canonical h)

theorem execDebugStep_canonical {p cell slot s} (h : Canonical s) : OutCanonical (execDebugStep p cell slot s) :=
  .next (opStep_canonical h)

theorem execDebugContextSave_canonical {p cell slot s} (h : Canonical s) :
    OutCanonical (execDebugContextSave p cell slot s) := .next (opSave_canonical h)

theorem execDebugContextLoad_canonical {p cell slot s} (h : Canonical s) :
    OutCanonical (execDebugContextLoad p cell slot s) := .next (opLoad_canonical h)

theorem commandWrite_canonical {s p w0} (h : Canonical s) : Canonical (s.commandWrite p w0) := by
  unfold State.commandWrite
  dsimp only
  split
  · exact opStopCell_canonical h
  · exact opStopPartition_canonical h
  · exact opHarden_canonical h
  · exact opResumeCell_canonical h
  · exact opResumePartition_canonical h
  · exact opStep_canonical h
  · exact opSave_canonical h
  · exact opLoad_canonical h
  · split
    · exact modDebug_canonical h
    · exact modDebug_canonical (named_canonical h)

theorem execDebugControlWrite_canonical {p value s} (h : Canonical s) :
    OutCanonical (execDebugControlWrite p value s) := by
  unfold execDebugControlWrite
  dsimp only
  refine .next ?_
  split
  · refine resumeAll_canonical ?_
    split
    · exact modPart_canonical (modDebug_canonical h)
    · exact modDebug_canonical h
  · split
    · exact modPart_canonical (modDebug_canonical h)
    · exact modDebug_canonical h

theorem execReplayDivergence_canonical {p point s} (h : Canonical s) :
    OutCanonical (execReplayDivergence p point s) := by
  unfold execReplayDivergence
  dsimp only
  split
  · exact .next h
  · split
    · exact .next (traceOn_canonical (modPart_canonical h))
    · exact .next h

/-! #### Machine/Power.lean -/

theorem execPatrolScrub_canonical {a word s} (h : Canonical s) : OutCanonical (execPatrolScrub a word s) := by
  unfold execPatrolScrub
  split
  · split
    · exact .next (tileFind_canonical h)
    · exact .next (findError_canonical h)
  · exact .next h

theorem parityError_canonical {s cell k line} (h : Canonical s) : Canonical (s.parityError cell k line) := by
  unfold State.parityError
  split
  · exact modCell_canonical h
  · exact modCluster_canonical h

theorem execSoftError_canonical {a word dmask cmask s} (h : Canonical s) :
    OutCanonical (execSoftError a word dmask cmask s) := by
  unfold execSoftError
  dsimp only
  split
  · exact .next (parityError_canonical h)
  · exact .next (parityError_canonical h)
  · split <;> exact .next h

theorem execErrorLogEntryClear_canonical {a n s} (h : Canonical s) : OutCanonical (execErrorLogEntryClear a n s) :=
  .next (setArray_canonical h)

theorem execInjectionRegisterWrite_canonical {a w value s} (h : Canonical s) :
    OutCanonical (execInjectionRegisterWrite a w value s) := .next (setArray_canonical h)

theorem off_canonical {s boot} (h : Canonical s) : Canonical (s.off boot) := ⟨reset_canonical.1, h.2⟩

theorem execPowerOn_canonical {s} (h : Canonical s) : OutCanonical (execPowerOn s) := by
  unfold execPowerOn
  dsimp only
  split
  · exact .next (off_canonical h)
  · exact .next h

theorem execBootRestart_canonical {s} (h : Canonical s) : OutCanonical (execBootRestart s) := by
  unfold execBootRestart
  dsimp only
  split
  · exact .next (off_canonical h)
  · exact .next h

theorem execBootFailedStart_canonical {reason s} (h : Canonical s) : OutCanonical (execBootFailedStart reason s) := by
  unfold execBootFailedStart
  dsimp only
  split
  · split <;> exact .next (off_canonical h)
  · exact .next h

theorem bootStage_canonical {s} (h : Canonical s) : Canonical (s.bootStage) := by
  unfold State.bootStage
  extract_lets n
  split
  · exact ⟨rfl, h.2⟩
  · split
    · exact canonical_update (skipSamples_canonical h)
    · exact canonical_update h

theorem execIdentityChallenge_canonical {nonce s} (h : Canonical s) :
    OutCanonical (execIdentityChallenge nonce s) := by
  unfold execIdentityChallenge
  dsimp only
  split <;> exact .next h

theorem sample_canonical {s rail mA mV} (h : Canonical s) : Canonical (s.sample rail mA mV) := by
  unfold State.sample
  dsimp only
  split
  · refine foldl_canonical (fun _ _ hs => ?_) ?_ _
    · split
      · exact traceOn_canonical hs
      · exact hs
    · exact h
  · exact h

theorem execPowerSample_canonical {rail mA mV s} (h : Canonical s) : OutCanonical (execPowerSample rail mA mV s) :=
  .next (sample_canonical h)

theorem sampleFree_canonical {s rail} (h : Canonical s) : Canonical (s.sampleFree rail) := sample_canonical h

theorem execClusterUngate_canonical {cluster s} (h : Canonical s) : OutCanonical (execClusterUngate cluster s) := by
  unfold execClusterUngate
  split
  · exact .next (modCluster_canonical h)
  · exact .next h

theorem setClocks_canonical {s d used budget} (h : Canonical s) : Canonical (s.setClocks d used budget) := by
  unfold State.setClocks
  extract_lets ks change fast src s1 run first s2
  have hchange : ∀ s l up, Canonical s → Canonical (change s l up) :=
    fun _ l _ hs => foldl_canonical (fun _ _ => modCluster_canonical) hs l
  have h1 : Canonical s1 := canonical_update h
  have h2 : Canonical s2 := hchange _ _ _ h1
  split
  · split
    · exact hchange _ _ _ h
    · split
      · exact canonical_update h
      · exact hchange _ _ _ h
  · split
    · exact hchange _ _ _ h1
    · exact hchange _ _ _ h2

theorem gateClusters_canonical {s} (h : Canonical s) : Canonical (s.gateClusters) := by
  unfold State.gateClusters
  refine foldl_canonical (fun _ _ hs => ?_) ?_ _
  · split
    · refine foldl_canonical (fun _ _ hs1 => ?_) ?_ _
      · split
        · exact modCluster_canonical hs1
        · exact hs1
      · exact hs
    · exact hs
  · exact h

theorem execPowerManagerUpdate_canonical {mW s} (h : Canonical s) : OutCanonical (execPowerManagerUpdate mW s) := by
  unfold execPowerManagerUpdate
  dsimp only
  split
  · exact .next h
  · exact .next (foldl_canonical (fun _ _ => setClocks_canonical) (canonical_update (gateClusters_canonical h)) _)

theorem execClusterThermalThrottle_canonical {cluster celsius s} (h : Canonical s) :
    OutCanonical (execClusterThermalThrottle cluster celsius s) := by
  unfold execClusterThermalThrottle
  dsimp only
  refine .next ?_
  split
  · exact modCluster_canonical h
  · split
    · exact modCluster_canonical h
    · exact h

theorem execThermalShutdown_canonical {die celsius s} (h : Canonical s) :
    OutCanonical (execThermalShutdown die celsius s) := by
  unfold execThermalShutdown
  dsimp only
  split
  · exact .next (off_canonical h)
  · exact .next h

theorem writeDumpState_canonical {s p v} (h : Canonical s) : Canonical (s.writeDumpState p v) :=
  writeAt_canonical (meet_canonical h)

theorem execRegisterWrite_canonical {r value s} (h : Canonical s) : OutCanonical (execRegisterWrite r value s) := by
  unfold execRegisterWrite
  dsimp only
  split
  · exact .next h
  · split
    · exact .next (modFn_canonical h)
    · exact .next (modFn_canonical h)
    · split
      · exact execPartitionLive_canonical h
      · split
        · exact .next h
        · exact .next (modPart_canonical h)
    · exact .next (writePeer_canonical h)
    · exact .next h
    · exact .next (modPart_canonical h)
    · exact .next (modDebug_canonical h)
    · exact .next (commandWrite_canonical h)
    · exact .next (setArray_canonical h)
    · exact .next (modCell_canonical h)
    · exact .next (modRing_canonical h)
    · exact .next (modPart_canonical h)
    · exact .next (writeDumpState_canonical h)
    · refine .next ?_
      split <;> exact h

/-! #### Machine/Clock.lean -/

theorem countIdle_canonical {s p t1 l} (h : Canonical s) : Canonical (s.countIdle p t1 l) := by
  induction l generalizing s p t1 h with
  | nil => exact h
  | cons x l ih =>
    unfold State.countIdle
    dsimp only
    refine ih ?_
    split
    · exact modCluster_canonical h
    · exact h

theorem passTo_canonical {s t1} (h : Canonical s) : Canonical (s.passTo t1) := by
  unfold State.passTo
  dsimp only
  refine canonical_update ?_
  refine foldl_canonical (fun _ _ hs => ?_) ?_ _
  · split
    · exact countIdle_canonical hs
    · exact hs
  · exact h

theorem tick_canonical {s} (h : Canonical s) : Canonical (s.tick) := by
  unfold State.tick
  dsimp only
  refine passTo_canonical ?_
  split
  · exact bootStage_canonical h
  · exact h

theorem idle_canonical {s n} (h : Canonical s) : Canonical (s.idle n) := passTo_canonical h

theorem freshClk_canonical {s k last} (h : Canonical s) : Canonical (s.freshClk k last) := by
  unfold State.freshClk
  split
  · exact passTo_canonical h
  · exact h

/-! #### Machine/Dispatch.lean -/

theorem exec_canonical {s} (h : Canonical s) : ∀ i, OutCanonical (exec i s)
  | .nop => execNop_canonical h
  | .done => execDone_canonical h
  | .yield => execYield_canonical h
  | .jr .. => execJr_canonical h
  | .add .. => execAdd_canonical h
  | .sub .. => execSub_canonical h
  | .mul .. => execMul_canonical h
  | .and .. => execAnd_canonical h
  | .or .. => execOr_canonical h
  | .xor .. => execXor_canonical h
  | .shl .. => execShl_canonical h
  | .shr .. => execShr_canonical h
  | .sra .. => execSra_canonical h
  | .slt .. => execSlt_canonical h
  | .sltn .. => execSltn_canonical h
  | .seq .. => execSeq_canonical h
  | .min .. => execMin_canonical h
  | .max .. => execMax_canonical h
  | .sel .. => execSel_canonical h
  | .mov .. => execMov_canonical h
  | .li .. => execLi_canonical h
  | .lea .. => execLea_canonical h
  | .b .. => execB_canonical h
  | .bc .. => execBc_canonical h
  | .loop .. => execLoop_canonical h
  | .jal .. => execJal_canonical h
  | .bm .. => execBm_canonical h
  | .andn .. => execAndn_canonical h
  | .rotl .. => execRotl_canonical h
  | .mulh .. => execMulh_canonical h
  | .mulhn .. => execMulhn_canonical h
  | .div .. => execDiv_canonical h
  | .divn .. => execDivn_canonical h
  | .rem .. => execRem_canonical h
  | .remn .. => execRemn_canonical h
  | .minn .. => execMinn_canonical h
  | .maxn .. => execMaxn_canonical h
  | .clz .. => execClz_canonical h
  | .ctz .. => execCtz_canonical h
  | .popc .. => execPopc_canonical h
  | .bext .. => execBext_canonical h
  | .bins .. => execBins_canonical h
  | .fadd .. => execFadd_canonical h
  | .fsub .. => execFsub_canonical h
  | .fmul .. => execFmul_canonical h
  | .fma .. => execFma_canonical h
  | .fdiv .. => execFdiv_canonical h
  | .fsqrt .. => execFsqrt_canonical h
  | .fmin .. => execFmin_canonical h
  | .fmax .. => execFmax_canonical h
  | .fcmp .. => execFcmp_canonical h
  | .fcvt .. => execFcvt_canonical h
  | .fclass .. => execFclass_canonical h
  | .sget .. => execSget_canonical h
  | .sset .. => execSset_canonical h
  | .vsetvl .. => execVsetvl_canonical h
  | .vsetvli .. => execVsetvli_canonical h
  | .vadd .. => execVadd_canonical h
  | .vsub .. => execVsub_canonical h
  | .vmul .. => execVmul_canonical h
  | .vmulh .. => execVmulh_canonical h
  | .vmacc .. => execVmacc_canonical h
  | .vand .. => execVand_canonical h
  | .vor .. => execVor_canonical h
  | .vxor .. => execVxor_canonical h
  | .vshl .. => execVshl_canonical h
  | .vshr .. => execVshr_canonical h
  | .vsra .. => execVsra_canonical h
  | .vmin .. => execVmin_canonical h
  | .vmax .. => execVmax_canonical h
  | .vminn .. => execVminn_canonical h
  | .vmaxn .. => execVmaxn_canonical h
  | .vabs .. => execVabs_canonical h
  | .vnarrow .. => execVnarrow_canonical h
  | .vwiden .. => execVwiden_canonical h
  | .vfadd .. => execVfadd_canonical h
  | .vfsub .. => execVfsub_canonical h
  | .vfmul .. => execVfmul_canonical h
  | .vfma .. => execVfma_canonical h
  | .vfdiv .. => execVfdiv_canonical h
  | .vfmin .. => execVfmin_canonical h
  | .vfmax .. => execVfmax_canonical h
  | .vcmp .. => execVcmp_canonical h
  | .vfcmp .. => execVfcmp_canonical h
  | .vsel .. => execVsel_canonical h
  | .vmv .. => execVmv_canonical h
  | .vslide .. => execVslide_canonical h
  | .vperm .. => execVperm_canonical h
  | .vcompress .. => execVcompress_canonical h
  | .vredsum .. => execVredsum_canonical h
  | .vredmax .. => execVredmax_canonical h
  | .vredmin .. => execVredmin_canonical h
  | .vdotx .. => execVdotx_canonical h
  | .vdeq .. => execVdeq_canonical h
  | .vprune4 .. => execVprune4_canonical h
  | .mand .. => execMand_canonical h
  | .mor .. => execMor_canonical h
  | .mxor .. => execMxor_canonical h
  | .mset .. => execMset_canonical h
  | .vexp2 .. => execVexp2_canonical h
  | .vlog2 .. => execVlog2_canonical h
  | .vrcp .. => execVrcp_canonical h
  | .vrsq .. => execVrsq_canonical h
  | .vsigm .. => execVsigm_canonical h
  | .vtanh .. => execVtanh_canonical h
  | .vcvt .. => execVcvt_canonical h
  | .mnot .. => execMnot_canonical h
  | .mpop .. => execMpop_canonical h
  | .mfirst .. => execMfirst_canonical h
  | .vrep .. => execVrep_canonical h
  | .vld .. => execVld_canonical h
  | .vlds .. => execVlds_canonical h
  | .vldx .. => execVldx_canonical h
  | .vldff .. => execVldff_canonical h
  | .vst .. => execVst_canonical h
  | .vsts .. => execVsts_canonical h
  | .vstx .. => execVstx_canonical h
  | .mma .. => execMma_canonical h
  | .mmas .. => execMmas_canonical h
  | .mmac .. => execMmac_canonical h
  | .trd .. => execTrd_canonical h
  | .twr .. => execTwr_canonical h
  | .tgate .. => execTgate_canonical h
  | .tscan .. => execTscan_canonical h
  | .tcvt .. => execTcvt_canonical h
  | .tst .. => execTst_canonical h
  | .tld .. => execTld_canonical h
  | .tzero .. => execTzero_canonical h
  | .twait .. => execTwait_canonical h
  | .ld .. => execLd_canonical h
  | .st .. => execSt_canonical h
  | .ldc .. => execLdc_canonical h
  | .aadd .. => execAadd_canonical h
  | .aand .. => execAand_canonical h
  | .aor .. => execAor_canonical h
  | .axor .. => execAxor_canonical h
  | .amin .. => execAmin_canonical h
  | .amax .. => execAmax_canonical h
  | .axchg .. => execAxchg_canonical h
  | .acas .. => execAcas_canonical h
  | .incw .. => execIncw_canonical h
  | .bfadd .. => execBfadd_canonical h
  | .xred .. => execXred_canonical h
  | .xrd .. => execXrd_canonical h
  | .enq .. => execEnq_canonical h
  | .deq .. => execDeq_canonical h
  | .barm .. => execBarm_canonical h
  | .bput .. => execBput_canonical h
  | .btake .. => execBtake_canonical h
  | .cpy .. => execCpy_canonical h
  | .cpyb .. => execCpyb_canonical h
  | .gath .. => execGath_canonical h
  | .route .. => execRoute_canonical h
  | .inv .. => execInv_canonical h
  | .fence .. => execFence_canonical h
  | .send .. => execSend_canonical h
  | .sendn .. => execSendn_canonical h
  | .mcast .. => execMcast_canonical h
  | .spawn .. => execSpawn_canonical h
  | .migrate .. => execMigrate_canonical h
  | .sleep .. => execSleep_canonical h
  | .tsub .. => execTsub_canonical h
  | .evsig .. => execEvsig_canonical h
  | .evwait .. => execEvwait_canonical h
  | .launch .. => execLaunch_canonical h
  | .rand .. => execRand_canonical h
  | .claim .. => execClaim_canonical h
  | .tlbinv .. => execTlbinv_canonical h
  | .tmark .. => execTmark_canonical h
  | .wdog .. => execWdog_canonical h
  | .trap .. => execTrap_canonical h
  | .sysc .. => execSysc_canonical h
  | .eret => execEret_canonical h
  | .bkpt => execBkpt_canonical h
  | .swld .. => execSwld_canonical h
  | .swst .. => execSwst_canonical h
  | .swadd .. => execSwadd_canonical h
  | .swlaw .. => execSwlaw_canonical h
  | .step .. => execStep_canonical h
  | .swsweep .. => execSwsweep_canonical h
  | .knew .. => execKnew_canonical h
  | .kenrol .. => execKenrol_canonical h
  | .kfree .. => execKfree_canonical h
  | .kread .. => execKread_canonical h
  | .ksettle .. => execKsettle_canonical h
  | .kmove .. => execKmove_canonical h
  | .pjoin .. => execPjoin_canonical h
  | .resample .. => execResample_canonical h
  | .messageDeparture .. => execMessageDeparture_canonical h
  | .messageArrival .. => execMessageArrival_canonical h
  | .activationStart .. => execActivationStart_canonical h
  | .handler0Delivery .. => execHandler0Delivery_canonical h
  | .accessPerform .. => execAccessPerform_canonical h
  | .accessReply .. => execAccessReply_canonical h
  | .closeNotice .. => execCloseNotice_canonical h
  | .rollupIncrement .. => execRollupIncrement_canonical h
  | .strandWake .. => execStrandWake_canonical h
  | .sleepTimeout .. => execSleepTimeout_canonical h
  | .syscReply .. => execSyscReply_canonical h
  | .tlbinvComplete .. => execTlbinvComplete_canonical h
  | .engineAcceptCommand .. => execEngineAcceptCommand_canonical h
  | .copyPlain .. => execCopyPlain_canonical h
  | .copyEncode .. => execCopyEncode_canonical h
  | .copyDecode .. => execCopyDecode_canonical h
  | .q4gUnpack .. => execQ4gUnpack_canonical h
  | .gather .. => execGather_canonical h
  | .routeAssign .. => execRouteAssign_canonical h
  | .engineCredit .. => execEngineCredit_canonical h
  | .completionEntryPush .. => execCompletionEntryPush_canonical h
  | .tileCommandExecute .. => execTileCommandExecute_canonical h
  | .taskReady .. => execTaskReady_canonical h
  | .taskDispatch .. => execTaskDispatch_canonical h
  | .stealAttempt .. => execStealAttempt_canonical h
  | .launchAccept .. => execLaunchAccept_canonical h
  | .launchPlacement .. => execLaunchPlacement_canonical h
  | .placementStep .. => execPlacementStep_canonical h
  | .wakeMessage .. => execWakeMessage_canonical h
  | .residentStrandStart .. => execResidentStrandStart_canonical h
  | .strandSpill .. => execStrandSpill_canonical h
  | .contextRestore .. => execContextRestore_canonical h
  | .launchRestore .. => execLaunchRestore_canonical h
  | .launchEnd .. => execLaunchEnd_canonical h
  | .migrateArrival .. => execMigrateArrival_canonical h
  | .sidingForward .. => execSidingForward_canonical h
  | .resampleCollective .. => execResampleCollective_canonical h
  | .clonePlacement .. => execClonePlacement_canonical h
  | .sweepPass .. => execSweepPass_canonical h
  | .sweepEvolution .. => execSweepEvolution_canonical h
  | .strandWatchdogExpiry .. => execStrandWatchdogExpiry_canonical h
  | .partitionWatchdogExpiry .. => execPartitionWatchdogExpiry_canonical h
  | .translationMiss .. => execTranslationMiss_canonical h
  | .translationFaultAnswer .. => execTranslationFaultAnswer_canonical h
  | .fatalFaultStop .. => execFatalFaultStop_canonical h
  | .dumpWrite .. => execDumpWrite_canonical h
  | .teardownPoint .. => execTeardownPoint_canonical h
  | .domainRelease .. => execDomainRelease_canonical h
  | .partitionReset .. => execPartitionReset_canonical h
  | .hostLaunchEntry .. => execHostLaunchEntry_canonical h
  | .hostMessageEntry .. => execHostMessageEntry_canonical h
  | .clusterUngate .. => execClusterUngate_canonical h
  | .stopComplete .. => execStopComplete_canonical h
  | .replayDivergence .. => execReplayDivergence_canonical h
  | .sequencerExecute .. => execSequencerExecute_canonical h
  | .translationWalk .. => execTranslationWalk_canonical h
  | .hostBar2Access .. => execHostBar2Access_canonical h
  | .launchQueueDoorbell .. => execLaunchQueueDoorbell_canonical h
  | .messageQueueDoorbell .. => execMessageQueueDoorbell_canonical h
  | .resultQueueHeadWrite .. => execResultQueueHeadWrite_canonical h
  | .queueSizeWrite .. => execQueueSizeWrite_canonical h
  | .ipendClear .. => execIpendClear_canonical h
  | .imaskWrite .. => execImaskWrite_canonical h
  | .qerrClear .. => execQerrClear_canonical h
  | .rstreq .. => execRstreq_canonical h
  | .partitionLive .. => execPartitionLive_canonical h
  | .powerOn => execPowerOn_canonical h
  | .bootFailedStart .. => execBootFailedStart_canonical h
  | .bootRestart => execBootRestart_canonical h
  | .identityChallenge .. => execIdentityChallenge_canonical h
  | .powerSample .. => execPowerSample_canonical h
  | .powerManagerUpdate .. => execPowerManagerUpdate_canonical h
  | .clusterThermalThrottle .. => execClusterThermalThrottle_canonical h
  | .thermalShutdown .. => execThermalShutdown_canonical h
  | .patrolScrub .. => execPatrolScrub_canonical h
  | .errorLogEntryClear .. => execErrorLogEntryClear_canonical h
  | .injectionRegisterWrite .. => execInjectionRegisterWrite_canonical h
  | .traceRingControlWrite .. => execTraceRingControlWrite_canonical h
  | .traceRingRdAdvance .. => execTraceRingRdAdvance_canonical h
  | .debugControlWrite .. => execDebugControlWrite_canonical h
  | .debugStopCell .. => execDebugStopCell_canonical h
  | .debugStopPartition .. => execDebugStopPartition_canonical h
  | .debugHardenStop .. => execDebugHardenStop_canonical h
  | .debugResumeCell .. => execDebugResumeCell_canonical h
  | .debugResumePartition .. => execDebugResumePartition_canonical h
  | .debugStep .. => execDebugStep_canonical h
  | .debugContextSave .. => execDebugContextSave_canonical h
  | .debugContextLoad .. => execDebugContextLoad_canonical h
  | .registerWrite .. => execRegisterWrite_canonical h
  | .ldcLineEviction .. => execLdcLineEviction_canonical h
  | .softError .. => execSoftError_canonical h
  | .partitionEvent .. => execPartitionEvent_canonical h
  | .planeChange .. => execPlaneChange_canonical h
  | .flitResend port => @execFlitResend_canonical port s h
  | .macroOpStep .. => execMacroOpStep_canonical h
  | .illegalEncoding .. => execIllegalEncoding_canonical h
  | .pleave => execPleave_canonical h

/-! #### Machine/Schedule.lean -/

theorem issue_canonical {s} (h : Canonical s) : OutCanonical (s.issue) := by
  unfold State.issue
  dsimp only
  split
  · exact .next (settle_canonical h (resumeLoop_keeps h))
  · split
    · next hr => exact .next (stop_canonical h ((fetchAt_keeps h).error _ hr))
    · next hr => exact exec_canonical (canonical_update ((fetchAt_keeps h).ok _ hr)) _
    · next hr => exact execIllegalEncoding_canonical ((fetchAt_keeps h).ok _ hr)
    · next hr => exact execIllegalEncoding_canonical ((fetchAt_keeps h).ok _ hr)

theorem issued_canonical {s resumed} (h : Canonical s) : Canonical (s.issued resumed) := by
  unfold State.issued
  dsimp only
  split
  · split
    · exact h
    · split
      · exact canonical_update (pullBack_canonical h)
      · exact h
  · exact h
  · exact h
  · exact h
  · exact h

theorem markIssue_canonical {s cell slot} (h : Canonical s) : Canonical (s.markIssue cell slot) := modCell_canonical h

theorem afterIssue_canonical {cell slot resumed x} (h : OutCanonical x) :
    OutCanonical (afterIssue cell slot resumed x) := by
  unfold afterIssue
  split
  · exact .next (markIssue_canonical (issued_canonical (h.of_next _ rfl)))
  · exact h

theorem runFocus_canonical {s} (h : Canonical s) : OutCanonical (s.runFocus) := by
  unfold State.runFocus
  dsimp only
  split
  · exact afterIssue_canonical (issue_canonical h)
  · split
    · exact afterIssue_canonical (issue_canonical (hit_canonical h))
    · exact .next (canonical_update (pullBack_canonical (hit_canonical h)))

theorem issueTurn_canonical {s cell slot} (h : Canonical s) : OutCanonical (s.issueTurn cell slot) := by
  unfold State.issueTurn
  dsimp only
  split
  · exact .next h
  · split
    · exact runFocus_canonical (focus_canonical (freshClk_canonical h))
    · exact .next (focus_canonical (freshClk_canonical h))

theorem afterSequencer_canonical {cell x} (h : OutCanonical x) : OutCanonical (afterSequencer cell x) := by
  unfold afterSequencer
  split
  · exact .next (markSequencer_canonical (h.of_next _ rfl))
  · exact h

theorem event_canonical {s i} (h : Canonical s) : OutCanonical (s.event i) := by
  unfold State.event
  split
  · exact afterSequencer_canonical (exec_canonical (freshClk_canonical h) _)
  · split
    · exact exec_canonical h _
    · exact .next h

theorem idleTurn_canonical {s n r} (h : Canonical s) : Canonical (s.idleTurn n r) := by
  unfold State.idleTurn
  split
  · exact sampleFree_canonical h
  · split <;> exact idle_canonical h

theorem ownTurn_canonical {s} (h : Canonical s) : OutCanonical (s.ownTurn) := by
  unfold State.ownTurn
  split
  · exact .next (sampleFree_canonical h)
  · split
    · exact event_canonical h
    · split
      · exact runFocus_canonical (focus_canonical h)
      · exact .next (tick_canonical h)

theorem turn_canonical {s} (h : Canonical s) : OutCanonical (s.turn) := by
  unfold State.turn
  split
  · exact issueTurn_canonical h
  · exact event_canonical h
  · exact .next (idleTurn_canonical h)
  · exact .next h
  · exact .next (favour_canonical h)
  · exact ownTurn_canonical h

theorem react_canonical {s} (h : Canonical s) : Canonical (s.react) := latchAnswers_canonical (serveAll_canonical h)

theorem afterTurn_canonical {x} (h : OutCanonical x) : OutCanonical (afterTurn x) := by
  unfold afterTurn
  split
  · exact .next (react_canonical (h.of_next _ rfl))
  · exact h

/-! #### Machine/Step.lean -/

theorem step_canonical {s} (h : Canonical s) : OutCanonical (step s) := afterTurn_canonical (turn_canonical h)

/-- Settles O60: every function that a turn of the machine calls keeps memory canonical, up to `step` itself. -/
theorem stepKeepsMemoryCanonical : Obligations.StepKeepsMemoryCanonical := by
  unfold Obligations.StepKeepsMemoryCanonical
  intro s s' h hstep
  exact (step_canonical h).of_next s' hstep

end Sys2Proof.Proofs
end

section
namespace Sys2Proof.Proofs
open Sys2Proof Sys2Proof.Machine Sys2Proof.Safety Sys2Proof.Laws

/-! ### Rules of the scalar stream (O7, O8, O11) -/

theorem noLoop_ok {t : Strand} (h : t.loop.active = false) : noLoop t = .ok () := by simp [noLoop, h]

theorem noHazard_ok {i : Instr} {s : State} (h : hazard i s = false) : noHazard i s = .ok () := by simp [noHazard, h]

theorem noMisuse_ok {m : Option Nat} (h : m = none) : noMisuse m = .ok () := by simp [noMisuse, h]

/-- An instruction of the shape `scalarRun` that is ready, and whose result reports no status, writes its result. -/
theorem writes_of_scalarRun {i : Instr} {s : State} {d : SReg} {rd : Bool} {a b : Opnd} {fa fb fd : Option Fmt}
    {x y z : Src} {t : Strand} {g : Src → Src → Src → Res} (ready : ScalarReady i s d rd a b fa fb fd x y z t)
    (hexec : exec i s = .next (s.settle (scalarRun i s d rd a b fa fb fd g))) (hstatus : (g x y z).status = none) :
    Writes i s t d (g x y z).val (g x y z).tag := by
  obtain ⟨t', hput, hrun⟩ := scalarRun_ok ready g
  rw [hstatus] at hrun
  exact ⟨t', hput, by rw [hexec, hrun]; rfl⟩

/-- Settles O7: `nop` and `yield` by their meanings, `sget` by the shape of a ready scalar instruction, `sset` and `wdog` by
running their checks. -/
theorem controlState : Obligations.ControlState := by
  unfold Obligations.ControlState
  intro s t d a x z
  refine ⟨rfl, rfl, fun sel v hsel ready => ?_, fun sel hloop hfree hlegal hread hclean => ?_,
    fun hloop hfree hlegal hroom hput => ?_⟩
  · have hv : v = readSel s.st sel := by
      simp only [List.mem_cons, Prod.mk.injEq, List.not_mem_nil, or_false] at hsel
      rcases hsel with ⟨rfl, rfl⟩ | ⟨rfl, rfl⟩ | ⟨rfl, rfl⟩ | ⟨rfl, rfl⟩ <;> rfl
    subst hv
    exact writes_of_scalarRun ready (g := fun _ _ _ => ⟨readSel s.st sel, .raw, none⟩) rfl rfl
  · have hkeep : (BitVec.allOnes 40 <<< 1 : BitVec 40) = ~~~1 := by decide
    have hexec : exec (.sset sel a) s = .next (s.done (writeSel t sel x.val)) := by
      simp [exec, execSset, noLoop_ok hloop, noHazard_ok hfree, noMisuse_ok hlegal, hread, poisonCheck_ok hclean,
        bind, Except.bind]
    rw [hexec, hkeep]
    cases sel <;> rfl
  · simp [exec, execWdog, noLoop_ok hloop, noHazard_ok hfree, noMisuse_ok hlegal, hroom, hput, bind, Except.bind]

end Sys2Proof.Proofs
end

section
namespace Sys2Proof.Proofs
open Sys2Proof Sys2Proof.Machine Sys2Proof.Safety Sys2Proof.Laws

/-! ### Reading and writing scalar registers (O8) -/

section
variable {t : Strand} {n : Fin 32} {v : Word} {tag : Fmt}

theorem setG_gtag (j : Fin 32) : (t.setG n v tag).gtag.get j = if n ≠ 0 ∧ j = n then tag else t.gtag.get j := by
  by_cases h : n = 0
  · subst h; simp [Strand.setG]
  · have hn : n.val ≠ 0 := fun e => h (Fin.ext e)
    simp only [Strand.setG, hn, if_false, ne_eq, h, not_false_eq_true, true_and]
    change (t.gtag.set n.val tag)[j.val] = if j = n then tag else t.gtag[j.val]
    rw [Vector.getElem_set]
    simp only [Fin.ext_iff, eq_comm]

/-- A register written loses its poison mark; the other marks stay. -/
theorem setG_gpois (h : n ≠ 0) (j : Fin 32) :
    (t.setG n v tag).gpois.getLsbD j.val = (decide (j ≠ n) && t.gpois.getLsbD j.val) := by
  have hn : n.val ≠ 0 := fun e => h (Fin.ext e)
  have hbit : (BitVec.ofNat 32 (2 ^ n.val)).getLsbD j.val = decide (j = n) := by
    have hj := j.isLt
    rw [BitVec.getLsbD_ofNat, Nat.testBit_two_pow]
    simp [hj, Fin.ext_iff, eq_comm]
  simp only [Strand.setG, hn, if_false, BitVec.getLsbD_and, BitVec.getLsbD_not, hbit]
  have hj := j.isLt
  by_cases he : j = n <;> simp [he, hj]

/-- Writing a general register touches its value, tag and mark alone. -/
theorem setG_rest : { t.setG n v tag with g := t.g, gtag := t.gtag, gpois := t.gpois } = t := by
  unfold Strand.setG
  split <;> rfl

end

/-- Settles O8: the cases of `putReg` and `takeReg`, with the three facts above about `Strand.setG`. -/
theorem scalarRegisters : Obligations.ScalarRegisters := by
  unfold Obligations.ScalarRegisters
  intro s t v tag n q hq e es c cs
  refine ⟨rfl, fun hn => ⟨t.setG n v tag, rfl, ?_, ?_, ?_, fun k hk => ⟨?_, ?_, ?_⟩, setG_rest⟩, fun hroom => ?_, fun hhead => ?_,
    fun hempty => ?_, fun hhead => ?_⟩
  · simp [setG_g, hn]
  · simp [setG_gtag, hn]
  · rw [setG_gpois hn]; simp
  · simp [setG_g, hk]
  · simp [setG_gtag, hk]
  · rw [setG_gpois hn]; simp [hk]
  · simp [putReg, hq, hroom]
  · simp [takeReg, hq, hhead, show q.val ≠ 15 by omega]
  · simp [takeReg, hq, hempty, show q.val ≠ 15 by omega]
  · simp [takeReg, hhead]

/-! ### What taking a fault changes (O9) -/

/-- A fault outside a handler, with a handler to go to, enters the handler (R319). -/
theorem takeFault_trap {s : State} (h : s.st.trapv ≠ 0) (h' : s.st.handler = false) (cause : Nat) (pc : BitVec 40) (addr : Word) :
    s.takeFault cause pc addr = { s with st := { s.st with
      fcause := BitVec.ofNat 16 cause, fpc := pc, faddr := addr, handler := true, pc := s.st.trapv, bpDone := false, top := none
      status := if s.st.stepping then .halted else s.st.status, stepping := false } } := by
  have hlive : ¬(s.st.trapv = 0 ∨ s.st.handler = true) := by rw [h']; simpa using h
  rw [State.takeFault, if_neg hlive]

/-- The first fatal fault of a domain opens its end (R323). -/
theorem fatal_ends_new {x : Part} {fdom : Nat} (h : ∀ e ∈ x.ends, e.fdom ≠ fdom) (launch cell slot uid cause : Nat) (pc : BitVec 40)
    (addr : Word) (now : Nat) : (x.fatal fdom launch cell slot uid cause pc addr now).ends =
      x.ends ++ [⟨fdom, launch, cause, cell, slot, pc.toNat, addr, now, uid, 0, false, true, []⟩] := by
  have hany : (x.ends.any fun e => e.fdom == fdom) = false := by simpa using h
  simp [Part.fatal, hany]

/-- A later fatal fault of a domain is a secondary record of its end, until the dump is complete (R326). -/
theorem fatal_ends_later {x : Part} {fdom : Nat} (h : ∃ e ∈ x.ends, e.fdom = fdom) (launch cell slot uid cause : Nat) (pc : BitVec 40)
    (addr : Word) (now : Nat) : (x.fatal fdom launch cell slot uid cause pc addr now).ends = x.ends.map fun e =>
      if e.fdom = fdom ∧ e.phase < 2 then
        { e with secondary := e.secondary ++ [faultWords fdom launch cause cell slot pc.toNat addr now] }
      else e := by
  have hany : (x.ends.any fun e => e.fdom == fdom) = true := by simpa using h
  simp [Part.fatal, hany]

/-- A walk joined or started is listed, for the page and the address space asked for. -/
theorem startWalk_listed (s : State) (die p asid va acc : Nat) (eng : Bool) (cell slot : Nat) :
    ∃ k ∈ (s.startWalk die p asid va acc eng cell slot).2.walks, k.id = (s.startWalk die p asid va acc eng cell slot).1 ∧
      k.page = va / 65536 ∧ k.asid = asid ∧ k.die = die := by
  unfold State.startWalk
  split
  · next w hw =>
    have hkeys := List.find?_some hw
    simp only [Bool.and_eq_true, beq_iff_eq] at hkeys
    obtain ⟨⟨⟨hdie, hasid⟩, hpage⟩, -⟩ := hkeys
    exact ⟨w, List.mem_of_find?_eq_some hw, rfl, hpage, hasid, hdie⟩
  · exact ⟨_, List.mem_append_right _ (List.mem_singleton_self _), rfl, rfl, rfl, rfl⟩

/-- Settles O9: a fault that is not fatal by the definition; a fatal one by `takeFault_fatal` and what it does to the ends of
domains; the stops by the frame of a walk that starts. -/
theorem takingAFault : Obligations.TakingAFault := by
  unfold Obligations.TakingAFault
  refine ⟨fun s cause pc addr h h' => takeFault_trap h h' cause pc addr, fun s cause pc addr l hfatal hl => ?_,
    fun s w va acc => ⟨rfl, ?_⟩⟩
  · have hl' : (s.part s.st.part).launch? s.st.launch = some l := hl
    have hstate : s.takeFault cause pc addr = State.setPart { s with st := { s.st with
        status := .stopped, stepping := false, top := none, fcause := BitVec.ofNat 16 cause, fpc := pc, faddr := addr } } s.st.part
        ((s.part s.st.part).fatal l.eff.fdom s.st.launch s.st.cell s.st.slot s.st.uid cause pc addr s.now) := by
      rw [takeFault_fatal s cause pc addr hfatal]
      simp only [State.fatal, State.part] at hl' ⊢
      rw [hl']
    rw [hstate]
    refine ⟨rfl, rfl, rfl, rfl, fun hnew => ?_, fun hold => ?_⟩
    · rw [part_setPart]
      exact ⟨_, fatal_ends_new hnew .., rfl, rfl, rfl, rfl⟩
    · rw [part_setPart]
      exact fatal_ends_later hold ..
  · obtain ⟨ws, n, hframe⟩ := startWalk_frame s (dieOf s.st.cell) s.st.part s.st.asid va acc false s.st.cell s.st.slot
    refine ⟨(s.startWalk (dieOf s.st.cell) s.st.part s.st.asid va acc false s.st.cell s.st.slot).1, ?_, ?_, ?_, ?_,
      startWalk_listed s ..⟩ <;> simp only [State.stop, hframe]

end Sys2Proof.Proofs
end

section
namespace Sys2Proof.Proofs
open Sys2Proof Sys2Proof.Machine Sys2Proof.Safety Sys2Proof.Laws

/-! ### The frame of the register-only instructions (O11) -/

/-- From `t` to `t'` nothing of the strand changed but queues, the PC, and, of the general registers, the destination. -/
structure Touched (t t' : Strand) (d : Option SReg) : Prop where
  regs : ∀ n : Fin 32, d ≠ some (.g n) → t'.g.get n = t.g.get n ∧ t'.gtag.get n = t.gtag.get n
  rest : ∃ g gtag gpois q q15 qpos pc, t' = { t with
    g := g, gtag := gtag, gpois := gpois, q := q, q15 := q15, qpos := qpos, pc := pc }

section
variable {s s' : State} {t t' t'' : Strand} {d : Option SReg} {x : Src}

theorem Touched.refl (t : Strand) (d : Option SReg) : Touched t t d := ⟨fun _ _ => ⟨rfl, rfl⟩, _, _, _, _, _, _, _, rfl⟩

theorem Touched.trans (h : Touched t t' d) (h' : Touched t' t'' d) : Touched t t'' d := by
  obtain ⟨hregs, _, _, _, _, _, _, _, rfl⟩ := h
  obtain ⟨hregs', _, _, _, _, _, _, _, rfl⟩ := h'
  exact ⟨fun n hn => ⟨(hregs' n hn).1.trans (hregs n hn).1, (hregs' n hn).2.trans (hregs n hn).2⟩, _, _, _, _, _, _, _, rfl⟩

theorem Touched.goTo (h : Touched t t' d) (pc : BitVec 40) : Touched t { t' with pc := pc } d := by
  obtain ⟨hregs, _, _, _, _, _, _, _, rfl⟩ := h
  exact ⟨hregs, _, _, _, _, _, _, _, rfl⟩

theorem Touched.control (h : Touched t t' d) : t'.trapv = t.trapv ∧ t'.wdog = t.wdog ∧ t'.rmode = t.rmode ∧ t'.uab = t.uab ∧
    t'.wleft = t.wleft ∧ t'.rstat = t.rstat := by
  obtain ⟨_, _, _, _, _, _, _, _, rfl⟩ := h
  exact ⟨rfl, rfl, rfl, rfl, rfl, rfl⟩

theorem takeReg_touched {r : SReg} (h : takeReg s t r = .ok (x, t')) : Touched t t' d := by
  rcases takeReg_cases s h with rfl | ⟨_, rfl⟩ | ⟨_, _, rfl⟩ <;> exact ⟨fun _ _ => ⟨rfl, rfl⟩, _, _, _, _, _, _, _, rfl⟩

theorem takeOp_touched {b : Opnd} (h : takeOp s t b = .ok (x, t')) : Touched t t' d := by
  obtain ⟨_, _, _, rfl⟩ := takeOp_frame s h
  exact ⟨fun _ _ => ⟨rfl, rfl⟩, _, _, _, _, _, _, _, rfl⟩

theorem takeBase_touched {b : Base} (h : takeBase s t b = .ok (x, t')) : Touched t t' d := by
  cases b with
  | reg r => exact takeReg_touched h
  | pc => cases h; exact Touched.refl ..

theorem setG_touched (n : Fin 32) (v : Word) (k : Fmt) : Touched t (t.setG n v k) (some (.g n)) := by
  refine ⟨fun j hj => ?_, ?_⟩
  · have hne : j ≠ n := fun e => hj (by rw [e])
    simp [setG_g, setG_gtag, hne]
  · unfold Strand.setG
    split <;> exact ⟨_, _, _, _, _, _, _, rfl⟩

theorem putReg_touched {r : SReg} {v : Word} {k : Fmt} (h : putReg t r v k = .ok t') : Touched t t' (some r) := by
  rcases putReg_cases h with ⟨n, rfl, rfl⟩ | ⟨_, rfl, rfl⟩ | ⟨n, _, rfl, rfl⟩
  · exact setG_touched ..
  · exact Touched.refl ..
  · exact ⟨fun _ _ => ⟨rfl, rfl⟩, _, _, _, _, _, _, _, rfl⟩

end

/-- The tag check of an operand whose format the instruction may or may not name. -/
def formatCheck (f : Option Fmt) (x : Src) : Run Unit :=
  match f with
  | some k => tagCheck k x
  | none => .ok ()

/-- The read of the old destination, where the instruction makes one. -/
def readOld (reads : Bool) (s : State) (t : Strand) (d : SReg) : Run (Src × Strand) :=
  if reads then takeReg s t d else .ok (Src.zero, t)

/-- The shape of a scalar instruction as one chain of steps (R102, R317). -/
theorem scalarRun_eq (i : Instr) (s : State) (d : SReg) (rd : Bool) (a b : Opnd) (fa fb fd : Option Fmt)
    (f : Src → Src → Src → Res) : scalarRun i s d rd a b fa fb fd f = (do
      noHazard i s
      noMisuse (opMisuse a)
      noMisuse (opMisuse b)
      noMisuse (if rd then misuseRead d else none)
      noMisuse (misuseWrite d)
      let (x, t) ← takeOp s s.st a
      let (y, t) ← takeOp s t b
      let (z, t) ← readOld rd s t d
      hasRoom t d
      formatCheck fa x
      formatCheck fb y
      formatCheck fd z
      poisonCheck x
      poisonCheck y
      poisonCheck z
      let t ← putReg t d (f x y z).val (f x y z).tag
      .ok (s.done (match (f x y z).status with
        | some n => t.status? n
        | none => t))) := by
  cases rd <;> cases fa <;> cases fb <;> cases fd <;> rfl

theorem readOld_touched {s : State} {rd : Bool} {t t' : Strand} {r : SReg} {d : Option SReg} {x : Src}
    (h : readOld rd s t r = .ok (x, t')) : Touched t t' d := by
  cases rd with
  | true => exact takeReg_touched h
  | false => cases h; exact Touched.refl ..

/-- What a scalar instruction that completes leaves: the strand with its queues popped and its destination written, and
`ret.status` if the result reports one. -/
theorem scalarRun_touched {i : Instr} {s s' : State} {d : SReg} {rd : Bool} {a b : Opnd} {fa fb fd : Option Fmt}
    {f : Src → Src → Src → Res} (h : scalarRun i s d rd a b fa fb fd f = .ok s') :
    ∃ t x y z, Touched s.st t (some d) ∧ s' = s.done (match (f x y z).status with
      | some n => t.status? n
      | none => t) := by
  rw [scalarRun_eq] at h
  obtain ⟨-, -, h⟩ := bind_ok h
  obtain ⟨-, -, h⟩ := bind_ok h
  obtain ⟨-, -, h⟩ := bind_ok h
  obtain ⟨-, -, h⟩ := bind_ok h
  obtain ⟨-, -, h⟩ := bind_ok h
  obtain ⟨⟨x, t1⟩, hx, h⟩ := bind_ok h
  obtain ⟨⟨y, t2⟩, hy, h⟩ := bind_ok h
  obtain ⟨⟨z, t3⟩, hz, h⟩ := bind_ok h
  obtain ⟨-, -, h⟩ := bind_ok h
  obtain ⟨-, -, h⟩ := bind_ok h
  obtain ⟨-, -, h⟩ := bind_ok h
  obtain ⟨-, -, h⟩ := bind_ok h
  obtain ⟨-, -, h⟩ := bind_ok h
  obtain ⟨-, -, h⟩ := bind_ok h
  obtain ⟨-, -, h⟩ := bind_ok h
  obtain ⟨t4, ht, h⟩ := bind_ok h
  cases h
  exact ⟨t4, x, y, z, (((takeOp_touched hx).trans (takeOp_touched hy)).trans (readOld_touched hz)).trans (putReg_touched ht), rfl⟩

/-- What a register-only instruction leaves (O11): the strand's registers as `Touched` has them; the control state changed by
`sset` alone (and `wdog.left` by `wdog`), `ret.status` by a division alone; nothing else of the machine. -/
structure RegisterFrame (i : Instr) (d : Option SReg) (s s' : State) : Prop where
  machine : { s' with st := s.st } = s
  strand : ∃ t trapv wdog rmode uab wleft wdue rstat age, Touched s.st t d ∧ s'.st = { t with
    trapv := trapv, wdog := wdog, rmode := rmode, uab := uab, wleft := wleft, wdue := wdue, rstat := rstat, age := age }
  control : (∀ sel a, i ≠ .sset sel a) → s'.st.trapv = s.st.trapv ∧ s'.st.wdog = s.st.wdog ∧ s'.st.rmode = s.st.rmode ∧
    s'.st.uab = s.st.uab ∧ ((∀ d, i ≠ .wdog d) → s'.st.wleft = s.st.wleft)
  status : (∀ f d a b, i ≠ .div f d a b ∧ i ≠ .divn f d a b ∧ i ≠ .rem f d a b ∧ i ≠ .remn f d a b) → s'.st.rstat = s.st.rstat

/-- An instruction that only touches registers and goes on somewhere has the frame. -/
theorem RegisterFrame.of_touched {i : Instr} {d : Option SReg} {s : State} {t : Strand} (h : Touched s.st t d) :
    RegisterFrame i d s { s with st := t } := by
  obtain ⟨htrapv, hwdog, hrmode, huab, hwleft, hrstat⟩ := h.control
  exact ⟨rfl, ⟨t, _, _, _, _, _, _, _, _, h, rfl⟩, fun _ => ⟨htrapv, hwdog, hrmode, huab, fun _ => hwleft⟩, fun _ => hrstat⟩

theorem RegisterFrame.of_done {i : Instr} {d : Option SReg} {s : State} {t : Strand} (h : Touched s.st t d) :
    RegisterFrame i d s (s.done t) := .of_touched (h.goTo _)

theorem RegisterFrame.of_branch {i : Instr} {d : Option SReg} {s : State} {t : Strand} (h : Touched s.st t d) (taken : Bool)
    (off : Int) : RegisterFrame i d s (s.branch t taken off) := by
  unfold State.branch
  split
  · exact .of_touched (h.goTo _)
  · exact .of_done h

/-- Either the instruction stopped, or it has the frame. -/
def Framed (i : Instr) (d : Option SReg) (s : State) (r : Run State) : Prop := ∀ s', r = .ok s' → RegisterFrame i d s s'

section
variable {i : Instr} {s : State} {d : SReg} {rd : Bool} {a b : Opnd} {fa fb fd : Option Fmt} {f : Src → Src → Src → Res}

/-- A scalar instruction whose result reports no status has the frame. -/
theorem framed_scalarRun (hexec : exec i s = .next (s.settle (scalarRun i s d rd a b fa fb fd f)))
    (hstatus : ∀ x y z, (f x y z).status = none) : ∃ r, exec i s = .next (s.settle r) ∧ Framed i (some d) s r := by
  refine ⟨_, hexec, fun s' hs => ?_⟩
  obtain ⟨t, x, y, z, ht, rfl⟩ := scalarRun_touched hs
  rw [hstatus]
  exact .of_done ht

theorem status_written (t : Strand) (o : Option Nat) : ∃ r, (match o with
    | some n => t.status? n
    | none => t) = { t with rstat := r } := by
  cases o <;> exact ⟨_, rfl⟩

/-- A scalar instruction that is one of the divisions has the frame. -/
theorem framed_divide (hexec : exec i s = .next (s.settle (scalarRun i s d rd a b fa fb fd f)))
    (hdiv : ∃ f d a b, i = .div f d a b ∨ i = .divn f d a b ∨ i = .rem f d a b ∨ i = .remn f d a b) :
    ∃ r, exec i s = .next (s.settle r) ∧ Framed i (some d) s r := by
  refine ⟨_, hexec, fun s' hs => ?_⟩
  obtain ⟨t, x, y, z, ht, rfl⟩ := scalarRun_touched hs
  obtain ⟨r, hr⟩ := status_written t (f x y z).status
  rw [hr]
  obtain ⟨htrapv, hwdog, hrmode, huab, hwleft, -⟩ := ht.control
  refine ⟨rfl, ⟨_, _, _, _, _, _, _, _, _, ht.goTo s.st.npc, rfl⟩, fun _ => ⟨htrapv, hwdog, hrmode, huab, fun _ => hwleft⟩,
    fun hnot => ?_⟩
  obtain ⟨f, d, a, b, hdiv⟩ := hdiv
  obtain ⟨h1, h2, h3, h4⟩ := hnot f d a b
  rcases hdiv with rfl | rfl | rfl | rfl <;> contradiction

end

/-- The control instructions of the register-only ones: each answers its effect, in the frame, or its stop. -/
theorem framed_bc (s : State) (c : BCond) (a b : Opnd) (off : Int) :
    ∃ r, exec (.bc c a b off) s = .next (s.settle r) ∧ Framed (.bc c a b off) none s r := by
  refine ⟨_, rfl, fun s' h => ?_⟩
  obtain ⟨-, -, h⟩ := bind_ok h
  obtain ⟨-, -, h⟩ := bind_ok h
  obtain ⟨-, -, h⟩ := bind_ok h
  obtain ⟨⟨x, t1⟩, hx, h⟩ := bind_ok h
  obtain ⟨⟨y, t2⟩, hy, h⟩ := bind_ok h
  obtain ⟨-, -, h⟩ := bind_ok h
  obtain ⟨-, -, h⟩ := bind_ok h
  cases h
  exact .of_branch ((takeOp_touched hx).trans (takeOp_touched hy)) ..

theorem framed_bm (s : State) (v : BmVar) (m : Fin 8) (off : Int) :
    ∃ r, exec (.bm v m off) s = .next (s.settle r) ∧ Framed (.bm v m off) none s r := by
  refine ⟨_, rfl, fun s' h => ?_⟩
  obtain ⟨-, -, h⟩ := bind_ok h
  cases h
  exact .of_branch (.refl ..) ..

theorem framed_jr (s : State) (b : SReg) : ∃ r, exec (.jr b) s = .next (s.settle r) ∧ Framed (.jr b) none s r := by
  refine ⟨_, rfl, fun s' h => ?_⟩
  obtain ⟨-, -, h⟩ := bind_ok h
  obtain ⟨-, -, h⟩ := bind_ok h
  obtain ⟨⟨x, t⟩, hx, h⟩ := bind_ok h
  simp only at h
  split at h
  · cases h
  · obtain ⟨-, -, h⟩ := bind_ok h
    cases h
    exact .of_touched ((takeReg_touched hx).goTo _)

theorem framed_jal (s : State) (d : SReg) (off : Int) :
    ∃ r, exec (.jal d off) s = .next (s.settle r) ∧ Framed (.jal d off) (some d) s r := by
  refine ⟨_, rfl, fun s' h => ?_⟩
  obtain ⟨-, -, h⟩ := bind_ok h
  obtain ⟨-, -, h⟩ := bind_ok h
  obtain ⟨-, -, h⟩ := bind_ok h
  obtain ⟨t, ht, h⟩ := bind_ok h
  cases h
  exact .of_branch (putReg_touched ht) ..

theorem framed_loop (s : State) (c : SReg) (off : Int) :
    ∃ r, exec (.loop c off) s = .next (s.settle r) ∧ Framed (.loop c off) (some c) s r := by
  refine ⟨_, rfl, fun s' h => ?_⟩
  obtain ⟨-, -, h⟩ := bind_ok h
  obtain ⟨-, -, h⟩ := bind_ok h
  obtain ⟨⟨x, t⟩, hx, h⟩ := bind_ok h
  obtain ⟨-, -, h⟩ := bind_ok h
  obtain ⟨t', ht, h⟩ := bind_ok h
  cases h
  exact .of_branch ((takeReg_touched hx).trans (putReg_touched ht)) ..

theorem framed_lea (s : State) (d : SReg) (base : Base) (e : Int) :
    ∃ r, exec (.lea d base e) s = .next (s.settle r) ∧ Framed (.lea d base e) (some d) s r := by
  refine ⟨_, rfl, fun s' h => ?_⟩
  obtain ⟨-, -, h⟩ := bind_ok h
  obtain ⟨-, -, h⟩ := bind_ok h
  obtain ⟨-, -, h⟩ := bind_ok h
  obtain ⟨⟨x, t⟩, hx, h⟩ := bind_ok h
  obtain ⟨-, -, h⟩ := bind_ok h
  obtain ⟨-, -, h⟩ := bind_ok h
  obtain ⟨t', ht, h⟩ := bind_ok h
  cases h
  exact .of_done ((takeBase_touched hx).trans (putReg_touched ht))

theorem framed_sset (s : State) (sel : Sel) (a : Opnd) :
    ∃ r, exec (.sset sel a) s = .next (s.settle r) ∧ Framed (.sset sel a) none s r := by
  refine ⟨_, rfl, fun s' h => ?_⟩
  obtain ⟨-, -, h⟩ := bind_ok h
  obtain ⟨-, -, h⟩ := bind_ok h
  obtain ⟨-, -, h⟩ := bind_ok h
  obtain ⟨⟨x, t⟩, hx, h⟩ := bind_ok h
  obtain ⟨-, -, h⟩ := bind_ok h
  cases h
  have ht : Touched s.st t none := takeOp_touched hx
  obtain ⟨-, -, -, -, -, hrstat⟩ := ht.control
  refine ⟨rfl, ?_, fun hnot => absurd rfl (hnot sel a), fun _ => by cases sel <;> exact hrstat⟩
  cases sel <;> exact ⟨_, _, _, _, _, _, _, _, _, ht.goTo s.st.npc, rfl⟩

theorem framed_wdog (s : State) (d : SReg) : ∃ r, exec (.wdog d) s = .next (s.settle r) ∧ Framed (.wdog d) (some d) s r := by
  refine ⟨_, rfl, fun s' h => ?_⟩
  obtain ⟨-, -, h⟩ := bind_ok h
  obtain ⟨-, -, h⟩ := bind_ok h
  obtain ⟨-, -, h⟩ := bind_ok h
  obtain ⟨-, -, h⟩ := bind_ok h
  obtain ⟨t, ht, h⟩ := bind_ok h
  cases h
  have ht := putReg_touched ht
  obtain ⟨htrapv, hwdog, hrmode, huab, -, hrstat⟩ := ht.control
  exact ⟨rfl, ⟨_, _, _, _, _, _, _, _, _, ht.goTo s.st.npc, rfl⟩,
    fun _ => ⟨htrapv, hwdog, hrmode, huab, fun hnot => absurd rfl (hnot d)⟩, fun _ => hrstat⟩

theorem framed_yield (s : State) : RegisterFrame .yield none s (s.done { s.st with age := 0 }) :=
  ⟨rfl, ⟨_, _, _, _, _, _, _, _, _, (Touched.refl s.st none).goTo s.st.npc, rfl⟩, fun _ => ⟨rfl, rfl, rfl, rfl, fun _ => rfl⟩,
    fun _ => rfl⟩

/-- Every register-only instruction answers its effect, in the frame, or its stop. -/
theorem registerOnly_framed {i : Instr} {d : Option SReg} (s : State) (h : registerOnly i = some d) :
    ∃ r, exec i s = .next (s.settle r) ∧ Framed i d s r := by
  unfold registerOnly at h
  split at h <;> cases h
  case h_1 => exact ⟨.ok _, rfl, fun _ h => by cases h; exact .of_done (.refl ..)⟩
  case h_2 => exact ⟨.ok _, rfl, fun _ h => by cases h; exact framed_yield s⟩
  case h_3 => exact framed_jr ..
  case h_4 => exact ⟨.ok _, rfl, fun _ h => by cases h; exact .of_branch (.refl ..) ..⟩
  case h_5 => exact framed_bc ..
  case h_6 => exact framed_bm ..
  case h_7 => exact framed_sset ..
  case h_25 => exact framed_lea ..
  case h_26 => exact framed_loop ..
  case h_27 => exact framed_jal ..
  case h_32 f _ a b => exact framed_divide rfl ⟨f, _, a, b, .inl rfl⟩
  case h_33 f _ a b => exact framed_divide rfl ⟨f, _, a, b, .inr (.inl rfl)⟩
  case h_34 f _ a b => exact framed_divide rfl ⟨f, _, a, b, .inr (.inr (.inl rfl))⟩
  case h_35 f _ a b => exact framed_divide rfl ⟨f, _, a, b, .inr (.inr (.inr rfl))⟩
  case h_55 => exact framed_wdog ..
  all_goals exact framed_scalarRun rfl fun _ _ _ => rfl

/-- Settles O11: every register-only instruction stops, or has the frame that `registerOnly_framed` gives. -/
theorem scalarFrame : Obligations.ScalarFrame := by
  unfold Obligations.ScalarFrame
  intro s s' i d hi hexec
  obtain ⟨r, hr, hframe⟩ := registerOnly_framed s hi
  have hs' : s' = s.settle r := by rw [hr] at hexec; exact (Host.Outcome.next.inj hexec).symm
  rcases settle_cases s r with ⟨u, hu, hsettle⟩ | ⟨e, -, hsettle⟩
  · right
    rw [hs', hsettle]
    obtain ⟨hmachine, ⟨t, _, _, _, _, _, _, _, _, ht, hst⟩, hcontrol, hstatus⟩ := hframe u hu
    have hregs : ∀ n : Fin 32, d ≠ some (.g n) → u.st.g.get n = s.st.g.get n ∧ u.st.gtag.get n = s.st.gtag.get n := by
      rw [hst]; exact ht.regs
    obtain ⟨-, _, _, _, _, _, _, _, rfl⟩ := ht
    refine ⟨hmachine, hregs, ?_, ?_, ?_, ?_, ?_, ?_, ?_, ?_, ?_, ?_, ?_, ?_, ?_, ?_, ?_, ?_, ?_, hcontrol, hstatus⟩ <;> rw [hst]
  · left
    exact ⟨e, by rw [hs', hsettle]⟩

end Sys2Proof.Proofs
end

section
namespace Sys2Proof.Proofs
open Sys2Proof Sys2Proof.Machine Sys2Proof.Safety Sys2Proof.Laws

/-! ### Instructions that nothing holds back -/

section
variable {i : Instr} {s : State}

theorem not_risky_of_no_access (h : ∀ y ∈ s.accs, y.uid ≠ s.st.uid) : s.risky = false := by
  simp only [State.risky, List.any_eq_false, Bool.and_eq_true, beq_iff_eq, not_and]
  exact fun y hy hu => absurd hu (h y hy)

theorem home_vq (h : HomeReady i s) : s.st.vq = [] := h.2.1

theorem home_noLoop (h : HomeReady i s) : noLoop s.st = .ok () := noLoop_ok h.2.2.1

theorem home_noHazard (h : HomeReady i s) : noHazard i s = .ok () := noHazard_ok h.1

/-- A fault of an instruction that nothing holds back is taken at once (R318). -/
theorem home_faultTurn (h : HomeReady i s) : s.faultTurn = true := by
  obtain ⟨-, hvq, -, -, haccs⟩ := h
  simp [State.faultTurn, hvq, not_risky_of_no_access haccs]

theorem home_allSettled (h : HomeReady i s) : allSettled s = .ok () := by
  obtain ⟨-, -, -, -, haccs⟩ := h
  have hnone : (s.accs.any fun x => x.uid == s.st.uid && s.unsettled x) = false := by
    simp only [List.any_eq_false, Bool.and_eq_true, beq_iff_eq, not_and]
    exact fun y hy hu => absurd hu (haccs y hy)
  simp [Machine.allSettled, hnone]

theorem settle_trap (h : HomeReady i s) (cause addr : Nat) :
    s.settle (.error (.trap cause addr)) = s.takeFault cause s.st.pc (BitVec.ofNat 64 addr) := by
  simp [State.stop, home_faultTurn h]

theorem tile_turn (h : TileReady i s) : tileTurn i s = .ok () := by
  obtain ⟨hhome, hcount, -⟩ := h
  simp [Machine.tileTurn, home_noLoop hhome, home_noHazard hhome, home_allSettled hhome, tilesIdle, hcount, bind, Except.bind]

theorem rowClear_idle {t : Strand} (h : t.vq = []) (f : Fmt) (v : Nat) : rowClear t f v = .ok () := by simp [rowClear, h]

theorem groupClear_idle {t : Strand} (h : t.vq = []) (b : Opnd) : groupClear t b = .ok () := by
  cases b <;> simp [groupClear, rowClear_idle h]

theorem tile_rowTurn (h : TileReady i s) (f : Fmt) (v : Nat) : rowTurn i s f v = .ok () := by
  obtain ⟨hhome, -⟩ := h
  simp [Machine.rowTurn, home_noLoop hhome, rowClear_idle (home_vq hhome), home_noHazard hhome, home_allSettled hhome, bind, Except.bind]

end

/-- What an operand read leaves of the strand's place in the machine and of its tile commands. -/
theorem takeOp_context {s : State} {t t' : Strand} {b : Opnd} {x : Src} (h : takeOp s t b = .ok (x, t')) :
    t'.cell = t.cell ∧ t'.part = t.part ∧ t'.launch = t.launch ∧ t'.tileq = t.tileq ∧ t'.twc = t.twc ∧ t'.terr = t.terr := by
  obtain ⟨_, _, _, rfl⟩ := takeOp_frame s h
  exact ⟨rfl, rfl, rfl, rfl, rfl, rfl⟩

theorem holds_congr (s : State) {t t' : Strand} (hpart : t'.part = t.part) (hlaunch : t'.launch = t.launch) (k n : Nat) :
    s.holds t' k n = s.holds t k n := by
  simp [State.holds, State.launchOf, hpart, hlaunch]

/-! ### Tiles of a machine whose words hold no error -/

section
variable {s : State}

theorem flips_nil (h : s.flips = []) : { s with flips := [] } = s := by
  cases s; cases h; rfl

theorem tileFind_quiet (h : s.flips = []) (c : ErrCtx) (k n : Nat) (p : Nat → Bool) : s.tileFind c k n p = s := by
  simp [State.tileFind, h]

/-- With no injection register set up a tile is just written, without the poison of the elements written. -/
theorem tilePut_quiet (h : Quiet s) (k n : Nat) (x : Tile) (p : Nat → Bool) :
    s.tilePut k n x p = s.modCluster k fun c => c.setTile n { x with poison := x.poison.filter fun w => !p (w / 2) } := by
  obtain ⟨hflips, -, harrays⟩ := h
  have hregs : ∀ c, (s.modCluster k c).arrayRegs (.tiles k) = ArrayRegs.reset := fun c => by simp [State.arrayRegs, harrays]
  have hbit : bitAt ArrayRegs.reset.inj0.toNat 48 = false := by decide
  simp only [State.tilePut, hflips, List.filter_nil, flips_nil hflips, hregs, hbit, Bool.false_eq_true, false_and, if_false]

theorem readTile_quiet (h : s.flips = []) {t : Strand} {n : Nat} (hp : (s.tileOf t n).poison = []) (p : Nat → Bool) :
    s.readTile t n p = .ok (s.tileOf t n, s) := by
  simp [State.readTile, tileFind_quiet h, Tile.badAt, hp]

theorem keepUndo_idle {old : State} (h : old.st.vq = []) (n : Nat) : s.keepUndo old n = s := by simp [State.keepUndo, h]

theorem tileDone_idle {old : State} (h : old.st.vq = []) (r : Run State) : tileDone old r = r := by
  cases r <;> simp [tileDone, Except.map, keepUndo_idle h]

theorem tileOf_congr {t t' : Strand} (h : t'.cell = t.cell) (n : Nat) : s.tileOf t' n = s.tileOf t n := by
  simp [State.tileOf, h]

end

/-! ### Elements of tiles -/

theorem tab_get_erase {α : Type} (x : Tab α) (d : α) (k j : Nat) :
    Tab.get (Tab.erase x k) d j = if j = k then d else Tab.get x d j := by
  induction x with
  | nil => simp [Tab.erase, Tab.get]
  | cons e r ih =>
    obtain ⟨i, y⟩ := e
    simp only [Tab.erase, List.filter_cons] at ih ⊢
    by_cases hi : i = k
    · subst hi
      simp only [bne_self_eq_false, Bool.false_eq_true, if_false, ih, Tab.get]
      by_cases hj : j = i
      · simp [hj]
      · simp [hj, Ne.symm hj]
    · simp only [bne_iff_ne, ne_eq, hi, not_false_eq_true, if_true, Tab.get, ih]
      by_cases hj : i = j
      · subst hj; simp [hi]
      · simp [hj]

theorem tab_get_setElem (l : Tab Nat) (e v j : Nat) : Tab.get (setElem l e v) 0 j = if j = e then v else Tab.get l 0 j := by
  unfold setElem
  split
  · next hv => rw [tab_get_erase, hv]
  · by_cases hj : j = e
    · subst hj; simp
    · simp [hj, tab_get_set_ne _ _ _ hj]

/-- A table of the values of `f` that are not zero. -/
theorem tab_get_filterMap (f : Nat → Nat) (l : List Nat) (e : Nat) :
    Tab.get (l.filterMap fun e => if f e = 0 then none else some (e, f e)) 0 e = if e ∈ l then f e else 0 := by
  induction l with
  | nil => rfl
  | cons a r ih =>
    by_cases ha : f a = 0
    · simp only [List.filterMap_cons, ha, if_true, ih, List.mem_cons]
      by_cases he : e = a
      · subst he; simp [ha]
      · simp [he]
    · simp only [List.filterMap_cons, ha, if_false, Tab.get, ih, List.mem_cons]
      by_cases he : a = e
      · simp [he]
      · simp [he, Ne.symm he]

/-- A filled tile has the elements that it was filled with. -/
theorem filled_get {tag : Fmt} (h : tag ≠ .raw) (x : Tile) (f : Nat → Nat) {e : Nat} (he : e < 16384) :
    (x.filled tag f).get e = f e := by
  simp only [Tile.get, Tile.filled, h, if_false, tab_get_filterMap]
  rw [if_pos (List.mem_range.mpr he)]

/-- Elements laid from number `a` on. -/
theorem tab_get_foldl_setElem (l : Tab Nat) (a n : Nat) (g : Nat → Nat) (e : Nat) :
    Tab.get (((List.range n).map g).zipIdx.foldl (fun l (v, j) => setElem l (a + j) v) l) 0 e =
      if a ≤ e ∧ e < a + n then g (e - a) else Tab.get l 0 e := by
  induction n with
  | zero => simp
  | succ n ih =>
    simp only [List.range_succ, List.map_append, List.zipIdx_append, List.foldl_append, List.map_cons, List.map_nil,
      List.zipIdx_singleton, List.foldl_cons, List.foldl_nil, List.length_map, List.length_range, Nat.zero_add, tab_get_setElem, ih]
    by_cases he : e = a + n
    · simp [he]
    · simp only [he, if_false]
      congr 1
      simp only [eq_iff_iff]
      omega

/-- A tile that takes a tag has the elements that it read as before. -/
theorem taken_get (x : Tile) (f : Fmt) (e : Nat) :
    Tab.get (x.taken f).elems 0 e = x.get e := by
  by_cases hraw : x.tag = .raw
  · simp [Tile.taken, Tile.get, hraw, Tab.get]
  · simp [Tile.taken, Tile.get, hraw]

theorem packBad_false (w n : Nat) : packBad w ((List.range n).map fun _ => false) = 0 := by
  rw [List.map_const']
  induction (List.range n).length with
  | zero => rfl
  | succ m ih => simp [List.replicate_succ, packBad, ih]

/-! ### trd, twr, twait (O33) -/

/-- The shape of the next state of a command that is carried out at once: it is the only one. -/
theorem pushTile_alone {s : State} {t : Strand} {c : TileCmd} (hq : t.tileq = []) (htwc : t.twc = 0) (hq' : s.st.tileq = [])
    (hasync : s.async = false) (ht : t.vq = []) :
    pushTile s t c = .ok ((s.done t).tileCmd c) := by
  have hroom : ¬8 ≤ t.tileCount := by simp [Strand.tileCount, hq, htwc]
  have hdone : { s.done { t with tileq := [c] } with st := { (s.done { t with tileq := [c] }).st with tileq := [] } } = s.done t := by
    cases t; cases hq; rfl
  have hrun : (s.done { t with tileq := [c] }).runTileCmd = (s.done t).tileCmd c := by
    change State.keepUndo (State.tileCmd { s.done { t with tileq := [c] } with
      st := { (s.done { t with tileq := [c] }).st with tileq := [] } } c) (s.done { t with tileq := [c] }) c.after = _
    rw [hdone, keepUndo_idle ht]
  simp only [pushTile, hroom, if_false, hq, List.nil_append, hasync, hq', Bool.false_eq_true, ne_eq, not_true_eq_false, or_self, hrun]

/-- A tile whose tag is neither the command's nor raw takes no effect but the tile error (R164). -/
theorem tileCmd_mismatch {s : State} {c : TileCmd} (h : (s.tileOf s.st c.t).tag ≠ c.f) (h' : (s.tileOf s.st c.t).tag ≠ .raw) :
    s.tileCmd c = { s with st := { s.st with terr := some c.pc } } := by
  simp [State.tileCmd, h, h']

/-- What a `trd` moves from a tile without poison (R164). -/
theorem tileCmd_read {s : State} {c : TileCmd} (hflips : s.flips = []) (hread : c.read = true)
    (htag : (s.tileOf s.st c.t).tag = c.f ∨ (s.tileOf s.st c.t).tag = .raw) (hp : (s.tileOf s.st c.t).poison = []) :
    s.tileCmd c = { s.modCluster (clusterOf s.st.cell) fun y => y.setTile c.t { s.tileOf s.st c.t with rvalid := false } with
      st := s.st.putRegs c.f c.v (packElems c.f.bits ((List.range 128).map fun j =>
        (s.tileOf s.st c.t).get (128 * c.row + j) % 2 ^ c.f.bits)) 0 (128 * c.f.bits / 512) } := by
  have htag' : (!((s.tileOf s.st c.t).tag == c.f || (s.tileOf s.st c.t).tag == .raw)) = false := by
    rcases htag with h | h <;> simp [h]
  simp only [State.tileCmd, htag', Bool.false_eq_true, if_false, hread, if_true, tileFind_quiet hflips, Tile.badAt, hp, List.any_nil,
    packBad_false, lowBits, rowRegs]
  rfl

/-- What a `twr` leaves in a tile (R164). -/
theorem tileCmd_write {s : State} {c : TileCmd} (hq : Quiet s) (hread : c.read = false)
    (htag : (s.tileOf s.st c.t).tag = c.f ∨ (s.tileOf s.st c.t).tag = .raw) :
    ∃ x, s.tileCmd c = s.modCluster (clusterOf s.st.cell) (fun y => y.setTile c.t x) ∧ x.tag = c.f ∧ x.rvalid = false ∧
      x.elems = c.data.zipIdx.foldl (fun l (v, j) => setElem l (128 * c.row + j) v) ((s.tileOf s.st c.t).taken c.f).elems := by
  have htag' : (!((s.tileOf s.st c.t).tag == c.f || (s.tileOf s.st c.t).tag == .raw)) = false := by
    rcases htag with h | h <;> simp [h]
  refine ⟨{ (s.tileOf s.st c.t).taken c.f with
      elems := c.data.zipIdx.foldl (fun l (v, j) => setElem l (128 * c.row + j) v) ((s.tileOf s.st c.t).taken c.f).elems
      rvalid := false
      poison := ((s.tileOf s.st c.t).taken c.f).poison.filter fun w => !(w / 2 / 128 == c.row) }, ?_, ?_, rfl, rfl⟩
  · simp only [State.tileCmd, htag', Bool.false_eq_true, if_false, hread, tilePut_quiet hq]
  · simp only [Tile.taken]; split <;> rfl

section
variable {i : Instr} {s : State} {t : Strand} {f : Fmt} {v : Fin 32} {n : Fin 8} {b : Opnd} {y : Src}

/-- What a strand that issues a row command is ready with. -/
structure RowReady (i : Instr) (s : State) (f : Fmt) (v : Fin 32) (n : Fin 8) (b : Opnd) (y : Src) (t : Strand) : Prop where
  ready : TileReady i s
  legal : opMisuse b = none
  reads : takeOp s s.st b = .ok (y, t)
  clean : y.bad = false
  row : y.val.toNat ≤ 127
  group : tileGroup (128 * f.bits / 512) v = .ok ()
  held : s.holds s.st (clusterOf s.st.cell) n = true

theorem rowReady_push (h : RowReady i s f v n b y t) (c : TileCmd) : pushTile s t c = .ok ((s.done t).tileCmd c) := by
  obtain ⟨⟨hhome, hcount, hasync, -⟩, -, hreads, -, -, -, -⟩ := h
  obtain ⟨-, -, -, hq, htwc, -⟩ := takeOp_context hreads
  have hzero : s.st.tileq = [] ∧ s.st.twc = 0 := by
    simp only [Strand.tileCount, Nat.add_eq_zero_iff, List.length_eq_zero_iff] at hcount
    exact hcount
  have hvq : t.vq = [] := by
    obtain ⟨_, _, _, rfl⟩ := takeOp_frame s hreads
    exact home_vq hhome
  exact pushTile_alone (hq.trans hzero.1) (htwc.trans hzero.2) hzero.1 hasync hvq

theorem rowReady_hold (h : RowReady i s f v n b y t) : s.holdCheck t n.val = .ok () := by
  obtain ⟨hcell, hpart, hlaunch, -⟩ := takeOp_context h.reads
  simp [State.holdCheck, State.holdOn, hcell, holds_congr s hpart hlaunch, h.held]

theorem rowReady_rowCheck (h : RowReady i s f v n b y t) : rowCheck y = .ok () := by
  have := h.row
  simp [rowCheck, Nat.not_lt.mpr this]

theorem done_tileOf (h : RowReady i s f v n b y t) : (s.done t).tileOf (s.done t).st n = s.tileOf s.st n := by
  obtain ⟨hcell, -⟩ := takeOp_context h.reads
  simp [State.tileOf, State.done, State.cluster, hcell]

theorem trd_push (h : RowReady (.trd f v n b) s f v n b y t) (hp : (s.tileOf s.st n).poison = []) :
    exec (.trd f v n b) s =
      .next ((s.done t).tileCmd ⟨s.st.pc, s.st.vnum, true, f, v, n, y.val.toNat, []⟩) := by
  have hclear : s.rowInError (clusterOf t.cell) n y.val.toNat = false := by
    obtain ⟨-, -, -, hflips, -⟩ := h.ready
    obtain ⟨hcell, -⟩ := takeOp_context h.reads
    simp only [State.tileOf] at hp
    simp [State.rowInError, Tile.badAt, hcell, hp, hflips]
  have hgroup : tileGroup (rowRegs f) v = .ok () := h.group
  change execTrd f v n b s = _
  simp [execTrd, tile_rowTurn h.ready, h.legal, noMisuse, h.reads, rowReady_hold h, rowReady_rowCheck h, hgroup,
    poisonCheck_ok h.clean, hclear, rowReady_push h, bind, Except.bind]

theorem twr_push (h : RowReady (.twr f n v b) s f v n b y t) (htags : tileGroupTags t (128 * f.bits / 512) v f = .ok ())
    (hclean : Clean (t.vsrc (128 * f.bits / 512) f.bits v) 128 allElems) :
    exec (.twr f n v b) s = .next ((s.done t).tileCmd ⟨s.st.pc, s.st.vnum, false, f, v, n, y.val.toNat,
      (List.range 128).map (t.vsrc (128 * f.bits / 512) f.bits v).get⟩) := by
  have hq : s.st.tileq = [] := by
    obtain ⟨⟨-, hcount, -⟩, -⟩ := h
    simp only [Strand.tileCount, Nat.add_eq_zero_iff, List.length_eq_zero_iff] at hcount
    exact hcount.1
  have hgroup : tileGroup (rowRegs f) v = .ok () := h.group
  have htags' : tileGroupTags t (rowRegs f) v f = .ok () := htags
  have huse : (t.vsrc (rowRegs f) f.bits v).use 128 allElems = .ok () := use_ok hclean
  change execTwr f n v b s = _
  simp [execTwr, tile_rowTurn h.ready, hq, h.legal, noMisuse, h.reads, rowReady_hold h, rowReady_rowCheck h, hgroup, htags', huse,
    poisonCheck_ok h.clean, rowReady_push h, bind, Except.bind]
  rfl

/-- A row command whose tile has another tag leaves the tile error and nothing else (R164). -/
theorem rowMismatch (h : RowReady i s f v n b y t) {c : TileCmd} (hf : c.f = f) (hn : c.t = n) (hpc : c.pc = s.st.pc)
    (htag : (s.tileOf s.st n).tag ≠ f) (hraw : (s.tileOf s.st n).tag ≠ .raw) :
    (s.done t).tileCmd c = { s with st := { t with pc := s.st.npc, terr := some s.st.pc } } := by
  rw [tileCmd_mismatch (by rw [hn, hf, done_tileOf h]; exact htag) (by rw [hn, done_tileOf h]; exact hraw), hpc]
  rfl

theorem trd_moves (h : RowReady (.trd f v n b) s f v n b y t) (hp : (s.tileOf s.st n).poison = [])
    (htag : (s.tileOf s.st n).tag = f ∨ (s.tileOf s.st n).tag = .raw) :
    ∃ s', exec (.trd f v n b) s = .next s' ∧ s'.mem = s.mem ∧
      s'.st = { t with pc := s.st.npc }.putRegs f v (packElems f.bits ((List.range 128).map fun j =>
        (s.tileOf s.st n).get (128 * y.val.toNat + j) % 2 ^ f.bits)) 0 (128 * f.bits / 512) ∧
      (s'.cluster (clusterOf s.st.cell)).tile n = { s.tileOf s.st n with rvalid := false } := by
  have hx := done_tileOf h
  have hcell : (s.done t).st.cell = s.st.cell := (takeOp_context h.reads).1
  obtain ⟨-, -, -, hflips, -⟩ := h.ready
  rw [trd_push h hp, tileCmd_read (by exact hflips) rfl (by rw [hx]; exact htag) (by rw [hx]; exact hp)]
  refine ⟨_, rfl, rfl, ?_, ?_⟩
  · simp only [hx]; rfl
  · simp only [hx, hcell]
    change (((s.done t).modCluster (clusterOf s.st.cell) fun c => c.setTile n _).cluster _).tile n = _
    simp

theorem twr_moves (h : RowReady (.twr f n v b) s f v n b y t) (htags : tileGroupTags t (128 * f.bits / 512) v f = .ok ())
    (hclean : Clean (t.vsrc (128 * f.bits / 512) f.bits v) 128 allElems) (hraw : f ≠ .raw)
    (htag : (s.tileOf s.st n).tag = f ∨ (s.tileOf s.st n).tag = .raw) :
    ∃ s', exec (.twr f n v b) s = .next s' ∧ s'.mem = s.mem ∧ s'.st = { t with pc := s.st.npc } ∧
      ((s'.cluster (clusterOf s.st.cell)).tile n).tag = f ∧ ((s'.cluster (clusterOf s.st.cell)).tile n).rvalid = false ∧
      ∀ e, ((s'.cluster (clusterOf s.st.cell)).tile n).get e = if e / 128 = y.val.toNat then
        (t.vsrc (128 * f.bits / 512) f.bits v).get (e % 128) else (s.tileOf s.st n).get e := by
  have hx := done_tileOf h
  have hcell : (s.done t).st.cell = s.st.cell := (takeOp_context h.reads).1
  obtain ⟨-, -, -, hquiet⟩ := h.ready
  have hquiet' : Quiet (s.done t) := hquiet
  rw [twr_push h htags hclean]
  obtain ⟨z, hz, hztag, hzvalid, hzelems⟩ := tileCmd_write (s := s.done t) (c := ⟨s.st.pc, s.st.vnum, false, f, v, n, y.val.toNat,
    (List.range 128).map (t.vsrc (128 * f.bits / 512) f.bits v).get⟩) hquiet' rfl (by rw [hx]; exact htag)
  simp only [hcell, hx] at hz hzelems
  have htile : (((s.done t).modCluster (clusterOf s.st.cell) fun y => y.setTile n z).cluster (clusterOf s.st.cell)).tile n = z := by
    simp
  refine ⟨(s.done t).modCluster (clusterOf s.st.cell) fun y => y.setTile n z, congrArg Host.Outcome.next hz, rfl, rfl, ?_, ?_, fun e => ?_⟩
  · rw [htile]; exact hztag
  · rw [htile]; exact hzvalid
  · have hget : z.get e = Tab.get z.elems 0 e := by rw [Tile.get, hztag, if_neg hraw]
    rw [htile, hget, hzelems, tab_get_foldl_setElem, taken_get]
    by_cases he : e / 128 = y.val.toNat
    · rw [if_pos (by omega), if_pos he]
      congr 1
      omega
    · rw [if_neg (by omega), if_neg he]

end

/-! ### twait -/

section
variable {s : State} {c : Fin 64}

theorem twait_waits (h : s.st.loop.active = true ∨ c.val < s.st.tileCount) :
    exec (.twait c) s = .next { s with st := { s.st with status := .blocked .issue } } := by
  change execTwait c s = _
  by_cases hloop : s.st.loop.active = true
  · simp [execTwait, noLoop, hloop, bind, Except.bind, State.stop]
  · have hcount := h.resolve_left hloop
    simp [execTwait, noLoop, hloop, hcount, bind, Except.bind, State.stop]

theorem twait_goes (hloop : s.st.loop.active = false) (hcount : s.st.tileCount ≤ c.val) (herr : s.st.terr = none) :
    exec (.twait c) s = .next { s with st := { s.st with pc := s.st.npc } } := by
  change execTwait c s = _
  simp [execTwait, noLoop_ok hloop, Nat.not_lt.mpr hcount, herr, bind, Except.bind, State.finish]

theorem twait_raises (hloop : s.st.loop.active = false) (hcount : s.st.tileCount ≤ c.val) {pc : BitVec 40} (herr : s.st.terr = some pc) :
    exec (.twait c) s = .next (if s.faultTurn then
        State.takeFault { s with st := { s.st with terr := none } } 0x0201 s.st.pc (pc.zeroExtend 64)
      else { s with st := { s.st with status := .blocked .issue } }) := by
  have haddr : BitVec.ofNat 64 pc.toNat = pc.zeroExtend 64 := BitVec.eq_of_toNat_eq (by simp)
  have hrun : execTwait c s = .next (s.settle (.error (.found { s with st := { s.st with terr := none } } 0x0201 pc.toNat))) := by
    simp [execTwait, noLoop_ok hloop, Nat.not_lt.mpr hcount, herr, bind, Except.bind]
  rw [← haddr]
  exact hrun

end

end Sys2Proof.Proofs
end

section
namespace Sys2Proof.Proofs
open Sys2Proof Sys2Proof.Machine Sys2Proof.Safety Sys2Proof.Laws

/-! ### Tile operands (O33) -/

section
variable {s : State} {t : Strand} {n : Nat} {tags : List Fmt} {b : Opnd} {y : Src}

theorem tileOk_tag (hread : takeOp s s.st b = .ok (y, t)) (h : TileOk s n tags) {ok : Fmt → Bool} (hok : ∀ tag ∈ tags, ok tag = true) :
    s.tileTag t n ok = .ok () := by
  obtain ⟨-, htag, -⟩ := h
  obtain ⟨hcell, -⟩ := takeOp_context hread
  have hpass : (ok (s.tileOf s.st n).tag || (s.tileOf s.st n).tag == .raw) = true := by
    rcases htag with htag | htag
    · simp [hok _ htag]
    · simp [htag]
  simp only [State.tileOf] at hpass
  simp [State.tileTag, State.tagOn, hcell, hpass]

theorem tileOk_hold (hread : takeOp s s.st b = .ok (y, t)) (h : TileOk s n tags) : s.holdCheck t n = .ok () := by
  obtain ⟨hheld, -⟩ := h
  obtain ⟨hcell, hpart, hlaunch, -⟩ := takeOp_context hread
  simp [State.holdCheck, State.holdOn, hcell, holds_congr s hpart hlaunch, hheld]

theorem tileOk_read (hflips : s.flips = []) (hread : takeOp s s.st b = .ok (y, t)) (h : TileOk s n tags) (p : Nat → Bool) :
    s.readTile t n p = .ok (s.tileOf s.st n, s) := by
  obtain ⟨-, -, hp⟩ := h
  have hsame : s.tileOf t n = s.tileOf s.st n := tileOf_congr (takeOp_context hread).1 n
  rw [readTile_quiet hflips (by rw [hsame]; exact hp), hsame]

theorem tileOperand_tags (h : TileOperandOk t b y) : tileBTags t b y = .ok () := by
  cases b with
  | vec n => exact h.2.1
  | lit v => rfl
  | reg r => exact tagCheck_ok h.1
  | const c => exact tagCheck_ok h.1

theorem tileOperand_group (h : TileOperandOk t b y) : tileBGroup b = .ok () := by
  cases b with
  | vec n => exact h.1
  | lit v => rfl
  | reg r => rfl
  | const c => rfl

/-- A literal operand is never poisoned; the others are clean by hypothesis. -/
theorem tileOperand_use (hread : takeOp s s.st b = .ok (y, t)) (h : TileOperandOk t b y) : tileBUse t b y = .ok () := by
  cases b with
  | vec n => exact use_ok h.2.2
  | lit v =>
    cases hread
    rfl
  | reg r => exact poisonCheck_ok h.2
  | const c => exact poisonCheck_ok h.2

end

/-! ### What a tile instruction leaves -/

/-- The resume point of a tile cleared. -/
def clearResume (s : State) (k n : Nat) : State := s.modCluster k fun c => c.setTile n { c.tile n with rvalid := false }

/-- A state that differs from `s` by the resume points of the tiles of a cluster at most. -/
structure ResumeOnly (s s1 : State) (k : Nat) : Prop where
  quiet : Quiet s1
  mem : s1.mem = s.mem
  st : s1.st = s.st
  elems : ∀ m, ((s1.cluster k).tile m).elems = ((s.cluster k).tile m).elems

theorem resumeOnly_clear {s s1 : State} {k : Nat} (h : ResumeOnly s s1 k) (n : Nat) : ResumeOnly s (clearResume s1 k n) k := by
  obtain ⟨hquiet, hmem, hst, helems⟩ := h
  refine ⟨hquiet, hmem, hst, fun m => ?_⟩
  rw [← helems m, clearResume, cluster_modCluster]
  by_cases hm : m = n
  · subst hm; simp
  · rw [tile_setTile_ne _ _ hm]

/-- The next state `s'` of a tile instruction: tile `d` of cluster `k` has the tag and the elements `g`, the strand is `t`, and
nothing is different in memory or in the elements of another tile. -/
structure TileWritten (s s' : State) (k d : Nat) (t : Strand) (tag : Fmt) (g : Nat → Nat) : Prop where
  mem : s'.mem = s.mem
  st : s'.st = { t with pc := s.st.npc }
  tagged : ((s'.cluster k).tile d).tag = tag
  restart : ((s'.cluster k).tile d).rvalid = false
  elems : ∀ e, e < 16384 → ((s'.cluster k).tile d).get e = g e
  others : ∀ m, m ≠ d → ((s'.cluster k).tile m).elems = ((s.cluster k).tile m).elems

theorem done_cluster (s : State) (t : Strand) (k : Nat) : (s.done t).cluster k = s.cluster k := rfl

theorem tileWritten_put {s s1 : State} {k d : Nat} {tag : Fmt} (h : ResumeOnly s s1 k) (hraw : tag ≠ .raw) {x y : Tile} {g : Nat → Nat}
    (htag : x.tag = tag) (hvalid : x.rvalid = false) (hx : x.elems = (y.filled tag g).elems) (t : Strand) :
    TileWritten s ((s1.tilePut k d x allElems).done t) k d t tag g := by
  obtain ⟨hquiet, hmem, hst, helems⟩ := h
  rw [tilePut_quiet hquiet]
  refine ⟨hmem, by rw [← hst]; rfl, ?_, ?_, fun e he => ?_, fun m hm => ?_⟩ <;>
    rw [done_cluster, cluster_modCluster]
  · rw [tile_setTile]; exact htag
  · rw [tile_setTile]; exact hvalid
  · rw [tile_setTile, ← filled_get hraw y g he]
    simp only [Tile.get, htag, hraw, if_false, hx, Tile.filled]
  · rw [tile_setTile_ne _ _ hm]
    exact helems m

/-! ### tzero, tcvt, tgate -/

section
variable {s : State} {t : Strand} {b : Opnd} {y : Src} {d a : Fin 8}

theorem tzero_held (h : TileReady (.tzero a) s) (hheld : s.holds s.st (clusterOf s.st.cell) a = true) :
    exec (.tzero a) s = .next ((s.modCluster (clusterOf s.st.cell) fun c => c.setTile a Tile.zero).finish) := by
  have hturn := tile_turn h
  obtain ⟨hhome, -, -, hquiet⟩ := h
  change execTzero a s = _
  simp [execTzero, tileDone_idle (home_vq hhome), hturn, State.holdCheck, State.holdOn, hheld, tilePut_quiet hquiet, Tile.zero,
    bind, Except.bind]

theorem tzero_other (h : TileReady (.tzero a) s) (hheld : s.holds s.st (clusterOf s.st.cell) a = false) :
    exec (.tzero a) s = .next (s.takeFault 0x0401 s.st.pc (BitVec.ofNat 64 a)) := by
  have hturn := tile_turn h
  obtain ⟨hhome, -⟩ := h
  change execTzero a s = _
  rw [← settle_trap hhome]
  simp [execTzero, tileDone_idle (home_vq hhome), hturn, State.holdCheck, State.holdOn, hheld, bind, Except.bind]

/-- A tile with its two sticky bits set so. -/
def withMarks (x : Tile) (lost seen : Bool) : Tile := { x with rlost := lost, nfseen := seen }

theorem withMarks_rest (x : Tile) (lost seen : Bool) :
    (withMarks x lost seen).elems = x.elems ∧ (withMarks x lost seen).tag = x.tag ∧ (withMarks x lost seen).rvalid = x.rvalid :=
  ⟨rfl, rfl, rfl⟩

theorem tcvt_writes {f : Fmt} {r : Rnd} {sat : Bool} {old : Fmt} (h : TileReady (.tcvt f r sat d a b) s) (hmis : opMisuse b = none)
    (hread : takeOp s s.st b = .ok (y, t)) (hop : TileOperandOk t b y) (ha : TileOk s a [.f32, .x96]) (hd : TileOk s d [old])
    (hraw : f ≠ .raw) :
    let x := s.tileOf s.st a
    ∃ s', exec (.tcvt f r sat d a b) s = .next s' ∧
      TileWritten s s' (clusterOf s.st.cell) d (t.status? (stickyStatus x.rlost x.nfseen)) f fun e =>
        tcvtCode f (r.mode s.st.rmode) sat (if x.tag = .raw then .x96 else x.tag) (x.get e) (scaleOf t b y (e % 128)) := by
  intro x
  have hturn := tile_turn h
  obtain ⟨hhome, -, -, hquiet⟩ := h
  have hvq := home_vq hhome
  have hcell := (takeOp_context hread).1
  let g (e : Nat) : Nat := tcvtCode f (r.mode s.st.rmode) sat (if x.tag = .raw then .x96 else x.tag) (x.get e) (scaleOf t b y (e % 128))
  let z : Tile := (clearResume s (clusterOf s.st.cell) a).tileOf t d
  obtain ⟨helems, htag, hvalid⟩ := withMarks_rest (z.filled f g) x.rlost x.nfseen
  refine ⟨_, ?_, tileWritten_put (resumeOnly_clear ⟨hquiet, rfl, rfl, fun _ => rfl⟩ a) hraw htag hvalid helems _⟩
  change execTcvt f r sat d a b s = _
  simp only [execTcvt, tileDone_idle hvq, hturn, groupClear_idle hvq, hmis, noMisuse, hread,
    tileOk_tag hread ha (ok := fun tag => tag == .f32 || tag == .x96) (by simp), tileOperand_tags hop, tileOk_hold hread ha,
    tileOk_hold hread hd, tileOperand_group hop, tileOperand_use hread hop, tileOk_read hquiet.1 hread ha, bind, Except.bind, hcell, modeOf]
  rfl

/-- A gate of a tile and a bias, or of a tile alone. -/
theorem tgate_alone {v : Gate} (h : TileReady (.tgate v d a b) s) (hmis : opMisuse b = none) (hread : takeOp s s.st b = .ok (y, t))
    (ha : TileOk s a [.f32]) (hd : TileOk s d [.f32]) (hother : gateTile v b = none) (hmix : v ≠ .mix)
    (hop : gateBias v = true → TileOperandOk t b y) :
    ∃ s', exec (.tgate v d a b) s = .next s' ∧ TileWritten s s' (clusterOf s.st.cell) d t .f32 fun e =>
      gateCode v ((s.tileOf s.st a).get e) (biasOf t b y (e % 128)) ((s.tileOf s.st d).get e) := by
  have hturn := tile_turn h
  obtain ⟨hhome, -, -, hquiet⟩ := h
  have hvq := home_vq hhome
  have hcell := (takeOp_context hread).1
  let g (e : Nat) : Nat := gateCode v ((s.tileOf s.st a).get e) (biasOf t b y (e % 128)) ((s.tileOf s.st d).get e)
  refine ⟨_, ?_, tileWritten_put (x := ((clearResume s (clusterOf s.st.cell) a).tileOf t d).filled .f32 g) (tag := .f32) (g := g)
    (y := (clearResume s (clusterOf s.st.cell) a).tileOf t d)
    (resumeOnly_clear ⟨hquiet, rfl, rfl, fun _ => rfl⟩ a) (fun e => by cases e) rfl rfl rfl _⟩
  change execTgate v d a b s = _
  simp only [execTgate, tileDone_idle hvq, hturn, groupClear_idle hvq, hmis, noMisuse, hread, hother,
    tileOk_tag hread ha (ok := (· == .f32)) (by simp), tileOk_tag hread hd (ok := (· == .f32)) (by simp), tileOk_hold hread ha,
    tileOk_hold hread hd, tileOk_read hquiet.1 hread ha, bind, Except.bind, hcell, hmix, if_false, Option.isSome_none,
    Bool.false_eq_true, tileOf_congr hcell]
  by_cases hv : gateBias v = true
  · simp only [hv, if_true, tileOperand_tags (hop hv), tileOperand_group (hop hv), tileOperand_use hread (hop hv)]
    rfl
  · simp only [hv, Bool.false_eq_true, if_false]
    rfl

/-- A gate of two tiles. -/
theorem tgate_pair {v : Gate} {m : Fin 8} (h : TileReady (.tgate v d a b) s) (hmis : opMisuse b = none)
    (hread : takeOp s s.st b = .ok (y, t)) (ha : TileOk s a [.f32]) (hd : TileOk s d [.f32]) (hm : TileOk s m [.f32])
    (hother : gateTile v b = some m.val) (hbias : gateBias v = false) :
    ∃ s', exec (.tgate v d a b) s = .next s' ∧ TileWritten s s' (clusterOf s.st.cell) d t .f32 fun e =>
      gateCode v ((s.tileOf s.st a).get e) ((s.tileOf s.st m).get e) ((s.tileOf s.st d).get e) := by
  have hturn := tile_turn h
  obtain ⟨hhome, -, -, hquiet⟩ := h
  have hvq := home_vq hhome
  have hcell := (takeOp_context hread).1
  let g (e : Nat) : Nat := gateCode v ((s.tileOf s.st a).get e) ((s.tileOf s.st m).get e) ((s.tileOf s.st d).get e)
  refine ⟨_, ?_, tileWritten_put
    (x := ((clearResume (clearResume s (clusterOf s.st.cell) a) (clusterOf s.st.cell) m).tileOf t d).filled .f32 g)
    (tag := .f32) (g := g) (y := (clearResume (clearResume s (clusterOf s.st.cell) a) (clusterOf s.st.cell) m).tileOf t d)
    (resumeOnly_clear (resumeOnly_clear ⟨hquiet, rfl, rfl, fun _ => rfl⟩ a) m) (fun e => by cases e) rfl rfl rfl _⟩
  change execTgate v d a b s = _
  simp only [execTgate, tileDone_idle hvq, hturn, groupClear_idle hvq, hmis, noMisuse, hread, hother, hbias,
    tileOk_tag hread ha (ok := (· == .f32)) (by simp), tileOk_tag hread hd (ok := (· == .f32)) (by simp),
    tileOk_tag hread hm (ok := (· == .f32)) (by simp), tileOk_hold hread ha, tileOk_hold hread hd, tileOk_hold hread hm,
    tileOk_read hquiet.1 hread ha, tileOk_read hquiet.1 hread hm, bind, Except.bind, hcell, if_false, Option.isSome_some,
    Bool.false_eq_true, if_true]
  by_cases hv : v = .mix
  · subst hv
    simp only [if_true, tileOk_read hquiet.1 hread hd]
    rfl
  · simp only [hv, if_false, tileOf_congr hcell]
    rfl

end

/-! ### O33 -/

theorem tcvtCode_eq (f : Fmt) (mode : RMode) (sat : Bool) (tag : Fmt) (x : Nat) (c : FVal) :
    tcvtCode f mode sat tag x c =
      if tag ≠ .f32 ∧ x = 0 ∧ isFin c = true then
        (if f.isInt then wrapBits f.bits (toIntClamped mode f.minInt f.maxInt 0 (.fin false 0 0)) else (FVal.fin false 0 0).toCode f mode sat)
      else if f.isInt then wrapBits f.bits (toIntClamped mode f.minInt f.maxInt 0 (c.mul (tileValue tag x)))
      else (c.mul (tileValue tag x)).toCode f mode sat := by
  unfold tcvtCode
  split <;> rfl

/-- Settles O33: a row command that is alone in q8 is carried out at its issue, and `twait`, `tzero`, `tcvt` and `tgate` are
their equations for a tile that is held, carries its tag and has no poisoned element. -/
theorem tileRowsAndElements : Obligations.TileRowsAndElements := by
  unfold Obligations.TileRowsAndElements
  refine ⟨?_, ?_⟩
  · intro s f v n b y t c k x row regs hmis hread hbad hrow hgroup hheld hp
    refine ⟨fun hready => ?_, fun hready htags hclean hraw => ?_, fun hloop hcount => ?_, twait_waits⟩
    · have h : RowReady (.trd f v n b) s f v n b y t := ⟨hready, hmis, hread, hbad, hrow, hgroup, hheld⟩
      exact ⟨trd_moves h hp, fun htag hraw => (trd_push h hp).trans (congrArg _ (rowMismatch h rfl rfl rfl htag hraw))⟩
    · have h : RowReady (.twr f n v b) s f v n b y t := ⟨hready, hmis, hread, hbad, hrow, hgroup, hheld⟩
      exact ⟨twr_moves h htags hclean hraw,
        fun htag hraw => (twr_push h htags hclean).trans (congrArg _ (rowMismatch h rfl rfl rfl htag hraw))⟩
    · exact ⟨twait_goes hloop hcount, fun pc => twait_raises hloop hcount⟩
  · intro s f r sat v d a b y t k x old becomes
    refine ⟨fun hready => ⟨tzero_held hready, tzero_other hready⟩, fun hready hmis hread hop ha hd hraw => ?_,
      fun hready hmis hread ha hd => ⟨fun hv hop => ?_, fun hv => ?_, fun m hb hv hm => ?_⟩⟩
    · obtain ⟨s', hexec, hmem, hst, htag, hvalid, helems, hothers⟩ := tcvt_writes hready hmis hread hop ha hd hraw
      refine ⟨s', hexec, hmem, hst, htag, hvalid, fun e he => (helems e he).trans ?_, hothers⟩
      exact tcvtCode_eq ..
    · have hother : gateTile v b = none := by rcases hv with rfl | rfl <;> rfl
      have hmix : v ≠ .mix := by rcases hv with rfl | rfl <;> decide
      obtain ⟨s', hexec, hmem, hst, htag, hvalid, helems, hothers⟩ := tgate_alone hready hmis hread ha hd hother hmix fun _ => hop
      refine ⟨s', hexec, hmem, hst, htag, hvalid, fun e he => (helems e he).trans ?_, hothers⟩
      rcases hv with rfl | rfl <;> rfl
    · have hother : gateTile v b = none := by rcases hv with rfl | rfl <;> rfl
      have hmix : v ≠ .mix := by rcases hv with rfl | rfl <;> decide
      have hbias : gateBias v = false := by rcases hv with rfl | rfl <;> rfl
      obtain ⟨s', hexec, hmem, hst, htag, hvalid, helems, hothers⟩ := tgate_alone hready hmis hread ha hd hother hmix
        fun h => absurd (hbias.symm.trans h) Bool.false_ne_true
      refine ⟨s', hexec, hmem, hst, htag, hvalid, fun e he => (helems e he).trans ?_, hothers⟩
      rcases hv with rfl | rfl <;> rfl
    · subst hb
      have hother : gateTile v (.lit m.val) = some m.val := by rcases hv with rfl | rfl <;> rfl
      have hbias : gateBias v = false := by rcases hv with rfl | rfl <;> rfl
      obtain ⟨s', hexec, hmem, hst, htag, hvalid, helems, hothers⟩ := tgate_pair hready hmis hread ha hd hm hother hbias
      refine ⟨s', hexec, hmem, hst, htag, hvalid, fun e he => (helems e he).trans ?_, hothers⟩
      rcases hv with rfl | rfl <;> rfl

end Sys2Proof.Proofs
end

section
namespace Sys2Proof.Proofs
open Sys2Proof Sys2Proof.Machine Sys2Proof.Safety Sys2Proof.Laws

/-! ### A strided load whose stride is a group (O19) -/

/-- A strand whose groups of 32-bit elements take two registers, and whose vl is 0. -/
def pairedGroups : State := { State.reset with st := { Strand.empty with gc := 4 } }

/-- A strided load whose operand b is the register group of v1, which starts at no multiple of two. -/
def stridedByGroup : Instr := .vlds .s64 Keys.dflt 0 (.reg (.g 0)) (.vec 1)

/-- What the load executes with. -/
def groupStrideIn : VIn := ⟨pairedGroups, pairedGroups.st, Src.zero, Src.zero, Src.zero, .rne, 0, 0⟩

theorem stridedByGroup_ready : VectorReady stridedByGroup pairedGroups groupStrideIn :=
  ⟨⟨rfl, rfl, rfl, rfl⟩, fun y hy => (List.not_mem_nil hy).elim, by decide +kernel, rfl⟩

/-- The cause with which the strand in focus is left. -/
def outCause (o : Out) : Option Nat :=
  match o with
  | .next s => some s.st.fcause.toNat
  | _ => none

/-- The operand check of an index group refuses the load with 0x0211. -/
theorem stridedByGroup_faults : outCause (exec stridedByGroup pairedGroups) = some 0x0211 := by decide +kernel

/-- Refutes O19: its clause for `vlds` lets operand b be any operand. With a register group there (which no encoding of `vlds`
holds) the model checks the group as an index group, and a group that is not aligned faults with 0x0211, where the statement
says that the load is done. The clause holds for the scalar operands. -/
theorem not_vectorMemory : ¬ Obligations.VectorMemory := by
  unfold Obligations.VectorMemory
  rintro ⟨h, -⟩
  have hnone : ∀ j, ¬j < groupStrideIn.t.vl := Nat.not_lt_zero
  obtain ⟨-, hvlds, -⟩ := h pairedGroups groupStrideIn .s64 Keys.dflt 0 0 (.reg (.g 0)) 0 (.vec 1) fun _ => ⟨0, false⟩
  have hgroup : GroupOk groupStrideIn.t (groupSize groupStrideIn.t Keys.dflt .s64 64) 64 0 :=
    ⟨by decide +kernel, Nat.zero_le _, by decide +kernel⟩
  have hdone := hvlds rfl stridedByGroup_ready hgroup rfl ⟨rfl, rfl, rfl⟩ (fun y hy => (List.not_mem_nil hy).elim)
    fun j hj _ => absurd hj (hnone j)
  have hcause := (congrArg outCause hdone).symm.trans stridedByGroup_faults
  revert hcause
  decide +kernel

end Sys2Proof.Proofs
end

section
namespace Sys2Proof.Proofs
open Sys2Proof Sys2Proof.Machine Sys2Proof.Safety Sys2Proof.Laws

/-! ### A task record whose number another task has (O28) -/

/-- A launch with a task left in its budget. -/
def taskLaunch : Launch :=
  { num := 0, rcb := 0, entry := 0, uab := 0, asid := 0
    eff := { cells := 1, slots := 1, tasks := 1, hbm := 0, evBase := 0, evCount := 0, prio := 0, fdom := 0, gang := 0, tiles := 0, spc := 0
             rmode := .rne, cbank := 0, cbankUab := 0, seed := 0, clmFirst := 0, clmLen := 0, corr := 0, trapv := 0, wdog := 0 }
    fdoms := [], stage := .running, fixed := false, first := 0, cellSet := [0], placed := 1, hbmHeld := true, wakeDue := []
    slotsUsed := 1, tasksLive := 0, host := true, htag := 0, launcher := none, savedTiles := [] }

/-- A task that has not joined the waiters of event 0 yet, under the number that the next task of the die gets. -/
def earlierTask : Task := ⟨0, 0, 0, 0, 0, 0, [], .waiting, 0, false, false, none⟩

/-- A strand at a `tsub` of the record at address 0, with a wait of its own left in the list of event 0. -/
def submitting : State :=
  { State.reset with
    mem := memPutWords [] 0 [0, 2]
    cells := [(0, { (State.reset.cell 0) with tlb := [⟨0, 0, 16, 0, true, true, false, false⟩] })]
    parts := [(0, { Part.reset with
      desc := List.replicate 20 (BitVec.allOnes 64), launches := [taskLaunch], tasks := [earlierTask]
      events := [(0, ⟨0, [.strand 0 0]⟩)] })] }

theorem submitting_record : RecordAt (.tsub (.reg (.g 0))) submitting (.reg (.g 0)) 64 0 true false Src.zero submitting.st submitting.st 0 :=
  ⟨⟨rfl, rfl, rfl, rfl, fun y hy => (List.not_mem_nil hy).elim⟩, rfl, ⟨rfl, rfl⟩, rfl, ⟨false, by decide +kernel⟩,
    ⟨by decide +kernel, by decide +kernel⟩, rfl, rfl, rfl⟩

/-- The status that the strand in focus is left with. -/
def outStatus (o : Out) : Option Status :=
  match o with
  | .next s => some s.st.status
  | _ => none

/-- The place given to the earlier task serves the strand that stands before it in the list of the event. -/
theorem submitting_served : outStatus (exec (.tsub (.reg (.g 0))) submitting) = some (.blocked .served) := by decide +kernel

/-- Refutes O28: its clause for `tsub` fixes the strand in focus in every state. Where an unplaced task has the number that the
record gets, `tsub` gives that task its place among its event's waiters, and the event then serves those before it, here a
wait of the strand in focus itself, which becomes blocked; the statement leaves its status as it was. -/
theorem not_messagesAndTasks : ¬ Obligations.MessagesAndTasks := by
  unfold Obligations.MessagesAndTasks
  rintro ⟨-, h⟩
  obtain ⟨-, htsub⟩ := h submitting (.reg (.g 0)) Src.zero submitting.st 0 taskLaunch rfl
  obtain ⟨-, -, hready⟩ := htsub _ rfl submitting_record
  obtain ⟨s', hexec, -, k, -, -, -, -, hk⟩ := hready (by decide +kernel) (by decide)
  obtain ⟨-, hst⟩ := hk (by decide +kernel)
  have hserved : s'.st.status = .blocked .served := by
    have hstatus := submitting_served
    rw [hexec] at hstatus
    exact Option.some.inj hstatus
  rw [hst] at hserved
  exact absurd hserved (by decide +kernel)

end Sys2Proof.Proofs
end

section
namespace Sys2Proof.Proofs
open Sys2Proof Sys2Proof.Machine Sys2Proof.Safety Sys2Proof.Laws

/-- An element of a vector that a function gives. -/
theorem vector_get_ofFn {α : Type} {n : Nat} (f : Fin n → α) (i : Fin n) : (Vector.ofFn f).get i = f i := by
  change (Vector.ofFn f)[i.val] = f i
  exact Vector.getElem_ofFn i.isLt

/-! ### Starting a resident (O44, O48) -/

section
variable {s : State} {p cell slot : Nat} {l : Launch}

/-- A cell that holds the launch's constant bank needs no copy of it (R26). -/
theorem copyBank_held (h : Tab.has (s.cell cell).cbank (p * 2 ^ 32 + l.num) = true) : s.copyBank p l cell = (s, none) := by
  simp only [State.copyBank, h, if_true]

/-- The strand that a resident starts as (R31). -/
def residentStrand (s : State) (p : Nat) (l : Launch) (cell slot i : Nat) : Strand :=
  { startImage s p l cell slot with
    pc := l.entry, npc := l.entry, rank := BitVec.ofNat 32 i, entry := l.entry
    g := Vector.ofFn fun k : Fin 32 => if k.val = 1 then l.rcb else if k.val = 2 then BitVec.ofNat 64 i
      else if k.val = 3 then BitVec.ofNat 64 (l.cellSet.length * (l.eff.spc + 1)) else 0 }

theorem startResident_held (h : Tab.has (s.cell cell).cbank (p * 2 ^ 32 + l.num) = true) (i : Nat) :
    s.startResident p l cell slot i = { s.addStrand (residentStrand s p l cell slot i) with nextId := s.nextId + 1 } := by
  simp only [State.startResident, copyBank_held h]
  rfl

theorem residentStrand_g (i : Nat) (k : Fin 32) :
    (residentStrand s p l cell slot i).g.get k = if k = 1 then l.rcb else if k = 2 then BitVec.ofNat 64 i
      else if k = 3 then BitVec.ofNat 64 (l.cellSet.length * (l.eff.spc + 1)) else 0 := by
  simp only [residentStrand, vector_get_ofFn, Fin.ext_iff]
  rfl

theorem residentStart_starts {e : Nat × Nat} (howner : s.clusterOwner (clusterOf cell) = some p) (hslot : s.openSlot cell = some slot)
    (hnext : (s.cell cell).toStart.find? (fun e => match (s.part p).launch? e.1 with
      | some l => (s.part p).runs l
      | none => false) = some e)
    (hlaunch : (s.part p).launch? e.1 = some l) (hbank : Tab.has (s.cell cell).cbank (p * 2 ^ 32 + l.num) = true) :
    let s1 := s.modCell cell fun c => { c with toStart := c.toStart.filter (· != e) }
    exec (.residentStrandStart cell) s =
      .next { s1.addStrand (residentStrand s1 p l cell slot e.2) with nextId := s1.nextId + 1 } := by
  intro s1
  have hbank1 : Tab.has (s1.cell cell).cbank (p * 2 ^ 32 + l.num) = true := by simpa [s1] using hbank
  have hlaunch1 : (s1.part p).launch? e.1 = some l := hlaunch
  change execResidentStrandStart cell s = _
  simp only [execResidentStrandStart, howner, hslot]
  split
  · next hnone => cases hnone.symm.trans hnext
  · next e' hsome =>
    obtain rfl : e' = e := Option.some.inj (hsome.symm.trans hnext)
    split
    · next l' hl' =>
      obtain rfl : l' = l := Option.some.inj (hl'.symm.trans hlaunch1)
      exact congrArg _ (startResident_held hbank1 e'.2)
    · next hl' => cases hl'.symm.trans hlaunch1

end

/-! ### Arrival, forwarding, waking (O44) -/

section
variable {s : State} {uid n : Nat} {t : Strand} {l : Launch}

theorem migrateArrival_arrives {slot : Nat} (hmoving : s.parked.find? (fun t => t.uid == uid && t.status == .moving) = some t)
    (hhere : deviceOf t.cell = s.boot.device.toNat) (hslot : s.openSlot t.cell = some slot) (hlaunch : s.launchOf t = some l)
    (hbank : Tab.has (s.cell t.cell).cbank (t.part * 2 ^ 32 + l.num) = true) :
    exec (.migrateArrival uid) s = .next (s.modStrand uid fun t => { t.wake with slot := slot, waited := 0 }) := by
  change execMigrateArrival uid s = _
  simp [execMigrateArrival, hmoving, hhere, hslot, hlaunch, copyBank_held hbank]

/-- With no order log in use a delivery leaves no entry (R346). -/
theorem logDone_off {p : Nat} (hrec : (s.part p).dbg.recording = false) (hrep : (s.part p).dbg.replaying = false) (point size entry : Nat) :
    s.logDone p point size entry = s := by
  simp [State.logDone, State.logEntry, hrec, hrep]

theorem logAdmits_off {p : Nat} (hrep : (s.part p).dbg.replaying = false) (point size entry : Nat) :
    s.logAdmits p point size entry = true := by
  simp [State.logAdmits, hrep]

theorem sidingForward_forwards {d : Siding} {o : Option Nat} {x : List Word} {r : List (Option Nat × List Word)}
    (hfind : s.sidings.find? (fun d => d.id == n) = some d) (hstrand : s.strand? d.uid = some t) (hitems : d.items = (o, x) :: r)
    (hin : t.inSlot = true) (hroom : s.q15Room t = true)
    (hlog : o = none ∨ ((s.part t.part).dbg.recording = false ∧ (s.part t.part).dbg.replaying = false)) :
    exec (.sidingForward n) s = .next { s.modStrand d.uid (fun t => t.pushQ15 x) with
      sidings := s.sidings.map fun y => if y.id = n then { y with items := r } else y } := by
  change execSidingForward n s = _
  cases o with
  | none =>
    simp [execSidingForward, hfind, hstrand, hitems, hin, hroom, State.modSiding]
    rfl
  | some o =>
    obtain ⟨hrec, hrep⟩ := hlog.resolve_left (by simp)
    simp only [execSidingForward, hfind, hstrand, hitems, hin, hroom, logAdmits_off hrep, Bool.and_self, if_true]
    rw [logDone_off (by exact hrec) (by exact hrep)]
    exact congrArg _ rfl

/-- A strand that is woken and does not single-step is ready. -/
theorem wake_running (h : t.stepping = false) : t.wake = { t with status := .ready, undo := none, age := 0 } := by
  simp only [Strand.wake, h, Bool.false_eq_true, if_false]

theorem strandWake_served (h : s.strand? uid = some t) (hst : t.status = .blocked .served) :
    exec (.strandWake uid) s = .next (s.modStrand uid fun t => t.wake) := by
  change execStrandWake uid s = _
  simp [execStrandWake, h, hst]

theorem strandWake_issue (h : s.strand? uid = some t) (hst : t.status = .blocked .issue) :
    exec (.strandWake uid) s = .next (s.modStrand uid fun t => { t with status := .ready, age := 0 }) := by
  change execStrandWake uid s = _
  simp only [execStrandWake, h, hst]
  rfl

theorem strandWake_walk {id va : Nat} (h : s.strand? uid = some t) (hst : t.status = .blocked (.walk id va))
    (hdone : ∀ w ∈ s.walks, w.id ≠ id) :
    exec (.strandWake uid) s = .next (s.modStrand uid fun t => { t with status := .ready, age := 0 }) := by
  have hover : (s.walks.any fun w => w.id == id) = false := by simpa using hdone
  change execStrandWake uid s = _
  simp only [execStrandWake, h, hst, hover]
  rfl

theorem strandWake_sleep {w : Option Nat} (h : s.strand? uid = some t) (hst : t.status = .blocked (.sleep w)) (hq : t.q15 ≠ []) :
    exec (.strandWake uid) s = .next (s.modStrand uid fun t => { t.wake with pc := t.npc, rstat := 0 }) := by
  change execStrandWake uid s = _
  simp [execStrandWake, h, hst, hq]

theorem sleepTimeout_wakes {w : Nat} (h : s.strand? uid = some t) (hst : t.status = .blocked (.sleep (some w))) (hdue : w ≤ s.now)
    (hq : t.q15 = []) :
    exec (.sleepTimeout uid) s = .next (s.modStrand uid fun t => { t.wake with pc := t.npc, rstat := 1 }) := by
  change execSleepTimeout uid s = _
  simp [execSleepTimeout, h, hst, hdue, hq]

end

/-! ### Replies of sysc (O44) -/

section
variable {s : State} {uid : Nat} {t : Strand}

theorem desc_word (x : Part) (n : Nat) : BitVec.ofNat 64 (x.w n) = x.desc.getD n 0 := by simp [Part.w]

/-- What `sysc` k answers a strand that waits for it (R361). -/
theorem syscReply_replies {k : Nat} (h : s.strand? uid = some t) (hst : t.status = .blocked (.sysc k))
    (hreset : (s.part t.part).resetting = none) :
    (k = 0 → exec (.syscReply uid) s = .next (s.reply uid [] 0)) ∧
    (k = 1 → exec (.syscReply uid) s = .next ((s.modPart t.part fun y => { y with wdLeft := y.w 19 }).reply uid
      [(s.part t.part).desc.getD 19 0] 0)) ∧
    (k = 2 → exec (.syscReply uid) s = .next (s.reply uid [BitVec.ofNat 64 t.part, s.boot.device.zeroExtend 64,
      BitVec.ofNat 64 (s.part t.part).clusters.length, BitVec.ofNat 64 (s.part t.part).quota,
      BitVec.ofNat 64 ((s.part t.part).w 0 / 2 ^ 24 % 2 ^ 13), BitVec.ofNat 64 ((s.part t.part).w 0 / 2 ^ 37 % 2 ^ 14)] 0)) ∧
    (k = 3 → exec (.syscReply uid) s = .next ((s.lawService t).1.reply uid [] (BitVec.ofNat 64 (s.lawService t).2))) ∧
    (k = 4 → (s.part t.part).fn.rqRoom = true → (s.part t.part).fn.results = [] → exec (.syscReply uid) s =
      .next ((s.owe t.part ⟨4, 0, t.launch, t.g.get 1, t.g.get 2⟩).reply uid [] 0)) ∧
    (k = 5 → exec (.syscReply uid) s = .next (s.requestReset t.part)) ∧
    (k = 6 → exec (.syscReply uid) s = .next (s.reply uid identityWords 0)) ∧
    (6 < k → exec (.syscReply uid) s = .next (s.reply uid [] (BitVec.allOnes 64))) := by
  change (k = 0 → execSyscReply uid s = _) ∧ (k = 1 → execSyscReply uid s = _) ∧ (k = 2 → execSyscReply uid s = _) ∧
    (k = 3 → execSyscReply uid s = _) ∧ (k = 4 → _ → _ → execSyscReply uid s = _) ∧ (k = 5 → execSyscReply uid s = _) ∧
    (k = 6 → execSyscReply uid s = _) ∧ (6 < k → execSyscReply uid s = _)
  have hdevice : s.boot.device.zeroExtend 64 = BitVec.ofNat 64 s.boot.device.toNat := BitVec.eq_of_toNat_eq (by simp)
  simp only [execSyscReply, h, hst, hreset, Option.isSome_none, Bool.false_eq_true, if_false, hdevice]
  refine ⟨?_, ?_, ?_, ?_, ?_, ?_, ?_, fun hk => ?_⟩
  · rintro rfl; rfl
  · rintro rfl
    rw [← desc_word]
    rfl
  · rintro rfl; rfl
  · rintro rfl; rfl
  · rintro rfl hroom hres
    simp [hroom, hres]
  · rintro rfl; rfl
  · rintro rfl; rfl
  · obtain ⟨m, rfl⟩ := Nat.exists_eq_add_of_le' hk
    rfl

end

/-! ### TLBINV_COMPLETE (O44) -/

/-- A table with a function applied to its values, which keeps the default. -/
theorem tab_get_map {α : Type} (x : Tab α) (d : α) (f : α → α) (hd : f d = d) (k : Nat) :
    Tab.get (x.map fun e => (e.1, f e.2)) d k = f (Tab.get x d k) := by
  induction x with
  | nil => exact hd.symm
  | cons e r ih =>
    obtain ⟨i, y⟩ := e
    simp only [List.map_cons, Tab.get, ih]
    split <;> rfl

section
variable {s : State} {f : TlbEntry → Bool}

theorem dropTlb_cell (c : Nat) : ((s.dropTlb f).cell c).tlb = (s.cell c).tlb.filter fun e => !f e :=
  congrArg Cell.tlb (tab_get_map s.cells Cell.empty (fun x => { x with tlb := x.tlb.filter fun e => !f e }) rfl c)

theorem dropTlb_cluster (c : Nat) : ((s.dropTlb f).cluster c).tlb = (s.cluster c).tlb.filter fun e => !f e :=
  congrArg Cluster.tlb (tab_get_map s.clusters Cluster.empty (fun x => { x with tlb := x.tlb.filter fun e => !f e }) rfl c)

theorem dropTlb_die (c : Nat) : ((s.dropTlb f).die c).tlb = (s.die c).tlb.filter fun e => !f e :=
  congrArg Die.tlb (tab_get_map s.dies Die.empty (fun x => { x with tlb := x.tlb.filter fun e => !f e }) rfl c)

end

/-- What an entry for a command's end leaves as it was: everything but the commands and the next number. -/
structure CmdsOnly (s s' : State) : Prop where
  mem : s'.mem = s.mem
  st : s'.st = s.st
  parked : s'.parked = s.parked
  cells : s'.cells = s.cells
  clusters : s'.clusters = s.clusters
  dies : s'.dies = s.dies
  invs : s'.invs = s.invs
  parts : s'.parts = s.parts

theorem notify_cmdsOnly (s : State) (uid kind status w1 w2 : Nat) : CmdsOnly s (s.notify uid kind status w1 w2) := by
  unfold State.notify
  split <;> exact ⟨rfl, rfl, rfl, rfl, rfl, rfl, rfl, rfl⟩

/-- The entry for the end of a command of a strand that is there. -/
theorem notify_cmds {s : State} {uid : Nat} (h : (s.strand? uid).isSome = true) (kind status w1 w2 : Nat) :
    ∃ c, (s.notify uid kind status w1 w2).cmds = s.cmds ++ [c] ∧ c.kind = kind ∧ c.stage = 3 ∧ c.status = status ∧
      c.daddr = BitVec.ofNat 64 w1 ∧ c.w2 = w2 := by
  obtain ⟨t, ht⟩ := Option.isSome_iff_exists.mp h
  unfold State.notify
  rw [ht]
  exact ⟨_, rfl, rfl, rfl, rfl, rfl, rfl⟩

section
variable {s : State} {n : Nat} {v : Tlbinv}

/-- The machine with an invalidation done. -/
def invalidated (s : State) (n : Nat) (v : Tlbinv) : State := { s with invs := s.invs.filter fun x => x.id != n }.dropTlb v.covers

theorem tlbinvComplete_eq (h : s.invs.find? (fun v => v.id == n) = some v) :
    exec (.tlbinvComplete n) s = .next (match v.uid with
      | none => invalidated s n v
      | some uid => (invalidated s n v).notify uid 8 0 v.start.toNat v.count) := by
  change execTlbinvComplete n s = _
  simp only [execTlbinvComplete, h]
  cases v.uid <;> rfl

theorem tlbinvComplete_drops (h : s.invs.find? (fun v => v.id == n) = some v) :
    ∃ s', exec (.tlbinvComplete n) s = .next s' ∧ s'.mem = s.mem ∧ s'.st = s.st ∧ s'.parked = s.parked ∧
      s'.invs = s.invs.filter (fun y => y.id != n) ∧
      (∀ c, ∀ y ∈ (s'.cell c).tlb, y ∈ (s.cell c).tlb ∧ v.covers y = false) ∧
      (∀ c, ∀ y ∈ (s'.cluster c).tlb, y ∈ (s.cluster c).tlb ∧ v.covers y = false) ∧
      (∀ c, ∀ y ∈ (s'.die c).tlb, y ∈ (s.die c).tlb ∧ v.covers y = false) ∧
      (∀ u, v.uid = some u → (s.strand? u).isSome = true → ∃ c, s'.cmds = s.cmds ++ [c] ∧ c.kind = 8 ∧ c.stage = 3 ∧
        c.status = 0 ∧ c.daddr = v.start ∧ c.w2 = v.count) := by
  have hframe : ∃ s', exec (.tlbinvComplete n) s = .next s' ∧ CmdsOnly (invalidated s n v) s' ∧
      (∀ u, v.uid = some u → (s.strand? u).isSome = true → ∃ c, s'.cmds = s.cmds ++ [c] ∧ c.kind = 8 ∧ c.stage = 3 ∧
        c.status = 0 ∧ c.daddr = v.start ∧ c.w2 = v.count) := by
    rw [tlbinvComplete_eq h]
    cases hu : v.uid with
    | none => exact ⟨_, rfl, ⟨rfl, rfl, rfl, rfl, rfl, rfl, rfl, rfl⟩, fun u hu' => nomatch hu'⟩
    | some uid =>
      refine ⟨_, rfl, notify_cmdsOnly .., fun u hu' hthere => ?_⟩
      obtain rfl : uid = u := Option.some.inj hu'
      have hthere' : ((invalidated s n v).strand? uid).isSome = true := hthere
      obtain ⟨c, hcmds, hkind, hstage, hstatus, hdaddr, hw2⟩ := notify_cmds hthere' 8 0 v.start.toNat v.count
      exact ⟨c, hcmds, hkind, hstage, hstatus, hdaddr.trans (by simp), hw2⟩
  obtain ⟨s', hexec, ⟨hmem, hst, hparked, hcells, hclusters, hdies, hinvs, -⟩, hcmd⟩ := hframe
  have hcell : ∀ c, s'.cell c = (invalidated s n v).cell c := fun c => by simp only [State.cell, hcells]
  have hcluster : ∀ c, s'.cluster c = (invalidated s n v).cluster c := fun c => by simp only [State.cluster, hclusters]
  have hdie : ∀ c, s'.die c = (invalidated s n v).die c := fun c => by simp only [State.die, hdies]
  refine ⟨s', hexec, hmem, hst, hparked, hinvs, fun c y hy => ?_, fun c y hy => ?_, fun c y hy => ?_, hcmd⟩
  · rw [hcell, invalidated, dropTlb_cell, List.mem_filter] at hy
    exact ⟨hy.1, by simpa using hy.2⟩
  · rw [hcluster, invalidated, dropTlb_cluster, List.mem_filter] at hy
    exact ⟨hy.1, by simpa using hy.2⟩
  · rw [hdie, invalidated, dropTlb_die, List.mem_filter] at hy
    exact ⟨hy.1, by simpa using hy.2⟩

end

/-- Settles O44: each event is its equation on the state that the hypotheses describe. -/
theorem strandEvents : Obligations.StrandEvents := by
  unfold Obligations.StrandEvents
  intro s cell uid n p slot e l t d x o r v
  refine ⟨fun howner hslot hnext hlaunch hbank => ?_, fun hmoving hhere hslot hlaunch hbank =>
    migrateArrival_arrives hmoving hhere hslot hlaunch hbank, fun hfind hstrand hitems hin hroom hlog =>
    sidingForward_forwards hfind hstrand hitems hin hroom hlog, fun hstrand hstep => ⟨fun hst => ⟨strandWake_served hstrand hst,
      wake_running hstep⟩, strandWake_issue hstrand, fun id va => strandWake_walk hstrand, fun w => strandWake_sleep hstrand,
      fun w => sleepTimeout_wakes hstrand, fun k => syscReply_replies hstrand⟩, tlbinvComplete_drops⟩
  exact ⟨_, _, residentStart_starts howner hslot hnext hlaunch hbank, rfl, rfl, rfl,
    congrArg Cell.toStart (cell_modCell (s := s) cell fun c => { c with toStart := c.toStart.filter (· != e) }),
    rfl, rfl, rfl, rfl, rfl, rfl, rfl, residentStrand_g e.2⟩

end Sys2Proof.Proofs
end

section
namespace Sys2Proof.Proofs
open Sys2Proof Sys2Proof.Machine Sys2Proof.Safety Sys2Proof.Laws

/-! ### What reads and writes of memory, its errors, logs and traces leave unchanged

A read or write of memory may find errors, fire an injection register and raise a vector; a delivery may write the order log, and
a start the trace ring. None of these touches anything but memory, its errors, and those fields of partitions. `outline` is a
state without them, so that each operation has one equation. -/

/-- A partition without its function's registers, its rings and its order log. -/
def partOutline (x : Part) : Part := { x with fn := HostFn.reset, rings := [], log := OrderLog.reset }

/-- A machine without memory, its errors and error logs, and those fields of its partitions. -/
def outline (s : State) : State × (Nat → Part) :=
  ({ s with free := 0, mem := [], poison := [], flips := [], hostMem := [], arrays := [], parts := [] }, fun p => partOutline (s.part p))

section
variable {s s' : State}

theorem outline_st (h : outline s' = outline s) : s'.st = s.st := congrArg (fun x => State.st x.1) h
theorem outline_parked (h : outline s' = outline s) : s'.parked = s.parked := congrArg (fun x => State.parked x.1) h
theorem outline_cells (h : outline s' = outline s) : s'.cells = s.cells := congrArg (fun x => State.cells x.1) h
theorem outline_clusters (h : outline s' = outline s) : s'.clusters = s.clusters := congrArg (fun x => State.clusters x.1) h
theorem outline_cmds (h : outline s' = outline s) : s'.cmds = s.cmds := congrArg (fun x => State.cmds x.1) h
theorem outline_nextId (h : outline s' = outline s) : s'.nextId = s.nextId := congrArg (fun x => State.nextId x.1) h
theorem outline_dbg (h : outline s' = outline s) (p : Nat) : (s'.part p).dbg = (s.part p).dbg :=
  congrArg (fun x => Part.dbg (x.2 p)) h
theorem outline_launches (h : outline s' = outline s) (p : Nat) : (s'.part p).launches = (s.part p).launches :=
  congrArg (fun x => Part.launches (x.2 p)) h
theorem outline_claims (h : outline s' = outline s) (p : Nat) : (s'.part p).claims = (s.part p).claims :=
  congrArg (fun x => Part.claims (x.2 p)) h

/-- A change of a partition within what `partOutline` leaves out. -/
theorem outline_setPart {p : Nat} {x : Part} (h : partOutline x = partOutline (s.part p)) : outline (s.setPart p x) = outline s := by
  refine Prod.ext rfl (funext fun q => ?_)
  change partOutline ((s.setPart p x).part q) = partOutline (s.part q)
  by_cases hq : q = p
  · subst hq
    rw [part_setPart, h]
  · rw [part_setPart_ne s x hq]

theorem outline_raise (s : State) (p n : Nat) : outline (s.raise p n) = outline s :=
  outline_setPart (by dsimp only; split <;> rfl)

theorem outline_logError (s : State) (a : ArrayId) (addr kind : Nat) (inj : Bool) (syn : BitVec 8) (c : ErrCtx) (owner : Option Nat) :
    outline (s.logError a addr kind inj syn c owner) = outline s := by
  simp only [State.logError]
  split
  · split
    · exact outline_raise ..
    · rfl
  · rfl

theorem outline_findError (s : State) (w : Nat) (c : ErrCtx) : outline (s.findError w c) = outline s := by
  simp only [State.findError]
  split
  · rfl
  · split
    · rfl
    · split
      · exact outline_logError ..
      · exact outline_logError ..

theorem outline_findErrors (s : State) (c : ErrCtx) (w n : Nat) : outline (s.findErrors c w n) = outline s := by
  induction n generalizing s w with
  | zero => rfl
  | succ n ih => exact (ih ..).trans (outline_findError ..)

theorem outline_inject (s : State) (pa n : Nat) : outline (s.inject pa n) = outline s := by
  simp only [State.inject]
  split
  · rfl
  · split <;> rfl

theorem outline_readAt (s : State) (c : ErrCtx) (pa n : Nat) : outline (s.readAt c pa n).2.2 = outline s := by
  simp only [State.readAt]
  split
  · rfl
  · split
    · exact outline_findErrors ..
    · exact outline_findErrors ..

theorem outline_writeAt (s : State) (c : ErrCtx) (pa n x : Nat) : outline (s.writeAt c pa n x) = outline s := by
  simp only [State.writeAt]
  split
  · exact outline_inject ..
  · exact (outline_inject ..).trans (outline_findErrors ..)

theorem outline_meet (s : State) (pa n : Nat) : outline (s.meet pa n) = outline s := by
  unfold State.meet
  split
  · rfl
  · exact outline_findErrors ..

theorem outline_logEntry (s : State) (p point size entry : Nat) : outline (s.logEntry p point size entry) = outline s := by
  simp only [State.logEntry]
  split
  · rfl
  · split
    · exact outline_meet ..
    · split
      · exact (outline_writeAt ..).trans (outline_meet ..)
      · split
        · exact (outline_writeAt ..).trans ((outline_writeAt ..).trans ((outline_writeAt ..).trans (outline_meet ..)))
        · exact (outline_writeAt ..).trans ((outline_writeAt ..).trans (outline_meet ..))

theorem outline_logDone (s : State) (p point size entry : Nat) : outline (s.logDone p point size entry) = outline s := by
  simp only [State.logDone]
  split
  · refine Eq.trans (outline_setPart ?_) (outline_meet ..)
    rfl
  · exact outline_logEntry ..

theorem outline_ringWrite (s : State) (r : Ring) (ws : List Word) : outline (s.ringWrite r ws).1 = outline s := by
  simp only [State.ringWrite]
  split
  · rfl
  · split
    · rfl
    · exact outline_writeAt ..

theorem outline_setRing (s : State) (p d : Nat) (r : Ring) : outline (s.setRing p d r) = outline s := outline_setPart rfl

theorem outline_traceOn (s : State) (p d k slot cell : Nat) (flag : Bool) (corr w2 w3 time : Nat) :
    outline (s.traceOn p d k slot cell flag corr w2 w3 time) = outline s := by
  simp only [State.traceOn]
  split
  · refine (outline_setRing ..).trans ((outline_ringWrite ..).trans ?_)
    split
    · exact outline_ringWrite ..
    · rfl
  · rfl

theorem outline_traceStrand (s : State) (t : Strand) (k : Nat) (flag : Bool) (w2 w3 : Nat) :
    outline (s.traceStrand t k flag w2 w3) = outline s := outline_traceOn ..

end

end Sys2Proof.Proofs
end

section
namespace Sys2Proof.Proofs
open Sys2Proof Sys2Proof.Machine Sys2Proof.Safety Sys2Proof.Laws

/-! ### Departure and arrival of messages (O43) -/

section
variable {s : State} {cell n d : Nat}

theorem messageDeparture_departs {o : OutMsg} {rest : List OutMsg} (hhead : (s.cell cell).outbox = o :: rest)
    (hdest : o.dests.find? (fun d => decide (s.boxed d < 64)) = some d) :
    let left := o.dests.filter (· != d)
    let s1 := s.modCell cell fun c => { c with outbox := if left = [] then rest else { o with dests := left } :: rest }
    let key := o.msg.src * 2 ^ 20 + d
    let q := Tab.get (s.part o.msg.part).seqs 0 key
    exec (.messageDeparture cell) s = .next { s1.modPart o.msg.part (fun x => { x with seqs := Tab.set x.seqs key (q + 1) }) with
      flight := s.flight ++ [{ o.msg with
        id := s.nextId, dst := d, seq := q.toNat, sent := if o.msg.sent = 0 then s.nextId else o.msg.sent }]
      nextId := s.nextId + 1 } := by
  change execMessageDeparture cell s = _
  simp only [execMessageDeparture, hhead, hdest]
  rfl

/-- The count of discarded messages goes up by one and stays at its greatest value (R345). -/
theorem undeliverable_eq (s : State) (cell : Nat) : s.undeliverable cell = s.modCell cell fun c => { c with
    undeliverable := BitVec.ofNat 32 (min (c.undeliverable.toNat + 1) (2 ^ 32 - 1)) } := by
  have hcount : ∀ x : BitVec 32, (if x = BitVec.allOnes 32 then x else x + 1) = BitVec.ofNat 32 (min (x.toNat + 1) (2 ^ 32 - 1)) := by
    intro x
    by_cases hx : x = BitVec.allOnes 32
    · subst hx; decide
    · rw [if_neg hx]
      apply BitVec.eq_of_toNat_eq
      have hlt : x.toNat ≠ 2 ^ 32 - 1 := fun h => hx (BitVec.eq_of_toNat_eq (by simpa using h))
      have := x.isLt
      have hone : (1 : BitVec 32).toNat = 1 := rfl
      simp only [hone, BitVec.toNat_add, BitVec.toNat_ofNat]
      omega
  simp only [State.undeliverable, hcount]

variable {m : Msg}

theorem behind_of_message (h : ∃ y ∈ s.flight, y.src = m.src ∧ y.dst = m.dst ∧ y.id < m.id) : s.behind m = true := by
  obtain ⟨y, hy, hsrc, hdst, hid⟩ := h
  have hany : (s.flight.any fun y => y.src == m.src && y.dst == m.dst && decide (y.id < m.id)) = true :=
    List.any_eq_true.mpr ⟨y, hy, by simp [hsrc, hdst, hid]⟩
  simp [State.behind, hany]

theorem behind_of_access (hne : m.src ≠ m.dst) (h : ∃ x ∈ s.accs, ∃ u, x.done = false ∧ x.cell = m.src ∧
    homeCell x.pa = some m.dst ∧ x.id < m.sent ∧ s.strand? x.uid = some u ∧ s.entered x u = true) : s.behind m = true := by
  obtain ⟨x, hx, u, hdone, hcell, hhome, hid, hstrand, hentered⟩ := h
  have hany : s.accessTo m.src m.dst m.sent = true :=
    List.any_eq_true.mpr ⟨x, hx, by simp [hdone, hcell, hhome, hid, hstrand, hentered]⟩
  simp [State.behind, hne, hany]

theorem behind_of_reply (hne : m.src ≠ m.dst) (h : ∃ x ∈ s.accs, x.done = true ∧ x.fault = none ∧ x.cell = m.dst ∧
    homeCell x.pa = some m.src ∧ x.doneAt < m.sent) : s.behind m = true := by
  obtain ⟨x, hx, hdone, hfault, hcell, hhome, hid⟩ := h
  have hany : s.replyOn m.src m.dst m.sent = true :=
    List.any_eq_true.mpr ⟨x, hx, by simp [hdone, hfault, hcell, hhome, hid]⟩
  simp [State.behind, hne, hany]

theorem messageArrival_waits (hfind : s.flight.find? (fun y => y.id == n) = some m) (h : s.behind m = true) :
    exec (.messageArrival n) s = .next s := by
  change execMessageArrival n s = _
  simp [execMessageArrival, hfind, h]

theorem messageArrival_leaves (hfind : s.flight.find? (fun y => y.id == n) = some m) (h : s.behind m = false)
    (hdev : deviceOf m.dst ≠ s.boot.device.toNat) :
    exec (.messageArrival n) s = .next { s with flight := s.flight.filter fun y => y.id != n } := by
  change execMessageArrival n s = _
  simp [execMessageArrival, hfind, h, hdev]

/-- The machine without a message that was on its way. -/
def landed (s : State) (n : Nat) : State := { s with flight := s.flight.filter fun y => y.id != n }

/-- A message of a host is owed a result; one of a strand is not. -/
theorem oweMsg_strand (hhost : m.host = none) (s : State) (status : Nat) : s.oweMsg m status = s := by simp [State.oweMsg, hhost]

section
variable (hfind : s.flight.find? (fun y => y.id == n) = some m) (hhost : m.host = none) (hturn : s.behind m = false)
  (hdev : deviceOf m.dst = s.boot.device.toNat)
include hfind hhost hturn hdev

theorem messageArrival_lost (hlaunch : (s.part m.part).launch? m.launch = none) :
    exec (.messageArrival n) s = .next ((landed s n).undeliverable m.dst) := by
  change execMessageArrival n s = _
  simp only [execMessageArrival, hfind, hturn, hdev, hlaunch, oweMsg_strand hhost, Bool.false_eq_true, if_false, ne_eq, not_true_eq_false]
  rfl

variable {l : Launch} (hlaunch : (s.part m.part).launch? m.launch = some l)
include hlaunch

theorem messageArrival_boxed (hto : m.entry ≠ 0 ∨ m.kind ≠ .normal ∨ (s.rankOn m.part m.launch m.dst m.rank).isSome = true) :
    exec (.messageArrival n) s = .next (if (s.cell m.dst).inbox.length < 64 then
      ((landed s n).modCell m.dst fun c => { c with inbox := c.inbox ++ [m] }).modCluster (clusterOf m.dst) fun c => { c with arrived := true }
      else s) := by
  have hroom : ∀ a : State, (if (s.cell m.dst).inbox.length < 64 then (Host.Outcome.next a : Out) else .next s) =
      .next (if (s.cell m.dst).inbox.length < 64 then a else s) := fun a => by split <;> rfl
  change execMessageArrival n s = _
  simp only [execMessageArrival, hfind, hturn, hdev, hlaunch, oweMsg_strand hhost, Bool.false_eq_true, if_false, ne_eq, not_true_eq_false]
  by_cases hzero : m.entry = 0 ∧ m.kind = .normal
  · obtain ⟨u, hu⟩ := Option.isSome_iff_exists.mp ((hto.resolve_left (not_not_intro hzero.1)).resolve_left (not_not_intro hzero.2))
    rw [if_pos hzero, hu]
    exact hroom _
  · rw [if_neg hzero]
    exact hroom _

theorem messageArrival_gone (hentry : m.entry = 0) (hkind : m.kind = .normal) (hon : s.rankOn m.part m.launch m.dst m.rank = none)
    (hsiding : s.sidingFor m.part m.launch m.dst m.rank = none) :
    exec (.messageArrival n) s = .next ((landed s n).undeliverable m.dst) := by
  change execMessageArrival n s = _
  simp only [execMessageArrival, hfind, hturn, hdev, hlaunch, oweMsg_strand hhost, Bool.false_eq_true, if_false, ne_eq, not_true_eq_false,
    hentry, hkind, and_self, if_true, hon, hsiding]
  rfl

theorem messageArrival_follows {g : Siding} (hentry : m.entry = 0) (hkind : m.kind = .normal)
    (hon : s.rankOn m.part m.launch m.dst m.rank = none) (hsiding : s.sidingFor m.part m.launch m.dst m.rank = some g) :
    exec (.messageArrival n) s = .next { landed s n with sidings := s.sidings.map fun x =>
      if x.id = g.id then { x with items := x.items ++ [(some m.order, m.q15Words)] } else x } := by
  change execMessageArrival n s = _
  simp only [execMessageArrival, hfind, hturn, hdev, hlaunch, oweMsg_strand hhost, Bool.false_eq_true, if_false, ne_eq, not_true_eq_false,
    hentry, hkind, and_self, if_true, hon, hsiding]
  rfl

end

end

/-! ### The strand that a message starts (O43) -/

section
variable {s : State} {cell slot : Nat} {m : Msg} {l : Launch}

/-- The machine with the strand that a message starts in its slot, and the message out of the inbox. -/
def withStarted (s : State) (cell slot : Nat) (m : Msg) (l : Launch) : State :=
  { (s.unbox cell m.id).addStrand (m.strand s l cell slot) with nextId := s.nextId + 1 }

theorem withStarted_inbox : ((withStarted s cell slot m l).cell cell).inbox = (s.cell cell).inbox.filter fun y => y.id != m.id :=
  congrArg Cell.inbox (cell_modCell s cell fun c => { c with inbox := c.inbox.filter fun y => y.id != m.id })

/-- With no debugger on the partition a start hits no breakpoint (R344). -/
theorem hits_detached {x : Part} (h : x.dbg.attach = false) (atPc : Bool) (pc tag coord : Nat) : x.hits atPc pc tag coord = [] := by
  simp [Part.hits, h]

/-- Apart from counts, logs and traces the start of a message is its strand in the slot. -/
theorem startMsg_starts (hbank : Tab.has (s.cell cell).cbank (m.part * 2 ^ 32 + l.num) = true) (hattach : (s.part m.part).dbg.attach = false) :
    (s.startMsg cell slot m l).st = s.st ∧ (s.startMsg cell slot m l).parked = s.parked ++ [m.strand s l cell slot] ∧
      ((s.startMsg cell slot m l).cell cell).inbox = (s.cell cell).inbox.filter fun y => y.id != m.id := by
  let s1 := withStarted s cell slot m l
  let s2 := s1.modPart m.part fun p => p.modLaunch l.num fun y => { y with slotsUsed := y.slotsUsed + 1 }
  let t := m.strand s l cell slot
  let s3 := (s2.logDone m.part ((s2.part m.part).cellIndex cell) 8 m.order).traceStrand t 1 t.task.isSome
    (t.entry.toNat + t.tag.toNat * 2 ^ 40) t.coord.toNat
  have hout : outline s3 = outline s2 := (outline_traceStrand ..).trans (outline_logDone ..)
  have hdbg : (s3.part m.part).dbg.attach = false := by
    rw [outline_dbg hout, part_modPart]
    exact hattach
  have hcase : s.startMsg cell slot m l = s1 ∨ s.startMsg cell slot m l = s3 := by
    simp only [State.startMsg, copyBank_held hbank]
    cases hact : t.act with
    | false => exact .inl (if_neg Bool.false_ne_true)
    | true => exact .inr ((if_pos rfl).trans (if_pos (hits_detached hdbg ..)))
  rcases hcase with h | h <;> rw [h]
  · exact ⟨rfl, rfl, withStarted_inbox⟩
  · have hcell : s3.cell cell = s1.cell cell := by
      change Tab.get s3.cells _ _ = _
      rw [outline_cells hout]
      rfl
    exact ⟨(outline_st hout).trans rfl, (outline_parked hout).trans rfl, by rw [hcell]; exact withStarted_inbox⟩

/-- The low `n` bits of a word under a mask of ones. -/
theorem word_and_mask (x : Word) {n : Nat} (hn : n ≤ 64) : x &&& BitVec.ofNat 64 (2 ^ n - 1) = BitVec.ofNat 64 (x.toNat % 2 ^ n) := by
  apply BitVec.eq_of_toNat_eq
  have hpow : 2 ^ n ≤ 2 ^ 64 := Nat.pow_le_pow_right (by decide) hn
  have hpos : 0 < 2 ^ n := Nat.two_pow_pos n
  have hlt : x.toNat % 2 ^ n < 2 ^ n := Nat.mod_lt _ hpos
  rw [BitVec.toNat_and, BitVec.toNat_ofNat, BitVec.toNat_ofNat, Nat.mod_eq_of_lt (by omega), Nat.mod_eq_of_lt (by omega),
    Nat.and_two_pow_sub_one_eq_mod]

theorem msg_regs_get (k : Fin 32) : m.regs.get k =
    if 1 ≤ k.val ∧ k.val ≤ 6 then m.payload.getD (k.val - 1) 0
    else if k = 7 then BitVec.ofNat 64 (m.coord.toNat % 2 ^ 48)
    else if k = 8 then BitVec.ofNat 64 (m.tag.toNat + m.src % 2 ^ 20 * 2 ^ 16) else 0 := by
  simp only [Msg.regs, vector_get_ofFn, word_and_mask m.coord (show 48 ≤ 64 by decide), Fin.ext_iff]
  rfl

/-- The fields that every strand started by a message has, whatever its kind. -/
theorem msg_strand_fields :
    let t := m.strand s l cell slot
    t.uid = s.nextId ∧ t.cell = cell ∧ t.slot = slot ∧ t.status = .ready ∧ t.pc = m.entry ∧ t.launch = l.num ∧
      t.uab = l.uab ∧ t.wdog = l.eff.wdog ∧ t.rmode = l.eff.rmode ∧ t.handler = false ∧ t.vl = 0 ∧
      t.gtag = Vector.replicate 32 .raw ∧ t.g = m.regs := by
  simp only [Msg.strand]
  split <;> exact ⟨rfl, rfl, rfl, rfl, rfl, rfl, rfl, rfl, rfl, rfl, rfl, rfl, rfl⟩

theorem msg_strand_spawn (h : m.kind = .spawn) :
    (m.strand s l cell slot).act = false ∧ (m.strand s l cell slot).rank = BitVec.ofNat 32 m.coord.toNat := by
  simp only [Msg.strand, h]
  exact ⟨rfl, rfl⟩

theorem msg_strand_activation (h : m.kind ≠ .spawn) :
    (m.strand s l cell slot).act = true ∧ (m.strand s l cell slot).tag = m.tag ∧
      (m.strand s l cell slot).src = BitVec.ofNat 20 m.src ∧
      (m.strand s l cell slot).coord = BitVec.ofNat 64 (m.coord.toNat % 2 ^ 48) := by
  rw [← word_and_mask m.coord (show 48 ≤ 64 by decide)]
  simp [Msg.strand]

theorem activationStart_starts (hnext : s.firstEligible cell [] (s.cell cell).inbox = some m) (hslot : s.openSlot cell = some slot)
    (hlaunch : (s.part m.part).launch? m.launch = some l) : exec (.activationStart cell) s = .next (s.startMsg cell slot m l) := by
  change execActivationStart cell s = _
  simp only [execActivationStart, hnext, hslot, hlaunch]

end

/-! ### Delivery to handler 0 (O43) -/

section
variable {s : State} {cell : Nat} {m : Msg}

theorem handler0_delivers (hfind : (s.cell cell).inbox.find? (s.deliverable cell) = some m) {u : Strand}
    (hon : s.rankOn m.part m.launch cell m.rank = some u) (hrec : (s.part m.part).dbg.recording = false)
    (hrep : (s.part m.part).dbg.replaying = false) :
    exec (.handler0Delivery cell) s = .next ((s.unbox cell m.id).modStrand u.uid fun t => t.pushQ15 m.q15Words) := by
  change execHandler0Delivery cell s = _
  simp only [execHandler0Delivery, hfind, hon]
  rw [logDone_off (by exact hrec) (by exact hrep)]

theorem handler0_follows (hfind : (s.cell cell).inbox.find? (s.deliverable cell) = some m)
    (hon : s.rankOn m.part m.launch cell m.rank = none) {g : Siding} (hsiding : s.sidingFor m.part m.launch cell m.rank = some g) :
    exec (.handler0Delivery cell) s = .next { s.unbox cell m.id with sidings := s.sidings.map fun x =>
      if x.id = g.id then { x with items := x.items ++ [(some m.order, m.q15Words)] } else x } := by
  change execHandler0Delivery cell s = _
  simp only [execHandler0Delivery, hfind, hon, hsiding]
  rfl

theorem handler0_gone (hfind : (s.cell cell).inbox.find? (s.deliverable cell) = some m)
    (hon : s.rankOn m.part m.launch cell m.rank = none) (hsiding : s.sidingFor m.part m.launch cell m.rank = none) :
    exec (.handler0Delivery cell) s = .next ((s.unbox cell m.id).undeliverable cell) := by
  change execHandler0Delivery cell s = _
  simp only [execHandler0Delivery, hfind, hon, hsiding]

end

/-- Settles O43: departure, arrival, start and delivery are the equations above; the start's log and trace entries leave the
strands and the inbox as they are. -/
theorem messageEvents : Obligations.MessageEvents := by
  unfold Obligations.MessageEvents
  intro s cell n d slot o rest m l g gone
  refine ⟨messageDeparture_departs, fun hfind hhost => ?_, fun hnext hslot hlaunch hbank hattach => ?_, fun hfind => ⟨fun u hon hrec hrep =>
    handler0_delivers hfind hon hrec hrep, fun hon => handler0_follows hfind hon, fun hon hsiding =>
    (handler0_gone hfind hon hsiding).trans (congrArg _ (undeliverable_eq ..))⟩⟩
  · intro lost boxed on siding
    have hlost : (landed s n).undeliverable m.dst = lost := undeliverable_eq ..
    refine ⟨fun h => messageArrival_waits hfind (behind_of_message h), fun hne h => messageArrival_waits hfind (behind_of_access hne h),
      fun hne h => messageArrival_waits hfind (behind_of_reply hne h), messageArrival_leaves hfind, fun hturn hdev => ⟨fun hlaunch => ?_,
      messageArrival_boxed hfind hhost hturn hdev, fun hlaunch hentry hkind hon => ⟨fun hsiding => ?_,
      messageArrival_follows hfind hhost hturn hdev hlaunch hentry hkind hon⟩⟩⟩
    · rw [← hlost]
      exact messageArrival_lost hfind hhost hturn hdev hlaunch
    · rw [← hlost]
      exact messageArrival_gone hfind hhost hturn hdev hlaunch hentry hkind hon hsiding
  · obtain ⟨hst, hparked, hinbox⟩ := startMsg_starts (slot := slot) hbank hattach
    obtain ⟨huid, hcell, hslot', hstatus, hpc, hlaunch', huab, hwdog, hrmode, hhandler, hvl, hgtag, hg⟩ :=
      msg_strand_fields (s := s) (m := m) (l := l) (cell := cell) (slot := slot)
    refine ⟨_, _, activationStart_starts hnext hslot hlaunch, hst, hparked, hinbox, huid, hcell, hslot', hstatus, hpc, hlaunch', huab, hwdog,
      hrmode, hhandler, hvl, fun i => ⟨?_, ?_⟩, msg_strand_spawn, msg_strand_activation⟩
    · rw [hgtag]
      exact Vector.getElem_replicate i.isLt
    · rw [hg]
      exact msg_regs_get i

end Sys2Proof.Proofs
end

section
namespace Sys2Proof.Proofs
open Sys2Proof Sys2Proof.Machine Sys2Proof.Safety Sys2Proof.Laws

/-! ### Acceptance (O48) -/

section
variable {s s1 s2 : State} {p : Nat} {cmd : LaunchCmd} {rest : List LaunchCmd} {c : Machine.Chain} {ws : List Word}

theorem chain_tooDeep (h : c.stop = 1) : c.code s p cmd = 1 := by
  unfold Chain.code
  simp only [h, if_true]

/-- The machine with the first command of a partition's list taken. -/
def commandTaken (s : State) (p : Nat) (rest : List LaunchCmd) : State := s.setPart p { s.part p with pending := rest }

section
variable (hpending : (s.part p).pending = cmd :: rest) (hreset : (s.part p).resetting = none)
  (hchain : readChain (commandTaken s p rest) (s.part p).homeDie p cmd.asid cmd.rcb.toNat cmd.uab.toNat 8 = (s1, c))
include hpending hreset hchain

/-- Acceptance once the chain has been read. -/
theorem launchAccept_read : exec (.launchAccept p) s =
    if c.code s1 p cmd ≠ 0 then .next (s1.answer p cmd (c.code s1 p cmd) 0)
    else if c.stop ≠ 0 then .next (s1.answer p cmd 0x0B 0)
    else match engWords s1 (unitCtx (s.part p).homeDie p cmd.asid c.eff.cbankUab.toNat) c.eff.cbank.toNat 256 with
      | (s, .error _) => .next (s.answer p cmd 0x0B 0)
      | (s, .ok _) =>
        if cmd.fixed ∧ c.eff.gang ≠ 0 ∧ (cmd.first % 16 ≠ 0 ∨ clusterOf cmd.first % 2 ^ c.eff.gang ≠ 0) then
          .next (s.answer p cmd 0x0C 0)
        else
          .next ((s.modPart p fun x => { x with
            nextLaunch := (s.part p).nextLaunch + 1, launches := x.launches ++ [newLaunch (s.part p).nextLaunch cmd c]
            claims := if c.eff.clmLen = 0 ∨ 1024 ≤ x.claims.length then x.claims
              else x.claims ++ [((s.part p).nextLaunch, c.eff.seed, c.eff.clmFirst, c.eff.clmLen)] }).answer p cmd 0
                (s.part p).nextLaunch) := by
  change execLaunchAccept p s = _
  simp only [execLaunchAccept, hpending]
  rw [if_neg (by simp [hreset])]
  simp only [commandTaken] at hchain
  simp only [hchain] <;> rfl

theorem launchAccept_refuses (hcode : c.code s1 p cmd ≠ 0) :
    exec (.launchAccept p) s = .next (s1.answer p cmd (c.code s1 p cmd) 0) := by
  rw [launchAccept_read hpending hreset hchain, if_pos hcode]

variable (hcode : c.code s1 p cmd = 0) (hstop : c.stop = 0)
  (hbank : engWords s1 (unitCtx (s.part p).homeDie p cmd.asid c.eff.cbankUab.toNat) c.eff.cbank.toNat 256 = (s2, .ok ws))
include hcode hstop hbank

/-- A fixed cell set whose gang is not aligned (R287). -/
def crookedSet (cmd : LaunchCmd) (c : Machine.Chain) : Prop :=
  cmd.fixed = true ∧ c.eff.gang ≠ 0 ∧ (cmd.first % 16 ≠ 0 ∨ clusterOf cmd.first % 2 ^ c.eff.gang ≠ 0)

theorem launchAccept_crooked (h : crookedSet cmd c) : exec (.launchAccept p) s = .next (s2.answer p cmd 0x0C 0) := by
  rw [launchAccept_read hpending hreset hchain, if_neg (not_not_intro hcode), if_neg (not_not_intro hstop), hbank]
  exact if_pos h

theorem launchAccept_accepts (h : ¬crookedSet cmd c) : exec (.launchAccept p) s = .next ((s2.modPart p fun x => { x with
    nextLaunch := (s2.part p).nextLaunch + 1, launches := x.launches ++ [newLaunch (s2.part p).nextLaunch cmd c]
    claims := if c.eff.clmLen = 0 ∨ 1024 ≤ x.claims.length then x.claims
      else x.claims ++ [((s2.part p).nextLaunch, c.eff.seed, c.eff.clmFirst, c.eff.clmLen)] }).answer p cmd 0 (s2.part p).nextLaunch) := by
  rw [launchAccept_read hpending hreset hchain, if_neg (not_not_intro hcode), if_neg (not_not_intro hstop), hbank]
  exact if_neg h

end

end

/-! ### Placement and waking (O48) -/

section
variable {s : State} {p n cell : Nat} {l : Launch} {cs : List Nat}

theorem launchPlacement_places (hhead : s.queueHead p = some l) (hstage : l.stage = .queued) (hreset : (s.part p).resetting = none)
    (hending : (s.part p).ending l = false) (haccepted : s.accepting p l.num = false) (hset : s.chooseSet p l [] = some cs)
    (hroom : (s.part p).hbmUsed + l.eff.hbm ≤ (s.part p).quota) :
    exec (.launchPlacement p) s = .next (s.modPart p fun x => x.modLaunch l.num fun y =>
      { y with stage := .placing, cellSet := cs, placed := 0, hbmHeld := true }) := by
  change execLaunchPlacement p s = _
  simp [execLaunchPlacement, hhead, hstage, hreset, hending, haccepted, hset, Nat.not_lt.mpr hroom]

/-- Lists kept whole or not at all. -/
theorem flatMap_ite {α β : Type} (l : List α) (f : α → List β) (q : α → Bool) :
    (l.flatMap fun a => if q a then f a else []) = (l.filter q).flatMap f := by
  induction l with
  | nil => rfl
  | cons a r ih =>
    cases hq : q a <;> simp [hq, ih]

theorem take_of_room {pool : List Nat} {n : Nat} (h : (if n ≤ pool.length then some (pool.take n) else none) = some cs) :
    cs = pool.take n ∧ cs.length = n := by
  split at h
  · next hn =>
    cases h
    exact ⟨rfl, by simp [hn]⟩
  · cases h

/-- The lowest eligible cells (R287). -/
theorem chooseSet_cells (hstage : l.stage = .queued) (hset : s.chooseSet p l [] = some cs) (hfixed : l.fixed = false) (hgang : l.eff.gang = 0) :
    cs = ((s.cellsOf p).filter (s.cellEligible p l [])).take l.eff.cells ∧ cs.length = l.eff.cells := by
  simp only [State.chooseSet, hstage, hfixed, hgang, reduceCtorEq, Bool.false_eq_true, if_false, if_true] at hset
  exact take_of_room hset

/-- The lowest eligible gangs (R287). -/
theorem chooseSet_gangs (hstage : l.stage = .queued) (hset : s.chooseSet p l [] = some cs) (hfixed : l.fixed = false)
    (hgang : l.eff.gang ≠ 0) :
    let all (k : Nat) := (List.range (16 * 2 ^ l.eff.gang)).map (s.cellZero k + ·)
    cs = ((((s.part p).gangs l.eff.gang).filter fun k => (all k).all (s.cellEligible p l [])).flatMap all).take l.eff.cells ∧
      cs.length = l.eff.cells := by
  simp only [State.chooseSet, hstage, hfixed, hgang, reduceCtorEq, Bool.false_eq_true, if_false, flatMap_ite] at hset
  exact take_of_room hset

/-- The fixed set, when each of its cells is eligible (R287). -/
theorem chooseSet_fixed (hstage : l.stage = .queued) (hset : s.chooseSet p l [] = some cs) (hfixed : l.fixed = true) :
    (∀ k ∈ cs, s.cellEligible p l [] k = true) ∧
      cs = (List.range l.eff.cells).map ((if l.eff.gang = 0 then l.first else l.first / 16 * 16) + ·) := by
  simp only [State.chooseSet, hstage, hfixed, reduceCtorEq, if_false, if_true] at hset
  split at hset
  · next hall =>
    cases hset
    refine ⟨List.all_eq_true.mp hall, ?_⟩
    unfold fixedSet
    split <;> rfl
  · cases hset

section
variable (hfind : (s.part p).launches.find? (fun l => l.stage == .placing) = some l)
include hfind

theorem placementStep_next (h : l.placed + 1 < l.steps) :
    exec (.placementStep p) s = .next (s.modPart p fun x => x.modLaunch l.num fun y => { y with placed := y.placed + 1 }) := by
  change execPlacementStep p s = _
  simp only [execPlacementStep, hfind, h, if_true]

theorem placementStep_last (h : l.steps ≤ l.placed + 1) :
    exec (.placementStep p) s = .next (s.modPart p fun x => { x.modLaunch l.num (fun y => { y with
      placed := l.steps, stage := .woken, wakeDue := l.cellSet
      slotsUsed := y.slotsUsed + l.cellSet.length * (l.eff.spc + 1) }) with
      dead := x.dead.filter fun h => !(homesOf l.cellSet).contains h }) := by
  change execPlacementStep p s = _
  simp only [execPlacementStep, hfind, Nat.not_lt.mpr h, if_false]

end

theorem wakeMessage_wakes (hlaunch : (s.part p).launch? n = some l) (hstage : l.stage = .woken) (hdue : cell ∈ l.wakeDue)
    (hending : (s.part p).ending l = false) (hreset : (s.part p).resetting = none) :
    exec (.wakeMessage p n cell) s = .next ((s.modPart p fun x => x.modLaunch n fun y => { y with
      wakeDue := l.wakeDue.filter (· != cell)
      stage := if l.wakeDue.filter (· != cell) = [] then .running else .woken }).startResidents p l cell
        ((l.cellSet.filter (· < cell)).length * (l.eff.spc + 1)) (List.range (l.eff.spc + 1))) := by
  have hdue' : l.wakeDue.contains cell = true := List.contains_iff_mem.mpr hdue
  change execWakeMessage p n cell s = _
  simp only [execWakeMessage, hlaunch, hstage, hdue', hending, hreset, and_self, if_true]

end

/-! ### The end of a launch (O48) -/

section
variable {s : State} {p n : Nat} {l : Launch}

/-- What follows a result entry that has been written to the host: the tail of the queue, and the vector (R350). -/
def resultCounted (s : State) (p : Nat) : State :=
  (s.modPart p fun x => { x with fn := { x.fn with rqTail := x.fn.rqTail + 1 } }).raise p 0

theorem resultCounted_mem (s : State) (p : Nat) : (resultCounted s p).mem = s.mem := rfl

theorem outline_resultCounted (s : State) (p : Nat) : outline (resultCounted s p) = outline s :=
  (outline_raise ..).trans (outline_setPart rfl)

theorem outline_hostMem (s : State) (m : List Host.Cell) : outline { s with hostMem := m } = outline s := rfl

/-- The machine with one result entry written to the host (R350). -/
def resultWritten (s : State) (p : Nat) (r : Result) : State :=
  let f := (s.part p).fn
  resultCounted { s with hostMem := memPutWords s.hostMem (f.rqBase.toNat + f.rqTail.toNat % 2 ^ f.rqSize * 32) r.words } p

theorem resultWritten_mem (s : State) (p : Nat) (r : Result) : (resultWritten s p r).mem = s.mem := by
  rw [resultWritten, resultCounted_mem]

theorem outline_resultWritten (s : State) (p : Nat) (r : Result) : outline (resultWritten s p r) = outline s := by
  rw [resultWritten, outline_resultCounted, outline_hostMem]

theorem writeResults_room {r : Result} {rs : List Result} (h : (s.part p).fn.rqRoom = true) :
    s.writeResults p (r :: rs) = (resultWritten s p r).writeResults p rs := by
  rw [State.writeResults]
  exact if_pos h

theorem writeResults_full {r : Result} {rs : List Result} (h : ¬(s.part p).fn.rqRoom = true) :
    s.writeResults p (r :: rs) = s.modPart p fun x => { x with fn := { x.fn with results := r :: rs } } := by
  rw [State.writeResults]
  exact if_neg h

/-- Results written to the host leave everything but what `outline` leaves out. -/
theorem outline_writeResults (s : State) (p : Nat) (rs : List Result) : outline (s.writeResults p rs) = outline s := by
  induction rs generalizing s with
  | nil => exact outline_setPart rfl
  | cons r rs ih =>
    by_cases hroom : (s.part p).fn.rqRoom = true
    · rw [writeResults_room hroom, ih, outline_resultWritten]
    · rw [writeResults_full hroom]
      exact outline_setPart rfl

theorem writeResults_mem (s : State) (p : Nat) (rs : List Result) : (s.writeResults p rs).mem = s.mem := by
  induction rs generalizing s with
  | nil => rfl
  | cons r rs ih =>
    by_cases hroom : (s.part p).fn.rqRoom = true
    · rw [writeResults_room hroom, ih, resultWritten_mem]
    · rw [writeResults_full hroom]
      rfl

theorem outline_owe (s : State) (p : Nat) (r : Result) : outline (s.owe p r) = outline s :=
  (outline_writeResults ..).trans (outline_setPart rfl)

theorem owe_mem (s : State) (p : Nat) (r : Result) : (s.owe p r).mem = s.mem := writeResults_mem ..

theorem tab_has_erase {α : Type} (x : Tab α) (k : Nat) : Tab.has (Tab.erase x k) k = false := by
  simp [Tab.has, Tab.erase]

/-- The machine without the launch, its claims and its cells' copies of its constant bank. -/
def withoutLaunch (s : State) (p : Nat) (l : Launch) : State :=
  { s with cells := s.cells.map fun c : Nat × Cell => (c.1, { c.2 with cbank := Tab.erase c.2.cbank (p * 2 ^ 32 + l.num) }) }.modPart p
    fun x => { x with
      launches := x.launches.filter fun y => y.num != l.num
      claims := x.claims.filter fun c => c.1 != l.num
      regions := x.regions.map fun e : Nat × Region => (e.1, { e.2 with ownerLive := e.2.ownerLive && e.2.owner != l.num }) }

theorem endLaunch_eq (s : State) (p : Nat) (l : Launch) : s.endLaunch p l = match l.launcher with
    | some uid => (withoutLaunch s p l).notify uid 7 0 l.rcb.toNat l.num
    | none => if l.host then (withoutLaunch s p l).owe p ⟨2, 0, l.num, l.htag, 0⟩ else withoutLaunch s p l := by
  simp only [State.endLaunch]
  cases l.launcher <;> rfl

theorem withoutLaunch_cbank (k : Nat) : Tab.has ((withoutLaunch s p l).cell k).cbank (p * 2 ^ 32 + l.num) = false := by
  have hcell : (withoutLaunch s p l).cell k = { s.cell k with cbank := Tab.erase (s.cell k).cbank (p * 2 ^ 32 + l.num) } :=
    tab_get_map s.cells Cell.empty (fun c => { c with cbank := Tab.erase c.cbank (p * 2 ^ 32 + l.num) }) rfl k
  rw [hcell]
  exact tab_has_erase ..

theorem withoutLaunch_part : (withoutLaunch s p l).part p = { s.part p with
    launches := (s.part p).launches.filter fun y => y.num != l.num
    claims := (s.part p).claims.filter fun c => c.1 != l.num
    regions := (s.part p).regions.map fun e : Nat × Region => (e.1, { e.2 with ownerLive := e.2.ownerLive && e.2.owner != l.num }) } :=
  part_modPart ..

/-- What the notice of a launch's end leaves as it was. -/
theorem endLaunch_keeps (s : State) (p : Nat) (l : Launch) :
    let s' := s.endLaunch p l
    s'.mem = s.mem ∧ s'.st = s.st ∧ s'.parked = s.parked ∧ s'.cells = (withoutLaunch s p l).cells ∧
      (s'.part p).launches = ((withoutLaunch s p l).part p).launches ∧ (s'.part p).claims = ((withoutLaunch s p l).part p).claims := by
  intro s'
  have hs' : s' = _ := endLaunch_eq s p l
  rw [hs']
  cases l.launcher with
  | some uid =>
    obtain ⟨hmem, hst, hparked, hcells, -, -, -, hparts⟩ := notify_cmdsOnly (withoutLaunch s p l) uid 7 0 l.rcb.toNat l.num
    have hpart : ((withoutLaunch s p l).notify uid 7 0 l.rcb.toNat l.num).part p = (withoutLaunch s p l).part p := by
      simp only [State.part, hparts]
    exact ⟨hmem, hst, hparked, hcells, congrArg _ hpart, congrArg _ hpart⟩
  | none =>
    dsimp only
    split
    · have hout := outline_owe (withoutLaunch s p l) p ⟨2, 0, l.num, l.htag, 0⟩
      exact ⟨(owe_mem ..).trans rfl, (outline_st hout).trans rfl, (outline_parked hout).trans rfl, outline_cells hout,
        outline_launches hout p, outline_claims hout p⟩
    · exact ⟨rfl, rfl, rfl, rfl, rfl, rfl⟩

theorem launchEnd_ends (hlaunch : (s.part p).launch? n = some l) (hover : s.launchOver p l = true) (hending : (s.part p).ending l = false) :
    exec (.launchEnd p n) s = .next (s.endLaunch p l) := by
  change execLaunchEnd p n s = _
  simp only [execLaunchEnd, hlaunch, hover, hending, and_self, if_true]

theorem launch_num {x : Part} (h : x.launch? n = some l) : l.num = n := by
  simpa using List.find?_some h

end

/-- Settles O48: acceptance, placement and waking are the equations above; the end of a launch leaves the machine without it. -/
theorem launchEvents : Obligations.LaunchEvents := by
  unfold Obligations.LaunchEvents
  intro s s1 s2 p n cell cmd rest c l ws
  refine ⟨fun hpending hreset => ?_, fun hhead hstage hreset hending haccepted cs hset hroom => ⟨chooseSet_cells hstage hset,
    chooseSet_gangs hstage hset, chooseSet_fixed hstage hset, launchPlacement_places hhead hstage hreset hending haccepted hset hroom⟩,
    fun hfind => ⟨placementStep_next hfind, placementStep_last hfind⟩, wakeMessage_wakes, fun hlaunch hover hending => ?_⟩
  · intro s0 hchain
    exact ⟨chain_tooDeep, launchAccept_refuses hpending hreset hchain, fun hcode hstop hbank =>
      ⟨launchAccept_crooked hpending hreset hchain hcode hstop hbank, launchAccept_accepts hpending hreset hchain hcode hstop hbank⟩⟩
  · obtain rfl := launch_num hlaunch
    obtain ⟨hmem, hst, hparked, hcells, hlaunches, hclaims⟩ := endLaunch_keeps s p l
    rw [withoutLaunch_part] at hlaunches hclaims
    refine ⟨_, launchEnd_ends hlaunch hover hending, hmem, hst, hparked, hlaunches, hclaims, fun k => ?_, fun u hu hthere => ?_⟩
    · have hcell : (s.endLaunch p l).cell k = (withoutLaunch s p l).cell k := by simp only [State.cell, hcells]
      rw [hcell]
      exact withoutLaunch_cbank k
    · rw [endLaunch_eq, hu]
      have hthere' : ((withoutLaunch s p l).strand? u).isSome = true := hthere
      obtain ⟨y, hcmds, hkind, hstage, hstatus, hdaddr, hw2⟩ := notify_cmds hthere' 7 0 l.rcb.toNat l.num
      exact ⟨y, hcmds, hkind, hstage, hstatus, hdaddr.trans (by simp), hw2⟩

end Sys2Proof.Proofs
end

section
namespace Sys2Proof.Proofs
open Sys2Proof Sys2Proof.Machine Sys2Proof.Safety Sys2Proof.Laws

/-! ### Where frames and images stand (O49) -/

section
variable {s : State} {p : Nat}

theorem frameAt_slot {f : Nat} (h : f < 8 * (s.part p).cellCount) : s.frameAt p f = (s.part p).w 17 + 4096 * f := if_pos h

/-- A frame beyond those of the slots: its number in its unit, and the unit's among those of odd number. -/
theorem frameAt_unit {f : Nat} (h : 8 * (s.part p).cellCount ≤ f) : s.frameAt p f = (s.part p).w 17 + 4096 * (8 * (s.part p).cellCount +
    49 * (2 * ((f - 8 * (s.part p).cellCount) / 49) + 1)) + 4096 * ((f - 8 * (s.part p).cellCount) % 49) :=
  if_neg (Nat.not_lt.mpr h)

theorem imageAddr_eq (place : Nat) :
    s.imageAddr p place = (s.part p).w 17 + 4096 * (8 * (s.part p).cellCount + 49 * (2 * place)) := rfl

theorem frame_image_apart (f place : Nat) :
    s.frameAt p f + 4096 ≤ s.imageAddr p place ∨ s.imageAddr p place + 196672 ≤ s.frameAt p f := by
  rw [imageAddr_eq]
  by_cases h : f < 8 * (s.part p).cellCount
  · rw [frameAt_slot h]
    omega
  · rw [frameAt_unit (Nat.not_lt.mp h)]
    omega

theorem frames_apart {f g : Nat} (h : f ≠ g) :
    s.frameAt p f + 4096 ≤ s.frameAt p g ∨ s.frameAt p g + 4096 ≤ s.frameAt p f := by
  by_cases hf : f < 8 * (s.part p).cellCount <;> by_cases hg : g < 8 * (s.part p).cellCount
  · rw [frameAt_slot hf, frameAt_slot hg]
    omega
  · rw [frameAt_slot hf, frameAt_unit (Nat.not_lt.mp hg)]
    omega
  · rw [frameAt_unit (Nat.not_lt.mp hf), frameAt_slot hg]
    omega
  · rw [frameAt_unit (Nat.not_lt.mp hf), frameAt_unit (Nat.not_lt.mp hg)]
    omega

theorem images_apart {i j : Nat} (h : i < j) : s.imageAddr p i + 196672 ≤ s.imageAddr p j := by
  rw [imageAddr_eq, imageAddr_eq]
  omega

end

/-! ### The frame that a context takes (O49) -/

/-- The numbers below one more than a list's length are not all in the list. -/
theorem unusedFrom_not_mem (used : List Nat) : unusedFrom used ∉ used := by
  have hsome : ((List.range (used.length + 1)).find? fun n => !used.contains n).isSome = true := by
    rw [List.find?_isSome]
    by_contra hnone
    have hsub : List.range (used.length + 1) ⊆ used := fun n hn => by
      by_contra hmem
      exact hnone ⟨n, hn, by simpa using hmem⟩
    have := (List.subperm_of_subset List.nodup_range hsub).length_le
    simp at this
  obtain ⟨n, hn⟩ := Option.isSome_iff_exists.mp hsome
  have hfree := List.find?_some hn
  rw [unusedFrom, hn]
  simpa using hfree

section
variable {s : State} {t : Strand}

/-- The frames that other contexts of the partition hold. -/
def framesHeld (s : State) (t : Strand) : List Nat :=
  (s.strands.filter fun x => x.part == t.part && x.uid != t.uid).filterMap (·.frame)

theorem mem_framesHeld {f : Nat} :
    f ∈ framesHeld s t ↔ ∃ x ∈ s.strands, x.part = t.part ∧ x.uid ≠ t.uid ∧ x.frame = some f := by
  simp only [framesHeld, List.mem_filterMap, List.mem_filter, Bool.and_eq_true, beq_iff_eq, bne_iff_ne, ne_eq, and_assoc]

theorem chooseFrame_eq : s.chooseFrame t = if s.slotFrame t ∈ framesHeld s t then unusedFrom (framesHeld s t) else s.slotFrame t := by
  simp only [← List.contains_iff_mem]
  rfl

theorem chooseFrame_free : s.chooseFrame t ∉ framesHeld s t := by
  rw [chooseFrame_eq]
  split
  · exact unusedFrom_not_mem _
  · next h => exact h

end

/-! ### STRAND_SPILL (O49) -/

section
variable {s : State}

theorem quiet_mem (h : Quiet s) (m : List Host.Cell) : Quiet { s with mem := m } := h

/-- Without errors and injection registers a write is a write of memory. -/
theorem writeAt_quiet (h : Quiet s) (c : ErrCtx) (pa n x : Nat) : s.writeAt c pa n x = { s with mem := memWrite s.mem pa n x } := by
  obtain ⟨hflips, hpoison, harrays⟩ := h
  simp [State.writeAt, hflips, hpoison, State.inject, harrays]

theorem writeWords_quiet (h : Quiet s) (a : Nat) (ws : List Word) : s.writeWords a ws = { s with mem := memPutWords s.mem a ws } := by
  induction ws generalizing s a with
  | nil => rfl
  | cons w ws ih =>
    rw [State.writeWords, writeAt_quiet h, ih (quiet_mem h _)]
    rfl

theorem putFrame_quiet (h : Quiet s) {t : Strand} (hbad : t.badWords = []) (a : Nat) :
    s.putFrame a t = { s with mem := memPutWords s.mem a t.frameWords } := by
  simp only [State.putFrame, State.putWords, hbad, if_true, writeWords_quiet h]

theorem focus_self : s.focus s.st.uid = s := by simp [State.focus]

theorem strand_self (h : s.st.status ≠ .free) : s.strand? s.st.uid = some s.st := by
  simp [State.strand?, State.strands, h]

/-- A strand that is at a boundary has nothing to be taken back (R292). -/
theorem takeBack_idle (hready : s.st.status = .ready) (hvq : s.st.vq = []) (htop : s.st.top = none) : s.takeBack = s := by
  have hwithdraw : s.withdraw = s := by simp only [State.withdraw, hready]
  have hpull : s.pullBack = s := by simp only [State.pullBack, hvq]
  rw [State.takeBack, hwithdraw, hpull]
  obtain ⟨⟩ := s
  simp only at htop
  rw [← htop]

theorem canStop_idle (hready : s.st.status = .ready) (hvq : s.st.vq = []) (htop : s.st.top = none) : s.canStop s.st = true := by
  simp [State.canStop, Strand.passed, Strand.midStore, hready, hvq, htop]

theorem atRest_idle (hcount : s.st.tileCount = 0) (haccs : ∀ x ∈ s.accs, x.uid ≠ s.st.uid) : s.atRest s.st = true := by
  simpa [State.atRest, hcount] using haccs

/-- A launch that is changed in its place, under the number that it keeps. -/
theorem modLaunch_launch {x : Part} {n : Nat} {l : Launch} {f : Launch → Launch} (h : x.launch? n = some l) (hf : (f l).num = l.num) :
    (x.modLaunch n f).launch? n = some (f l) := by
  simp only [Part.launch?, Part.modLaunch] at h ⊢
  generalize x.launches = ls at h ⊢
  induction ls with
  | nil => cases h
  | cons y ys ih =>
    by_cases hy : y.num = n
    · rw [List.find?_cons_of_pos (by simpa using hy)] at h
      cases h
      rw [List.map_cons, if_pos hy, List.find?_cons_of_pos (by simpa [hf] using hy)]
    · rw [List.find?_cons_of_neg (by simpa using hy)] at h
      rw [List.map_cons, if_neg hy, List.find?_cons_of_neg (by simpa using hy)]
      exact ih h

/-- The strand in focus as it stands in its frame. -/
def framed (s : State) : Strand := { s.st with frame := some (s.chooseFrame s.st) }

theorem spillFocus_quiet (hquiet : Quiet s) (hbad : s.st.badWords = []) (halted : Bool) :
    let s1 := s.spillFocus halted
    s1.parked = s.parked ∧ s1.st = { framed s with status := .spilled halted } ∧
      s1.mem = memPutWords s.mem (s.frameAt s.st.part (s.chooseFrame s.st)) s.st.frameWords ∧
      (∀ l, s.st.act = true → s.launchOf s.st = some l →
        (s1.part s.st.part).launch? s.st.launch = some { l with slotsUsed := l.slotsUsed - 1 }) := by
  intro s1
  have hput : s.putFrame (s.frameAddr (framed s)) (framed s) =
      { s with mem := memPutWords s.mem (s.frameAt s.st.part (s.chooseFrame s.st)) s.st.frameWords } := putFrame_quiet hquiet hbad _
  let s2 : State := { s.putFrame (s.frameAddr (framed s)) (framed s) with st := { framed s with status := .spilled halted } }
  have hs2 : s2 = { s with
      mem := memPutWords s.mem (s.frameAt s.st.part (s.chooseFrame s.st)) s.st.frameWords
      st := { framed s with status := .spilled halted } } := by
    simp only [s2, hput]
  have hs1 : s1 = if s.st.act then
      s2.modPart s.st.part fun x => x.modLaunch s.st.launch fun l => { l with slotsUsed := l.slotsUsed - 1 } else s2 := rfl
  rw [hs2] at hs1
  generalize memPutWords s.mem (s.frameAt s.st.part (s.chooseFrame s.st)) s.st.frameWords = m at hs1 ⊢
  cases hact : s.st.act with
  | false =>
    rw [hact, if_neg Bool.false_ne_true] at hs1
    rw [hs1]
    exact ⟨rfl, rfl, rfl, fun l h => nomatch h⟩
  | true =>
    rw [hact, if_pos rfl] at hs1
    rw [hs1]
    refine ⟨rfl, rfl, rfl, fun l _ hl => ?_⟩
    rw [part_modPart]
    exact modLaunch_launch hl rfl

theorem strandSpill_spills {l : Launch} (hlaunch : s.launchOf s.st = some l) (hstage : l.stage = .suspended) (hready : s.st.status = .ready)
    (hvq : s.st.vq = []) (hcount : s.st.tileCount = 0) (htop : s.st.top = none) (haccs : ∀ x ∈ s.accs, x.uid ≠ s.st.uid) :
    exec (.strandSpill s.st.uid) s = .next ((s.spillFocus false).saveTiles s.st.part l) := by
  have hself : s.strand? s.st.uid = some s.st := strand_self (by rw [hready]; decide)
  have hslot : s.st.inSlot = true := by simp [Strand.inSlot, hready]
  change execStrandSpill s.st.uid s = _
  simp [execStrandSpill, hself, hlaunch, hstage, hslot, canStop_idle hready hvq htop, focus_self, takeBack_idle hready hvq htop,
    atRest_idle hcount haccs, hready]

end

/-! ### CONTEXT_RESTORE (O49) -/

section
variable {s : State} {t : Strand} {n slot : Nat} {h : Bool} {l : Launch}

theorem strand_uid (hs : s.strand? n = some t) : t.uid = n := by
  have hp := List.find?_some hs
  simp only [Bool.and_eq_true, beq_iff_eq] at hp
  exact hp.1

/-- With no word in error a frame is read as it stands, and none of it is poisoned. -/
theorem frameBads_none (hpoison : s.poison = []) (a : Nat) : s.frameBads a = [] := by
  simp [State.frameBads, hpoison]

theorem meet_quiet (hflips : s.flips = []) (pa k : Nat) : s.meet pa k = s := by simp [State.meet, hflips]

theorem contextRestore_goes (hs : s.strand? n = some t) (hst : t.status = .spilled h) (hslot : s.openSlot t.cell = some slot)
    (hlaunch : s.launchOf t = some l) (hruns : (s.part t.part).runs l = true) :
    exec (.contextRestore n) s = .next (s.restoreStrand t h slot) := by
  change execContextRestore n s = _
  simp only [execContextRestore, hs, hst, hslot, hlaunch, hruns, if_true]

/-- The strand as its frame gives it, in its new slot. -/
def restored (s : State) (t : Strand) (h : Bool) (slot : Nat) : Strand :=
  { t.load (memWords s.mem (s.frameAddr t) 512) with
    status := if h then .halted else .ready, slot := slot, frame := none, age := 0, waited := 0, bpDone := h && t.bpDone }

theorem restoreStrand_takes (huid : t.uid = n) (hflips : s.flips = []) (hpoison : s.poison = [])
    (hgood : frameBad (memWords s.mem (s.frameAddr t) 512) = false) :
    let t1 := restored s t h slot
    s.restoreStrand t h slot = if t1.act = true then
      (s.modStrand n fun _ => t1).modPart t.part fun x => x.modLaunch t1.launch fun l => { l with slotsUsed := l.slotsUsed + 1 }
      else s.modStrand n fun _ => t1 := by
  subst huid
  simp only [State.restoreStrand, meet_quiet hflips, hgood, Bool.false_eq_true, if_false, frameBads_none hpoison, Strand.markBad, if_true]
  rfl

theorem restoreStrand_refuses (hflips : s.flips = []) (hbad : frameBad (memWords s.mem (s.frameAddr t) 512) = true) :
    s.restoreStrand t h slot = s.fatal t.part t.launch t.cell t.slot t.uid 0x0303 t.pc (BitVec.ofNat 64 (s.frameAddr t)) := by
  simp only [State.restoreStrand, meet_quiet hflips, hbad, if_true]

end

/-! ### LAUNCH_RESTORE (O49) -/

section
variable {s : State} {p n : Nat} {l : Launch}

theorem outline_readMasked (s : State) (c : ErrCtx) (pa k : Nat) : outline (s.readMasked c pa k).2.2 = outline s := by
  induction k generalizing s pa with
  | zero => rfl
  | succ k ih => exact (ih ..).trans (outline_readAt ..)

theorem outline_make (r : EngRead) (s : State) (c : ErrCtx) : outline (r.make s c).2 = outline s := by
  unfold EngRead.make
  split
  · exact outline_readMasked ..
  · exact outline_readAt ..

theorem outline_makeReads (s : State) (c : ErrCtx) (rs : List EngRead) : outline (makeReads s c rs).2 = outline s := by
  induction rs generalizing s with
  | nil => rfl
  | cons r rs ih => exact (ih ..).trans (outline_make ..)

theorem outline_getImage (s : State) (a : Nat) : outline (s.getImage a).2 = outline s := by
  unfold State.getImage
  generalize imageReads _ = rs
  have hreads := outline_makeReads s ErrCtx.engine rs
  generalize makeReads s ErrCtx.engine rs = got at hreads ⊢
  obtain ⟨got, s1⟩ := got
  generalize joinImage 0 got = x
  obtain ⟨img, bads⟩ := x
  dsimp only
  split
  · exact hreads
  · split <;> exact hreads

theorem outline_strands {s' : State} (h : outline s' = outline s) : s'.strands = s.strands :=
  congrArg₂ List.cons (outline_st h) (outline_parked h)

theorem modCluster_strands (s : State) (k : Nat) (f : Cluster → Cluster) : (s.modCluster k f).strands = s.strands := rfl

theorem tilePut_strands (s : State) (k m : Nat) (x : Tile) (q : Nat → Bool) : (s.tilePut k m x q).strands = s.strands := by
  simp only [State.tilePut]
  split <;> rfl

theorem fatal_strands (s : State) (p launch cell slot uid cause : Nat) (pc : BitVec 40) (addr : Word) :
    (s.fatal p launch cell slot uid cause pc addr).strands = s.strands := by
  simp only [State.fatal]
  split <;> rfl

/-- A tile that goes back, or the fault of its image, leaves the strands as they are. -/
theorem restoreTile_strands (s : State) (p : Nat) (l : Launch) (e : Nat × Nat × Nat) : (s.restoreTile p l e).strands = s.strands := by
  unfold State.restoreTile
  extract_lets a
  have hout := outline_getImage s a
  generalize s.getImage a = r at hout ⊢
  split
  · exact (modCluster_strands ..).trans ((tilePut_strands ..).trans (outline_strands hout))
  · exact (fatal_strands ..).trans (outline_strands hout)

theorem restoreTiles_strands (s : State) (p : Nat) (l : Launch) (es : List (Nat × Nat × Nat)) :
    (es.foldl (fun s e => s.restoreTile p l e) s).strands = s.strands := by
  induction es generalizing s with
  | nil => rfl
  | cons e es ih =>
    rw [List.foldl_cons, ih]
    exact restoreTile_strands ..

theorem modPart_strands (s : State) (p : Nat) (f : Part → Part) : (s.modPart p f).strands = s.strands := rfl

theorem launchRestore_runs (hhead : s.queueHead p = some l) (hnum : l.num = n) (hstage : l.stage = .suspended)
    (hset : (s.chooseSet p l []).isSome = true) (hending : (s.part p).ending l = false) (hreset : (s.part p).resetting = none)
    (hnone : ∀ t ∈ s.strands, t.part = p → t.launch ≠ n) :
    exec (.launchRestore p n) s = .next ((l.savedTiles.foldl (fun s e => s.restoreTile p l e) s).modPart p fun x =>
      { x.modLaunch n fun y => { y with savedTiles := [], stage := if y.wakeDue = [] then .running else .woken } with
        dead := x.dead.filter fun h => !(homesOf l.cellSet).contains h }) := by
  have hempty : s.strands.filter (fun t => t.part == p && t.launch == n) = [] := by
    rw [List.filter_eq_nil_iff]
    intro t ht
    simpa using hnone t ht
  have hback := restoreTiles_strands s p l l.savedTiles
  change execLaunchRestore p n s = _
  simp only [execLaunchRestore, hhead, hnum, hstage, hset, hending, hreset, and_self, if_true]
  generalize l.savedTiles.foldl (fun s e => s.restoreTile p l e) s = s1 at hback ⊢
  rw [modPart_strands, hback, hempty, List.foldl_nil]

/-- A tile whose image is valid is the tile of the image. -/
theorem restoreTile_tile {k m place : Nat} {x : Tile} (h : s.getImage (s.imageAddr p place) = (.ok x, s)) :
    ((s.restoreTile p l (k, m, place)).cluster k).tile m = x := by
  unfold State.restoreTile
  extract_lets a
  have ha : s.getImage a = (.ok x, s) := h
  rw [ha]
  exact (congrArg (fun c => Cluster.tile c m) (cluster_modCluster ..)).trans (tile_setTile ..)

end

end Sys2Proof.Proofs
end

section
namespace Sys2Proof.Proofs
open Sys2Proof Sys2Proof.Machine Sys2Proof.Safety Sys2Proof.Laws

/-! ### Digits -/

/-- Digits below `b` make a number below `b ^ n`. -/
theorem digits_lt {b : Nat} {g : Nat → Nat} (hg : ∀ i, g i < b) (n : Nat) : ((List.range n).map fun i => g i * b ^ i).sum < b ^ n := by
  induction n with
  | zero => simp
  | succ n ih =>
    have hlast : (g n + 1) * b ^ n ≤ b * b ^ n := Nat.mul_le_mul_right _ (hg n)
    rw [Nat.add_mul, Nat.one_mul] at hlast
    simp only [List.range_succ, List.map_append, List.sum_append, List.map_cons, List.map_nil, List.sum_cons, List.sum_nil, pow_succ']
    omega

/-- Digit `j` of a number made of digits. -/
theorem digit_of_digits {b : Nat} {g : Nat → Nat} (hg : ∀ i, g i < b) {n j : Nat} (hj : j < n) :
    ((List.range n).map fun i => g i * b ^ i).sum / b ^ j % b = g j := by
  have hpos : 0 < b := Nat.lt_of_le_of_lt (Nat.zero_le _) (hg 0)
  induction n with
  | zero => omega
  | succ n ih =>
    simp only [List.range_succ, List.map_append, List.sum_append, List.map_cons, List.map_nil, List.sum_cons, List.sum_nil, Nat.add_zero]
    rcases Nat.lt_succ_iff_lt_or_eq.mp hj with hlt | rfl
    · obtain ⟨k, rfl⟩ := Nat.exists_eq_add_of_lt hlt
      have hsplit : g (j + k + 1) * b ^ (j + k + 1) = b ^ j * (b * (g (j + k + 1) * b ^ k)) := by ring
      rw [hsplit, Nat.add_mul_div_left _ _ (Nat.pow_pos hpos), Nat.add_mul_mod_self_left, ih hlt]
    · rw [Nat.mul_comm (g j), Nat.add_mul_div_left _ _ (Nat.pow_pos hpos), Nat.div_eq_of_lt (digits_lt hg j), Nat.zero_add,
        Nat.mod_eq_of_lt (hg j)]

/-- A number is made of its digits. -/
theorem digits_of_number (b x n : Nat) : ((List.range n).map fun i => x / b ^ i % b * b ^ i).sum = x % b ^ n := by
  induction n with
  | zero => simp [Nat.mod_one]
  | succ n ih =>
    simp only [List.range_succ, List.map_append, List.sum_append, List.map_cons, List.map_nil, List.sum_cons, List.sum_nil, Nat.add_zero, ih]
    rw [Nat.mod_pow_succ, Nat.mul_comm]

/-! ### Blocks of words -/

theorem getD_block {pre mid post : List Word} {k i : Nat} (hk : pre.length = k) (hi : i < mid.length) :
    (pre ++ mid ++ post).getD (k + i) 0 = mid.getD i 0 := by
  subst hk
  rw [List.append_assoc, List.getD_append_right _ _ _ _ (by omega), Nat.add_sub_cancel_left, List.getD_append _ _ _ _ hi]

/-- Word `j` of the `i`th of some blocks of `k` words. -/
theorem getD_flatMap_range {f : Nat → List Word} {k : Nat} (hk : ∀ i, (f i).length = k) {n i j : Nat} (hi : i < n) (hj : j < k) :
    ((List.range n).flatMap f).getD (k * i + j) 0 = (f i).getD j 0 := by
  have hlen : ∀ n, ((List.range n).flatMap f).length = k * n := fun n => by
    induction n with
    | zero => simp
    | succ n ih => simp [List.range_succ, ih, hk, Nat.mul_succ]
  induction n with
  | zero => omega
  | succ n ih =>
    rw [List.range_succ, List.flatMap_append, List.flatMap_singleton]
    rcases Nat.lt_succ_iff_lt_or_eq.mp hi with hlt | rfl
    · have hbefore : k * i + j < ((List.range n).flatMap f).length := by
        rw [hlen]
        calc k * i + j < k * i + k := by omega
          _ = k * (i + 1) := by ring
          _ ≤ k * n := Nat.mul_le_mul_left _ hlt
      rw [List.getD_append _ _ _ _ hbefore, ih hlt]
    · rw [List.getD_append_right _ _ _ _ (by rw [hlen]; omega), hlen, Nat.add_sub_cancel_left]

theorem getD_map_range (f : Nat → Word) {n i : Nat} (hi : i < n) : ((List.range n).map f).getD i 0 = f i := by
  simp [List.getD_eq_getElem?_getD, hi]

theorem words512_length (x : BitVec 512) : (words512 x).length = 8 := by simp [words512]

theorem words512_getD (x : BitVec 512) {j : Nat} (hj : j < 8) : (words512 x).getD j 0 = BitVec.ofNat 64 (x.toNat / 2 ^ (64 * j)) :=
  getD_map_range _ hj

theorem nibbles_length (n : Nat) (f : Nat → Nat) : (nibbles n f).length = n := by simp [nibbles]

/-- A nibble of packed words. -/
theorem nibbles_digit (f : Nat → Nat) {n i : Nat} (hi : i < 16 * n) :
    ((nibbles n f).getD (i / 16) 0).toNat / 16 ^ (i % 16) % 16 = f i % 16 := by
  have hlt : ((List.range 16).map fun j => f (16 * (i / 16) + j) % 16 * 16 ^ j).sum < 2 ^ 64 :=
    digits_lt (g := fun j => f (16 * (i / 16) + j) % 16) (fun _ => Nat.mod_lt _ (by decide)) 16
  rw [nibbles, getD_map_range _ (by omega), BitVec.toNat_ofNat, Nat.mod_eq_of_lt hlt,
    digit_of_digits (g := fun j => f (16 * (i / 16) + j) % 16) (fun _ => Nat.mod_lt _ (by decide)) (Nat.mod_lt i (by decide)), Nat.div_add_mod]

/-- A register joined from its words. -/
theorem join512_of_words {ws : List Word} {base : Nat} {x : BitVec 512}
    (h : ∀ j, j < 8 → ws.getD (base + j) 0 = BitVec.ofNat 64 (x.toNat / 2 ^ (64 * j))) : join512 ws base = x := by
  have hsum : ((List.range 8).map fun i => wordAt ws (base + i) * 2 ^ (64 * i)).sum = x.toNat := by
    have hlt : x.toNat < (2 ^ 64) ^ 8 := by
      rw [← pow_mul]
      exact x.isLt
    have hdigits := digits_of_number (2 ^ 64) x.toNat 8
    rw [Nat.mod_eq_of_lt hlt] at hdigits
    rw [← hdigits]
    refine congrArg List.sum (List.map_congr_left fun j hj => ?_)
    rw [wordAt, h j (List.mem_range.mp hj), BitVec.toNat_ofNat, ← pow_mul]
  rw [join512, hsum]
  simp

/-! ### The words of a frame (O49) -/

section
variable (t : Strand)

/-- The blocks of a frame: its first 20 words, the tags, the registers, and the rest. -/
theorem frameWords_blocks : ∃ head queueTags queues tail : List Word, head.length = 20 ∧ queueTags.length = 2 ∧ queues.length = 32 ∧
    tail.length = 3 ∧ t.frameWords = head ++ nibbles 2 (fun i => (t.gtag[i]?.getD .raw).code) ++
      nibbles 2 (fun i => (t.vtag[i]?.getD .raw).code) ++ queueTags ++ List.replicate 6 0 ++
      (List.range 32).map (fun i => if i = 0 then 0 else t.g[i]?.getD 0) ++ queues ++
      (List.range 32).flatMap (fun i => words512 (t.v[i]?.getD 0)) ++
      (List.range 8).flatMap (fun i => words512 (t.m[i]?.getD 0)) ++ tail ++ List.replicate 93 0 := by
  unfold Strand.frameWords
  exact ⟨_, _, _, _, rfl, nibbles_length .., by simp, rfl, rfl⟩

theorem flatMap_words512_length (n : Nat) (f : Nat → BitVec 512) : ((List.range n).flatMap fun i => words512 (f i)).length = 8 * n := by
  simp [List.length_flatMap, words512_length, Nat.mul_comm]

theorem frameWords_length : t.frameWords.length = 512 := by
  obtain ⟨head, queueTags, queues, tail, hhead, hqueueTags, hqueues, htail, hwords⟩ := frameWords_blocks t
  rw [hwords]
  simp only [List.length_append, nibbles_length, List.length_replicate, List.length_map, List.length_range, flatMap_words512_length, hhead,
    hqueueTags, hqueues, htail]

/-- Where the blocks of tags and registers stand in a frame. -/
theorem frameWords_places :
    (∃ pre post, pre.length = 20 ∧ t.frameWords = pre ++ nibbles 2 (fun i => (t.gtag[i]?.getD .raw).code) ++ post) ∧
    (∃ pre post, pre.length = 22 ∧ t.frameWords = pre ++ nibbles 2 (fun i => (t.vtag[i]?.getD .raw).code) ++ post) ∧
    (∃ pre post, pre.length = 32 ∧ t.frameWords = pre ++ (List.range 32).map (fun i => if i = 0 then 0 else t.g[i]?.getD 0) ++ post) ∧
    (∃ pre post, pre.length = 96 ∧ t.frameWords = pre ++ (List.range 32).flatMap (fun i => words512 (t.v[i]?.getD 0)) ++ post) ∧
    (∃ pre post, pre.length = 352 ∧ t.frameWords = pre ++ (List.range 8).flatMap (fun i => words512 (t.m[i]?.getD 0)) ++ post) := by
  obtain ⟨head, queueTags, queues, tail, hhead, hqueueTags, hqueues, htail, hwords⟩ := frameWords_blocks t
  rw [hwords]
  have hgtags := nibbles_length 2 fun i => (t.gtag[i]?.getD .raw).code
  have hvtags := nibbles_length 2 fun i => (t.vtag[i]?.getD .raw).code
  have hregs : ((List.range 32).map fun i => if i = 0 then 0 else t.g[i]?.getD 0).length = 32 := by simp
  have hvs := flatMap_words512_length 32 fun i => t.v[i]?.getD 0
  generalize nibbles 2 (fun i => (t.gtag[i]?.getD .raw).code) = gtags at hgtags ⊢
  generalize nibbles 2 (fun i => (t.vtag[i]?.getD .raw).code) = vtags at hvtags ⊢
  generalize (List.range 32).map (fun i => if i = 0 then 0 else t.g[i]?.getD 0) = regs at hregs ⊢
  generalize (List.range 32).flatMap (fun i => words512 (t.v[i]?.getD 0)) = vs at hvs ⊢
  generalize (List.range 8).flatMap (fun i => words512 (t.m[i]?.getD 0)) = ms
  refine ⟨⟨head, vtags ++ queueTags ++ List.replicate 6 0 ++ regs ++ queues ++ vs ++ ms ++ tail ++ List.replicate 93 0, hhead, ?_⟩,
    ⟨head ++ gtags, queueTags ++ List.replicate 6 0 ++ regs ++ queues ++ vs ++ ms ++ tail ++ List.replicate 93 0, ?_, ?_⟩,
    ⟨head ++ gtags ++ vtags ++ queueTags ++ List.replicate 6 0, queues ++ vs ++ ms ++ tail ++ List.replicate 93 0, ?_, ?_⟩,
    ⟨head ++ gtags ++ vtags ++ queueTags ++ List.replicate 6 0 ++ regs ++ queues, ms ++ tail ++ List.replicate 93 0, ?_, ?_⟩,
    ⟨head ++ gtags ++ vtags ++ queueTags ++ List.replicate 6 0 ++ regs ++ queues ++ vs, tail ++ List.replicate 93 0, ?_, ?_⟩⟩
  all_goals simp only [List.append_assoc, List.length_append, List.length_replicate, hhead, hgtags, hvtags, hqueueTags, hregs, hqueues, hvs]

theorem frameWords_gtag {i : Nat} (hi : i < 32) : frameTag t.frameWords 20 i = Fmt.ofCode ((t.gtag[i]?.getD .raw).code % 16) := by
  obtain ⟨⟨pre, post, hpre, hwords⟩, -⟩ := frameWords_places t
  rw [frameTag, wordAt, hwords, getD_block hpre (by rw [nibbles_length]; omega), nibbles_digit _ (by omega)]

theorem frameWords_vtag {i : Nat} (hi : i < 32) : frameTag t.frameWords 22 i = Fmt.ofCode ((t.vtag[i]?.getD .raw).code % 16) := by
  obtain ⟨-, ⟨pre, post, hpre, hwords⟩, -⟩ := frameWords_places t
  rw [frameTag, wordAt, hwords, getD_block hpre (by rw [nibbles_length]; omega), nibbles_digit _ (by omega)]

theorem frameWords_g {i : Nat} (hi : i < 32) : t.frameWords.getD (32 + i) 0 = if i = 0 then 0 else t.g[i]?.getD 0 := by
  obtain ⟨-, -, ⟨pre, post, hpre, hwords⟩, -⟩ := frameWords_places t
  rw [hwords, getD_block hpre (by simpa using hi), getD_map_range _ hi]

theorem frameWords_v {i : Nat} (hi : i < 32) : join512 t.frameWords (96 + 8 * i) = t.v[i]?.getD 0 := by
  obtain ⟨-, -, -, ⟨pre, post, hpre, hwords⟩, -⟩ := frameWords_places t
  refine join512_of_words fun j hj => ?_
  rw [hwords, Nat.add_assoc, getD_block hpre (by rw [flatMap_words512_length]; omega), getD_flatMap_range (fun _ => words512_length _) hi hj,
    words512_getD _ hj]

theorem frameWords_m {i : Nat} (hi : i < 8) : join512 t.frameWords (352 + 8 * i) = t.m[i]?.getD 0 := by
  obtain ⟨-, -, -, -, ⟨pre, post, hpre, hwords⟩⟩ := frameWords_places t
  refine join512_of_words fun j hj => ?_
  rw [hwords, Nat.add_assoc, getD_block hpre (by rw [flatMap_words512_length]; omega), getD_flatMap_range (fun _ => words512_length _) hi hj,
    words512_getD _ hj]

end

/-! ### Loading a frame (O49) -/

theorem ofCode_code (f : Fmt) : Fmt.ofCode (f.code % 16) = f := by cases f <;> rfl

theorem rmode_ofCode_code (r : RMode) : RMode.ofCode r.code = r := by cases r <;> rfl

/-- An even code address survives a frame. -/
theorem framePc_even {x : Nat} {pc : BitVec 40} (hx : x % 2 ^ 40 = pc.toNat) (heven : pc.getLsbD 0 = false) : framePc x = pc := by
  have hmod : pc.toNat % 2 = 0 := by
    rw [BitVec.getLsbD, Nat.testBit_zero, decide_eq_false_iff_not] at heven
    omega
  rw [framePc, hx, show pc.toNat / 2 * 2 = pc.toNat by omega]
  simp

section
variable (t : Strand)

/-- The first word of a frame. -/
def firstWord : Nat :=
  t.pc.toNat + bitOf t.act * 2 ^ 40 + bitOf t.handler * 2 ^ 41 + t.qpos % 8 * 2 ^ 42 + t.rmode.code * 2 ^ 45 + t.uab.toNat * 2 ^ 47

theorem rmode_code_lt (r : RMode) : r.code < 4 := by cases r <;> decide

theorem bitOf_lt (b : Bool) : bitOf b < 2 := by cases b <;> decide

theorem bitOf_beq_one (b : Bool) : (bitOf b == 1) = b := by cases b <;> rfl

/-- The fields of the first word. -/
theorem firstWord_fields : firstWord t % 2 ^ 40 = t.pc.toNat ∧ bitAt (firstWord t) 40 = t.act ∧ bitAt (firstWord t) 41 = t.handler ∧
    bitsOf (firstWord t) 46 45 = t.rmode.code ∧ bitsOf (firstWord t) 54 47 = t.uab.toNat := by
  have hpc := t.pc.isLt
  have huab := t.uab.isLt
  have hact := bitOf_lt t.act
  have hhandler := bitOf_lt t.handler
  have hrmode := rmode_code_lt t.rmode
  refine ⟨?_, ?_, ?_, ?_, ?_⟩
  · unfold firstWord; omega
  · rw [bitAt, show firstWord t / 2 ^ 40 % 2 = bitOf t.act by unfold firstWord; omega, bitOf_beq_one]
  · rw [bitAt, show firstWord t / 2 ^ 41 % 2 = bitOf t.handler by unfold firstWord; omega, bitOf_beq_one]
  · rw [bitsOf]; unfold firstWord; omega
  · rw [bitsOf]; unfold firstWord; omega

/-- A field that is narrower than a word stands in its word. -/
theorem wordAt_field {ws : List Word} {i k : Nat} {x : BitVec k} (hk : k ≤ 64) (h : ws.getD i 0 = BitVec.ofNat 64 x.toNat) :
    wordAt ws i = x.toNat := by
  have hlt : x.toNat < 2 ^ 64 := Nat.lt_of_lt_of_le x.isLt (Nat.pow_le_pow_right (by decide) hk)
  rw [wordAt, h, BitVec.toNat_ofNat, Nat.mod_eq_of_lt hlt]

/-- A vector is given by its elements. -/
theorem vector_ofFn_get {α : Type} {n : Nat} {f : Fin n → α} {x : Vector α n} (h : ∀ i, f i = x.get i) : Vector.ofFn f = x := by
  apply Vector.ext
  intro i hi
  rw [Vector.getElem_ofFn]
  exact h ⟨i, hi⟩

theorem vector_getElem?_getD {α : Type} {n : Nat} (x : Vector α n) (d : α) (i : Fin n) : x[i.val]?.getD d = x.get i := by
  simp
  rfl

/-- Words that hold the context of a strand (R328). -/
structure FrameOf (t : Strand) (ws : List Word) : Prop where
  first : wordAt ws 0 = firstWord t
  trapv : wordAt ws 1 = t.trapv.toNat
  wdog : wordAt ws 2 = t.wdog.toNat
  wleft : wordAt ws 3 = t.wleft.toNat
  fcause : wordAt ws 4 = t.fcause.toNat
  fpc : wordAt ws 5 = t.fpc.toNat
  faddr : ws.getD 6 0 = t.faddr
  rstat : ws.getD 7 0 = t.rstat
  rank : wordAt ws 8 = t.rank.toNat % 2 ^ 24
  lin : ws.getD 9 0 = t.lin
  gen : ws.getD 10 0 = t.gen
  popId : ws.getD 11 0 = t.popId
  coord : ws.getD 12 0 = t.coord
  message : wordAt ws 13 = t.tag.toNat + t.src.toNat * 2 ^ 16
  config : wordAt ws 16 % 2 ^ 16 = t.fc.code + Nat.log2 t.gc % 4 * 2 ^ 4 + t.vl % 1024 * 2 ^ 6
  g : ∀ i : Fin 32, i.val ≠ 0 → ws.getD (32 + i.val) 0 = t.g.get i
  gtag : ∀ i : Fin 32, frameTag ws 20 i.val = t.gtag.get i
  vtag : ∀ i : Fin 32, frameTag ws 22 i.val = t.vtag.get i
  v : ∀ i : Fin 32, join512 ws (96 + 8 * i.val) = t.v.get i
  m : ∀ i : Fin 8, join512 ws (352 + 8 * i.val) = t.m.get i

theorem fmt_code_lt (f : Fmt) : f.code < 16 := by cases f <;> decide

theorem frameWords_first : wordAt t.frameWords 0 = firstWord t := by
  have hpc := t.pc.isLt
  have huab := t.uab.isLt
  have hact := bitOf_lt t.act
  have hhandler := bitOf_lt t.handler
  have hrmode := rmode_code_lt t.rmode
  have hlt : firstWord t < 2 ^ 64 := by
    unfold firstWord
    omega
  change (BitVec.ofNat 64 (firstWord t)).toNat = firstWord t
  rw [BitVec.toNat_ofNat, Nat.mod_eq_of_lt hlt]

theorem frameWords_rank : wordAt t.frameWords 8 = t.rank.toNat % 2 ^ 24 := by
  have hrank := t.rank.isLt
  change (BitVec.ofNat 64 (t.rank.toNat % 2 ^ 24)).toNat = _
  rw [BitVec.toNat_ofNat, Nat.mod_eq_of_lt (by omega)]

theorem frameWords_message : wordAt t.frameWords 13 = t.tag.toNat + t.src.toNat * 2 ^ 16 := by
  have htag := t.tag.isLt
  have hsrc := t.src.isLt
  change (BitVec.ofNat 64 (t.tag.toNat + t.src.toNat * 2 ^ 16)).toNat = _
  rw [BitVec.toNat_ofNat, Nat.mod_eq_of_lt (by omega)]

theorem frameWords_config :
    wordAt t.frameWords 16 % 2 ^ 16 = t.fc.code + Nat.log2 t.gc % 4 * 2 ^ 4 + t.vl % 1024 * 2 ^ 6 := by
  have hbit := bitOf_lt (t.loop.active || t.loop.suspended)
  have hcode := fmt_code_lt t.fc
  change (BitVec.ofNat 64 (t.fc.code + Nat.log2 t.gc % 4 * 2 ^ 4 + t.vl % 1024 * 2 ^ 6 + t.loop.idx % 16 * 2 ^ 16
    + (t.loop.k - 1) % 16 * 2 ^ 20 + bitOf (t.loop.active || t.loop.suspended) * 2 ^ 24)).toNat % 2 ^ 16 = _
  have hlog : Nat.log2 t.gc % 4 < 4 := Nat.mod_lt _ (by decide)
  have hvl : t.vl % 1024 < 1024 := Nat.mod_lt _ (by decide)
  have hidx : t.loop.idx % 16 < 16 := Nat.mod_lt _ (by decide)
  have hk : (t.loop.k - 1) % 16 < 16 := Nat.mod_lt _ (by decide)
  generalize Nat.log2 t.gc % 4 = log, t.vl % 1024 = vl, t.loop.idx % 16 = idx, (t.loop.k - 1) % 16 = k at hlog hvl hidx hk ⊢
  rw [BitVec.toNat_ofNat, Nat.mod_mod_of_dvd _ (Nat.pow_dvd_pow 2 (by decide))]
  omega

/-- The words of a strand's frame hold its context. -/
theorem frameWords_frameOf : FrameOf t t.frameWords where
  first := frameWords_first t
  trapv := wordAt_field (by decide) rfl
  wdog := wordAt_field (by decide) rfl
  wleft := wordAt_field (by decide) rfl
  fcause := wordAt_field (by decide) rfl
  fpc := wordAt_field (by decide) rfl
  faddr := rfl
  rstat := rfl
  rank := frameWords_rank t
  lin := rfl
  gen := rfl
  popId := rfl
  coord := rfl
  message := frameWords_message t
  config := frameWords_config t
  g i hi := by rw [frameWords_g t i.isLt, if_neg hi, vector_getElem?_getD]
  gtag i := by rw [frameWords_gtag t i.isLt, vector_getElem?_getD, ofCode_code]
  vtag i := by rw [frameWords_vtag t i.isLt, vector_getElem?_getD, ofCode_code]
  v i := by rw [frameWords_v t i.isLt, vector_getElem?_getD]
  m i := by rw [frameWords_m t i.isLt, vector_getElem?_getD]

variable {t} {ws : List Word}

/-- The registers that a frame gives are those of its strand. -/
theorem load_registers (h : FrameOf t ws) (hg0 : t.g.get 0 = 0) (htag0 : t.gtag.get 0 = .raw) (hm0 : t.m.get 0 = BitVec.allOnes 512) :
    (t.load ws).g = t.g ∧ (t.load ws).gtag = t.gtag ∧ (t.load ws).v = t.v ∧ (t.load ws).vtag = t.vtag ∧ (t.load ws).m = t.m := by
  refine ⟨vector_ofFn_get fun i => ?_, vector_ofFn_get fun i => ?_, vector_ofFn_get h.v, vector_ofFn_get h.vtag,
    vector_ofFn_get fun i => ?_⟩
  · by_cases hi : i.val = 0
    · rw [if_pos hi, ← hg0]
      exact congrArg _ (Fin.ext hi).symm
    · rw [if_neg hi, h.g i hi]
  · by_cases hi : i.val = 0
    · rw [if_pos hi, ← htag0]
      exact congrArg _ (Fin.ext hi).symm
    · rw [if_neg hi, h.gtag i]
  · by_cases hi : i.val = 0
    · rw [if_pos hi, ← hm0]
      exact congrArg _ (Fin.ext hi).symm
    · rw [if_neg hi, h.m i]

/-- The program counters of a frame are those of its strand. -/
theorem load_pcs (h : FrameOf t ws) (hpc : t.pc.getLsbD 0 = false) (htrapv : t.trapv.getLsbD 0 = false) (hfpc : t.fpc.getLsbD 0 = false) :
    (t.load ws).pc = t.pc ∧ (t.load ws).trapv = t.trapv ∧ (t.load ws).fpc = t.fpc := by
  obtain ⟨hpc', -⟩ := firstWord_fields t
  refine ⟨framePc_even (x := wordAt ws 0) ?_ hpc, framePc_even (x := wordAt ws 1) ?_ htrapv, framePc_even (x := wordAt ws 5) ?_ hfpc⟩
  · rw [h.first, hpc']
  · rw [h.trapv, Nat.mod_eq_of_lt t.trapv.isLt]
  · rw [h.fpc, Nat.mod_eq_of_lt t.fpc.isLt]

/-- The control state of a frame is that of its strand. -/
theorem load_control (h : FrameOf t ws) :
    (t.load ws).act = t.act ∧ (t.load ws).wdog = t.wdog ∧ (t.load ws).wleft = t.wleft ∧ (t.load ws).rmode = t.rmode ∧
      (t.load ws).uab = t.uab ∧ (t.load ws).handler = t.handler ∧ (t.load ws).fcause = t.fcause := by
  obtain ⟨-, hact, hhandler, hrmode, huab⟩ := firstWord_fields t
  rw [← h.first] at hact hhandler hrmode huab
  refine ⟨hact, ?_, ?_, ?_, ?_, hhandler, ?_⟩
  · exact (congrArg (BitVec.ofNat 48) h.wdog).trans (by simp)
  · exact (congrArg (BitVec.ofNat 48) h.wleft).trans (by simp)
  · exact (congrArg RMode.ofCode hrmode).trans (rmode_ofCode_code _)
  · exact (congrArg (BitVec.ofNat 8) huab).trans (by simp)
  · exact (congrArg (BitVec.ofNat 16) h.fcause).trans (by simp)

/-- The vector configuration of a frame is that of its strand. -/
theorem load_config (h : FrameOf t ws) (hgc : t.gc = 1 ∨ t.gc = 2 ∨ t.gc = 4 ∨ t.gc = 8) (hvl : t.vl ≤ 512) :
    (t.load ws).fc = t.fc ∧ (t.load ws).gc = t.gc ∧ (t.load ws).vl = t.vl := by
  have hconfig := h.config
  have hcode := fmt_code_lt t.fc
  have hlog : 2 ^ (Nat.log2 t.gc % 4) = t.gc := by rcases hgc with h | h | h | h <;> rw [h] <;> decide
  have hfc : wordAt ws 16 % 16 = t.fc.code % 16 := by omega
  have hgcBits : bitsOf (wordAt ws 16) 5 4 = Nat.log2 t.gc % 4 := by
    rw [bitsOf]
    omega
  have hvlBits : min 512 (bitsOf (wordAt ws 16) 15 6) = t.vl := by
    rw [bitsOf]
    omega
  refine ⟨?_, ?_, hvlBits⟩
  · exact (congrArg Fmt.ofCode hfc).trans (ofCode_code _)
  · exact (congrArg (2 ^ ·) hgcBits).trans hlog

/-- The identity of a frame is that of its strand: the high bits of the rank are not in the frame, and stay. -/
theorem load_identity (h : FrameOf t ws) :
    (t.load ws).rank = t.rank ∧ (t.load ws).tag = t.tag ∧ (t.load ws).src = t.src := by
  have hrank := t.rank.isLt
  have htag := t.tag.isLt
  have hsrc := t.src.isLt
  have hrankWord := h.rank
  have hmessage := h.message
  refine ⟨?_, ?_, ?_⟩ <;> apply BitVec.eq_of_toNat_eq
  · change (BitVec.ofNat 32 (t.rank.toNat / 2 ^ 24 * 2 ^ 24 + wordAt ws 8 % 2 ^ 24)).toNat = _
    rw [BitVec.toNat_ofNat]
    omega
  · change (BitVec.ofNat 16 (wordAt ws 13)).toNat = _
    rw [BitVec.toNat_ofNat]
    omega
  · change (BitVec.ofNat 20 (wordAt ws 13 / 2 ^ 16)).toNat = _
    rw [BitVec.toNat_ofNat]
    omega

/-- A frame loaded gives the context that it holds (R328). -/
theorem load_frameOf (h : FrameOf t ws) (hg0 : t.g.get 0 = 0) (htag0 : t.gtag.get 0 = .raw) (hm0 : t.m.get 0 = BitVec.allOnes 512)
    (hvl : t.vl ≤ 512) (hgc : t.gc = 1 ∨ t.gc = 2 ∨ t.gc = 4 ∨ t.gc = 8) (hpc : t.pc.getLsbD 0 = false)
    (htrapv : t.trapv.getLsbD 0 = false) (hfpc : t.fpc.getLsbD 0 = false) :
    let u := t.load ws
    u.pc = t.pc ∧ u.act = t.act ∧ u.g = t.g ∧ u.gtag = t.gtag ∧ u.v = t.v ∧ u.vtag = t.vtag ∧ u.m = t.m ∧ u.fc = t.fc ∧
    u.gc = t.gc ∧ u.vl = t.vl ∧ u.trapv = t.trapv ∧ u.wdog = t.wdog ∧ u.wleft = t.wleft ∧ u.rmode = t.rmode ∧
    u.uab = t.uab ∧ u.handler = t.handler ∧ u.fcause = t.fcause ∧ u.fpc = t.fpc ∧ u.faddr = t.faddr ∧ u.rstat = t.rstat ∧
    u.rank = t.rank ∧ u.lin = t.lin ∧ u.gen = t.gen ∧ u.popId = t.popId ∧ u.coord = t.coord ∧ u.tag = t.tag ∧ u.src = t.src := by
  obtain ⟨hg, hgtag, hv, hvtag, hm⟩ := load_registers h hg0 htag0 hm0
  obtain ⟨hpc', htrapv', hfpc'⟩ := load_pcs h hpc htrapv hfpc
  obtain ⟨hact, hwdog, hwleft, hrmode, huab, hhandler, hfcause⟩ := load_control h
  obtain ⟨hfc, hgc', hvl'⟩ := load_config h hgc hvl
  obtain ⟨hrank, htag, hsrc⟩ := load_identity h
  exact ⟨hpc', hact, hg, hgtag, hv, hvtag, hm, hfc, hgc', hvl', htrapv', hwdog, hwleft, hrmode, huab, hhandler, hfcause, hfpc',
    h.faddr, h.rstat, hrank, h.lin, h.gen, h.popId, h.coord, htag, hsrc⟩

end

/-- Settles O49: spilling and restoring are the equations above; the frame's blocks give the registers back, and the places of frames
and images are apart by arithmetic. -/
theorem spillAndRestore : Obligations.SpillAndRestore := by
  unfold Obligations.SpillAndRestore
  intro s t l p n slot h
  refine ⟨fun hlaunch hstage hready hvq hcount htop haccs hquiet hbad => ?_, fun hfree => ?_, fun x hx hpart huid hframe => ?_,
    ⟨fun f => frameAt_slot, frame_image_apart, fun f g => frames_apart, fun i j => images_apart⟩,
    fun hs hst hslot hlaunch hruns hflips hpoison => ?_,
    fun hhead hnum hstage hset hending hreset hnone => launchRestore_runs hhead hnum hstage hset hending hreset hnone,
    fun k m place x _ himage => restoreTile_tile himage, frameWords_length t, fun hg0 htag0 hm0 hvl hgc hpc htrapv hfpc => ?_⟩
  · obtain ⟨hparked, hst, hmem, hslots⟩ := spillFocus_quiet hquiet hbad false
    exact ⟨_, strandSpill_spills hlaunch hstage hready hvq hcount htop haccs, hparked, hst, hmem, fun hact => hslots l hact hlaunch⟩
  · have hnot : s.slotFrame s.st ∉ framesHeld s s.st := fun hmem => by
      obtain ⟨x, hx, hpart, huid, hframe⟩ := mem_framesHeld.mp hmem
      exact hfree x hx hpart huid hframe
    rw [chooseFrame_eq, if_neg hnot]
    rfl
  · exact chooseFrame_free (mem_framesHeld.mpr ⟨x, hx, hpart, huid, hframe⟩)
  · have hgo := contextRestore_goes hs hst hslot hlaunch hruns
    refine ⟨fun hgood => ?_, fun hbad => ?_⟩
    · rw [hgo, restoreStrand_takes (strand_uid hs) hflips hpoison hgood]
      rfl
    · rw [hgo, restoreStrand_refuses hflips hbad]
  · exact load_frameOf (frameWords_frameOf t) hg0 htag0 hm0 hvl hgc hpc htrapv hfpc

end Sys2Proof.Proofs
end

section
namespace Sys2Proof.Proofs
open Sys2Proof

/-! ### Codes of names read back (R22, R28, R85, R88, R96) -/

@[simp] theorem fmt_of_code (f : Fmt) : Fmt.ofCode f.code = f := by cases f <;> rfl

@[simp] theorem rnd_of_code (r : Rnd) : Rnd.ofCode r.code = r := by cases r <;> rfl

@[simp] theorem scope_of_code (s : Scope) : Scope.ofCode s.code = s := by cases s <;> rfl

@[simp] theorem lmul_of_code (l : LMul) : LMul.ofCode l.code = l := by cases l <;> rfl

@[simp] theorem bcond_of_code (c : BCond) : BCond.ofCode c.code = c := by cases c <;> rfl

@[simp] theorem bmVar_of_code (v : BmVar) : BmVar.ofCode v.code = v := by cases v <;> rfl

@[simp] theorem fcond_of_code (c : FCond) : FCond.ofCode c.code = c := by cases c <;> rfl

@[simp] theorem vcond_of_code (c : VCond) : VCond.ofCode c.code = c := by cases c <;> rfl

@[simp] theorem grp_of_code (g : Grp) : Grp.ofCode g.code = g := by cases g <;> rfl

@[simp] theorem tileB_of_code (t : TileB) : TileB.ofCode t.code = t := by cases t <;> rfl

@[simp] theorem gate_of_code (g : Gate) : Gate.ofCode g.code = g := by cases g <;> rfl

@[simp] theorem cpyVar_of_code (v : CpyVar) : CpyVar.ofCode v.code = v := by cases v <;> rfl

@[simp] theorem fenceKind_of_code (k : FenceKind) : FenceKind.ofCode k.code = k := by cases k <;> rfl

@[simp] theorem sel_of_code (s : Sel) : Sel.ofCode s.code = s := by cases s <;> rfl

theorem rnd_code_le (r : Rnd) : r.code ≤ 4 := by cases r <;> decide

theorem scope_code_le (s : Scope) : s.code ≤ 6 := by cases s <;> decide

theorem lmul_code_le (l : LMul) : l.code ≤ 4 := by cases l <;> decide

theorem bcond_code_lt (c : BCond) : c.code < 6 := by cases c <;> decide

theorem bmVar_code_lt (v : BmVar) : v.code < 3 := by cases v <;> decide

theorem fcond_code_lt (c : FCond) : c.code < 5 := by cases c <;> decide

theorem vcond_code_lt (c : VCond) : c.code < 4 := by cases c <;> decide

theorem grp_code_lt (g : Grp) : g.code < 4 := by cases g <;> decide

theorem tileB_code_lt (t : TileB) : t.code < 4 := by cases t <;> decide

theorem gate_code_lt (g : Gate) : g.code < 6 := by cases g <;> decide

theorem cpyVar_code_lt (v : CpyVar) : v.code < 4 := by cases v <;> decide

theorem fenceKind_code_mem (k : FenceKind) : 1 ≤ k.code ∧ k.code ≤ 3 := by cases k <;> decide

theorem sel_code_lt (s : Sel) : s.code < 4 := by cases s <;> decide

@[simp] theorem sp_of_num (r : Sp) : Sp.ofNum r.num = r := by cases r <;> rfl

theorem sp_num_mem (r : Sp) : 32 ≤ r.num ∧ r.num < 48 := by cases r <;> decide

theorem sreg_num_lt (r : SReg) : r.num < 64 := by
  cases r with
  | g n => exact Nat.lt_trans n.isLt (by decide)
  | sp r => exact Nat.lt_trans (sp_num_mem r).2 (by decide)
  | q n => exact Nat.add_lt_add_left n.isLt 48

/-- The three classes of R22 by their numbers. -/
@[simp] theorem sreg_of_num (r : SReg) : SReg.ofNum r.num = r := by
  cases r with
  | g n => simp [SReg.ofNum, SReg.num]
  | sp r =>
    obtain ⟨hlo, hhi⟩ := sp_num_mem r
    simp [SReg.ofNum, SReg.num, Nat.not_lt.mpr hlo, hhi]
  | q n => simp [SReg.ofNum, SReg.num, show ¬48 + n.val < 32 by omega]

theorem sreg_num_of_isDst {r : SReg} (h : r.isDst = true) : r.num < 32 ∨ 48 ≤ r.num := by
  cases r with
  | g n => exact .inl n.isLt
  | sp r => cases h
  | q n => exact .inr (Nat.le_add_right 48 _)

/-! ### Operands as kind and number (R80, R81) -/

/-- The kind of an operand (R36). -/
def opndKind : Opnd → Nat
  | .vec _ => 0
  | .reg _ => 1
  | .const _ => 2
  | .lit _ => 3

/-- The number that field a holds for an operand: also the bare literal. -/
def numA : Opnd → Nat
  | .vec n => n.val
  | .reg r => r.num
  | .const n => n.val
  | .lit v => v.toNat

/-- The number that field b holds for an operand: 0 beside a literal, whose value is the instruction's immediate. -/
def numB : Opnd → Nat
  | .lit _ => 0
  | x => numA x

/-- The immediate that an operand in field b brings. -/
def immB : Opnd → Int
  | .lit v => v
  | _ => 0

/-- The kind and the number that a memory base gives field a. -/
def baseKind : Base → Nat
  | .reg _ => 1
  | .pc => 3

def baseNum : Base → Nat
  | .reg r => r.num
  | .pc => 0

/-- The operand of a kind, a number and a literal value. -/
def opndOf (k n : Nat) (v : Int) : Opnd :=
  match k with
  | 0 => .vec (Fin.ofNat 32 n)
  | 1 => .reg (SReg.ofNum n)
  | 2 => .const (Fin.ofNat 256 n)
  | _ => .lit v

theorem wA_eq (e : Enc) (x : Opnd) : e.wA x = { e with ka := opndKind x, a := numA x } := by cases x <;> rfl

/-- Into fields whose b and immediate are still 0, as the encoder writes. -/
theorem wB_eq {e : Enc} (hb : e.b = 0) (himm : e.imm = 0) (x : Opnd) :
    e.wB x = { e with kb := opndKind x, b := numB x, imm := immB x } := by
  cases x with
  | lit v => simp [Enc.wB, opndKind, numB, immB, hb]
  | _ => simp [Enc.wB, opndKind, numB, numA, immB, himm]

theorem wBase_eq (e : Enc) (m : Base) : e.wBase m = { e with ka := baseKind m, a := baseNum m } := by cases m <;> rfl

theorem aO_eq (e : Enc) : e.aO = opndOf e.ka e.a e.a := rfl

theorem bO_eq (e : Enc) : e.bO = opndOf e.kb e.b e.imm := rfl

/-- Field a gives an operand back, but for a literal below 0. -/
theorem opndOf_numA {x : Opnd} (h : x.okA = true) : opndOf (opndKind x) (numA x) (numA x) = x := by
  cases x with
  | lit v =>
    obtain ⟨h0, -⟩ := of_decide_eq_true h
    simp [opndOf, opndKind, numA, Int.toNat_of_nonneg h0]
  | vec n => simp [opndOf, opndKind, numA]
  | reg r => simp [opndOf, opndKind, numA]
  | const n => simp [opndOf, opndKind, numA]

/-- Field b and the immediate give every operand back. -/
@[simp] theorem opndOf_numB (x : Opnd) : opndOf (opndKind x) (numB x) (immB x) = x := by
  cases x <;> simp [opndOf, opndKind, numB, numA, immB]

@[simp] theorem base_of_baseNum (m : Base) : (if baseKind m = 3 then Base.pc else .reg (SReg.ofNum (baseNum m))) = m := by
  cases m <;> simp [baseKind, baseNum]

theorem okA_of_okA2 {x : Opnd} (h : x.okA2 = true) : x.okA = true := by
  cases x with
  | reg r => rfl
  | const n => exact h
  | _ => cases h

/-! ### Immediates (R42, R83) -/

/-- `k` payloads of 11 bits, read in stream order. -/
theorem foldl_payloads (raw w k acc : Nat) :
    (payloads raw w k).foldl (fun acc p => acc * 2048 + p) acc = acc * 2048 ^ k + raw / 2 ^ w % 2048 ^ k := by
  induction k generalizing acc with
  | zero => simp [payloads, Nat.mod_one]
  | succ k ih =>
    have hpow : 2 ^ (w + 11 * k) = 2 ^ w * 2048 ^ k := by rw [pow_add, pow_mul]; rfl
    have htop : raw / 2 ^ w % 2048 ^ (k + 1) = raw / 2 ^ w % 2048 ^ k + 2048 ^ k * (raw / 2 ^ w / 2048 ^ k % 2048) := by
      rw [Nat.pow_succ, Nat.mod_mul]
    rw [payloads, List.foldl_cons, ih, hpow, ← Nat.div_div_eq_div_mul, htop, Nat.pow_succ]
    generalize raw / 2 ^ w / 2048 ^ k % 2048 = top
    generalize raw / 2 ^ w % 2048 ^ k = rest
    ring

theorem payloads_length (raw w k : Nat) : (payloads raw w k).length = k := by
  induction k with
  | zero => rfl
  | succ k ih => simp [payloads, ih]

theorem payloads_lt {raw w k p : Nat} (h : p ∈ payloads raw w k) : p < 2048 := by
  induction k with
  | zero => cases h
  | succ k ih =>
    rcases List.mem_cons.mp h with rfl | h
    · exact Nat.mod_lt _ (by decide)
    · exact ih h

/-- Two's complement: a value in the range of `n` bits is read back. -/
theorem signedBits_wrapBits {n : Nat} {v : Int} (hlo : -(2 ^ n : Int) ≤ 2 * v) (hhi : 2 * v < 2 ^ n) :
    signedBits n (wrapBits n v) = v := by
  have hpos : (0 : Int) < 2 ^ n := by positivity
  have hmod : ((wrapBits n v : Nat) : Int) = v % 2 ^ n := Int.toNat_of_nonneg (Int.emod_nonneg v hpos.ne')
  have hlt : wrapBits n v < 2 ^ n := by
    have := Int.emod_lt_of_pos v hpos
    zify
    rwa [hmod]
  have hhalf : (2 * wrapBits n v < 2 ^ n) ↔ 2 * (v % 2 ^ n) < 2 ^ n := by rw [← hmod]; norm_cast
  simp only [signedBits, Nat.mod_eq_of_lt hlt, hhalf, hmod]
  rcases le_or_gt 0 v with h0 | h0
  · rw [Int.emod_eq_of_lt h0 (by omega), if_pos hhi]
  · have hwrap : v % 2 ^ n = v + 2 ^ n := by
      rw [← Int.add_emod_right, Int.emod_eq_of_lt (by omega) (by omega)]
    rw [hwrap, if_neg (by omega)]
    omega

/-- The payloads and the low bits of a value in range are read back as the value (R83). -/
theorem extValue_payloads {w k low : Nat} {v : Int} (hlo : -(2 ^ (w + 11 * k) : Int) ≤ 2 * v) (hhi : 2 * v < 2 ^ (w + 11 * k))
    (hlow : low = wrapBits (w + 11 * k) v % 2 ^ w) :
    extValue w low (payloads (wrapBits (w + 11 * k) v) w k) = v := by
  have hsum : wrapBits (w + 11 * k) v / 2 ^ w % 2048 ^ k * 2 ^ w + low = wrapBits (w + 11 * k) v % 2 ^ (w + 11 * k) := by
    rw [hlow, pow_add, pow_mul, Nat.mod_mul, Nat.mul_comm (2 ^ w)]
    exact Nat.add_comm _ _
  rw [extValue, payloads_length, foldl_payloads, Nat.zero_mul, Nat.zero_add, hsum]
  have hmod (n x : Nat) : signedBits n (x % 2 ^ n) = signedBits n x := by simp [signedBits]
  rw [hmod, signedBits_wrapBits hlo hhi]

end Sys2Proof.Proofs
end

section
namespace Sys2Proof.Proofs
open Sys2Proof

/-! ### The chain of `pfx` words (R76, R90) -/

/-- The chain with one more `pfx` word of a kind and payload `x`. -/
def putPrefix (c : Chain) (kind x : Nat) : Chain :=
  match kind with
  | 28 => { c with imm := c.imm ++ [x], immAt := if c.imm.isEmpty then c.count else c.immAt, lastImm := true, count := c.count + 1 }
  | 29 => { c with r := some (x, c.count), lastImm := false, count := c.count + 1 }
  | 30 => { c with p := some (x, c.count), lastImm := false, count := c.count + 1 }
  | _ => { c with v := some (x, c.count), lastImm := false, count := c.count + 1 }

/-- The chain with a `pfx` word that may be absent. -/
def putOption (c : Chain) (kind : Nat) : Option Nat → Chain
  | none => c
  | some x => putPrefix c kind x

/-- The list of a `pfx` word that may be absent. -/
def prefixWords (kind : Nat) (o : Option Nat) : List Nat := o.toList.map (kind * 2048 + ·)

/-- A chain of `pfx.i` words only. -/
def immChain (l : List Nat) : Chain := { Chain.empty with imm := l, lastImm := !l.isEmpty, count := l.length }

/-- The chain of the canonical order (R41): `pfx.i`, `pfx.r`, `pfx.p`, `pfx.v`. -/
def chainOf (l : List Nat) (r p v : Option Nat) : Chain :=
  putOption (putOption (putOption (immChain l) 29 r) 30 p) 31 v

section
variable {c : Chain} {kind x : Nat} {ws : List Nat}

/-- A `pfx` word is read into the chain when its kind is new there and there is room. -/
theorem decodeFrom_prefix (hkind : 28 ≤ kind ∧ kind < 32) (hx : x < 2048) (hnew : c.repeats kind = false) (hroom : c.count < 4) :
    decodeFrom c ((kind * 2048 + x) :: ws) = decodeFrom (putPrefix c kind x) ws := by
  have hk : (kind * 2048 + x) / 2048 % 32 = kind := by omega
  have hlow : (kind * 2048 + x) % 2048 = x := by omega
  have hpush : c.push (kind * 2048 + x) = .ok (putPrefix c kind x) := by
    simp only [Chain.push, hk, hlow, hnew, Bool.false_eq_true, if_false, ge_iff_le, Nat.not_le.mpr hroom]
    rfl
  rw [decodeFrom, isPrefixWord, hk, decide_eq_true hkind.1, if_pos rfl, hpush]

theorem decodeFrom_option {o : Option Nat} (hkind : 28 ≤ kind ∧ kind < 32) (hx : ∀ x ∈ o, x < 2048) (hnew : c.repeats kind = false)
    (hroom : c.count + o.toList.length ≤ 4) : decodeFrom c (prefixWords kind o ++ ws) = decodeFrom (putOption c kind o) ws := by
  cases o with
  | none => rfl
  | some x => exact decodeFrom_prefix hkind (hx x rfl) hnew hroom

theorem putOption_count (o : Option Nat) : (putOption c kind o).count = c.count + o.toList.length := by
  cases o with
  | none => rfl
  | some x => simp only [putOption, putPrefix]; split <;> rfl

theorem decodeFrom_imms (pre l : List Nat) (hl : ∀ x ∈ l, x < 2048) (hroom : pre.length + l.length ≤ 4) :
    decodeFrom (immChain pre) (l.map (28 * 2048 + ·) ++ ws) = decodeFrom (immChain (pre ++ l)) ws := by
  induction l generalizing pre with
  | nil => simp
  | cons x l ih =>
    rw [List.length_cons] at hroom
    have hnew : (immChain pre).repeats 28 = false := by cases pre <;> rfl
    have hput : putPrefix (immChain pre) 28 x = immChain (pre ++ [x]) := by cases pre <;> simp [putPrefix, immChain, Chain.empty]
    rw [List.map_cons, List.cons_append, decodeFrom_prefix (by decide) (hl x List.mem_cons_self) hnew (by simp only [immChain]; omega),
      hput, ih _ (fun y hy => hl y (List.mem_cons_of_mem _ hy)) (by rw [List.length_append, List.length_singleton]; omega),
      List.append_assoc, List.singleton_append]

end

section
variable {l : List Nat} {r p v : Option Nat}

theorem chainOf_count : (chainOf l r p v).count = l.length + r.toList.length + p.toList.length + v.toList.length := by
  simp only [chainOf, putOption_count, immChain]

@[simp] theorem chainOf_imm : (chainOf l r p v).imm = l := by cases r <;> cases p <;> cases v <;> rfl

@[simp] theorem chainOf_r : (chainOf l r p v).r.map Prod.fst = r := by cases r <;> cases p <;> cases v <;> rfl

@[simp] theorem chainOf_p : (chainOf l r p v).p.map Prod.fst = p := by cases r <;> cases p <;> cases v <;> rfl

@[simp] theorem chainOf_v : (chainOf l r p v).v.map Prod.fst = v := by cases r <;> cases p <;> cases v <;> rfl

/-- `pfx` words in the canonical order and a base word are read as their chain and that word (R90). -/
theorem decodeWords_chainOf {w : Nat} (hl : ∀ x ∈ l, x < 2048) (hr : ∀ x ∈ r, x < 2048) (hp : ∀ x ∈ p, x < 2048)
    (hv : ∀ x ∈ v, x < 2048) (hroom : (chainOf l r p v).count ≤ 4) (hw : isPrefixWord w = false) :
    decodeWords (l.map (28 * 2048 + ·) ++ prefixWords 29 r ++ prefixWords 30 p ++ prefixWords 31 v ++ [w]) =
      decodeBase (chainOf l r p v) w := by
  rw [chainOf_count] at hroom
  have himm := decodeFrom_imms (ws := prefixWords 29 r ++ (prefixWords 30 p ++ (prefixWords 31 v ++ [w]))) [] l hl
    (by simp only [List.length_nil]; omega)
  have hc : (immChain l).count = l.length := rfl
  have hnewP : (putOption (immChain l) 29 r).repeats 30 = false := by cases r <;> rfl
  have hnewV : (putOption (putOption (immChain l) 29 r) 30 p).repeats 31 = false := by cases r <;> cases p <;> rfl
  simp only [List.append_assoc]
  rw [decodeWords, show Chain.empty = immChain [] from rfl, himm, List.nil_append,
    decodeFrom_option (by decide) hr rfl (by omega),
    decodeFrom_option (by decide) hp hnewP (by simp only [putOption_count]; omega),
    decodeFrom_option (by decide) hv hnewV (by simp only [putOption_count]; omega), decodeFrom, hw]
  rfl

end

end Sys2Proof.Proofs
end

section
namespace Sys2Proof.Proofs
open Sys2Proof

/-! ### The opcode map (R94, R95) -/

/-- The word format fits the roles and the immediate: what an absent field and an absent immediate are. -/
def shapeOk (x : Desc) : Bool :=
  match x.word with
  | .s => x.d == .zero && x.imm == .none
  | .i => x.b == .zero && (x.imm == .imm5 || x.imm == .selector)
  | .b => x.a == .zero && x.b == .zero && x.imm == .offset8
  | .r => x.imm == .none || (x.imm == .bcOffset && x.b == k12)

/-- A number in field d stays below 8, as its high bits must be zero (R94). -/
def dRoleOk : Role → Bool
  | .num _ hi => hi < 8
  | _ => true

/-- The formats that an entry lists leave out q4 and x96, which no register carries. -/
def fmtsOk : Option (Fmt → Bool) → Bool
  | none => true
  | some p => !p .q4 && !p .x96

/-- What every row of the opcode map has: a page that exists, an op below the `pfx` kinds, S format exactly in the groups of R95, variants
within the modifier, formats only where the layout has a format, and kinds of two bits. -/
def rowOk (r : Row) : Bool :=
  r.key / 1024 < 8 && r.key / 32 % 32 < 28 && (isGroup (r.key / 1024) (r.key / 32 % 32) == (r.desc.word == .s)) &&
  r.desc.nvar ≤ (if r.desc.lay = .v then 128 else 8) &&
  (r.desc.lay != .v || r.desc.fmts.isNone) && shapeOk r.desc && dRoleOk r.desc.d &&
  fmtsOk r.desc.fmts && r.desc.kindsA.all (· < 4) && r.desc.kindsB.all (· < 4)

theorem pageRows_rowOk (page : Nat) : (pageRows page).all rowOk = true := by
  match page with
  | 0 | 1 | 2 | 3 | 4 | 5 | 6 | 7 => decide
  | _ + 8 => rfl

theorem findRow_rowOk {page op sub : Nat} {row : Row} (h : findRow page op sub = some row) : rowOk row = true :=
  List.all_eq_true.mp (pageRows_rowOk page) row (List.mem_of_find?_eq_some h)

/-- Rows are found by their key, in which the sub-op of a row outside the groups is 0. -/
theorem findRow_sub {page op sub sub' : Nat} (h : isGroup page op = true → sub = sub') : findRow page op sub = findRow page op sub' := by
  unfold findRow
  split
  · rw [h ‹_›]
  · rfl

/-- The conditions of `rowOk` by name. -/
structure RowFacts (r : Row) : Prop where
  page : r.key / 1024 < 8
  op : r.key / 32 % 32 < 28
  group : isGroup (r.key / 1024) (r.key / 32 % 32) = true → r.desc.word = .s
  nvar : r.desc.nvar ≤ if r.desc.lay = .v then 128 else 8
  fmts : r.desc.lay = .v → r.desc.fmts = none
  fmtsOk : fmtsOk r.desc.fmts = true
  shape : shapeOk r.desc = true
  dRole : dRoleOk r.desc.d = true
  kindsA : ∀ k ∈ r.desc.kindsA, k < 4
  kindsB : ∀ k ∈ r.desc.kindsB, k < 4

theorem rowFacts_of_rowOk {r : Row} (h : rowOk r = true) : RowFacts r := by
  simp only [rowOk, Bool.and_eq_true, Bool.or_eq_true, decide_eq_true_eq, beq_iff_eq, bne_iff_ne, List.all_eq_true,
    Option.isNone_iff_eq_none] at h
  obtain ⟨⟨⟨⟨⟨⟨⟨⟨⟨hpage, hop⟩, hgroup⟩, hnvar⟩, hfmts⟩, hshape⟩, hdRole⟩, hfmtsOk⟩, hkindsA⟩, hkindsB⟩ := h
  exact ⟨hpage, hop, fun hg => by simpa [hg] using hgroup, hnvar, fun hv => hfmts.resolve_left (absurd hv), hfmtsOk, hshape, hdRole,
    hkindsA, hkindsB⟩

/-! ### Fields that an entry of the opcode map admits (R78-R89) -/

/-- A number that a role admits in a field (R79-R81): constants below `consts` and literals below `lits`. -/
def numFits (consts lits : Nat) (role : Role) (kind n : Nat) : Prop :=
  match role with
  | .zero => n = 0
  | .src => n < 64
  | .dst => n < 32 ∨ 48 ≤ n ∧ n < 64
  | .vec => n < 32
  | .small => n < 8
  | .num lo hi => lo ≤ n ∧ n ≤ hi ∧ n < 64
  | .opnd _ => n < (match kind with
    | 0 => 32
    | 1 => 64
    | 2 => consts
    | _ => lits)
  | .base => n < 64 ∧ (kind = 3 → n = 0)

/-- The format codes that the entry lists (R85). -/
def fmtFits (x : Desc) (code : Nat) : Prop :=
  match x.fmts with
  | none => code = 0
  | some p => code < 16 ∧ p (Fmt.ofCode code) = true

/-- The low modifier bits that the layout admits (R85, R96). -/
def lowFits (x : Desc) (low : Nat) : Prop :=
  match x.lay with
  | .n | .v => low < x.nvar
  | .f => low ≤ 4
  | .m => low ≤ 6 ∧ (x.hasScope = true ∨ low = 0)
  | .t => low < 8

/-- The immediates that the entry admits beside kind `kb` and number `b`; one that the word has no place for is 0. -/
def immFits (role : ImmRole) (kb b : Nat) (v : Int) : Prop :=
  match role with
  | .none => kb = 3 ∨ v = 0
  | .selector => 0 ≤ v ∧ v < 4
  | .bcOffset => b < 64
  | .imm5 | .offset8 => True

/-- Fields that the entry `x` admits, those it does not have at their defaults: what the encoder may be given. -/
structure Fits (x : Desc) (e : Enc) : Prop where
  fmt : fmtFits x e.fmt
  low : lowFits x e.low
  mask : e.mask < 8
  lmul : e.lmul ≤ 4
  keys : e.keys.within x.keys = true
  ok : x.ok e = true
  d : numFits 64 8 x.d 1 e.d
  a : numFits 64 8 x.a e.ka e.a
  b : numFits 256 1 x.b e.kb e.b
  ka : e.ka ∈ if x.word = .s then [1] else x.kindsA
  kb : e.kb ∈ if x.word = .r ∧ x.b ≠ .zero then x.kindsB else [0]
  imm : immFits x.imm e.kb e.b e.imm

/-! ### The words of the encoder, part by part -/

/-- The width of the base word's part of the immediate. -/
def immWidth (x : Desc) : Nat :=
  match x.imm with
  | .imm5 => 5
  | .offset8 => 8
  | .bcOffset => 0
  | _ => 3

/-- The immediate as raw bits: base word's part and payloads. -/
def immRaw (x : Desc) (e : Enc) : Nat := wrapBits (immWidth x + 11 * extCount x e) e.imm

/-- The payloads of the `pfx.i` words. -/
def immPayloads (x : Desc) (e : Enc) : List Nat :=
  if decide (x.word = .r ∧ e.kb = 2) ∧ x.imm = .none then (if 64 ≤ e.b then [e.b / 64] else [])
  else if x.imm = .selector then [] else payloads (immRaw x e) (immWidth x) (extCount x e)

/-- Field b is a literal. -/
def isLit (x : Desc) (e : Enc) : Bool := decide (x.word = .r ∧ e.kb = 3 ∧ x.imm = .none)

/-- The number in field b: a literal's low bits, or the low six bits of a register or constant. -/
def bBits (x : Desc) (e : Enc) : Nat := if isLit x e then immRaw x e % 8 else e.b % 64

/-- The high bits of b in `pfx.r`. -/
def bHigh (x : Desc) (e : Enc) : Nat := if isLit x e then 0 else bBits x e / 8

/-- The payload of `pfx.r`. -/
def regBits (x : Desc) (e : Enc) : Nat :=
  match x.word with
  | .s => e.a / 8 * 8 + bHigh x e
  | .b => 512 + e.d / 8 * 64
  | _ => e.ka * 512 + e.d / 8 * 64 + e.a / 8 * 8 + bHigh x e

/-- The payload that an absent `pfx.r` stands for. -/
def regDefault (x : Desc) : Nat :=
  match x.word with
  | .s => 0
  | .b => 512
  | _ => x.defaultA * 512

/-- The modifier of `pfx.p`. -/
def modBits (x : Desc) (e : Enc) : Nat := if x.lay = .v then e.low else e.fmt * 8 + e.low

/-- The payload of `pfx.v`. -/
def keyBits (e : Enc) : Nat := e.mask * 256 + bitOf e.mz * 128 + bitOf e.tz * 64 + e.lmul * 8 + bitOf e.sat * 4

/-- The base word. -/
def baseWord (row : Row) (e : Enc) : Nat :=
  row.key / 32 % 32 * 2048 + match row.desc.word with
    | .r => e.d % 8 * 256 + e.a % 8 * 32 + e.kb * 8 + bBits row.desc e % 8
    | .i => e.d % 8 * 256 + e.a % 8 * 32 +
      (if row.desc.imm = .selector then e.imm.toNat % 32 else immRaw row.desc e % 32)
    | .b => e.d % 8 * 256 + immRaw row.desc e % 256
    | .s => row.key % 32 * 64 + e.a % 8 * 8 + e.b % 8

/-- The payloads of `pfx.r`, `pfx.p` and `pfx.v`: each only where it differs from what its absence stands for (R41). -/
def regPrefix (x : Desc) (e : Enc) : Option Nat := if regBits x e ≠ regDefault x then some (regBits x e) else none

def modPrefix (row : Row) (e : Enc) : Option Nat :=
  if row.key / 1024 ≠ 0 ∨ modBits row.desc e ≠ impliedModifier row.key then some (row.key / 1024 * 128 + modBits row.desc e) else none

def keyPrefix (e : Enc) : Option Nat := if keyBits e ≠ 0 then some (keyBits e) else none

theorem prefixWords_ite (kind x : Nat) (c : Prop) [Decidable c] :
    prefixWords kind (if c then some x else none) = if c then [kind * 2048 + x] else [] := by
  split <;> rfl

theorem encodeFields_eq (row : Row) (e : Enc) :
    encodeFields row e = (immPayloads row.desc e).map (28 * 2048 + ·) ++ prefixWords 29 (regPrefix row.desc e) ++
      prefixWords 30 (modPrefix row e) ++ prefixWords 31 (keyPrefix e) ++ [baseWord row e] := by
  simp only [regPrefix, modPrefix, keyPrefix, prefixWords_ite, ← Nat.add_assoc (30 * 2048)]
  rfl

end Sys2Proof.Proofs
end

section
namespace Sys2Proof.Proofs
open Sys2Proof

/-! ### The number of `pfx.i` words (R42) -/

/-- A value in the two's complement range of `n` bits. -/
def inRange (n : Nat) (v : Int) : Bool := decide (-(2 ^ n : Int) ≤ 2 * v ∧ 2 * v < 2 ^ n)

/-- The least number from 1 to 4 of payloads that hold a value, else 5. -/
def leastPayloads (w : Nat) (v : Int) : Nat :=
  if inRange (w + 11 * 1) v then 1 else if inRange (w + 11 * 2) v then 2 else if inRange (w + 11 * 3) v then 3
  else if inRange (w + 11 * 4) v then 4 else 5

theorem leastPayloads_pos (w : Nat) (v : Int) : 1 ≤ leastPayloads w v := by
  simp only [leastPayloads]
  repeat' split
  all_goals decide

theorem leastPayloads_inRange {w : Nat} {v : Int} (h : leastPayloads w v ≤ 4) : inRange (w + 11 * leastPayloads w v) v = true := by
  revert h
  simp only [leastPayloads]
  repeat' split
  all_goals intro h
  case isFalse.isFalse.isFalse.isFalse => exact absurd h (by decide)
  all_goals assumption

section
variable {x : Desc} {e : Enc}

theorem extCount_imm5 (h : x.imm = .imm5) : extCount x e = if inRange 5 e.imm then 0 else leastPayloads 5 e.imm := by
  simp only [extCount, h]
  rfl

theorem extCount_offset8 (h : x.imm = .offset8) : extCount x e = if inRange 8 e.imm then 0 else leastPayloads 8 e.imm := by
  simp only [extCount, h]
  rfl

theorem extCount_bcOffset (h : x.imm = .bcOffset) : extCount x e = leastPayloads 0 e.imm := by
  simp only [extCount, h]
  rfl

theorem extCount_lit (h : x.imm = .none) (hw : x.word = .r) (hkb : e.kb = 3) :
    extCount x e = if 0 ≤ e.imm ∧ e.imm ≤ 7 then 0 else leastPayloads 3 e.imm := by
  simp only [extCount, h, hw, hkb, if_true]
  rfl

end

/-! ### Bounds of fields that fit -/

theorem numFits_lt {consts lits : Nat} {role : Role} {kind n : Nat} (h : numFits consts lits role kind n)
    (hc : 64 ≤ consts) (hl : lits ≤ consts) : n < consts := by
  unfold numFits at h
  split at h
  case h_7 => split at h <;> omega
  all_goals omega

theorem numFits_lt_64 {consts lits : Nat} {role : Role} {kind n : Nat} (h : numFits consts lits role kind n)
    (hk : kind ≠ 2) (hl : lits ≤ 64) : n < 64 := by
  unfold numFits at h
  split at h
  case h_7 => split at h <;> omega
  all_goals omega

section
variable {row : Row} {e : Enc} (hrow : RowFacts row) (hf : Fits row.desc e)

include hf in
theorem fits_d_lt : e.d < 64 := numFits_lt hf.d (by decide) (by decide)

include hf in
theorem fits_a_lt : e.a < 64 := numFits_lt hf.a (by decide) (by decide)

include hf in
theorem fits_b_lt : e.b < 256 := numFits_lt hf.b (by decide) (by decide)

include hf in
theorem fits_b_lt_64 (hkb : e.kb ≠ 2) : e.b < 64 := numFits_lt_64 hf.b hkb (by decide)

include hrow hf in
theorem fits_ka_lt : e.ka < 4 := by
  have hka := hf.ka
  split at hka
  · rw [List.mem_singleton.mp hka]; decide
  · exact hrow.kindsA _ hka

include hrow hf in
theorem fits_kb_lt : e.kb < 4 := by
  have hkb := hf.kb
  split at hkb
  · exact hrow.kindsB _ hkb
  · rw [List.mem_singleton.mp hkb]; decide

include hf in
/-- Outside the R format there is no kind of b. -/
theorem fits_kb_zero (hw : row.desc.word ≠ .r) : e.kb = 0 := by
  have hkb := hf.kb
  rw [if_neg fun h => hw h.1] at hkb
  exact List.mem_singleton.mp hkb

include hf in
/-- A literal leaves no number in field b. -/
theorem fits_b_of_lit (hkb : e.kb = 3) : e.b = 0 := by
  have hb := hf.b
  have hk := hf.kb
  split at hk
  · unfold Desc.kindsB at hk
    split at hk
    case h_3 ks hrole =>
      rw [hrole, hkb] at hb
      exact Nat.lt_one_iff.mp hb
    all_goals simp [hkb] at hk
  · simp [hkb] at hk

include hrow hf in
theorem fits_of_wordS (hw : row.desc.word = .s) : e.d = 0 ∧ e.ka = 1 ∧ e.kb = 0 ∧ row.desc.imm = .none := by
  have hshape := hrow.shape
  simp only [shapeOk, hw, Bool.and_eq_true, beq_iff_eq] at hshape
  have hd := hf.d
  have hka := hf.ka
  rw [hshape.1] at hd
  rw [if_pos hw] at hka
  exact ⟨hd, List.mem_singleton.mp hka, fits_kb_zero hf (by simp [hw]), hshape.2⟩

include hrow hf in
theorem fits_of_wordI (hw : row.desc.word = .i) : e.b = 0 ∧ e.kb = 0 ∧ (row.desc.imm = .imm5 ∨ row.desc.imm = .selector) := by
  have hshape := hrow.shape
  simp only [shapeOk, hw, Bool.and_eq_true, Bool.or_eq_true, beq_iff_eq] at hshape
  have hb := hf.b
  rw [hshape.1] at hb
  exact ⟨hb, fits_kb_zero hf (by simp [hw]), hshape.2⟩

include hrow hf in
theorem fits_of_wordB (hw : row.desc.word = .b) :
    e.a = 0 ∧ e.b = 0 ∧ e.ka = 1 ∧ e.kb = 0 ∧ row.desc.defaultA = 1 ∧ row.desc.imm = .offset8 := by
  have hshape := hrow.shape
  simp only [shapeOk, hw, Bool.and_eq_true, beq_iff_eq] at hshape
  obtain ⟨⟨haRole, hbRole⟩, himm⟩ := hshape
  have ha := hf.a
  have hb := hf.b
  have hka := hf.ka
  rw [haRole] at ha
  rw [hbRole] at hb
  rw [if_neg (by simp [hw]), Desc.kindsA, haRole] at hka
  exact ⟨ha, hb, List.mem_singleton.mp hka, fits_kb_zero hf (by simp [hw]), by rw [Desc.defaultA, haRole], himm⟩

include hrow in
theorem imm_of_wordR (hw : row.desc.word = .r) : row.desc.imm = .none ∨ row.desc.imm = .bcOffset ∧ row.desc.b = k12 := by
  have hshape := hrow.shape
  simpa only [shapeOk, hw, Bool.and_eq_true, Bool.or_eq_true, beq_iff_eq] using hshape

end

/-! ### What the decoder reads from the encoder's words -/

/-- The chain that the encoder writes. -/
def encChain (row : Row) (e : Enc) : Chain :=
  chainOf (immPayloads row.desc e) (regPrefix row.desc e) (modPrefix row e) (keyPrefix e)

/-- What the decoder joins from the encoder's words. -/
def encJoined (row : Row) (e : Enc) : Joined := join row (encChain row e) (baseWord row e)

section
variable (row : Row) (c : Chain) (w : Nat)

theorem join_mod : (join row c w).mod = ((c.p.map Prod.fst).map (· % 128)).getD (impliedModifier row.key) := by
  unfold join
  cases c.p <;> rfl

theorem join_rx : (join row c w).rx = (c.r.map Prod.fst).getD 0 := by
  unfold join
  cases c.r <;> rfl

theorem join_vx : (join row c w).vx = (c.v.map Prod.fst).getD 0 := by
  unfold join
  cases c.v <;> rfl

end

section
variable {row : Row} {e : Enc} (hrow : RowFacts row) (hf : Fits row.desc e)

include hrow hf in
/-- q4 and x96 are no format of an instruction (R85). -/
theorem fits_fmt_lt : e.fmt < 14 := by
  have hfmt := hf.fmt
  have hfmts := hrow.fmtsOk
  unfold fmtFits at hfmt
  split at hfmt
  · omega
  · rename_i p hp
    obtain ⟨hlt, hlisted⟩ := hfmt
    simp only [hp, fmtsOk, Bool.and_eq_true, Bool.not_eq_true'] at hfmts
    by_contra hge
    have hcode : e.fmt = 14 ∨ e.fmt = 15 := by omega
    rcases hcode with h | h <;> rw [h] at hlisted
    · exact absurd hlisted (Bool.eq_false_iff.mp hfmts.1)
    · exact absurd hlisted (Bool.eq_false_iff.mp hfmts.2)

include hrow hf in
/-- Layout V has no format (R85). -/
theorem fits_fmt_zero (hv : row.desc.lay = .v) : e.fmt = 0 := by
  have hfmt := hf.fmt
  rwa [fmtFits, hrow.fmts hv] at hfmt

include hrow hf in
theorem fits_low_lt : e.low < if row.desc.lay = .v then 128 else 8 := by
  have hnvar := hrow.nvar
  have hlow := hf.low
  unfold lowFits at hlow
  cases hlay : row.desc.lay with
  | n | v =>
    simp only [hlay, reduceCtorEq, if_true, if_false] at hlow hnvar ⊢
    exact Nat.lt_of_lt_of_le hlow hnvar
  | f | t | m =>
    simp only [hlay, reduceCtorEq, if_false] at hlow ⊢
    omega

include hrow hf in
/-- The two parts of the modifier (R85). -/
theorem modBits_digits : modBits row.desc e < 128 ∧ (row.desc.lay ≠ .v → modBits row.desc e / 8 = e.fmt ∧ modBits row.desc e % 8 = e.low) := by
  have hlow := fits_low_lt hrow hf
  have hfmt := fits_fmt_lt hrow hf
  unfold modBits
  by_cases hv : row.desc.lay = .v
  · rw [if_pos hv] at hlow
    exact ⟨by rw [if_pos hv]; exact hlow, fun hn => absurd hv hn⟩
  · rw [if_neg hv] at hlow ⊢
    omega

include hrow hf in
theorem encJoined_mod : (encJoined row e).mod = modBits row.desc e := by
  obtain ⟨hlt, -⟩ := modBits_digits hrow hf
  rw [encJoined, join_mod, encChain, chainOf_p, modPrefix]
  split
  · simp only [Option.map_some, Option.getD_some]
    omega
  · rename_i h
    exact (not_ne_iff.mp (not_or.mp h).2).symm

theorem encJoined_rx : (encJoined row e).rx = if regBits row.desc e ≠ regDefault row.desc then regBits row.desc e else 0 := by
  rw [encJoined, join_rx, encChain, chainOf_r, regPrefix]
  split <;> rfl

theorem encJoined_vx : (encJoined row e).vx = keyBits e := by
  rw [encJoined, join_vx, encChain, chainOf_v, keyPrefix]
  split
  · rfl
  · rename_i h
    exact (not_ne_iff.mp h).symm

end

end Sys2Proof.Proofs
end

section
namespace Sys2Proof.Proofs
open Sys2Proof

/-! ### The digits of the encoder's words -/

theorem join_ka (row : Row) (c : Chain) (w : Nat) : (join row c w).e.ka = match row.desc.word with
    | .s => 1
    | _ => ((c.r.map Prod.fst).map (· / 512 % 4)).getD row.desc.defaultA := by
  unfold join
  cases c.r <;> rfl

section
variable {row : Row} {e : Enc} (hrow : RowFacts row) (hf : Fits row.desc e)

theorem bHigh_lt (x : Desc) (e : Enc) : bHigh x e < 8 := by
  unfold bHigh bBits
  split
  · decide
  · omega

include hrow hf in
/-- The high bits of the register numbers and the kind of a are read back, also where `pfx.r` is left out. -/
theorem encJoined_rx_digits :
    (encJoined row e).rx / 64 % 8 = e.d / 8 ∧ (encJoined row e).rx / 8 % 8 = e.a / 8 ∧ (encJoined row e).rx % 8 = bHigh row.desc e ∧
    (row.desc.word = .s → (encJoined row e).rx < 64) := by
  have hd := fits_d_lt hf
  have ha := fits_a_lt hf
  have hb := bHigh_lt row.desc e
  rw [encJoined_rx]
  cases hw : row.desc.word with
  | s =>
    obtain ⟨hd0, -⟩ := fits_of_wordS hrow hf hw
    simp only [regBits, regDefault, hw]
    split <;> omega
  | b =>
    obtain ⟨ha0, hb0, -, hkb, -⟩ := fits_of_wordB hrow hf hw
    have hhigh : bHigh row.desc e = 0 := by simp [bHigh, bBits, isLit, hw, hb0]
    simp only [regBits, regDefault, hw, hhigh, reduceCtorEq, false_implies, and_true]
    split <;> omega
  | i | r =>
    simp only [regBits, regDefault, hw, reduceCtorEq, false_implies, and_true]
    split <;> omega

include hrow hf in
theorem encJoined_ka : (encJoined row e).e.ka = e.ka := by
  have hka := fits_ka_lt hrow hf
  have hd := fits_d_lt hf
  have ha := fits_a_lt hf
  have hb := bHigh_lt row.desc e
  rw [encJoined, join_ka, encChain, chainOf_r, regPrefix]
  cases hw : row.desc.word with
  | s => exact (fits_of_wordS hrow hf hw).2.1.symm
  | b =>
    obtain ⟨-, -, hka, -, hdef, -⟩ := fits_of_wordB hrow hf hw
    simp only [regBits, regDefault, hw, hdef, hka]
    split <;> simp only [Option.map_some, Option.map_none, Option.getD_some, Option.getD_none]
    omega
  | i | r =>
    simp only [regBits, regDefault, hw]
    split <;> simp only [Option.map_some, Option.map_none, Option.getD_some, Option.getD_none] <;> omega

end

/-! ### The digits of the base word -/

section
variable {row : Row} {e : Enc} (hrow : RowFacts row) (hf : Fits row.desc e)

include hrow hf in
theorem baseWord_digits_r (hw : row.desc.word = .r) : let w := baseWord row e
    w / 256 % 8 = e.d % 8 ∧ w / 32 % 8 = e.a % 8 ∧ w / 8 % 4 = e.kb ∧ w % 8 = bBits row.desc e % 8 ∧
    w % 32 = e.kb * 8 + bBits row.desc e % 8 := by
  have hkb := fits_kb_lt hrow hf
  simp only [baseWord, hw]
  omega

theorem baseWord_digits_i (hw : row.desc.word = .i) : let w := baseWord row e
    w / 256 % 8 = e.d % 8 ∧ w / 32 % 8 = e.a % 8 ∧
    w % 32 = if row.desc.imm = .selector then e.imm.toNat % 32 else immRaw row.desc e % 32 := by
  simp only [baseWord, hw]
  split <;> omega

theorem baseWord_digits_b (hw : row.desc.word = .b) : let w := baseWord row e
    w / 256 % 8 = e.d % 8 ∧ w % 256 = immRaw row.desc e % 256 := by
  simp only [baseWord, hw]
  omega

theorem baseWord_digits_s (hw : row.desc.word = .s) : let w := baseWord row e
    w / 8 % 8 = e.a % 8 ∧ w % 8 = e.b % 8 ∧ w / 64 % 32 = row.key % 32 := by
  simp only [baseWord, hw]
  omega

include hrow hf in
theorem baseWord_d (hs : row.desc.word ≠ .s) : baseWord row e / 256 % 8 = e.d % 8 := by
  cases hw : row.desc.word with
  | s => exact absurd hw hs
  | i => exact (baseWord_digits_i hw).1
  | b => exact (baseWord_digits_b hw).1
  | r => exact (baseWord_digits_r hrow hf hw).1

include hrow hf in
theorem baseWord_a (hs : row.desc.word ≠ .s) (hb : row.desc.word ≠ .b) : baseWord row e / 32 % 8 = e.a % 8 := by
  cases hw : row.desc.word with
  | s => exact absurd hw hs
  | b => exact absurd hw hb
  | i => exact (baseWord_digits_i hw).2.1
  | r => exact (baseWord_digits_r hrow hf hw).2.1

include hrow hf in
theorem baseWord_op : baseWord row e / 2048 % 32 = row.key / 32 % 32 := by
  have hkb := fits_kb_lt hrow hf
  unfold baseWord
  split
  case h_2 => split <;> omega
  all_goals omega

/-! ### The immediate read back -/

theorem of_inRange {n : Nat} {v : Int} (h : inRange n v = true) : -(2 ^ n : Int) ≤ 2 * v ∧ 2 * v < 2 ^ n := of_decide_eq_true h

/-- An immediate whose payloads hold it is read back from them and the base word's part. -/
theorem extValue_immPayloads {x : Desc} {low : Nat} (hp : immPayloads x e = payloads (immRaw x e) (immWidth x) (extCount x e))
    (hrange : inRange (immWidth x + 11 * extCount x e) e.imm = true) (hlow : low = immRaw x e % 2 ^ immWidth x) :
    extValue (immWidth x) low (immPayloads x e) = e.imm := by
  rw [hp, immRaw]
  exact extValue_payloads (of_inRange hrange).1 (of_inRange hrange).2 hlow

/-- The range of a field with payloads, the number of which is the least. -/
theorem inRange_least {w : Nat} {v : Int} (h : (if inRange w v then 0 else leastPayloads w v) ≤ 4) :
    inRange (w + 11 * if inRange w v then 0 else leastPayloads w v) v = true := by
  split at h
  · simp [*]
  · simpa [*] using leastPayloads_inRange h

/-- Where `pfx.i` words carry the immediate: every payload of the value. -/
theorem immPayloads_eq {x : Desc} (hsel : x.imm ≠ .selector) (hconst : ¬ (x.word = .r ∧ e.kb = 2 ∧ x.imm = .none)) :
    immPayloads x e = payloads (immRaw x e) (immWidth x) (extCount x e) := by
  rw [immPayloads, if_neg (by simpa using hconst), if_neg hsel]

end

/-! ### The fields that the decoder joins are those that the encoder was given -/

section
variable {row : Row} {e : Enc} (hrow : RowFacts row) (hf : Fits row.desc e)

include hrow hf in
theorem encJoined_kb : (encJoined row e).e.kb = e.kb := by
  have hread : (encJoined row e).e.kb = match row.desc.word with
      | .r => baseWord row e / 8 % 4
      | _ => 0 := rfl
  rw [hread]
  cases hw : row.desc.word with
  | r => exact (baseWord_digits_r hrow hf hw).2.2.1
  | i | b | s => exact (fits_kb_zero hf (by simp [hw])).symm

theorem join_imm_imm5 {c : Chain} {w : Nat} (h : row.desc.imm = .imm5) : (join row c w).e.imm = extValue 5 (w % 32) c.imm := by
  simp only [join, h]

theorem join_imm_selector {c : Chain} {w : Nat} (h : row.desc.imm = .selector) : (join row c w).e.imm = (w % 32 : Nat) := by
  simp only [join, h]

theorem join_imm_offset8 {c : Chain} {w : Nat} (h : row.desc.imm = .offset8) : (join row c w).e.imm = extValue 8 (w % 256) c.imm := by
  simp only [join, h]

theorem join_imm_bcOffset {c : Chain} {w : Nat} (h : row.desc.imm = .bcOffset) : (join row c w).e.imm = extValue 0 0 c.imm := by
  simp only [join, h]

theorem join_imm_none {c : Chain} {w : Nat} (h : row.desc.imm = .none) : (join row c w).e.imm =
    if row.desc.word = .r ∧ (join row c w).e.kb = 3 then (if c.imm.length = 0 then ((w % 8 : Nat) : Int) else extValue 3 (w % 8) c.imm)
    else 0 := by
  simp only [join, h]

/-- A literal of R42: its low three bits in field b, the rest, if it is not 0 to 7, in payloads. -/
theorem literal_read (himm : row.desc.imm = .none) (hw : row.desc.word = .r) (hkb : e.kb = 3)
    (hlen : (immPayloads row.desc e).length ≤ 4) {low : Nat} (hlow : low = immRaw row.desc e % 8) :
    (if (immPayloads row.desc e).length = 0 then ((low : Nat) : Int) else extValue 3 low (immPayloads row.desc e)) = e.imm := by
  have hpay := immPayloads_eq (e := e) (x := row.desc) (by simp [himm]) (by simp [hkb])
  have hwidth : immWidth row.desc = 3 := by simp [immWidth, himm]
  have hcount := extCount_lit himm hw hkb
  rw [hpay, payloads_length, hcount] at hlen
  rw [hpay, payloads_length, ← hpay]
  split at hcount
  · rename_i hsmall
    have hraw : immRaw row.desc e = e.imm.toNat := by
      rw [immRaw, hcount, hwidth, wrapBits, Int.emod_eq_of_lt hsmall.1 (by omega)]
    rw [if_pos hcount, hlow, hraw]
    omega
  · rename_i hbig
    rw [if_neg hbig] at hlen
    have hpos := leastPayloads_pos 3 e.imm
    rw [if_neg (by omega), ← hwidth]
    exact extValue_immPayloads hpay (by rw [hwidth, hcount]; exact leastPayloads_inRange hlen) (by rw [hlow, hwidth]; rfl)

include hf in
theorem fits_imm_zero (himm : row.desc.imm = .none) (h : ¬ (row.desc.word = .r ∧ e.kb = 3)) : e.imm = 0 := by
  have hfits := hf.imm
  rw [himm, immFits] at hfits
  refine hfits.resolve_left fun hk => h ⟨?_, hk⟩
  by_contra hw
  rw [fits_kb_zero hf hw] at hk
  cases hk

theorem encChain_imm : (encChain row e).imm = immPayloads row.desc e := chainOf_imm

include hrow hf in
theorem encJoined_imm_s (hw : row.desc.word = .s) : (encJoined row e).e.imm = e.imm := by
  obtain ⟨-, -, -, himm⟩ := fits_of_wordS hrow hf hw
  rw [encJoined, join_imm_none himm, if_neg (by simp [hw]), fits_imm_zero hf himm (by simp [hw])]

include hrow hf in
theorem encJoined_imm_i (hw : row.desc.word = .i) (hlen : (immPayloads row.desc e).length ≤ 4) :
    (encJoined row e).e.imm = e.imm := by
  obtain ⟨-, -, hlow⟩ := baseWord_digits_i (e := e) hw
  rcases (fits_of_wordI hrow hf hw).2.2 with himm | himm
  · have hpay := immPayloads_eq (e := e) (x := row.desc) (by simp [himm]) (by simp [hw])
    have hwidth : immWidth row.desc = 5 := by simp [immWidth, himm]
    rw [if_neg (by simp [himm])] at hlow
    rw [hpay, payloads_length, extCount_imm5 himm] at hlen
    rw [encJoined, join_imm_imm5 himm, encChain_imm, ← hwidth]
    exact extValue_immPayloads hpay (by rw [hwidth, extCount_imm5 himm]; exact inRange_least hlen) (by rw [hlow, hwidth]; rfl)
  · have hfits := hf.imm
    rw [himm, immFits] at hfits
    rw [if_pos himm] at hlow
    rw [encJoined, join_imm_selector himm, hlow]
    omega

include hrow hf in
theorem encJoined_imm_b (hw : row.desc.word = .b) (hlen : (immPayloads row.desc e).length ≤ 4) :
    (encJoined row e).e.imm = e.imm := by
  obtain ⟨-, -, -, -, -, himm⟩ := fits_of_wordB hrow hf hw
  have hpay := immPayloads_eq (e := e) (x := row.desc) (by simp [himm]) (by simp [hw])
  have hwidth : immWidth row.desc = 8 := by simp [immWidth, himm]
  rw [hpay, payloads_length, extCount_offset8 himm] at hlen
  rw [encJoined, join_imm_offset8 himm, encChain_imm, ← hwidth]
  exact extValue_immPayloads hpay (by rw [hwidth, extCount_offset8 himm]; exact inRange_least hlen)
    (by rw [(baseWord_digits_b hw).2, hwidth]; rfl)

include hrow hf in
theorem encJoined_imm_r (hw : row.desc.word = .r) (hlen : (immPayloads row.desc e).length ≤ 4) :
    (encJoined row e).e.imm = e.imm := by
  have hkb := encJoined_kb hrow hf
  rw [encJoined] at hkb ⊢
  rcases imm_of_wordR hrow hw with himm | ⟨himm, -⟩
  · rw [join_imm_none himm, hkb, encChain_imm]
    by_cases hlit : row.desc.word = .r ∧ e.kb = 3
    · have hb : bBits row.desc e = immRaw row.desc e % 8 := if_pos (by simp [isLit, hw, himm, hlit.2])
      obtain ⟨-, -, -, hlow, -⟩ := baseWord_digits_r hrow hf hw
      rw [if_pos hlit, literal_read himm hw hlit.2 hlen (by rw [hlow, hb, Nat.mod_mod])]
    · rw [if_neg hlit, fits_imm_zero hf himm hlit]
  · have hpay := immPayloads_eq (e := e) (x := row.desc) (by simp [himm]) (by simp [himm])
    have hwidth : immWidth row.desc = 0 := by simp [immWidth, himm]
    rw [hpay, payloads_length, extCount_bcOffset himm] at hlen
    have hread := extValue_immPayloads (low := 0) hpay (by rw [hwidth, extCount_bcOffset himm]; exact leastPayloads_inRange hlen)
      (by rw [hwidth, pow_zero, Nat.mod_one])
    rw [hwidth] at hread
    rw [join_imm_bcOffset himm, encChain_imm, hread]

include hrow hf in
theorem encJoined_imm (hlen : (immPayloads row.desc e).length ≤ 4) : (encJoined row e).e.imm = e.imm := by
  cases hw : row.desc.word with
  | s => exact encJoined_imm_s hrow hf hw
  | i => exact encJoined_imm_i hrow hf hw hlen
  | b => exact encJoined_imm_b hrow hf hw hlen
  | r => exact encJoined_imm_r hrow hf hw hlen

end

section
variable {row : Row} {e : Enc} (hrow : RowFacts row) (hf : Fits row.desc e)

theorem join_d (row : Row) (c : Chain) (w : Nat) : (join row c w).e.d = match row.desc.word with
    | .s => 0
    | _ => (join row c w).rx / 64 % 8 * 8 + w / 256 % 8 := rfl

theorem join_a (row : Row) (c : Chain) (w : Nat) : (join row c w).e.a = match row.desc.word with
    | .s => (join row c w).rx / 8 % 8 * 8 + w / 8 % 8
    | .b => 0
    | _ => (join row c w).rx / 8 % 8 * 8 + w / 32 % 8 := rfl

/-- The number that field b and the high bits of `pfx.r` hold, before `pfx.i` of a constant or a literal. -/
def bNumber (row : Row) (c : Chain) (w : Nat) : Nat :=
  match row.desc.word with
  | .r | .s => (join row c w).rx % 8 * 8 + w % 8
  | _ => 0

theorem join_b (row : Row) (c : Chain) (w : Nat) : (join row c w).e.b =
    if row.desc.word = .r ∧ (join row c w).e.kb = 3 then 0
    else if row.desc.word = .r ∧ (join row c w).e.kb = 2 ∧ row.desc.imm = .none then c.imm.headD 0 % 4 * 64 + bNumber row c w
    else bNumber row c w := rfl

include hrow hf in
theorem encJoined_d : (encJoined row e).e.d = e.d := by
  obtain ⟨hd, -, -, -⟩ := encJoined_rx_digits hrow hf
  rw [encJoined] at hd ⊢
  rw [join_d, hd]
  cases hw : row.desc.word with
  | s => exact (fits_of_wordS hrow hf hw).1.symm
  | i | b | r =>
    rw [baseWord_d hrow hf (by simp [hw])]
    exact Nat.div_add_mod' e.d 8

include hrow hf in
theorem encJoined_a : (encJoined row e).e.a = e.a := by
  obtain ⟨-, ha, -, -⟩ := encJoined_rx_digits hrow hf
  rw [encJoined] at ha ⊢
  rw [join_a, ha]
  cases hw : row.desc.word with
  | s =>
    rw [(baseWord_digits_s hw).1]
    exact Nat.div_add_mod' e.a 8
  | b => exact (fits_of_wordB hrow hf hw).1.symm
  | i | r =>
    rw [baseWord_a hrow hf (by simp [hw]) (by simp [hw])]
    exact Nat.div_add_mod' e.a 8

/-- A constant-bank number of 64 or more has its high bits in `pfx.i` (R81). -/
theorem constant_high (hw : row.desc.word = .r) (hkb : e.kb = 2) (himm : row.desc.imm = .none) (hb : e.b < 256) :
    (immPayloads row.desc e).headD 0 % 4 = e.b / 64 := by
  rw [immPayloads, if_pos (by simp [hw, hkb, himm])]
  split
  · exact Nat.mod_eq_of_lt (by simp only [List.headD_cons]; omega)
  · simp only [List.headD_nil]
    omega

include hrow hf in
theorem bNumber_eq (hlit : isLit row.desc e = false) : bNumber row (encChain row e) (baseWord row e) = e.b % 64 := by
  obtain ⟨-, -, hb, -⟩ := encJoined_rx_digits hrow hf
  have hbits : bBits row.desc e = e.b % 64 := if_neg (by simp [hlit])
  have hhigh : bHigh row.desc e = e.b % 64 / 8 := by rw [bHigh, if_neg (by simp [hlit]), hbits]
  rw [encJoined, hhigh] at hb
  rw [bNumber, hb]
  cases hw : row.desc.word with
  | s =>
    obtain ⟨-, hlow, -⟩ := baseWord_digits_s (e := e) hw
    simp only [hlow]
    omega
  | i => simp only [(fits_of_wordI hrow hf hw).1, Nat.zero_mod]
  | b => simp only [(fits_of_wordB hrow hf hw).2.1, Nat.zero_mod]
  | r =>
    obtain ⟨-, -, -, hlow, -⟩ := baseWord_digits_r hrow hf hw
    simp only [hlow, hbits]
    omega

include hrow hf in
theorem encJoined_b : (encJoined row e).e.b = e.b := by
  have hkb := encJoined_kb hrow hf
  have hlt := fits_b_lt hf
  rw [encJoined] at hkb ⊢
  rw [join_b, hkb]
  by_cases hlit : row.desc.word = .r ∧ e.kb = 3
  · rw [if_pos hlit, fits_b_of_lit hf hlit.2]
  · have hread := bNumber_eq hrow hf (decide_eq_false fun h => hlit ⟨h.1, h.2.1⟩)
    rw [if_neg hlit]
    by_cases hconst : row.desc.word = .r ∧ e.kb = 2 ∧ row.desc.imm = .none
    · obtain ⟨hw, hk, himm⟩ := hconst
      rw [if_pos ⟨hw, hk, himm⟩, encChain_imm, constant_high hw hk himm hlt, hread]
      omega
    · rw [if_neg hconst, hread]
      refine Nat.mod_eq_of_lt ?_
      by_cases hk : e.kb = 2
      · have hw : row.desc.word = .r := by
          by_contra hw
          rw [fits_kb_zero hf hw] at hk
          cases hk
        have himm := hf.imm
        rw [((imm_of_wordR hrow hw).resolve_left fun h => hconst ⟨hw, hk, h⟩).1] at himm
        exact himm
      · exact fits_b_lt_64 hf hk

/-- The keys' digits of `pfx.v` (R88). -/
theorem keyBits_digits (hmask : e.mask < 8) (hlmul : e.lmul ≤ 4) : keyBits e / 256 % 8 = e.mask ∧ bitAt (keyBits e) 7 = e.mz ∧
    bitAt (keyBits e) 6 = e.tz ∧ keyBits e / 8 % 8 = e.lmul ∧ bitAt (keyBits e) 2 = e.sat ∧ keyBits e % 4 = 0 ∧ keyBits e < 2048 := by
  have hmz := bitOf_lt e.mz
  have htz := bitOf_lt e.tz
  have hsat := bitOf_lt e.sat
  have hbit {i : Nat} {b : Bool} (h : keyBits e / 2 ^ i % 2 = bitOf b) : bitAt (keyBits e) i = b := by
    rw [bitAt, h, bitOf_beq_one]
  refine ⟨?_, hbit ?_, hbit ?_, ?_, hbit ?_, ?_, ?_⟩
  all_goals
    unfold keyBits
    omega

include hrow hf in
/-- The decoder joins the fields that the encoder was given. -/
theorem encJoined_e (hlen : (immPayloads row.desc e).length ≤ 4) : (encJoined row e).e = e := by
  obtain ⟨hmask, hmz, htz, hlmul, hsat, -⟩ := keyBits_digits hf.mask hf.lmul
  rw [← encJoined_vx (row := row)] at hmask hmz htz hlmul hsat
  have hmod := encJoined_mod hrow hf
  have hfmt : (if row.desc.lay = .v then 0 else (encJoined row e).mod / 8) = e.fmt := by
    split
    · exact (fits_fmt_zero hrow hf ‹_›).symm
    · rw [hmod, ((modBits_digits hrow hf).2 ‹_›).1]
  have hlow : (if row.desc.lay = .v then (encJoined row e).mod else (encJoined row e).mod % 8) = e.low := by
    rw [hmod]
    split
    · exact if_pos ‹_›
    · exact ((modBits_digits hrow hf).2 ‹_›).2
  calc (encJoined row e).e = ⟨e.fmt, e.low, e.mask, e.mz, e.tz, e.lmul, e.sat, e.d, e.a, e.b, e.ka, e.kb, e.imm⟩ := by
        refine (Enc.mk.injEq ..).mpr ⟨hfmt, hlow, hmask, hmz, htz, hlmul, hsat, encJoined_d hrow hf, encJoined_a hrow hf,
          encJoined_b hrow hf, encJoined_ka hrow hf, encJoined_kb hrow hf, encJoined_imm hrow hf hlen⟩
    _ = e := rfl

end

end Sys2Proof.Proofs
end

section
namespace Sys2Proof.Proofs
open Sys2Proof

/-! ### No condition of R97 holds of the encoder's words -/

@[simp] theorem encJoined_desc (row : Row) (e : Enc) : (encJoined row e).desc = row.desc := rfl

@[simp] theorem encJoined_w (row : Row) (e : Enc) : (encJoined row e).w = baseWord row e := rfl

@[simp] theorem encJoined_chain_imm (row : Row) (e : Enc) : (encJoined row e).chain.imm = immPayloads row.desc e := encChain_imm

/-- A word without a constant or literal in field b has no payloads unless its immediate does. -/
theorem immPayloads_nil {x : Desc} {e : Enc} (himm : x.imm = .none) (h : x.word = .r → e.kb ≠ 2 ∧ e.kb ≠ 3) : immPayloads x e = [] := by
  rw [immPayloads_eq (by simp [himm]) (fun hc => (h hc.1).1 hc.2.1)]
  have hcount : extCount x e = 0 := by
    simp only [extCount, himm]
    split
    · obtain ⟨h2, h3⟩ := h ‹_›
      split
      · exact absurd ‹_› h3
      · exact absurd ‹_› h2
      · rfl
    · rfl
  rw [hcount, payloads]

section
variable {row : Row} {e : Enc} (hrow : RowFacts row) (hf : Fits row.desc e) (he : (encJoined row e).e = e)

include hf he in
/-- R81, R83, R84: `pfx.i` comes only where the instruction has a place for it. -/
theorem encJoined_check105 : (encJoined row e).check105 = none := by
  have hkb := hf.kb
  rw [Joined.check105, encJoined_chain_imm, encJoined_desc, he]
  cases himm : row.desc.imm with
  | imm5 | offset8 | bcOffset => split <;> rfl
  | selector => rw [immPayloads, if_neg (by simp [himm]), if_pos himm]
  | none =>
    by_cases hb : row.desc.word = .r ∧ row.desc.b ≠ .zero
    · by_cases h3 : e.kb = 3
      · simp only [if_pos hb, h3]
        split <;> rfl
      · by_cases h2 : e.kb = 2
        · have hlt := fits_b_lt hf
          rw [immPayloads, if_pos (by simp [hb.1, h2, himm])]
          by_cases hbig : 64 ≤ e.b
          · have hhigh : e.b / 64 / 4 = 0 := by omega
            simp [hb, h2, hbig, hhigh]
          · simp [hbig]
        · rw [immPayloads_nil himm fun _ => ⟨h2, h3⟩]
    · rw [if_neg hb] at hkb
      rw [immPayloads_nil himm fun _ => by simp [List.mem_singleton.mp hkb]]

/-- R84: the offset of `bc` always has its `pfx.i`. -/
theorem encJoined_check10A : (encJoined row e).check10A = none := by
  refine if_neg fun ⟨himm, hnil⟩ => ?_
  rw [encJoined_desc] at himm
  have hpos := leastPayloads_pos 0 e.imm
  rw [← extCount_bcOffset himm, ← payloads_length (immRaw row.desc e) (immWidth row.desc) (extCount row.desc e),
    ← immPayloads_eq (by simp [himm]) (by simp [himm]), ← encJoined_chain_imm, hnil] at hpos
  exact absurd hpos (by decide)

include hrow hf he in
/-- R85: q4 and x96 are no format of an instruction. -/
theorem encJoined_check10B : (encJoined row e).check10B = none := by
  have hfmt := fits_fmt_lt hrow hf
  rw [Joined.check10B, he, if_neg (by omega)]

theorem numOk_of_numFits {consts lits kind n : Nat} {role : Role} (h : numFits consts lits role kind n) : Joined.numOk role n = true := by
  cases role with
  | num lo hi => exact decide_eq_true ⟨h.1, h.2.1⟩
  | _ => rfl

include hrow hf in
theorem numOk_d : Joined.numOk row.desc.d (e.d % 8) = true := by
  have hd := numOk_of_numFits hf.d
  have hrole := hrow.dRole
  cases hr : row.desc.d with
  | num lo hi =>
    rw [hr] at hd hrole
    have hhi : hi < 8 := of_decide_eq_true hrole
    have hle : e.d ≤ hi := (of_decide_eq_true hd).2
    rwa [Nat.mod_eq_of_lt (by omega)]
  | _ => rfl

include hf he in
theorem encJoined_formatOk : (encJoined row e).formatOk = true := by
  have hfmt := hf.fmt
  rw [Joined.formatOk, encJoined_desc, he]
  unfold fmtFits at hfmt
  cases hfmts : row.desc.fmts with
  | none => simpa [hfmts] using hfmt
  | some p =>
    simp only [hfmts] at hfmt ⊢
    exact hfmt.2

include hf he in
theorem encJoined_lowOk : (encJoined row e).lowOk = true := by
  have hlow := hf.low
  have hok := hf.ok
  rw [Joined.lowOk, encJoined_desc, he]
  unfold lowFits at hlow
  cases hlay : row.desc.lay with
  | t => exact hok
  | _ => simpa [hlay] using hlow

include hrow hf he in
/-- R85, R88, R89, R94-R96: formats, variants, keys, plain numbers and what the entry limits beside them. -/
theorem encJoined_check106 : (encJoined row e).check106 = none := by
  have hkeys : (encJoined row e).keysOk = true := by
    rw [Joined.keysOk, encJoined_desc, he, hf.keys, decide_eq_true hf.lmul]
    rfl
  rw [Joined.check106, encJoined_formatOk hf he, encJoined_lowOk hf he, hkeys, he, encJoined_desc, numOk_d hrow hf,
    numOk_of_numFits hf.a, numOk_of_numFits hf.b, hf.ok]
  rfl

end

/-! #### Bits that must be zero (R78, R80, R81, R88, R95), field by field -/

/-- The set bits of field d that must be zero. -/
def unusedD (j : Joined) : List Nat :=
  match j.desc.word with
  | .s => j.setBits (j.rx / 64) 0
  | _ => match j.desc.d with
    | .zero => j.setBits (j.rx / 64 % 8) (j.w / 256 % 8)
    | .num _ _ => j.setBits (j.rx / 64 % 8) 0
    | _ => []

/-- The set bits of field a that must be zero. -/
def unusedA (j : Joined) : List Nat :=
  match j.desc.word with
  | .b => j.setBits (j.rx / 8 % 8) 0
  | .s => match j.desc.a with
    | .zero => j.setBits (j.rx / 8 % 8) (j.w / 8 % 8)
    | _ => []
  | _ => match j.desc.a with
    | .zero => j.setBits (j.rx / 8 % 8) (j.w / 32 % 8)
    | .base => if j.e.ka = 3 then j.setBits (j.rx / 8 % 8) (j.w / 32 % 8) else []
    | _ => if j.e.ka = 3 then j.setBits (j.rx / 8 % 8) 0 else []

/-- The set bits of field b that must be zero. -/
def unusedB (j : Joined) : List Nat :=
  match j.desc.word with
  | .r => match j.desc.b with
    | .zero => j.setBits (j.rx % 8) (j.w % 32)
    | _ => if j.e.kb = 3 then j.setBits (j.rx % 8) 0 else []
  | .s => match j.desc.b with
    | .zero => j.setBits (j.rx % 8) (j.w % 8)
    | _ => []
  | _ => j.setBits (j.rx % 8) 0

theorem unused_eq (j : Joined) : j.unused = (if j.vx % 4 ≠ 0 then [j.vAt] else []) ++ unusedD j ++ unusedA j ++ unusedB j := rfl

theorem setBits_nil (j : Joined) {high low : Nat} (hhigh : high = 0) (hlow : low = 0) : j.setBits high low = [] := by
  subst hhigh hlow
  rfl

section
variable {row : Row} {e : Enc} (hrow : RowFacts row) (hf : Fits row.desc e) (he : (encJoined row e).e = e)

theorem bHigh_of_b_zero {x : Desc} (hb : e.b = 0) : bHigh x e = 0 := by
  unfold bHigh bBits
  split
  · rfl
  · rw [hb]

include hrow hf in
theorem unusedD_nil : unusedD (encJoined row e) = [] := by
  obtain ⟨hd, -, -, hs⟩ := encJoined_rx_digits hrow hf
  have hfits := hf.d
  have hrole := hrow.dRole
  unfold unusedD
  rw [encJoined_desc, encJoined_w, hd]
  split
  · have hlt := hs ‹_›
    exact setBits_nil _ (by omega) rfl
  · split
    · rename_i hw _ hr
      rw [hr] at hfits
      have hd0 : e.d = 0 := hfits
      exact setBits_nil _ (by rw [hd0]) (by rw [baseWord_d hrow hf hw, hd0])
    · rename_i lo hi hr
      rw [hr] at hfits hrole
      have hhi : hi < 8 := of_decide_eq_true hrole
      have hle : e.d ≤ hi := hfits.2.1
      exact setBits_nil _ (by omega) rfl
    · rfl

include hf in
/-- A literal in field a is 0 to 7, and a base of `pc` leaves the field 0. -/
theorem fits_a_of_kind3 (hw : row.desc.word ≠ .s) (hka : e.ka = 3) : e.a < 8 ∧ (row.desc.a = .base → e.a = 0) := by
  have ha := hf.a
  have hk := hf.ka
  rw [if_neg hw, Desc.kindsA, hka] at hk
  rw [hka] at ha
  cases hrole : row.desc.a with
  | opnd ks =>
    rw [hrole] at ha
    exact ⟨ha, fun h => nomatch h⟩
  | base =>
    rw [hrole] at ha
    have ha0 : e.a = 0 := ha.2 rfl
    exact ⟨by omega, fun _ => ha0⟩
  | _ => simp [hrole] at hk

include hf in
theorem fits_a_zero (h : row.desc.a = .zero) : e.a = 0 := by
  have hfits := hf.a
  rwa [h] at hfits

include hf in
theorem fits_b_zero (h : row.desc.b = .zero) : e.b = 0 := by
  have hfits := hf.b
  rwa [h] at hfits

include hrow hf he in
theorem unusedA_nil : unusedA (encJoined row e) = [] := by
  obtain ⟨-, ha, -, -⟩ := encJoined_rx_digits hrow hf
  have hhigh (h : e.a = 0) : e.a / 8 = 0 := by rw [h]
  unfold unusedA
  rw [encJoined_desc, encJoined_w, ha, he]
  split
  · exact setBits_nil _ (hhigh (fits_of_wordB hrow hf ‹_›).1) rfl
  · split
    · have ha0 := fits_a_zero hf ‹_›
      exact setBits_nil _ (hhigh ha0) (by rw [(baseWord_digits_s ‹_›).1, ha0])
    · rfl
  · rename_i hnb hns
    have hlit := fits_a_of_kind3 hf hns
    have hlow (h : e.a = 0) : baseWord row e / 32 % 8 = 0 := by rw [baseWord_a hrow hf hns hnb, h]
    split
    · have ha0 := fits_a_zero hf ‹_›
      exact setBits_nil _ (hhigh ha0) (hlow ha0)
    · split
      · have ha0 := (hlit ‹_›).2 ‹_›
        exact setBits_nil _ (hhigh ha0) (hlow ha0)
      · rfl
    · split
      · have ha8 := (hlit ‹_›).1
        exact setBits_nil _ (by omega) rfl
      · rfl

include hrow hf he in
theorem unusedB_nil : unusedB (encJoined row e) = [] := by
  obtain ⟨-, -, hb, -⟩ := encJoined_rx_digits hrow hf
  unfold unusedB
  rw [encJoined_desc, encJoined_w, hb, he]
  split
  · rename_i hw
    split
    · have hb0 := fits_b_zero hf ‹_›
      have hkb := hf.kb
      rw [if_neg fun h => h.2 ‹_›] at hkb
      have hlow : baseWord row e % 32 = 0 := by
        rw [(baseWord_digits_r hrow hf hw).2.2.2.2, bBits, if_neg (by simp [isLit, List.mem_singleton.mp hkb]), hb0, List.mem_singleton.mp hkb]
      exact setBits_nil _ (bHigh_of_b_zero hb0) hlow
    · split
      · exact setBits_nil _ (bHigh_of_b_zero (fits_b_of_lit hf ‹_›)) rfl
      · rfl
  · split
    · have hb0 := fits_b_zero hf ‹_›
      exact setBits_nil _ (bHigh_of_b_zero hb0) (by rw [(baseWord_digits_s ‹_›).2.1, hb0])
    · rfl
  · rename_i hnr hns
    have hb0 : e.b = 0 := by
      cases hw : row.desc.word with
      | s => exact absurd hw hns
      | r => exact absurd hw hnr
      | i => exact (fits_of_wordI hrow hf hw).1
      | b => exact (fits_of_wordB hrow hf hw).2.1
    exact setBits_nil _ (bHigh_of_b_zero hb0) rfl

include hrow hf he in
theorem encJoined_check109 : (encJoined row e).check109 = none := by
  obtain ⟨-, -, -, -, -, hkeys, -⟩ := keyBits_digits hf.mask hf.lmul
  rw [Joined.check109, unused_eq, unusedD_nil hrow hf, unusedA_nil hrow hf he, unusedB_nil hrow hf he, encJoined_vx, hkeys]
  rfl

/-! #### Kinds, registers and selectors (R22, R25, R79, R80) -/

include hf he in
theorem encJoined_check108 : (encJoined row e).check108 = none := by
  have hka := hf.ka
  have hkb := hf.kb
  rw [Joined.check108, he, encJoined_desc, if_neg, if_neg]
  · rintro ⟨hw, hb, hmem⟩
    rw [if_pos ⟨hw, hb⟩] at hkb
    exact hmem hkb
  · rintro ⟨hw, hmem⟩
    rw [if_neg hw] at hka
    exact hmem hka

theorem regOk_of_numFits {consts lits kind n : Nat} {role : Role} (h : numFits consts lits role kind n) :
    Joined.regOk role kind n = true := by
  cases role with
  | vec => exact decide_eq_true h
  | small => exact decide_eq_true h
  | dst => exact decide_eq_true (h.imp id And.left)
  | opnd ks =>
    by_cases hk : kind = 0
    · subst hk
      have hn : n < 32 := h
      simp [Joined.regOk, hn]
    · simp [Joined.regOk, hk]
  | _ => rfl

include hf he in
theorem encJoined_check107 : (encJoined row e).check107 = none := by
  rw [Joined.check107, he, encJoined_desc, regOk_of_numFits hf.d, regOk_of_numFits hf.a, regOk_of_numFits hf.b]
  rfl

include hf he in
theorem encJoined_check10C : (encJoined row e).check10C = none := by
  rw [Joined.check10C, he, encJoined_desc, if_neg]
  rintro ⟨himm, hge⟩
  have hfits := hf.imm
  rw [himm, immFits] at hfits
  omega

include hrow hf he in
/-- None of the conditions of R98 holds. -/
theorem encJoined_fault : (encJoined row e).fault? = none := by
  rw [Joined.fault?, encJoined_check105 hf he, encJoined_check10A, encJoined_check10B hrow hf he, encJoined_check106 hrow hf he,
    encJoined_check109 hrow hf he, encJoined_check108 hf he, encJoined_check107 hf he, encJoined_check10C hf he]
  rfl

end

/-! ### The decoder on the encoder's words -/

/-- A chain and a base word that no condition of R97 rejects are the instruction of their row. -/
theorem decodeBase_ok {row : Row} {c : Chain} {w : Nat} (hpage : ((c.p.map Prod.fst).map (· / 128 % 16)).getD 0 = row.key / 1024)
    (hlt : row.key / 1024 < 8) (hfind : findRow (row.key / 1024) (w / 2048 % 32) (w / 64 % 32) = some row)
    (hfault : (join row c w).fault? = none) : decodeBase c w = .ok (row.build (join row c w).e) (c.count + 1) := by
  have hnot : ¬ 8 ≤ row.key / 1024 := Nat.not_le.mpr hlt
  cases hp : c.p with
  | none =>
    rw [hp] at hpage
    have hzero : row.key / 1024 = 0 := hpage.symm
    rw [hzero] at hnot hfind
    simp only [decodeBase, hp, if_neg hnot, hfind, hfault]
  | some p =>
    rw [hp] at hpage
    have hread : p.1 / 128 % 16 = row.key / 1024 := hpage
    simp only [decodeBase, hp, hread, if_neg hnot, hfind, hfault]

section
variable {row : Row} {e : Enc} (hrow : RowFacts row) (hf : Fits row.desc e)

include hf in
theorem immPayloads_lt : ∀ p ∈ immPayloads row.desc e, p < 2048 := by
  intro p hp
  have hb := fits_b_lt hf
  unfold immPayloads at hp
  split at hp
  · split at hp
    · rw [List.mem_singleton.mp hp]
      omega
    · cases hp
  · split at hp
    · cases hp
    · exact payloads_lt hp

include hrow hf in
theorem regBits_lt : regBits row.desc e < 2048 := by
  have hd := fits_d_lt hf
  have ha := fits_a_lt hf
  have hb := bHigh_lt row.desc e
  have hka := fits_ka_lt hrow hf
  unfold regBits
  split <;> omega

include hrow hf in
theorem regPrefix_lt : ∀ x ∈ regPrefix row.desc e, x < 2048 := by
  intro x hx
  unfold regPrefix at hx
  split at hx <;> cases hx
  exact regBits_lt hrow hf

include hrow hf in
theorem modPrefix_lt : ∀ x ∈ modPrefix row e, x < 2048 := by
  intro x hx
  obtain ⟨hmod, -⟩ := modBits_digits hrow hf
  have hpage := hrow.page
  unfold modPrefix at hx
  split at hx <;> cases hx
  omega

include hf in
theorem keyPrefix_lt : ∀ x ∈ keyPrefix e, x < 2048 := by
  intro x hx
  obtain ⟨-, -, -, -, -, -, hkeys⟩ := keyBits_digits hf.mask hf.lmul
  unfold keyPrefix at hx
  split at hx <;> cases hx
  exact hkeys

include hrow hf in
theorem baseWord_not_pfx : isPrefixWord (baseWord row e) = false := by
  have hop := hrow.op
  rw [isPrefixWord, baseWord_op hrow hf]
  exact decide_eq_false (by omega)

include hrow hf in
/-- The page of the row, 0 where `pfx.p` is left out (R87). -/
theorem encChain_page : (((encChain row e).p.map Prod.fst).map (· / 128 % 16)).getD 0 = row.key / 1024 := by
  obtain ⟨hmod, -⟩ := modBits_digits hrow hf
  have hpage := hrow.page
  rw [encChain, chainOf_p, modPrefix]
  split
  · simp only [Option.map_some, Option.getD_some]
    omega
  · rename_i h
    exact (not_ne_iff.mp (not_or.mp h).1).symm

theorem encodeFields_length (row : Row) (e : Enc) : (encodeFields row e).length = (encChain row e).count + 1 := by
  rw [encodeFields_eq, encChain, chainOf_count]
  simp [prefixWords, Nat.add_assoc]

include hrow hf in
/-- The words of fields that fit decode to the instruction of the row, when at most four `pfx` words come before the base word
(R76). -/
theorem decodeWords_encodeFields (hfind : findRow (row.key / 1024) (row.key / 32 % 32) (row.key % 32) = some row)
    (hlen : (encodeFields row e).length ≤ 5) :
    decodeWords (encodeFields row e) = .ok (row.build e) (encodeFields row e).length := by
  have hcount := encodeFields_length row e
  have hroom : (encChain row e).count ≤ 4 := by omega
  have himmLen : (immPayloads row.desc e).length ≤ 4 := by
    rw [encChain, chainOf_count] at hroom
    omega
  have hfound : findRow (row.key / 1024) (baseWord row e / 2048 % 32) (baseWord row e / 64 % 32) = some row := by
    rw [baseWord_op hrow hf, ← hfind]
    exact findRow_sub fun hgroup => (baseWord_digits_s (hrow.group hgroup)).2.2
  have he := encJoined_e hrow hf himmLen
  calc decodeWords (encodeFields row e)
      _ = decodeBase (encChain row e) (baseWord row e) := by
        rw [encodeFields_eq]
        exact decodeWords_chainOf (immPayloads_lt hf) (regPrefix_lt hrow hf) (modPrefix_lt hrow hf) (keyPrefix_lt hf) hroom
          (baseWord_not_pfx hrow hf)
      _ = .ok (row.build (encJoined row e).e) ((encChain row e).count + 1) :=
        decodeBase_ok (encChain_page hrow hf) hrow.page hfound (encJoined_fault hrow hf he)
      _ = .ok (row.build e) (encodeFields row e).length := by rw [he, hcount]

end

end Sys2Proof.Proofs
end

section
namespace Sys2Proof.Proofs
open Sys2Proof

/-! ### What the roles allow: registers, operands and bases at every value (R79-R81) -/

section
variable {consts lits kind : Nat}

theorem numFits_src (r : SReg) : numFits consts lits .src kind r.num := sreg_num_lt r

theorem numFits_dst {r : SReg} (h : r.isDst = true) : numFits consts lits .dst kind r.num :=
  (sreg_num_of_isDst h).imp id fun hlo => ⟨hlo, sreg_num_lt r⟩

theorem numFits_base (m : Base) : numFits consts lits .base (baseKind m) (baseNum m) := by
  cases m with
  | reg r => exact ⟨sreg_num_lt r, fun h => nomatch h⟩
  | pc => exact ⟨Nat.zero_lt_succ 63, fun _ => rfl⟩

theorem numFits_numA (ks : List Nat) {x : Opnd} (h : x.okA = true) : numFits 64 8 (.opnd ks) (opndKind x) (numA x) := by
  cases x with
  | vec n => cases h
  | reg r => exact sreg_num_lt r
  | const n =>
    have hn : n.val < 64 := of_decide_eq_true h
    exact hn
  | lit v =>
    obtain ⟨hlo, hhi⟩ := of_decide_eq_true h
    change v.toNat < 8
    omega

theorem numFits_numB (ks : List Nat) (x : Opnd) : numFits 256 1 (.opnd ks) (opndKind x) (numB x) := by
  cases x with
  | vec n => exact n.isLt
  | reg r => exact sreg_num_lt r
  | const n => exact n.isLt
  | lit v => exact Nat.zero_lt_one

end

section
variable {x : Opnd}

theorem opndKind_mem (x : Opnd) : opndKind x ∈ [0, 1, 2, 3] := by cases x <;> simp [opndKind]

theorem opndKind_of_okA (h : x.okA = true) : opndKind x ∈ [1, 2, 3] := by
  cases x with
  | vec n => cases h
  | _ => simp [opndKind]

theorem opndKind_of_okA2 (h : x.okA2 = true) : opndKind x ∈ [1, 2] := by
  cases x with
  | reg r | const n => simp [opndKind]
  | _ => cases h

theorem opndKind_of_okB (h : x.okB = true) : opndKind x ∈ [1, 2, 3] := by
  cases x with
  | vec n => cases h
  | _ => simp [opndKind]

theorem opndKind_of_okB2 (h : x.okB2 = true) : opndKind x ∈ [1, 2] := by
  cases x with
  | reg r | const n => simp [opndKind]
  | _ => cases h

/-- Field b of `bc` is a register or one of c0-c63 (R84, R94). -/
theorem opndKind_of_okBc (h : x.okBc = true) : opndKind x ∈ [1, 2] ∧ numB x < 64 := by
  cases x with
  | reg r => exact ⟨by simp [opndKind], sreg_num_lt r⟩
  | const n =>
    have hn : n.val < 64 := of_decide_eq_true h
    exact ⟨by simp [opndKind], hn⟩
  | _ => cases h

theorem baseKind_mem (m : Base) : baseKind m ∈ [1, 3] := by cases m <;> simp [baseKind]

/-- Only a literal in field b brings an immediate. -/
theorem opndKind_or_immB (x : Opnd) : opndKind x = 3 ∨ immB x = 0 := by cases x <;> simp [opndKind, immB]

end

/-! ### Fields that fit, put together from the modifier, the keys, d, a and b -/

/-- The keys of `pfx.v` that a key set admits (R88, R89). -/
structure KeysFit (ks : KeySet) (e : Enc) : Prop where
  mask : e.mask < 8
  lmul : e.lmul ≤ 4
  within : e.keys.within ks = true

/-- A number and a kind that a role admits in field a. -/
structure AFits (x : Desc) (kind n : Nat) : Prop where
  num : numFits 64 8 x.a kind n
  kindMem : kind ∈ if x.word = .s then [1] else x.kindsA

/-- A number, a kind and an immediate that a role admits in field b. -/
structure BFits (x : Desc) (kind n : Nat) (v : Int) : Prop where
  num : numFits 256 1 x.b kind n
  kindMem : kind ∈ if x.word = .r ∧ x.b ≠ .zero then x.kindsB else [0]
  imm : immFits x.imm kind n v

section
variable {x : Desc} {e : Enc}

theorem fits_of (hfmt : fmtFits x e.fmt) (hlow : lowFits x e.low) (hkeys : KeysFit x.keys e) (hok : x.ok e = true)
    (hd : numFits 64 8 x.d 1 e.d) (ha : AFits x e.ka e.a) (hb : BFits x e.kb e.b e.imm) : Fits x e :=
  ⟨hfmt, hlow, hkeys.mask, hkeys.lmul, hkeys.within, hok, hd, ha.num, hb.num, ha.kindMem, hb.kindMem, hb.imm⟩

theorem fmtFits_code {p : Fmt → Bool} {f : Fmt} (hx : x.fmts = some p) (hp : p f = true) : fmtFits x f.code := by
  rw [fmtFits, hx]
  exact ⟨fmt_code_lt f, by rwa [fmt_of_code]⟩

/-- Keys at their defaults fit every instruction (R37). -/
theorem keysFit_default (ks : KeySet) (he : e.keys = Keys.dflt) (hmask : e.mask = 0) (hlmul : e.lmul = 0) : KeysFit ks e where
  mask := by omega
  lmul := by omega
  within := by simp [he, Keys.within, Keys.dflt]

/-- Field a of the default kind 01: a register, a small number, or nothing. -/
theorem aFits_one {n : Nat} (hn : numFits 64 8 x.a 1 n) (hk : (if x.word = .s then [1] else x.kindsA) = [1]) : AFits x 1 n :=
  ⟨hn, by rw [hk]; exact List.mem_singleton_self 1⟩

theorem aFits_vec (n : Fin 32) (hx : x.a = .vec) (hw : x.word ≠ .s) : AFits x 0 n.val where
  num := by rw [hx]; exact n.isLt
  kindMem := by simp [hw, Desc.kindsA, hx]

theorem aFits_opnd {y : Opnd} {ks : List Nat} (hy : y.okA = true) (hk : opndKind y ∈ ks) (hx : x.a = .opnd ks) (hw : x.word ≠ .s) :
    AFits x (opndKind y) (numA y) where
  num := by rw [hx]; exact numFits_numA ks hy
  kindMem := by simpa [hw, Desc.kindsA, hx] using hk

theorem aFits_base (m : Base) (hx : x.a = .base) (hw : x.word ≠ .s) : AFits x (baseKind m) (baseNum m) where
  num := by rw [hx]; exact numFits_base m
  kindMem := by simpa [hw, Desc.kindsA, hx] using baseKind_mem m

theorem bFits_opnd {y : Opnd} {ks : List Nat} (hk : opndKind y ∈ ks) (hx : x.b = .opnd ks) (hw : x.word = .r) (himm : x.imm = .none) :
    BFits x (opndKind y) (numB y) (immB y) where
  num := by rw [hx]; exact numFits_numB ks y
  kindMem := by simpa [hw, Desc.kindsB, hx] using hk
  imm := by rw [himm]; exact opndKind_or_immB y

/-- Field b of kind 00 without an immediate: a vector or mask register, or an S-format field. -/
theorem bFits_plain {n : Nat} (hn : numFits 256 1 x.b 0 n) (hk : (if x.word = .r ∧ x.b ≠ .zero then x.kindsB else [0]) = [0])
    (himm : x.imm = .none) : BFits x 0 n 0 := ⟨hn, by rw [hk]; exact List.mem_singleton_self 0, by rw [himm]; exact .inr rfl⟩

/-- No field b: the immediate stands alone. -/
theorem bFits_imm {v : Int} (hx : x.b = .zero) (himm : immFits x.imm 0 0 v) : BFits x 0 0 v where
  num := by rw [hx]; rfl
  kindMem := by simp [hx]
  imm := himm

end

theorem sel_code_fits (s : Sel) : immFits .selector 0 0 s.code :=
  ⟨Int.natCast_nonneg _, Int.ofNat_lt.mpr (sel_code_lt s)⟩

/-! ### Fields as the encoder's helpers write them -/

theorem keys_of_code {e : Enc} (k : Keys) (hmask : e.mask = k.mask.val) (hmz : e.mz = k.mz) (htz : e.tz = k.tz)
    (hlmul : e.lmul = k.lmul.code) (hsat : e.sat = k.sat) : e.keys = k := by
  simp [Enc.keys, hmask, hmz, htz, hlmul, hsat]

section
variable (f : Fmt) (low : Nat) (k : Keys) (d : SReg) (n : Nat) (a : Fin 32) (x y : Opnd) (m : Base) (v : Int)

theorem arith_eq : Enc.arith f d x y =
    { Enc.zero with fmt := f.code, d := d.num, ka := opndKind x, a := numA x, kb := opndKind y, b := numB y, imm := immB y } := by
  simp [Enc.arith, Enc.wDst, wA_eq, wB_eq, Enc.zero]

theorem mem_eq : Enc.mem f d m y =
    { Enc.zero with fmt := f.code, d := d.num, ka := baseKind m, a := baseNum m, kb := opndKind y, b := numB y, imm := immB y } := by
  simp [Enc.mem, Enc.wDst, wBase_eq, wB_eq, Enc.zero]

theorem memI_eq : Enc.memI f d m v =
    { Enc.zero with fmt := f.code, d := d.num, ka := baseKind m, a := baseNum m, imm := v } := by
  simp [Enc.memI, Enc.wDst, wBase_eq]

theorem elem_eq : Enc.elem f low k n a.val y = { Enc.zero with
    fmt := f.code, low := low, mask := k.mask.val, mz := k.mz, tz := k.tz, lmul := k.lmul.code, sat := k.sat,
    d := n, ka := 0, a := a.val, kb := opndKind y, b := numB y, imm := immB y } := by
  simp [Enc.elem, Enc.wKeys, wA_eq, wB_eq, opndKind, numA, Enc.zero]

theorem vmem_eq : Enc.vmem f k n m y = { Enc.zero with
    fmt := f.code, mask := k.mask.val, mz := k.mz, tz := k.tz, lmul := k.lmul.code, sat := k.sat,
    d := n, ka := baseKind m, a := baseNum m, kb := opndKind y, b := numB y, imm := immB y } := by
  simp [Enc.vmem, Enc.wKeys, wBase_eq, wB_eq, Enc.zero]

theorem vmemI_eq : Enc.vmemI f k n m v = { Enc.zero with
    fmt := f.code, mask := k.mask.val, mz := k.mz, tz := k.tz, lmul := k.lmul.code, sat := k.sat,
    d := n, ka := baseKind m, a := baseNum m, imm := v } := by
  simp [Enc.vmemI, Enc.wKeys, wBase_eq]

theorem prod_eq (tb : TileB) (g4 : Bool) : Enc.prod f tb g4 n d y = { Enc.zero with
    fmt := f.code, low := tb.code * 2 + bitOf g4, d := n, ka := 1, a := d.num, kb := opndKind y, b := numB y, imm := immB y } := by
  simp [Enc.prod, wA_eq, wB_eq, opndKind, numA, Enc.zero]

end

/-- Keys that the encoder wrote fit a key set that admits them. -/
theorem keysFit_code {ks : KeySet} {k : Keys} (hk : k.within ks = true) {fmt low d a b ka kb : Nat} {imm : Int} :
    KeysFit ks ⟨fmt, low, k.mask.val, k.mz, k.tz, k.lmul.code, k.sat, d, a, b, ka, kb, imm⟩ where
  mask := k.mask.isLt
  lmul := lmul_code_le k.lmul
  within := by rwa [keys_of_code k rfl rfl rfl rfl rfl]

/-! ### Instructions by the shape of their fields -/

/-- The fields fit the row, and the row builds the instruction from them. -/
structure Coded (row : Row) (e : Enc) (i : Instr) : Prop where
  fits : Fits row.desc e
  build : row.build e = i

/-- The encoder's key and fields of an instruction, where it has them, are those of its row. -/
def CodedAs (i : Instr) : Option (Nat × Enc) → Prop
  | none => True
  | some (key, e) => ∃ row, findRow (key / 1024) (key / 32 % 32) (key % 32) = some row ∧ row.key = key ∧ Coded row e i

theorem codedAs_some {i : Instr} {row : Row} {key : Nat} {e : Enc} (hfind : findRow (key / 1024) (key / 32 % 32) (key % 32) = some row)
    (hkey : row.key = key) (h : Coded row e i) : CodedAs i (some (key, e)) := ⟨row, hfind, hkey, h⟩

end Sys2Proof.Proofs
end

section
namespace Sys2Proof.Proofs
open Sys2Proof

section
variable {key n : Nat} {p : Fmt → Bool} {f : Fmt} {r : Rnd} {d : SReg} {x y : Opnd} {m : Base} {v : Int} {ks : KeySet} {k : Keys} {i : Instr}

/-! #### S format, and scalar arithmetic -/

theorem plain_coded : Coded ⟨key, dS .n none kNone .zero .zero, fun _ => i⟩ .zero i :=
  ⟨fits_of rfl Nat.zero_lt_one (keysFit_default _ rfl rfl rfl) rfl rfl (aFits_one rfl rfl) (bFits_plain rfl rfl rfl), rfl⟩

theorem jr_coded {c : SReg} : Coded ⟨key, dS .n none kNone .zero .src, fun e => .jr e.bS⟩ { Enc.zero with b := c.num } (.jr c) :=
  ⟨fits_of rfl Nat.zero_lt_one (keysFit_default _ rfl rfl rfl) rfl rfl (aFits_one rfl rfl)
    (bFits_plain (numFits_src c) rfl rfl), by simp [Enc.bS]⟩

theorem arith_coded (C : Fmt → SReg → Opnd → Opnd → Instr) (hw : (p f && d.isDst && x.okA && y.okB) = true) :
    Coded ⟨key, dArith (some p), fun e => C e.f e.dS e.aO e.bO⟩ (.arith f d x y) (C f d x y) := by
  simp only [Bool.and_eq_true] at hw
  obtain ⟨⟨⟨hp, hd⟩, hx⟩, hy⟩ := hw
  rw [arith_eq]
  exact ⟨fits_of (fmtFits_code rfl hp) Nat.zero_lt_one (keysFit_default _ rfl rfl rfl) rfl (numFits_dst hd)
      (aFits_opnd hx (opndKind_of_okA hx) rfl nofun) (bFits_opnd (opndKind_of_okB hy) rfl rfl rfl),
    by simp [Enc.f, Enc.dS, aO_eq, bO_eq, opndOf_numA hx]⟩

theorem arithRaw_coded (C : SReg → Opnd → Opnd → Instr) (hw : (d.isDst && x.okA && y.okB) = true) :
    Coded ⟨key, dArith none, fun e => C e.dS e.aO e.bO⟩ (.arith .raw d x y) (C d x y) := by
  simp only [Bool.and_eq_true] at hw
  obtain ⟨⟨hd, hx⟩, hy⟩ := hw
  rw [arith_eq]
  exact ⟨fits_of rfl Nat.zero_lt_one (keysFit_default _ rfl rfl rfl) rfl (numFits_dst hd)
      (aFits_opnd hx (opndKind_of_okA hx) rfl nofun) (bFits_opnd (opndKind_of_okB hy) rfl rfl rfl),
    by simp [Enc.dS, aO_eq, bO_eq, opndOf_numA hx]⟩

theorem dstB_coded (C : SReg → Opnd → Instr) (hw : (d.isDst && y.okB) = true) :
    Coded ⟨key, dR .n none 1 kNone .dst .zero k123, fun e => C e.dS e.bO⟩ ((Enc.zero.wDst d).wB y) (C d y) := by
  simp only [Bool.and_eq_true] at hw
  obtain ⟨hd, hy⟩ := hw
  rw [Enc.wDst, wB_eq rfl rfl]
  exact ⟨fits_of rfl Nat.zero_lt_one (keysFit_default _ rfl rfl rfl) rfl (numFits_dst hd)
      (aFits_one rfl rfl) (bFits_opnd (opndKind_of_okB hy) rfl rfl rfl),
    by simp [Enc.dS, bO_eq]⟩

/-! #### Immediates and branches -/

theorem li_coded (hd : d.isDst = true) :
    Coded ⟨key, dI .n none kNone .dst .zero .imm5, fun e => .li e.dS e.imm⟩ ({ Enc.zero with imm := v }.wDst d) (.li d v) :=
  ⟨fits_of rfl Nat.zero_lt_one (keysFit_default _ rfl rfl rfl) rfl (numFits_dst hd) (aFits_one rfl rfl) (bFits_imm rfl trivial),
    by simp [Enc.wDst, Enc.dS]⟩

theorem memI_coded (C : SReg → Base → Int → Instr) (hd : d.isDst = true) :
    Coded ⟨key, dI .n none kNone .dst .base .imm5, fun e => C e.dS e.base e.imm⟩ (.memI .raw d m v) (C d m v) := by
  rw [memI_eq]
  exact ⟨fits_of rfl Nat.zero_lt_one (keysFit_default _ rfl rfl rfl) rfl (numFits_dst hd) (aFits_base m rfl nofun) (bFits_imm rfl trivial),
    by simp [Enc.dS, Enc.base, Enc.aS]⟩

theorem swst_coded :
    Coded ⟨key, dI .n none kNone .src .base .imm5, fun e => .swst e.dS e.base e.imm⟩ (.memI .raw d m v) (.swst d m v) := by
  rw [memI_eq]
  exact ⟨fits_of rfl Nat.zero_lt_one (keysFit_default _ rfl rfl rfl) rfl (numFits_src d) (aFits_base m rfl nofun) (bFits_imm rfl trivial),
    by simp [Enc.dS, Enc.base, Enc.aS]⟩

theorem b_coded : Coded ⟨key, dB 1 .zero, fun e => .b e.imm⟩ { Enc.zero with imm := v } (.b v) :=
  ⟨fits_of rfl Nat.zero_lt_one (keysFit_default _ rfl rfl rfl) rfl rfl (aFits_one rfl rfl) (bFits_imm rfl trivial), rfl⟩

theorem dstOffset_coded (C : SReg → Int → Instr) (hd : d.isDst = true) :
    Coded ⟨key, dB 1 .dst, fun e => C e.dS e.imm⟩ { Enc.zero with d := d.num, imm := v } (C d v) :=
  ⟨fits_of rfl Nat.zero_lt_one (keysFit_default _ rfl rfl rfl) rfl (numFits_dst hd) (aFits_one rfl rfl) (bFits_imm rfl trivial),
    by simp [Enc.dS]⟩

theorem bm_coded {b : BmVar} {t : Fin 8} : Coded ⟨key, dB 3 .small, fun e => .bm (BmVar.ofCode e.low) e.dM e.imm⟩
    { Enc.zero with low := b.code, d := t.val, imm := v } (.bm b t v) :=
  ⟨fits_of rfl (bmVar_code_lt b) (keysFit_default _ rfl rfl rfl) rfl t.isLt (aFits_one rfl rfl) (bFits_imm rfl trivial),
    by simp [Enc.dM]⟩

theorem bc_coded {c : BCond} (hw : (x.okA && y.okBc) = true) : Coded
    ⟨key, { dR .n none 1 kNone (.num 0 5) k123 k12 with imm := .bcOffset }, fun e => .bc (BCond.ofCode e.d) e.aO e.bO e.imm⟩
    { ({ Enc.zero with d := c.code }.wA x).wB y with imm := v } (.bc c x y v) := by
  simp only [Bool.and_eq_true] at hw
  obtain ⟨hx, hy⟩ := hw
  obtain ⟨hkind, hnum⟩ := opndKind_of_okBc hy
  have hc := bcond_code_lt c
  have hbO : opndOf (opndKind y) (numB y) v = y := by
    cases y with
    | lit w => cases hy
    | _ => simp [opndOf, opndKind, numB, numA]
  rw [wA_eq, wB_eq rfl rfl]
  exact ⟨fits_of rfl Nat.zero_lt_one (keysFit_default _ rfl rfl rfl) rfl ⟨Nat.zero_le _, Nat.le_of_lt_succ hc, Nat.lt_trans hc (by decide)⟩
      (aFits_opnd hx (opndKind_of_okA hx) rfl nofun) ⟨numFits_numB _ y, hkind, hnum⟩,
    by simp [aO_eq, bO_eq, opndOf_numA hx, hbO]⟩

theorem sget_coded {s : Sel} (hd : d.isDst = true) : Coded
    ⟨key, dI .n none kNone .dst .zero .selector, fun e => .sget e.dS (Sel.ofCode e.imm.toNat)⟩
    { Enc.zero with d := d.num, imm := s.code } (.sget d s) :=
  ⟨fits_of rfl Nat.zero_lt_one (keysFit_default _ rfl rfl rfl) rfl (numFits_dst hd) (aFits_one rfl rfl)
    (bFits_imm rfl (sel_code_fits s)), by simp [Enc.dS]⟩

theorem sset_coded {s : Sel} (hx : x.okA2 = true) : Coded
    ⟨key, dI .n none kNone .zero k12 .selector, fun e => .sset (Sel.ofCode e.imm.toNat) e.aO⟩
    ({ Enc.zero with imm := s.code }.wA x) (.sset s x) := by
  have hxA := okA_of_okA2 hx
  rw [wA_eq]
  exact ⟨fits_of rfl Nat.zero_lt_one (keysFit_default _ rfl rfl rfl) rfl rfl (aFits_opnd hxA (opndKind_of_okA2 hx) rfl nofun)
    (bFits_imm rfl (sel_code_fits s)), by simp [aO_eq, opndOf_numA hxA]⟩

theorem service_coded (C : Int → Instr) (hw : decide (0 ≤ v ∧ v ≤ 32767) = true) : Coded
    ⟨key, { dI .n none kNone .zero .zero .imm5 with ok := fun e => decide (0 ≤ e.imm ∧ e.imm ≤ 32767) }, fun e => C e.imm⟩
    { Enc.zero with imm := v } (C v) :=
  ⟨fits_of rfl Nat.zero_lt_one (keysFit_default _ rfl rfl rfl) hw rfl (aFits_one rfl rfl) (bFits_imm rfl trivial), rfl⟩

/-! #### Scalar floating point -/

theorem fpRnd_coded (C : Fmt → Rnd → SReg → Opnd → Opnd → Instr) (hw : (p f && d.isDst && x.okA2 && y.okB2) = true) : Coded
    ⟨key, dR .f (some p) 1 kNone .dst k12 k12, fun e => C e.f e.rnd e.dS e.aO e.bO⟩
    { Enc.arith f d x y with low := r.code } (C f r d x y) := by
  simp only [Bool.and_eq_true] at hw
  obtain ⟨⟨⟨hp, hd⟩, hx⟩, hy⟩ := hw
  have hxA := okA_of_okA2 hx
  rw [arith_eq]
  exact ⟨fits_of (fmtFits_code rfl hp) (rnd_code_le r) (keysFit_default _ rfl rfl rfl) rfl (numFits_dst hd)
      (aFits_opnd hxA (opndKind_of_okA2 hx) rfl nofun) (bFits_opnd (opndKind_of_okB2 hy) rfl rfl rfl),
    by simp [Enc.f, Enc.rnd, Enc.dS, aO_eq, bO_eq, opndOf_numA hxA]⟩

theorem fp_coded (C : Fmt → SReg → Opnd → Opnd → Instr) (hw : (p f && d.isDst && x.okA2 && y.okB2) = true) :
    Coded ⟨key, dR .n (some p) 1 kNone .dst k12 k12, fun e => C e.f e.dS e.aO e.bO⟩ (.arith f d x y) (C f d x y) := by
  simp only [Bool.and_eq_true] at hw
  obtain ⟨⟨⟨hp, hd⟩, hx⟩, hy⟩ := hw
  have hxA := okA_of_okA2 hx
  rw [arith_eq]
  exact ⟨fits_of (fmtFits_code rfl hp) Nat.zero_lt_one (keysFit_default _ rfl rfl rfl) rfl (numFits_dst hd)
      (aFits_opnd hxA (opndKind_of_okA2 hx) rfl nofun) (bFits_opnd (opndKind_of_okB2 hy) rfl rfl rfl),
    by simp [Enc.f, Enc.dS, aO_eq, bO_eq, opndOf_numA hxA]⟩

theorem fcmp_coded {c : FCond} (hw : (p f && d.isDst && x.okA2 && y.okB2) = true) : Coded
    ⟨key, dR .n (some p) 5 kNone .dst k12 k12, fun e => .fcmp e.f (FCond.ofCode e.low) e.dS e.aO e.bO⟩
    { Enc.arith f d x y with low := c.code } (.fcmp f c d x y) := by
  simp only [Bool.and_eq_true] at hw
  obtain ⟨⟨⟨hp, hd⟩, hx⟩, hy⟩ := hw
  have hxA := okA_of_okA2 hx
  rw [arith_eq]
  exact ⟨fits_of (fmtFits_code rfl hp) (fcond_code_lt c) (keysFit_default _ rfl rfl rfl) rfl (numFits_dst hd)
      (aFits_opnd hxA (opndKind_of_okA2 hx) rfl nofun) (bFits_opnd (opndKind_of_okB2 hy) rfl rfl rfl),
    by simp [Enc.f, Enc.dS, aO_eq, bO_eq, opndOf_numA hxA]⟩

theorem fsqrt_coded (hw : (p f && d.isDst && y.okB2) = true) : Coded
    ⟨key, dR .f (some p) 1 kNone .dst .zero k12, fun e => .fsqrt e.f e.rnd e.dS e.bO⟩
    { (Enc.zero.wDst d).wB y with fmt := f.code, low := r.code } (.fsqrt f r d y) := by
  simp only [Bool.and_eq_true] at hw
  obtain ⟨⟨hp, hd⟩, hy⟩ := hw
  rw [Enc.wDst, wB_eq rfl rfl]
  exact ⟨fits_of (fmtFits_code rfl hp) (rnd_code_le r) (keysFit_default _ rfl rfl rfl) rfl (numFits_dst hd)
      (aFits_one rfl rfl) (bFits_opnd (opndKind_of_okB2 hy) rfl rfl rfl),
    by simp [Enc.f, Enc.rnd, Enc.dS, bO_eq]⟩

theorem fcvt_coded {s : Bool} (hw : (p f && d.isDst && y.okB2) = true) : Coded
    ⟨key, dR .f (some p) 1 kSat .dst .zero k12, fun e => .fcvt e.f e.rnd e.sat e.dS e.bO⟩
    { (Enc.zero.wDst d).wB y with fmt := f.code, low := r.code, sat := s } (.fcvt f r s d y) := by
  simp only [Bool.and_eq_true] at hw
  obtain ⟨⟨hp, hd⟩, hy⟩ := hw
  rw [Enc.wDst, wB_eq rfl rfl]
  exact ⟨fits_of (fmtFits_code rfl hp) (rnd_code_le r) ⟨Nat.zero_lt_succ 7, Nat.zero_le 4, rfl⟩ rfl (numFits_dst hd)
      (aFits_one rfl rfl) (bFits_opnd (opndKind_of_okB2 hy) rfl rfl rfl),
    by simp [Enc.f, Enc.rnd, Enc.dS, bO_eq]⟩

theorem fclass_coded (hw : (p f && d.isDst && y.okB2) = true) : Coded
    ⟨key, dR .n (some p) 1 kNone .dst .zero k12, fun e => .fclass e.f e.dS e.bO⟩
    { (Enc.zero.wDst d).wB y with fmt := f.code } (.fclass f d y) := by
  simp only [Bool.and_eq_true] at hw
  obtain ⟨⟨hp, hd⟩, hy⟩ := hw
  rw [Enc.wDst, wB_eq rfl rfl]
  exact ⟨fits_of (fmtFits_code rfl hp) Nat.zero_lt_one (keysFit_default _ rfl rfl rfl) rfl (numFits_dst hd)
      (aFits_one rfl rfl) (bFits_opnd (opndKind_of_okB2 hy) rfl rfl rfl),
    by simp [Enc.f, Enc.dS, bO_eq]⟩

end

end Sys2Proof.Proofs
end

section
namespace Sys2Proof.Proofs
open Sys2Proof

section
variable {key n : Nat} {p : Fmt → Bool} {f : Fmt} {r : Rnd} {d : SReg} {y : Opnd} {m : Base} {v : Int} {ks : KeySet} {k : Keys}

/-! #### Vector instructions -/

theorem vsetvli_coded {g : Grp} (hw : (p f && d.isDst && y.okB) = true) : Coded
    ⟨key, dR .n (some p) 4 kNone .dst .zero k123, fun e => .vsetvli e.f (Grp.ofCode e.low) e.dS e.bO⟩
    { (Enc.zero.wDst d).wB y with fmt := f.code, low := g.code } (.vsetvli f g d y) := by
  simp only [Bool.and_eq_true] at hw
  obtain ⟨⟨hp, hd⟩, hy⟩ := hw
  rw [Enc.wDst, wB_eq rfl rfl]
  exact ⟨fits_of (fmtFits_code rfl hp) (grp_code_lt g) (keysFit_default _ rfl rfl rfl) rfl (numFits_dst hd)
      (aFits_one rfl rfl) (bFits_opnd (opndKind_of_okB hy) rfl rfl rfl),
    by simp [Enc.f, Enc.dS, bO_eq]⟩

theorem elem_coded (C : Fmt → Keys → Fin 32 → Fin 32 → Opnd → Instr) {d x : Fin 32} (hw : (p f && k.within ks) = true) :
    Coded ⟨key, dElem .n p 1 ks, fun e => C e.f e.keys e.dV e.aV e.bO⟩ (.elem f 0 k d.val x.val y) (C f k d x y) := by
  simp only [Bool.and_eq_true] at hw
  obtain ⟨hp, hk⟩ := hw
  rw [elem_eq]
  exact ⟨fits_of (fmtFits_code rfl hp) Nat.zero_lt_one (keysFit_code hk) rfl d.isLt (aFits_vec _ rfl nofun)
      (bFits_opnd (opndKind_mem y) rfl rfl rfl),
    by simp [Enc.f, Enc.dV, Enc.aV, bO_eq, keys_of_code k]⟩

theorem elemRnd_coded (C : Fmt → Rnd → Keys → Fin 32 → Fin 32 → Opnd → Instr) {d x : Fin 32} (hw : (p f && k.within ks) = true) :
    Coded ⟨key, dElem .f p 1 ks, fun e => C e.f e.rnd e.keys e.dV e.aV e.bO⟩ (.elem f r.code k d.val x.val y) (C f r k d x y) := by
  simp only [Bool.and_eq_true] at hw
  obtain ⟨hp, hk⟩ := hw
  rw [elem_eq]
  exact ⟨fits_of (fmtFits_code rfl hp) (rnd_code_le r) (keysFit_code hk) rfl d.isLt (aFits_vec _ rfl nofun)
      (bFits_opnd (opndKind_mem y) rfl rfl rfl),
    by simp [Enc.f, Enc.rnd, Enc.dV, Enc.aV, bO_eq, keys_of_code k]⟩

theorem elemB_coded (C : Fmt → Keys → Fin 32 → Fin 32 → Instr) {d b : Fin 32} (hw : (p f && k.within ks) = true) :
    Coded ⟨key, dR .n (some p) 1 ks .vec .zero .vec, fun e => C e.f e.keys e.dV e.bV⟩ (.elemB f k d.val b.val) (C f k d b) := by
  simp only [Bool.and_eq_true] at hw
  obtain ⟨hp, hk⟩ := hw
  exact ⟨fits_of (fmtFits_code rfl hp) Nat.zero_lt_one (keysFit_code hk) rfl d.isLt (aFits_one rfl rfl) (bFits_plain b.isLt rfl rfl),
    by simp [Enc.elemB, Enc.wKeys, Enc.f, Enc.dV, Enc.bV, keys_of_code k]⟩

/-- Compares: the condition is the variant. -/
theorem cmp_coded {γ : Type} {dec : Nat → γ} (C : Fmt → γ → Keys → Fin 8 → Fin 32 → Opnd → Instr) {c : γ} {code : Nat} {d : Fin 8}
    {x : Fin 32} (hdec : dec code = c) (hlt : code < n) (hw : (p f && k.within ks) = true) : Coded
    ⟨key, dR .n (some p) n ks .small .vec k0123, fun e => C e.f (dec e.low) e.keys e.dM e.aV e.bO⟩
    (.elem f code k d.val x.val y) (C f c k d x y) := by
  simp only [Bool.and_eq_true] at hw
  obtain ⟨hp, hk⟩ := hw
  rw [elem_eq]
  exact ⟨fits_of (fmtFits_code rfl hp) hlt (keysFit_code hk) rfl d.isLt (aFits_vec _ rfl nofun)
      (bFits_opnd (opndKind_mem y) rfl rfl rfl),
    by simp [Enc.f, Enc.dM, Enc.aV, bO_eq, keys_of_code k, hdec]⟩

theorem vmv_coded {d : Fin 32} (hw : (p f && k.within ks) = true) : Coded
    ⟨key, dR .n (some p) 1 ks .vec .zero k0123, fun e => .vmv e.f e.keys e.dV e.bO⟩
    (({ Enc.zero with fmt := f.code, d := d.val }.wKeys k).wB y) (.vmv f k d y) := by
  simp only [Bool.and_eq_true] at hw
  obtain ⟨hp, hk⟩ := hw
  rw [Enc.wKeys, wB_eq rfl rfl]
  exact ⟨fits_of (fmtFits_code rfl hp) Nat.zero_lt_one (keysFit_code hk) rfl d.isLt (aFits_one rfl rfl)
      (bFits_opnd (opndKind_mem y) rfl rfl rfl),
    by simp [Enc.f, Enc.dV, bO_eq, keys_of_code k]⟩

theorem vslide_coded {down : Bool} {d x : Fin 32} (hw : (p f && k.within ks && y.okB) = true) : Coded
    ⟨key, dR .n (some p) 2 ks .vec .vec k123, fun e => .vslide e.f (e.low == 1) e.keys e.dV e.aV e.bO⟩
    (.elem f (bitOf down) k d.val x.val y) (.vslide f down k d x y) := by
  simp only [Bool.and_eq_true] at hw
  obtain ⟨⟨hp, hk⟩, hy⟩ := hw
  rw [elem_eq]
  exact ⟨fits_of (fmtFits_code rfl hp) (bitOf_lt down) (keysFit_code hk) rfl d.isLt (aFits_vec _ rfl nofun)
      (bFits_opnd (opndKind_of_okB hy) rfl rfl rfl),
    by simp [Enc.f, Enc.dV, Enc.aV, bO_eq, keys_of_code k, bitOf_beq_one]⟩

theorem elemVec_coded (C : Fmt → Keys → Fin 32 → Fin 32 → Fin 32 → Instr) {d x b : Fin 32} (hw : (p f && k.within ks) = true) :
    Coded ⟨key, dR .n (some p) 1 ks .vec .vec .vec, fun e => C e.f e.keys e.dV e.aV e.bV⟩ (.elem f 0 k d.val x.val (.vec b))
      (C f k d x b) := by
  simp only [Bool.and_eq_true] at hw
  obtain ⟨hp, hk⟩ := hw
  rw [elem_eq]
  exact ⟨fits_of (fmtFits_code rfl hp) Nat.zero_lt_one (keysFit_code hk) rfl d.isLt (aFits_vec _ rfl nofun) (bFits_plain b.isLt rfl rfl),
    by simp [Enc.f, Enc.dV, Enc.aV, Enc.bV, numB, numA, keys_of_code k]⟩

theorem vredsum_coded {x : Fin 32} (hw : (p f && k.within ks && d.isDst && y.okB) = true) : Coded
    ⟨key, dR .f (some p) 1 ks .dst .vec k123, fun e => .vredsum e.f e.rnd e.keys e.dS e.aV e.bO⟩
    (.elem f r.code k d.num x.val y) (.vredsum f r k d x y) := by
  simp only [Bool.and_eq_true] at hw
  obtain ⟨⟨⟨hp, hk⟩, hd⟩, hy⟩ := hw
  rw [elem_eq]
  exact ⟨fits_of (fmtFits_code rfl hp) (rnd_code_le r) (keysFit_code hk) rfl (numFits_dst hd) (aFits_vec _ rfl nofun)
      (bFits_opnd (opndKind_of_okB hy) rfl rfl rfl),
    by simp [Enc.f, Enc.rnd, Enc.dS, Enc.aV, bO_eq, keys_of_code k]⟩

theorem reduce_coded (C : Fmt → Keys → SReg → Fin 32 → Opnd → Instr) {x : Fin 32}
    (hw : (p f && k.within ks && d.isDst && y.okB) = true) : Coded
    ⟨key, dR .n (some p) 1 ks .dst .vec k123, fun e => C e.f e.keys e.dS e.aV e.bO⟩ (.elem f 0 k d.num x.val y) (C f k d x y) := by
  simp only [Bool.and_eq_true] at hw
  obtain ⟨⟨⟨hp, hk⟩, hd⟩, hy⟩ := hw
  rw [elem_eq]
  exact ⟨fits_of (fmtFits_code rfl hp) Nat.zero_lt_one (keysFit_code hk) rfl (numFits_dst hd) (aFits_vec _ rfl nofun)
      (bFits_opnd (opndKind_of_okB hy) rfl rfl rfl),
    by simp [Enc.f, Enc.dS, Enc.aV, bO_eq, keys_of_code k]⟩

theorem vdotx_coded {x b : Fin 32} (hw : (p f && k.within ks && d.isDst) = true) : Coded
    ⟨key, dR .f (some p) 1 ks .dst .vec .vec, fun e => .vdotx e.f e.rnd e.keys e.dS e.aV e.bV⟩
    (.elem f r.code k d.num x.val (.vec b)) (.vdotx f r k d x b) := by
  simp only [Bool.and_eq_true] at hw
  obtain ⟨⟨hp, hk⟩, hd⟩ := hw
  rw [elem_eq]
  exact ⟨fits_of (fmtFits_code rfl hp) (rnd_code_le r) (keysFit_code hk) rfl (numFits_dst hd) (aFits_vec _ rfl nofun)
      (bFits_plain b.isLt rfl rfl),
    by simp [Enc.f, Enc.rnd, Enc.dS, Enc.aV, Enc.bV, numB, numA, keys_of_code k]⟩

theorem vdeq_coded {d x : Fin 32} (hw : (p f && k.within ks && y.okB2) = true) : Coded
    ⟨key, dR .f (some p) 1 ks .vec .vec k12, fun e => .vdeq e.f e.rnd e.keys e.dV e.aV e.bO⟩
    (.elem f r.code k d.val x.val y) (.vdeq f r k d x y) := by
  simp only [Bool.and_eq_true] at hw
  obtain ⟨⟨hp, hk⟩, hy⟩ := hw
  rw [elem_eq]
  exact ⟨fits_of (fmtFits_code rfl hp) (rnd_code_le r) (keysFit_code hk) rfl d.isLt (aFits_vec _ rfl nofun)
      (bFits_opnd (opndKind_of_okB2 hy) rfl rfl rfl),
    by simp [Enc.f, Enc.rnd, Enc.dV, Enc.aV, bO_eq, keys_of_code k]⟩

theorem maskOp_coded (C : Keys → Fin 8 → Fin 8 → Fin 8 → Instr) {d x b : Fin 8} (hk : k.within ks = true) : Coded
    ⟨key, dR .n none 1 ks .small .small .small, fun e => C e.keys e.dM e.aM e.bM⟩
    ({ Enc.zero with d := d.val, a := x.val, b := b.val }.wKeys k) (C k d x b) :=
  ⟨fits_of rfl Nat.zero_lt_one (keysFit_code hk) rfl d.isLt (aFits_one x.isLt rfl) (bFits_plain b.isLt rfl rfl),
    by simp [Enc.wKeys, Enc.dM, Enc.aM, Enc.bM, keys_of_code k]⟩

theorem mset_coded {d : Fin 8} (hy : y.okB = true) : Coded
    ⟨key, dR .n none 1 kNone .small .zero k123, fun e => .mset e.dM e.bO⟩ ({ Enc.zero with d := d.val }.wB y) (.mset d y) := by
  rw [wB_eq rfl rfl]
  exact ⟨fits_of rfl Nat.zero_lt_one (keysFit_default _ rfl rfl rfl) rfl d.isLt (aFits_one rfl rfl)
      (bFits_opnd (opndKind_of_okB hy) rfl rfl rfl),
    by simp [Enc.dM, bO_eq]⟩

/-- The functions of R95's group, on f32 only. -/
theorem unaryF32_coded (C : Keys → Fin 32 → Fin 32 → Instr) {d b : Fin 32} (hk : k.within ks = true) : Coded
    ⟨key, dS .n (some (· == .f32)) ks .vec .vec, fun e => C e.keys e.aV e.bV⟩ (.short .f32 0 k d.val b.val) (C k d b) :=
  ⟨fits_of (fmtFits_code (f := .f32) rfl rfl) Nat.zero_lt_one (keysFit_code hk) rfl rfl (aFits_one d.isLt rfl) (bFits_plain b.isLt rfl rfl),
    by simp [Enc.short, Enc.wKeys, Enc.aV, Enc.bV, keys_of_code k]⟩

theorem vcvt_coded {d b : Fin 32} (hw : (p f && k.within ks) = true) : Coded
    ⟨key, dS .f (some p) ks .vec .vec, fun e => .vcvt e.f e.rnd e.keys e.aV e.bV⟩ (.short f r.code k d.val b.val) (.vcvt f r k d b) := by
  simp only [Bool.and_eq_true] at hw
  obtain ⟨hp, hk⟩ := hw
  exact ⟨fits_of (fmtFits_code rfl hp) (rnd_code_le r) (keysFit_code hk) rfl rfl (aFits_one d.isLt rfl) (bFits_plain b.isLt rfl rfl),
    by simp [Enc.short, Enc.wKeys, Enc.f, Enc.rnd, Enc.aV, Enc.bV, keys_of_code k]⟩

theorem mnot_coded {d b : Fin 8} (hk : k.within ks = true) : Coded
    ⟨key, dS .n none ks .small .small, fun e => .mnot e.keys e.aM e.bM⟩ (.short .raw 0 k d.val b.val) (.mnot k d b) :=
  ⟨fits_of rfl Nat.zero_lt_one (keysFit_code hk) rfl rfl (aFits_one d.isLt rfl) (bFits_plain b.isLt rfl rfl),
    by simp [Enc.short, Enc.wKeys, Enc.aM, Enc.bM, keys_of_code k]⟩

theorem maskCount_coded (C : SReg → Fin 8 → Instr) {b : Fin 8} (hd : d.isDst = true) : Coded
    ⟨key, dS .n none kNone .dst .small, fun e => C e.aS e.bM⟩ { Enc.zero with a := d.num, b := b.val } (C d b) :=
  ⟨fits_of rfl Nat.zero_lt_one (keysFit_default _ rfl rfl rfl) rfl rfl (aFits_one (numFits_dst hd) rfl) (bFits_plain b.isLt rfl rfl),
    by simp [Enc.aS, Enc.bM]⟩

theorem vrep_coded {k1 : Fin 15} {c : SReg} : Coded
    ⟨key, dS .n none kNone (.num 0 14) .src, fun e => .vrep (Fin.ofNat 15 e.a) e.bS⟩
    { Enc.zero with a := k1.val, b := c.num } (.vrep k1 c) :=
  ⟨fits_of rfl Nat.zero_lt_one (keysFit_default _ rfl rfl rfl) rfl rfl
    (aFits_one ⟨Nat.zero_le _, Nat.le_of_lt_succ k1.isLt, Nat.lt_trans k1.isLt (by decide)⟩ rfl) (bFits_plain (numFits_src c) rfl rfl),
    by simp [Enc.bS]⟩

/-! #### Vector memory -/

theorem vmemI_coded (C : Fmt → Keys → Fin 32 → Base → Int → Instr) {d : Fin 32} (hw : (p f && k.within ks) = true) : Coded
    ⟨key, dI .n (some p) ks .vec .base .imm5, fun e => C e.f e.keys e.dV e.base e.imm⟩ (.vmemI f k d.val m v) (C f k d m v) := by
  simp only [Bool.and_eq_true] at hw
  obtain ⟨hp, hk⟩ := hw
  rw [vmemI_eq]
  exact ⟨fits_of (fmtFits_code rfl hp) Nat.zero_lt_one (keysFit_code hk) rfl d.isLt (aFits_base m rfl nofun) (bFits_imm rfl trivial),
    by simp [Enc.f, Enc.dV, Enc.base, Enc.aS, keys_of_code k]⟩

theorem vmem_coded (C : Fmt → Keys → Fin 32 → Base → Opnd → Instr) {d : Fin 32} (hw : (p f && k.within ks && y.okB) = true) : Coded
    ⟨key, dR .n (some p) 1 ks .vec .base k123, fun e => C e.f e.keys e.dV e.base e.bO⟩ (.vmem f k d.val m y) (C f k d m y) := by
  simp only [Bool.and_eq_true] at hw
  obtain ⟨⟨hp, hk⟩, hy⟩ := hw
  rw [vmem_eq]
  exact ⟨fits_of (fmtFits_code rfl hp) Nat.zero_lt_one (keysFit_code hk) rfl d.isLt (aFits_base m rfl nofun)
      (bFits_opnd (opndKind_of_okB hy) rfl rfl rfl),
    by simp [Enc.f, Enc.dV, Enc.base, Enc.aS, bO_eq, keys_of_code k]⟩

theorem vmemX_coded (C : Fmt → Keys → Fin 32 → Base → Fin 32 → Instr) {d b : Fin 32} (hw : (p f && k.within ks) = true) : Coded
    ⟨key, dR .n (some p) 1 ks .vec .base .vec, fun e => C e.f e.keys e.dV e.base e.bV⟩ (.vmem f k d.val m (.vec b)) (C f k d m b) := by
  simp only [Bool.and_eq_true] at hw
  obtain ⟨hp, hk⟩ := hw
  rw [vmem_eq]
  exact ⟨fits_of (fmtFits_code rfl hp) Nat.zero_lt_one (keysFit_code hk) rfl d.isLt (aFits_base m rfl nofun) (bFits_plain b.isLt rfl rfl),
    by simp [Enc.f, Enc.dV, Enc.base, Enc.aS, Enc.bV, numB, numA, keys_of_code k]⟩

/-! #### Tiles -/

/-- The low bits of layout T: the B operand and the grouping bit (R85). -/
theorem tileLow_digits (tb : TileB) (g4 : Bool) : let low := tb.code * 2 + bitOf g4
    low < 8 ∧ low / 2 = tb.code := by
  have htb := tileB_code_lt tb
  have hg4 := bitOf_lt g4
  dsimp only
  omega

@[simp] theorem bitOf_mod_beq_one (b : Bool) : (bitOf b % 2 == 1) = b := by cases b <;> rfl

/-- The formats that the operand pairs of R62 begin with. -/
theorem tilePairOk_fmt {tb : TileB} (h : tilePairOk f tb = true) : (f == .bf16 || f == .f16 || f.isF8 || f == .s8 || f == .h4) = true := by
  cases f with
  | bf16 | f16 | e4m3 | e5m2 | s8 | h4 => rfl
  | _ => cases tb <;> cases h

theorem mma_coded {tb : TileB} {g4 : Bool} {d : Fin 8} {c : SReg} (hw : (tilePairOk f tb && y.okB2) = true) : Coded
    ⟨key, { dR .t (some fun f => f == .bf16 || f == .f16 || f.isF8 || f == .s8 || f == .h4) 8 kNone .small (.opnd [1]) k12 with
      ok := fun e => tilePairOk e.f (TileB.ofCode (e.low / 2)) },
      fun e => .mma e.f (TileB.ofCode (e.low / 2)) (e.low % 2 == 1) e.dM e.aS e.bO⟩
    (.prod f tb g4 d.val c y) (.mma f tb g4 d c y) := by
  simp only [Bool.and_eq_true] at hw
  obtain ⟨hpair, hy⟩ := hw
  obtain ⟨hlt, htb⟩ := tileLow_digits tb g4
  rw [prod_eq]
  exact ⟨fits_of (fmtFits_code rfl (tilePairOk_fmt hpair)) hlt (keysFit_default _ rfl rfl rfl) (by simp [Enc.f, htb, hpair]) d.isLt
      (aFits_one (sreg_num_lt c) rfl) (bFits_opnd (opndKind_of_okB2 hy) rfl rfl rfl),
    by simp [Enc.f, Enc.dM, Enc.aS, bO_eq, htb]⟩

/-- The pairs of the other two products leave out h4. -/
theorem tilePairOk_fmt_ne_h4 {tb : TileB} (h : tilePairOk f tb = true) (hf : (f != .h4) = true) :
    (f == .bf16 || f == .f16 || f.isF8 || f == .s8) = true := by
  have hfmt := tilePairOk_fmt h
  rwa [beq_eq_false_iff_ne.mpr (bne_iff_ne.mp hf), Bool.or_false] at hfmt

theorem mmas_coded {tb : TileB} {g4 : Bool} {d : Fin 8} {c b : SReg} (hw : (tilePairOk f tb && f != .h4) = true) : Coded
    ⟨key, { dR .t (some fun f => f == .bf16 || f == .f16 || f.isF8 || f == .s8) 8 kNone .small (.opnd [1]) (.opnd [1]) with
      ok := fun e => tilePairOk e.f (TileB.ofCode (e.low / 2)) },
      fun e => .mmas e.f (TileB.ofCode (e.low / 2)) (e.low % 2 == 1) e.dM e.aS e.bS⟩
    (.prod f tb g4 d.val c (.reg b)) (.mmas f tb g4 d c b) := by
  simp only [Bool.and_eq_true] at hw
  obtain ⟨hpair, hne⟩ := hw
  obtain ⟨hlt, htb⟩ := tileLow_digits tb g4
  rw [prod_eq]
  exact ⟨fits_of (fmtFits_code rfl (tilePairOk_fmt_ne_h4 hpair hne)) hlt (keysFit_default _ rfl rfl rfl)
      (by simp [Enc.f, htb, hpair]) d.isLt (aFits_one (sreg_num_lt c) rfl)
      (bFits_opnd (y := .reg b) (List.mem_singleton_self 1) rfl rfl rfl),
    by simp [Enc.f, Enc.dM, Enc.aS, Enc.bS, numB, numA, htb]⟩

theorem mmac_coded {tb : TileB} {g4 : Bool} {d : Fin 8} {c : SReg}
    (hw : (tilePairOk f tb && f != .h4 && tb != .q4 && y.okB2) = true) : Coded
    ⟨key, { dR .t (some fun f => f == .bf16 || f == .f16 || f.isF8 || f == .s8) 8 kNone .small (.opnd [1]) k12 with
      ok := fun e => tilePairOk e.f (TileB.ofCode (e.low / 2)) && e.low / 2 != 3 },
      fun e => .mmac e.f (TileB.ofCode (e.low / 2)) (e.low % 2 == 1) e.dM e.aS e.bO⟩
    (.prod f tb g4 d.val c y) (.mmac f tb g4 d c y) := by
  simp only [Bool.and_eq_true] at hw
  obtain ⟨⟨⟨hpair, hne⟩, hq4⟩, hy⟩ := hw
  obtain ⟨hlt, htb⟩ := tileLow_digits tb g4
  have hcode : tb.code ≠ 3 := by
    cases tb with
    | q4 => cases hq4
    | _ => decide
  rw [prod_eq]
  exact ⟨fits_of (fmtFits_code rfl (tilePairOk_fmt_ne_h4 hpair hne)) hlt (keysFit_default _ rfl rfl rfl)
      (by simp [Enc.f, htb, hpair, hcode]) d.isLt (aFits_one (sreg_num_lt c) rfl)
      (bFits_opnd (opndKind_of_okB2 hy) rfl rfl rfl),
    by simp [Enc.f, Enc.dM, Enc.aS, bO_eq, htb]⟩

theorem trd_coded {d : Fin 32} {t : Fin 8} (hw : (p f && y.okB) = true) : Coded
    ⟨key, dR .n (some p) 1 kNone .vec .small k123, fun e => .trd e.f e.dV e.aM e.bO⟩
    ({ Enc.zero with fmt := f.code, d := d.val, a := t.val }.wB y) (.trd f d t y) := by
  simp only [Bool.and_eq_true] at hw
  obtain ⟨hp, hy⟩ := hw
  rw [wB_eq rfl rfl]
  exact ⟨fits_of (fmtFits_code rfl hp) Nat.zero_lt_one (keysFit_default _ rfl rfl rfl) rfl d.isLt (aFits_one t.isLt rfl)
      (bFits_opnd (opndKind_of_okB hy) rfl rfl rfl),
    by simp [Enc.f, Enc.dV, Enc.aM, bO_eq]⟩

theorem twr_coded {t : Fin 8} {x : Fin 32} (hw : (p f && y.okB) = true) : Coded
    ⟨key, dR .n (some p) 1 kNone .small .vec k123, fun e => .twr e.f e.dM e.aV e.bO⟩
    (({ Enc.zero with fmt := f.code, d := t.val }.wA (.vec x)).wB y) (.twr f t x y) := by
  simp only [Bool.and_eq_true] at hw
  obtain ⟨hp, hy⟩ := hw
  rw [Enc.wA, wB_eq rfl rfl]
  exact ⟨fits_of (fmtFits_code rfl hp) Nat.zero_lt_one (keysFit_default _ rfl rfl rfl) rfl t.isLt (aFits_vec x rfl nofun)
      (bFits_opnd (opndKind_of_okB hy) rfl rfl rfl),
    by simp [Enc.f, Enc.dM, Enc.aV, bO_eq]⟩

theorem tgate_coded {g : Gate} {d t : Fin 8} (hw : gateOperandOk g y = true) : Coded
    ⟨key, { dR .v none 6 kNone .small .small k0123 with ok := fun e => gateOperandOk (Gate.ofCode e.low) e.bO },
      fun e => .tgate (Gate.ofCode e.low) e.dM e.aM e.bO⟩
    ({ Enc.zero with low := g.code, d := d.val, a := t.val }.wB y) (.tgate g d t y) := by
  rw [wB_eq rfl rfl]
  exact ⟨fits_of rfl (gate_code_lt g) (keysFit_default _ rfl rfl rfl) (by simp [bO_eq, hw]) d.isLt (aFits_one t.isLt rfl)
      (bFits_opnd (opndKind_mem y) rfl rfl rfl),
    by simp [Enc.dM, Enc.aM, bO_eq]⟩

theorem tscan_coded {pair : Bool} {mask d t : Fin 8} {b : Fin 32} : Coded
    ⟨key, dR .v none 2 kContinue .small .small .vec, fun e => .tscan (e.low == 1) (Fin.ofNat 8 e.mask) e.dM e.aM e.bV⟩
    { Enc.zero with low := bitOf pair, mask := mask.val, d := d.val, a := t.val, b := b.val } (.tscan pair mask d t b) :=
  ⟨fits_of rfl (bitOf_lt pair) ⟨mask.isLt, Nat.zero_le 4, rfl⟩ rfl d.isLt (aFits_one t.isLt rfl) (bFits_plain b.isLt rfl rfl),
    by simp [Enc.dM, Enc.aM, Enc.bV, bitOf_beq_one]⟩

theorem tcvt_coded {s : Bool} {d t : Fin 8} (hp : p f = true) : Coded
    ⟨key, dR .f (some p) 1 kSat .small .small k0123, fun e => .tcvt e.f e.rnd e.sat e.dM e.aM e.bO⟩
    ({ Enc.zero with fmt := f.code, low := r.code, sat := s, d := d.val, a := t.val }.wB y) (.tcvt f r s d t y) := by
  rw [wB_eq rfl rfl]
  exact ⟨fits_of (fmtFits_code rfl hp) (rnd_code_le r) ⟨Nat.zero_lt_succ 7, Nat.zero_le 4, rfl⟩ rfl d.isLt (aFits_one t.isLt rfl)
      (bFits_opnd (opndKind_mem y) rfl rfl rfl),
    by simp [Enc.f, Enc.rnd, Enc.dM, Enc.aM, bO_eq]⟩

theorem tileMem_coded (C : Fin 8 → Base → Int → Instr) {d : Fin 8} : Coded
    ⟨key, dR .n none 1 kNone .small .base (.opnd [3]), fun e => C e.dM e.base e.imm⟩
    (({ Enc.zero with d := d.val }.wBase m).wB (.lit v)) (C d m v) := by
  rw [wBase_eq, wB_eq rfl rfl]
  exact ⟨fits_of rfl Nat.zero_lt_one (keysFit_default _ rfl rfl rfl) rfl d.isLt (aFits_base m rfl nofun)
      (bFits_opnd (y := .lit v) (List.mem_singleton_self 3) rfl rfl rfl),
    by simp [Enc.dM, Enc.base, Enc.aS, immB]⟩

theorem tzero_coded {t : Fin 8} : Coded
    ⟨key, dS .n none kNone .small .zero, fun e => .tzero e.aM⟩ { Enc.zero with a := t.val } (.tzero t) :=
  ⟨fits_of rfl Nat.zero_lt_one (keysFit_default _ rfl rfl rfl) rfl rfl (aFits_one t.isLt rfl) (bFits_plain rfl rfl rfl),
    by simp [Enc.aM]⟩

theorem twait_coded {t : Fin 64} : Coded
    ⟨key, dS .n none kNone .zero (.num 0 63), fun e => .twait (Fin.ofNat 64 e.b)⟩ { Enc.zero with b := t.val } (.twait t) :=
  ⟨fits_of rfl Nat.zero_lt_one (keysFit_default _ rfl rfl rfl) rfl rfl (aFits_one rfl rfl)
    (bFits_plain ⟨Nat.zero_le _, Nat.le_of_lt_succ t.isLt, t.isLt⟩ rfl rfl), by simp⟩

end

end Sys2Proof.Proofs
end

section
namespace Sys2Proof.Proofs
open Sys2Proof

section
variable {key n : Nat} {p : Fmt → Bool} {f : Fmt} {r : Rnd} {d : SReg} {x y : Opnd} {m : Base} {v : Int}

/-! #### Memory, atomics and engines -/

theorem load_coded (C : Fmt → SReg → Base → Int → Instr) (hw : (p f && d.isDst) = true) : Coded
    ⟨key, dI .m (some p) kNone .dst .base .imm5, fun e => C e.f e.dS e.base e.imm⟩ (.memI f d m v) (C f d m v) := by
  simp only [Bool.and_eq_true] at hw
  obtain ⟨hp, hd⟩ := hw
  rw [memI_eq]
  exact ⟨fits_of (fmtFits_code rfl hp) ⟨Nat.zero_le 6, .inr rfl⟩ (keysFit_default _ rfl rfl rfl) rfl (numFits_dst hd)
      (aFits_base m rfl nofun) (bFits_imm rfl trivial),
    by simp [Enc.f, Enc.dS, Enc.base, Enc.aS]⟩

theorem store_coded (hp : p f = true) : Coded
    ⟨key, dI .m (some p) kNone .src .base .imm5, fun e => .st e.f e.dS e.base e.imm⟩ (.memI f d m v) (.st f d m v) := by
  rw [memI_eq]
  exact ⟨fits_of (fmtFits_code rfl hp) ⟨Nat.zero_le 6, .inr rfl⟩ (keysFit_default _ rfl rfl rfl) rfl (numFits_src d)
      (aFits_base m rfl nofun) (bFits_imm rfl trivial),
    by simp [Enc.f, Enc.dS, Enc.base, Enc.aS]⟩

theorem atomic_coded (C : Fmt → SReg → Base → Opnd → Instr) (hw : (p f && d.isDst && y.okB) = true) : Coded
    ⟨key, dAtomic (some p), fun e => C e.f e.dS e.base e.bO⟩ (.mem f d m y) (C f d m y) := by
  simp only [Bool.and_eq_true] at hw
  obtain ⟨⟨hp, hd⟩, hy⟩ := hw
  rw [mem_eq]
  exact ⟨fits_of (fmtFits_code rfl hp) ⟨Nat.zero_le 6, .inr rfl⟩ (keysFit_default _ rfl rfl rfl) rfl (numFits_dst hd)
      (aFits_base m rfl nofun) (bFits_opnd (opndKind_of_okB hy) rfl rfl rfl),
    by simp [Enc.f, Enc.dS, Enc.base, Enc.aS, bO_eq]⟩

theorem xred_coded (hw : (p f && y.okB) = true) : Coded
    ⟨key, dR .m (some p) 1 kNone .zero .base k123, fun e => .xred e.f e.base e.bO⟩ (.mem f (.g 0) m y) (.xred f m y) := by
  simp only [Bool.and_eq_true] at hw
  obtain ⟨hp, hy⟩ := hw
  rw [mem_eq]
  exact ⟨fits_of (fmtFits_code rfl hp) ⟨Nat.zero_le 6, .inr rfl⟩ (keysFit_default _ rfl rfl rfl) rfl rfl
      (aFits_base m rfl nofun) (bFits_opnd (opndKind_of_okB hy) rfl rfl rfl),
    by simp [Enc.f, Enc.base, Enc.aS, bO_eq]⟩

theorem xrd_coded (hw : (p f && d.isDst) = true) : Coded
    ⟨key, dI .f (some p) kNone .dst .base .imm5, fun e => .xrd e.f e.rnd e.dS e.base e.imm⟩
    { Enc.memI f d m v with low := r.code } (.xrd f r d m v) := by
  simp only [Bool.and_eq_true] at hw
  obtain ⟨hp, hd⟩ := hw
  rw [memI_eq]
  exact ⟨fits_of (fmtFits_code rfl hp) (rnd_code_le r) (keysFit_default _ rfl rfl rfl) rfl (numFits_dst hd)
      (aFits_base m rfl nofun) (bFits_imm rfl trivial),
    by simp [Enc.f, Enc.rnd, Enc.dS, Enc.base, Enc.aS]⟩

theorem memDst_coded (C : SReg → Base → Opnd → Instr) (hw : (d.isDst && y.okB) = true) : Coded
    ⟨key, dR .n none 1 kNone .dst .base k123, fun e => C e.dS e.base e.bO⟩ (.mem .raw d m y) (C d m y) := by
  simp only [Bool.and_eq_true] at hw
  obtain ⟨hd, hy⟩ := hw
  rw [mem_eq]
  exact ⟨fits_of rfl Nat.zero_lt_one (keysFit_default _ rfl rfl rfl) rfl (numFits_dst hd)
      (aFits_base m rfl nofun) (bFits_opnd (opndKind_of_okB hy) rfl rfl rfl),
    by simp [Enc.dS, Enc.base, Enc.aS, bO_eq]⟩

theorem memB_coded (C : Base → Opnd → Instr) (hy : y.okB = true) : Coded
    ⟨key, dR .n none 1 kNone .zero .base k123, fun e => C e.base e.bO⟩ (.mem .raw (.g 0) m y) (C m y) := by
  rw [mem_eq]
  exact ⟨fits_of rfl Nat.zero_lt_one (keysFit_default _ rfl rfl rfl) rfl rfl
      (aFits_base m rfl nofun) (bFits_opnd (opndKind_of_okB hy) rfl rfl rfl),
    by simp [Enc.base, Enc.aS, bO_eq]⟩

theorem deq_coded (hd : d.isDst = true) : Coded
    ⟨key, dR .n none 1 kNone .dst .base .zero, fun e => .deq e.dS e.base⟩ ((Enc.zero.wDst d).wBase m) (.deq d m) := by
  rw [wBase_eq]
  exact ⟨fits_of rfl Nat.zero_lt_one (keysFit_default _ rfl rfl rfl) rfl (numFits_dst hd) (aFits_base m rfl nofun) (bFits_plain rfl rfl rfl),
    by simp [Enc.wDst, Enc.dS, Enc.base, Enc.aS]⟩

theorem base_coded (C : Base → Instr) : Coded
    ⟨key, dR .n none 1 kNone .zero .base .zero, fun e => C e.base⟩ (Enc.zero.wBase m) (C m) := by
  rw [wBase_eq]
  exact ⟨fits_of rfl Nat.zero_lt_one (keysFit_default _ rfl rfl rfl) rfl rfl (aFits_base m rfl nofun) (bFits_plain rfl rfl rfl),
    by simp [Enc.base, Enc.aS]⟩

/-- Copies and sends: a variant and a base, in layout V. -/
theorem variantBase_coded {γ : Type} {dec : Nat → γ} (C : γ → Base → Instr) {c : γ} {code : Nat} (hdec : dec code = c) (hlt : code < n) :
    Coded ⟨key, dR .v none n kNone .zero .base .zero, fun e => C (dec e.low) e.base⟩ ({ Enc.zero with low := code }.wBase m) (C c m) := by
  rw [wBase_eq]
  exact ⟨fits_of rfl hlt (keysFit_default _ rfl rfl rfl) rfl rfl (aFits_base m rfl nofun) (bFits_plain rfl rfl rfl),
    by simp [Enc.base, Enc.aS, hdec]⟩

/-- `cpy` has the variants of `cpyb` but for `q4g` (R96). -/
theorem cpyVar_code_lt_3 {c : CpyVar} (h : (c != .q4g) = true) : c.code < 3 := by
  cases c with
  | q4g => cases h
  | _ => decide

theorem mcast_coded {rel : Bool} (hy : y.okB = true) : Coded
    ⟨key, dR .v none 2 kNone .zero .base k123, fun e => .mcast (e.low == 1) e.base e.bO⟩
    (({ Enc.zero with low := bitOf rel }.wBase m).wB y) (.mcast rel m y) := by
  rw [wBase_eq, wB_eq rfl rfl]
  exact ⟨fits_of rfl (bitOf_lt rel) (keysFit_default _ rfl rfl rfl) rfl rfl (aFits_base m rfl nofun)
      (bFits_opnd (opndKind_of_okB hy) rfl rfl rfl),
    by simp [Enc.base, Enc.aS, bO_eq, bitOf_beq_one]⟩

theorem inv_coded {s : Scope} {c : SReg} : Coded
    ⟨key, { dS .m none kNone .zero .src with hasScope := true }, fun e => .inv e.scope e.bS⟩
    { Enc.zero with low := s.code, b := c.num } (.inv s c) :=
  ⟨fits_of rfl ⟨scope_code_le s, .inl rfl⟩ (keysFit_default _ rfl rfl rfl) rfl rfl (aFits_one rfl rfl) (bFits_plain (numFits_src c) rfl rfl),
    by simp [Enc.scope, Enc.bS]⟩

theorem fence_coded {kind : FenceKind} {s : Scope} : Coded
    ⟨key, { dS .m none kNone (.num 1 3) .zero with hasScope := true }, fun e => .fence (FenceKind.ofCode e.a) e.scope⟩
    { Enc.zero with low := s.code, a := kind.code } (.fence kind s) := by
  obtain ⟨hlo, hhi⟩ := fenceKind_code_mem kind
  exact ⟨fits_of rfl ⟨scope_code_le s, .inl rfl⟩ (keysFit_default _ rfl rfl rfl) rfl rfl
      (aFits_one ⟨hlo, hhi, Nat.lt_of_le_of_lt hhi (by decide)⟩ rfl) (bFits_plain rfl rfl rfl),
    by simp [Enc.scope]⟩

/-! #### Strands, tasks, knots and populations -/

theorem onlyB_coded (C : Opnd → Instr) (hy : y.okB = true) : Coded
    ⟨key, dR .n none 1 kNone .zero .zero k123, fun e => C e.bO⟩ (Enc.zero.wB y) (C y) := by
  rw [wB_eq rfl rfl]
  exact ⟨fits_of rfl Nat.zero_lt_one (keysFit_default _ rfl rfl rfl) rfl rfl (aFits_one rfl rfl)
      (bFits_opnd (opndKind_of_okB hy) rfl rfl rfl),
    by simp [bO_eq]⟩

theorem twoOperands_coded (C : Opnd → Opnd → Instr) (hw : (x.okA && y.okB) = true) : Coded
    ⟨key, dR .n none 1 kNone .zero k123 k123, fun e => C e.aO e.bO⟩ ((Enc.zero.wA x).wB y) (C x y) := by
  simp only [Bool.and_eq_true] at hw
  obtain ⟨hx, hy⟩ := hw
  rw [wA_eq, wB_eq rfl rfl]
  exact ⟨fits_of rfl Nat.zero_lt_one (keysFit_default _ rfl rfl rfl) rfl rfl (aFits_opnd hx (opndKind_of_okA hx) rfl nofun)
      (bFits_opnd (opndKind_of_okB hy) rfl rfl rfl),
    by simp [aO_eq, bO_eq, opndOf_numA hx]⟩

theorem wdog_coded (hd : d.isDst = true) : Coded
    ⟨key, dR .n none 1 kNone .dst .zero .zero, fun e => .wdog e.dS⟩ (Enc.zero.wDst d) (.wdog d) :=
  ⟨fits_of rfl Nat.zero_lt_one (keysFit_default _ rfl rfl rfl) rfl (numFits_dst hd) (aFits_one rfl rfl) (bFits_plain rfl rfl rfl),
    by simp [Enc.wDst, Enc.dS]⟩

theorem pjoin_coded {c : SReg} (hx : x.okA = true) : Coded
    ⟨key, dR .n none 1 kNone .zero k123 (.opnd [1]), fun e => .pjoin e.aO e.bS⟩ ((Enc.zero.wA x).wB (.reg c)) (.pjoin x c) := by
  rw [wA_eq, wB_eq rfl rfl]
  exact ⟨fits_of rfl Nat.zero_lt_one (keysFit_default _ rfl rfl rfl) rfl rfl (aFits_opnd hx (opndKind_of_okA hx) rfl nofun)
      (bFits_opnd (y := .reg c) (List.mem_singleton_self 1) rfl rfl rfl),
    by simp [aO_eq, Enc.bS, opndOf_numA hx, show numB (.reg c) = c.num from rfl]⟩

theorem resample_coded {c : SReg} (hc : c.isDst = true) : Coded
    ⟨key, dR .n none 1 kNone .src .dst .zero, fun e => .resample e.dS e.aS⟩ { Enc.zero with d := d.num, a := c.num } (.resample d c) :=
  ⟨fits_of rfl Nat.zero_lt_one (keysFit_default _ rfl rfl rfl) rfl (numFits_src d) (aFits_one (numFits_dst hc) rfl) (bFits_plain rfl rfl rfl),
    by simp [Enc.dS, Enc.aS]⟩

end

/-! ### The opcode map, instruction by instruction (R94, R95, R101, R104, R132, R155, R175, R208, R228) -/

/-- Every well-formed instruction has the fields of its row, and its row builds it from them; an event has no fields. -/
theorem toEnc_codedAs (i : Instr) (hw : i.wf = true) : CodedAs i (toEnc i) := by
  cases i with
  | nop | done | yield | eret | bkpt | pleave => exact codedAs_some rfl rfl plain_coded
  | jr => exact codedAs_some rfl rfl jr_coded
  | add | sub | mul | shl | shr | sra | rotl | seq | slt | min | max | mulh | div | rem | sltn | mulhn | divn | remn | minn | maxn | sel =>
    exact codedAs_some rfl rfl (arith_coded _ hw)
  | and | or | xor | andn | bext | bins | vsetvl | step => exact codedAs_some rfl rfl (arithRaw_coded _ hw)
  | mov | clz | ctz | popc | rand | knew | kread | ksettle => exact codedAs_some rfl rfl (dstB_coded _ hw)
  | li => exact codedAs_some rfl rfl (li_coded hw)
  | lea | swld => exact codedAs_some rfl rfl (memI_coded _ hw)
  | swst => exact codedAs_some rfl rfl swst_coded
  | b => exact codedAs_some rfl rfl b_coded
  | loop | jal => exact codedAs_some rfl rfl (dstOffset_coded _ hw)
  | bm => exact codedAs_some rfl rfl bm_coded
  | bc => exact codedAs_some rfl rfl (bc_coded hw)
  | sget => exact codedAs_some rfl rfl (sget_coded hw)
  | sset => exact codedAs_some rfl rfl (sset_coded hw)
  | trap | sysc => exact codedAs_some rfl rfl (service_coded _ hw)
  | fadd | fsub | fmul | fma | fdiv => exact codedAs_some rfl rfl (fpRnd_coded _ hw)
  | fmin | fmax => exact codedAs_some rfl rfl (fp_coded _ hw)
  | fcmp => exact codedAs_some rfl rfl (fcmp_coded hw)
  | fsqrt => exact codedAs_some rfl rfl (fsqrt_coded hw)
  | fcvt => exact codedAs_some rfl rfl (fcvt_coded hw)
  | fclass => exact codedAs_some rfl rfl (fclass_coded hw)
  | vsetvli => exact codedAs_some rfl rfl (vsetvli_coded hw)
  | vadd | vsub | vmul | vmacc | vmulh | vand | vor | vxor | vshl | vshr | vsra | vmin | vmax | vminn | vmaxn | vnarrow | vfmin | vfmax | vsel =>
    exact codedAs_some rfl rfl (elem_coded _ hw)
  | vfadd | vfsub | vfmul | vfma | vfdiv => exact codedAs_some rfl rfl (elemRnd_coded _ hw)
  | vabs | vwiden | vcompress => exact codedAs_some rfl rfl (elemB_coded _ hw)
  | vcmp _ c => exact codedAs_some rfl rfl (cmp_coded _ (vcond_of_code c) (vcond_code_lt c) hw)
  | vfcmp _ c => exact codedAs_some rfl rfl (cmp_coded _ (fcond_of_code c) (fcond_code_lt c) hw)
  | vmv => exact codedAs_some rfl rfl (vmv_coded hw)
  | vslide => exact codedAs_some rfl rfl (vslide_coded hw)
  | vperm | vprune4 => exact codedAs_some rfl rfl (elemVec_coded _ hw)
  | vredsum => exact codedAs_some rfl rfl (vredsum_coded hw)
  | vredmax | vredmin => exact codedAs_some rfl rfl (reduce_coded _ hw)
  | vdotx => exact codedAs_some rfl rfl (vdotx_coded hw)
  | vdeq => exact codedAs_some rfl rfl (vdeq_coded hw)
  | mand | mor | mxor => exact codedAs_some rfl rfl (maskOp_coded _ hw)
  | mset => exact codedAs_some rfl rfl (mset_coded hw)
  | vexp2 | vlog2 | vrcp | vrsq | vsigm | vtanh => exact codedAs_some rfl rfl (unaryF32_coded _ hw)
  | vcvt => exact codedAs_some rfl rfl (vcvt_coded hw)
  | mnot => exact codedAs_some rfl rfl (mnot_coded hw)
  | mpop | mfirst => exact codedAs_some rfl rfl (maskCount_coded _ hw)
  | vrep => exact codedAs_some rfl rfl vrep_coded
  | vld | vldff | vst => exact codedAs_some rfl rfl (vmemI_coded _ hw)
  | vlds | vsts => exact codedAs_some rfl rfl (vmem_coded _ hw)
  | vldx | vstx => exact codedAs_some rfl rfl (vmemX_coded _ hw)
  | mma => exact codedAs_some rfl rfl (mma_coded hw)
  | mmas => exact codedAs_some rfl rfl (mmas_coded hw)
  | mmac => exact codedAs_some rfl rfl (mmac_coded hw)
  | trd => exact codedAs_some rfl rfl (trd_coded hw)
  | twr => exact codedAs_some rfl rfl (twr_coded hw)
  | tgate => exact codedAs_some rfl rfl (tgate_coded hw)
  | tscan => exact codedAs_some rfl rfl tscan_coded
  | tcvt => exact codedAs_some rfl rfl (tcvt_coded hw)
  | tst | tld => exact codedAs_some rfl rfl (tileMem_coded _)
  | tzero => exact codedAs_some rfl rfl tzero_coded
  | twait => exact codedAs_some rfl rfl twait_coded
  | ld | ldc => exact codedAs_some rfl rfl (load_coded _ hw)
  | st => exact codedAs_some rfl rfl (store_coded hw)
  | aadd | amin | amax | aand | aor | axor | axchg | acas | incw | bfadd => exact codedAs_some rfl rfl (atomic_coded _ hw)
  | xred => exact codedAs_some rfl rfl (xred_coded hw)
  | xrd => exact codedAs_some rfl rfl (xrd_coded hw)
  | enq | swadd | swlaw | kenrol => exact codedAs_some rfl rfl (memDst_coded _ hw)
  | barm | btake => exact codedAs_some rfl rfl (memB_coded _ hw)
  | deq => exact codedAs_some rfl rfl (deq_coded hw)
  | bput | gath | route | spawn | tsub | launch => exact codedAs_some rfl rfl (base_coded _)
  | cpy c => exact codedAs_some rfl rfl (variantBase_coded _ (cpyVar_of_code c) (cpyVar_code_lt_3 hw))
  | cpyb c => exact codedAs_some rfl rfl (variantBase_coded _ (cpyVar_of_code c) (cpyVar_code_lt c))
  | send rel | sendn rel => exact codedAs_some rfl rfl (variantBase_coded (dec := (· == 1)) _ (bitOf_beq_one rel) (bitOf_lt rel))
  | mcast => exact codedAs_some rfl rfl (mcast_coded hw)
  | inv => exact codedAs_some rfl rfl inv_coded
  | fence => exact codedAs_some rfl rfl fence_coded
  | migrate | sleep | swsweep | kfree => exact codedAs_some rfl rfl (onlyB_coded _ hw)
  | evsig | evwait | claim | tlbinv | tmark | kmove => exact codedAs_some rfl rfl (twoOperands_coded _ hw)
  | wdog => exact codedAs_some rfl rfl (wdog_coded hw)
  | pjoin => exact codedAs_some rfl rfl (pjoin_coded hw)
  | resample => exact codedAs_some rfl rfl (resample_coded hw)
  | _ => exact True.intro

/-! ### Settled -/

/-- Settles O59: the encoder's fields fit their row, the words carry them, and the decoder finds the row and the fields again. -/
theorem decodeInvertsEncode : Obligations.DecodeInvertsEncode := by
  unfold Obligations.DecodeInvertsEncode
  intro i hw hlen
  obtain ⟨hpos, hmax⟩ := of_decide_eq_true hlen
  have hcoded := toEnc_codedAs i hw
  cases htoEnc : toEnc i with
  | none => simp [encode, htoEnc] at hpos
  | some fields =>
    obtain ⟨key, e⟩ := fields
    rw [htoEnc] at hcoded
    obtain ⟨row, hfind, rfl, hfits, rfl⟩ := hcoded
    have hencode : encode (row.build e) = encodeFields row e := by simp only [encode, htoEnc, hfind]
    rw [hencode] at hmax ⊢
    exact decodeWords_encodeFields (rowFacts_of_rowOk (findRow_rowOk hfind)) hfits hfind hmax

/-- Settles O58: eleven closed evaluations of the decoder. -/
theorem wordsDecode : Obligations.WordsDecode := by
  unfold Obligations.WordsDecode
  decide

end Sys2Proof.Proofs
end

section
namespace Sys2Proof.Proofs
open Sys2Proof Sys2Proof.Machine Sys2Proof.Safety Sys2Proof.Laws

/-! ### What a ready vector instruction leaves -/

section
variable {i : Instr} {s : State} {c : VIn}

/-- A ready vector instruction whose effect changes the strand alone. -/
theorem becomes_of_effect {t : Strand} (h : VectorReady i s c) (hexec : exec i s = vector i s)
    (heffect : vectorEffect i c = c.out t) : Becomes i s t := by
  obtain ⟨rfl, -⟩ := vector_in h
  exact hexec.trans (vector_ok h heffect)

/-- A ready vector instruction whose effect is that of an element instruction with its operands in order. -/
theorem writesElements_of_effect {f tag : Fmt} {k : Keys} {d a : Fin 32} {b : Opnd} {fa fb fd : Option Fmt} {useD : Bool}
    {g : Nat → Nat → Nat → Nat} (h : VectorReady i s c) (hok : ElementsOk c f k d a b fa fb fd useD)
    (hexec : exec i s = vector i s) (heffect : vectorEffect i c = elemRun c f k d a b fa fb fd useD tag g) :
    WritesElements i s c f k d tag fun j =>
      let eg := groupSize c.t k f f.bits
      .new (g ((c.t.vsrc eg f.bits a).get j) ((bRead c eg f.bits b).get j) ((c.t.vsrc eg f.bits d).get j)) false :=
  becomes_of_effect h hexec (heffect.trans (elemRun_ok hok tag g))

end

/-! ### Integer, bitwise and shift elements (O13) -/

section
variable {i : Instr} {f : Fmt} {k : Keys} {d a : Fin 32} {b : Opnd}

/-- The integer element instructions are `intElem` of their operations (R133). -/
theorem integer_effect {acc : Bool} {g : Int → Int → Int → Int} (s : State) (c : VIn)
    (h : (i, acc, g) ∈ [(Instr.vadd f k d a b, false, fun x y _ => x + y), (.vsub f k d a b, false, fun x y _ => x - y),
      (.vmul f k d a b, false, fun x y _ => x * y), (.vmulh f k d a b, false, fun x y _ => x * y / 2 ^ f.bits),
      (.vmin f k d a b, false, fun x y _ => if x ≤ y then x else y), (.vminn f k d a b, false, fun x y _ => if x ≤ y then x else y),
      (.vmax f k d a b, false, fun x y _ => if x ≤ y then y else x), (.vmaxn f k d a b, false, fun x y _ => if x ≤ y then y else x),
      (.vmacc f k d a b, true, fun x y z => z + x * y)]) :
    exec i s = vector i s ∧ vectorEffect i c = intElem c f k d a b acc g := by
  simp only [List.mem_cons, Prod.mk.injEq, List.not_mem_nil, or_false] at h
  rcases h with ⟨rfl, rfl, rfl⟩ | ⟨rfl, rfl, rfl⟩ | ⟨rfl, rfl, rfl⟩ | ⟨rfl, rfl, rfl⟩ | ⟨rfl, rfl, rfl⟩ | ⟨rfl, rfl, rfl⟩ |
    ⟨rfl, rfl, rfl⟩ | ⟨rfl, rfl, rfl⟩ | ⟨rfl, rfl, rfl⟩ <;> exact ⟨rfl, rfl⟩

theorem bitAt_eq_testBit (x h : Nat) : bitAt x h = x.testBit h := by
  rw [Nat.testBit_eq_decide_div_mod_eq]; rfl

theorem lowBits_testBit (n x h : Nat) : (lowBits n x).testBit h = (decide (h < n) && x.testBit h) :=
  Nat.testBit_mod_two_pow x n h

/-- The bitwise element instructions are `bitElem` of operations that go bit by bit (R134). -/
theorem bitwise_effect {g : Bool → Bool → Bool} (s : State) (c : VIn)
    (h : (i, g) ∈ [(Instr.vand f k d a b, fun p q => p && q), (.vor f k d a b, fun p q => p || q), (.vxor f k d a b, fun p q => p != q)]) :
    exec i s = vector i s ∧ ∃ op : Nat → Nat → Nat, vectorEffect i c = bitElem c f k d a b op ∧
      ∀ x y h, (op x y).testBit h = g (x.testBit h) (y.testBit h) := by
  simp only [List.mem_cons, Prod.mk.injEq, List.not_mem_nil, or_false] at h
  rcases h with ⟨rfl, rfl⟩ | ⟨rfl, rfl⟩ | ⟨rfl, rfl⟩
  · exact ⟨rfl, _, rfl, Nat.testBit_and⟩
  · exact ⟨rfl, _, rfl, Nat.testBit_or⟩
  · exact ⟨rfl, _, rfl, Nat.testBit_xor⟩

theorem shlField_testBit {n x y h : Nat} (hh : h < n) :
    (shlField n x y).testBit h = (decide (y ≤ h) && x.testBit (h - y)) := by
  unfold shlField
  split
  · rw [lowBits_testBit, Nat.testBit_mul_two_pow]
    simp [hh]
  · have hy : ¬y ≤ h := by omega
    simp [hy]

theorem shrField_testBit {n x y h : Nat} : (shrField n x y).testBit h = (decide (h + y < n) && x.testBit (h + y)) := by
  unfold shrField
  split
  · rw [Nat.testBit_div_two_pow, lowBits_testBit]
  · have hy : ¬h + y < n := by omega
    simp [hy]

/-- An n-bit field read as two's complement is the integer of its bit vector. -/
theorem signedBits_eq_toInt (n x : Nat) : signedBits n x = (BitVec.ofNat n x).toInt := by
  rw [BitVec.toInt_eq_toNat_cond, BitVec.toNat_ofNat]
  simp [signedBits]

theorem sraField_eq_sshiftRight (n x y : Nat) : sraField n x y = ((BitVec.ofNat n x).sshiftRight (min y n)).toNat := by
  rw [BitVec.sshiftRight, BitVec.toNat_ofInt, ← signedBits_eq_toInt, Int.shiftRight_eq_div_pow]
  simp [sraField, wrapBits, shiftFloor]

theorem sraField_testBit {n x y h : Nat} (hh : h < n) :
    (sraField n x y).testBit h = if h + y < n then x.testBit (h + y) else x.testBit (n - 1) := by
  rw [sraField_eq_sshiftRight, BitVec.testBit_toNat, BitVec.getLsbD_sshiftRight, BitVec.msb_eq_getLsbD_last]
  have hn : n - 1 < n := by omega
  by_cases hy : h + y < n
  · have hmin : min y n + h = h + y := by omega
    simp only [hmin, hy, if_true, BitVec.getLsbD_ofNat, Nat.not_le.mpr hh, decide_false, decide_true, Bool.not_false, Bool.true_and]
  · have hmin : ¬min y n + h < n := by omega
    simp only [hmin, hy, if_false, BitVec.getLsbD_ofNat, Nat.not_le.mpr hh, hn, decide_false, decide_true, Bool.not_false, Bool.true_and]

/-- The shift element instructions are `shiftElem` of the three field shifts, which move bits by a count (R107, R134). -/
theorem shift_effect {m : Fin 3} (s : State) (c : VIn)
    (h : (i, m) ∈ [(Instr.vshl f k d a b, (0 : Fin 3)), (.vshr f k d a b, 1), (.vsra f k d a b, 2)]) :
    exec i s = vector i s ∧ ∃ op : Nat → Nat → Nat → Nat, vectorEffect i c = shiftElem c f k d a b op ∧
      ∀ n x y h, h < n → (op n x y).testBit h =
        if m = 0 then decide (y ≤ h) && x.testBit (h - y)
        else if m = 1 then decide (h + y < n) && x.testBit (h + y)
        else if h + y < n then x.testBit (h + y) else x.testBit (n - 1) := by
  simp only [List.mem_cons, Prod.mk.injEq, List.not_mem_nil, or_false] at h
  rcases h with ⟨rfl, rfl⟩ | ⟨rfl, rfl⟩ | ⟨rfl, rfl⟩
  · exact ⟨rfl, _, rfl, fun _ _ _ _ => shlField_testBit⟩
  · exact ⟨rfl, _, rfl, fun _ _ _ _ _ => shrField_testBit⟩
  · exact ⟨rfl, _, rfl, fun _ _ _ _ => sraField_testBit⟩

end

/-- Settles O13: the three families are `intElem`, `bitElem` and `shiftElem` of their operations; a bitwise and a shift operation are
read bit by bit. -/
theorem vectorIntegersAndBits : Obligations.VectorIntegersAndBits := by
  unfold Obligations.VectorIntegersAndBits
  refine ⟨fun s c f k d a b i acc g hi hready hok => ?_, fun s c f k d a b => ⟨fun i g hi hready hok => ?_, fun i m hi hready hok => ?_⟩⟩
  · obtain ⟨hexec, heffect⟩ := integer_effect s c hi
    have hwrites := writesElements_of_effect hready hok hexec heffect
    exact hwrites
  · obtain ⟨hexec, op, heffect, hop⟩ := bitwise_effect s c hi
    refine ⟨_, writesElements_of_effect hready hok hexec heffect, fun j h hh => ?_⟩
    simp only [bitAt_eq_testBit, hop, lowBits_testBit, hh, decide_true, Bool.true_and]
  · obtain ⟨hexec, op, heffect, hop⟩ := shift_effect s c hi
    refine ⟨_, writesElements_of_effect hready hok hexec heffect, fun j h hh => ?_⟩
    simp only [bitAt_eq_testBit, hop _ _ _ _ hh]

/-! ### Floating-point elements (O15) -/

/-- The floating-point element instructions of two operands are `fpElem` of operations on codes (R136). -/
theorem float_effect {i : Instr} {f : Fmt} {r : Rnd} {k : Keys} {d a : Fin 32} {b : Opnd} {g : Nat → Nat} (s : State) (c : VIn)
    (x y : Nat → Nat) (h : let e := fdecode f
      let m := r.mode c.mode
      (i, g) ∈ [(Instr.vfadd f r k d a b, fun j => ((e (x j)).add m (e (y j))).toCode f m k.sat),
        (.vfsub f r k d a b, fun j => ((e (x j)).add m (e (y j)).neg).toCode f m k.sat),
        (.vfmul f r k d a b, fun j => ((e (x j)).mul (e (y j))).toCode f m k.sat),
        (.vfdiv f r k d a b, fun j => fdivCode f m k.sat (e (x j)) (e (y j))),
        (.vfmin f k d a b, fun j => fminCode f (x j) (y j)), (.vfmax f k d a b, fun j => fmaxCode f (x j) (y j))]) :
    exec i s = vector i s ∧ ∃ op : Nat → Nat → Nat, vectorEffect i c = fpElem c f k d a b op ∧ g = fun j => op (x j) (y j) := by
  simp only [List.mem_cons, Prod.mk.injEq, List.not_mem_nil, or_false] at h
  rcases h with ⟨rfl, rfl⟩ | ⟨rfl, rfl⟩ | ⟨rfl, rfl⟩ | ⟨rfl, rfl⟩ | ⟨rfl, rfl⟩ | ⟨rfl, rfl⟩ <;> exact ⟨rfl, _, rfl, rfl⟩

/-- Settles O15: every instruction is an element instruction of its operation on codes, under the rounding mode captured at issue. -/
theorem vectorFloat : Obligations.VectorFloat := by
  unfold Obligations.VectorFloat
  refine fun s c f r k d a b => ⟨fun i g hi hready hok => ?_, fun hready hok => ?_⟩
  · obtain ⟨-, hmode⟩ := vector_in hready
    rw [← hmode] at hi
    obtain ⟨hexec, op, heffect, rfl⟩ := float_effect s c _ _ hi
    have hwrites := writesElements_of_effect hready hok hexec heffect
    exact hwrites
  · obtain ⟨-, hmode⟩ := vector_in hready
    have heffect : vectorEffect (.vfma f r k d a b) c =
        elemRun c f k d a b (some f) (some f) (some f) true f (fmaCode f (r.mode c.mode) k.sat) := rfl
    rw [← hmode]
    have hwrites := writesElements_of_effect hready hok rfl heffect
    exact hwrites

end Sys2Proof.Proofs
end

section
namespace Sys2Proof.Proofs
open Sys2Proof Sys2Proof.Machine Sys2Proof.Safety Sys2Proof.Laws

/-! ### Scalar results of vector instructions (O17) -/

section
variable {i : Instr} {s : State} {c : VIn} {d : SReg}

/-- A ready vector instruction names no queue that its stream may not write (R132). -/
theorem vector_dst (h : VectorReady i s c) (hd : vectorDst i = some d) : vectorDstMisuse (some d) = none := by
  obtain ⟨-, -, -, hreads⟩ := h
  unfold entryIn at hreads
  obtain ⟨_, hchecks, -⟩ := bind_ok hreads
  unfold vectorChecks at hchecks
  obtain ⟨_, -, hchecks⟩ := bind_ok hchecks
  obtain ⟨_, -, hdst⟩ := bind_ok hchecks
  have hins : (newEntry s i s.st.pc s.st.npc false).ins = i := rfl
  rw [hins, hd] at hdst
  cases hmis : vectorDstMisuse (some d) with
  | none => rfl
  | some n => rw [hmis] at hdst; cases hdst

/-- A destination of the vector stream that has room takes a value. -/
theorem putReg_vector {t : Strand} (hmis : vectorDstMisuse (some d) = none) (hroom : hasRoom t d = .ok ()) (v : Word) (tag : Fmt) :
    ∃ t', putReg t d v tag = .ok t' := by
  cases d with
  | g n => exact ⟨_, rfl⟩
  | sp r => exact ⟨_, rfl⟩
  | q n =>
    have hn : 4 ≤ n.val ∧ n.val < 8 := by simpa [vectorDstMisuse] using hmis
    simp only [hasRoom, hn.2, dite_true] at hroom
    by_cases hlen : (t.q[n.val]).length < 4
    · simp [putReg, hn.2, hlen]
    · simp [hlen] at hroom

/-- A ready vector instruction whose effect is a scalar result writes it (R128, R141). -/
theorem gives_of_effect {v : Nat} {tag : Fmt} (h : VectorReady i s c) (hexec : exec i s = vector i s) (hd : vectorDst i = some d)
    (hroom : hasRoom c.t d = .ok ()) (heffect : vectorEffect i c = c.outReg d (Res.of v tag)) :
    ∃ t', putReg c.t d (BitVec.ofNat 64 v) tag = .ok t' ∧ Becomes i s t' := by
  obtain ⟨t', hput⟩ := putReg_vector (vector_dst h hd) hroom (BitVec.ofNat 64 v) tag
  refine ⟨t', hput, becomes_of_effect h hexec (heffect.trans ?_)⟩
  simp only [VIn.outReg, Res.of, hput, bind, Except.bind]

end

/-- A reduction whose operands are in order answers the code of its set (R141). -/
theorem reduceRun_ok {c : VIn} {f : Fmt} {k : Keys} {d : SReg} {a : Fin 32} (hroom : hasRoom c.t d = .ok ())
    (ha : SourceOk c (groupSize c.t k f f.bits) f.bits a (some f) (c.t.activeAt k)) (htag : TagOk (some f) c.b)
    (hbad : c.b.bad = false) (g : Nat → List Nat → Nat) :
    reduceRun c f k d a g =
      let r := g (lowBits f.bits c.b.val.toNat) (actives c k (c.t.vsrc (groupSize c.t k f f.bits) f.bits a))
      c.outReg d (Res.of (if f.isInt then f.extend r else r) f) := by
  obtain ⟨htags, hgroup, hclean⟩ := ha
  unfold reduceRun
  simp only [hroom, groupTags_ok (htags f rfl), tagCheck_ok htag, groupCheck_ok hgroup, use_ok hclean, poisonCheck_ok hbad,
    bind, Except.bind]

theorem not_isInt_of_isFloat {f : Fmt} (h : f.isFloat = true) : f.isInt = false := by
  revert h; cases f <;> decide

/-- A field of a format's width extended as an integer, where a format that is none of R100's is left as it is. -/
theorem extend_or_self (f : Fmt) (v : Int) :
    (if f.isInt then f.extend (wrapBits f.bits v) else wrapBits f.bits v) = f.put v := by
  by_cases hint : f.isInt = true
  · rw [if_pos hint, Fmt.put]
  · have hs : f.isS = false := by
      cases hs : f.isS with
      | false => rfl
      | true => simp [Fmt.isInt, hs] at hint
    have hlt : wrapBits f.bits v < 2 ^ f.bits := by
      have hpos : (0 : Int) < 2 ^ f.bits := by positivity
      have hlt := Int.emod_lt_of_pos v hpos
      have hnonneg := Int.emod_nonneg v hpos.ne'
      unfold wrapBits
      zify
      omega
    simp [hint, Fmt.put, Fmt.extend, hs, lowBits, Nat.mod_eq_of_lt hlt]

/-- A code that is of a float, or is an integer at the width of its format, as a reduction writes it. -/
theorem reduced_code (f : Fmt) (x : Nat) (v : Int) :
    (let r := if f.isFloat then x else wrapBits f.bits v
     if f.isInt then f.extend r else r) = if f.isFloat then x else f.put v := by
  by_cases hf : f.isFloat = true
  · simp [hf, not_isInt_of_isFloat hf]
  · simp only [hf, Bool.false_eq_true, if_false, extend_or_self]

/-- The reductions are `reduceRun` of the sum, the greatest and the least member, and write them as statement O17 words them
(R70, R141). -/
theorem reduction_effect {i : Instr} {v : Nat} {f : Fmt} {r : Rnd} {k : Keys} {d : SReg} {a : Fin 32} {o : Opnd} (s : State) (c : VIn)
    (x : VSrc) (start : Nat) (h : let live := (List.range c.t.vl).filter (c.t.activeAt k)
      (i, v) ∈ [(Instr.vredsum f r k d a o, if f.isFloat then
            (sumExact (fdecode f start :: live.map fun j => fdecode f (x.get j))).toCode f (r.mode c.mode) false
          else f.put (f.intVal start + (live.map fun j => f.intVal (x.get j)).sum)),
        (.vredmax f k d a o, if f.isFloat then (live.map x.get).foldl (fmaxCode f) (fmaxCode f start start)
          else f.put ((live.map fun j => f.intVal (x.get j)).foldl max (f.intVal start))),
        (.vredmin f k d a o, if f.isFloat then (live.map x.get).foldl (fminCode f) (fminCode f start start)
          else f.put ((live.map fun j => f.intVal (x.get j)).foldl min (f.intVal start)))]) :
    exec i s = vector i s ∧ vectorDst i = some d ∧ ∃ g : Nat → List Nat → Nat, vectorEffect i c = reduceRun c f k d a g ∧
      (if f.isInt then f.extend (g start (actives c k x)) else g start (actives c k x)) = v := by
  simp only [List.mem_cons, Prod.mk.injEq, List.not_mem_nil, or_false] at h
  rcases h with ⟨rfl, rfl⟩ | ⟨rfl, rfl⟩ | ⟨rfl, rfl⟩
  · refine ⟨rfl, rfl, _, rfl, (reduced_code f _ _).trans ?_⟩
    simp [actives, Function.comp_def, VIn.round]
  · refine ⟨rfl, rfl, _, rfl, (reduced_code f _ _).trans ?_⟩
    simp [actives, List.foldl_map]
  · refine ⟨rfl, rfl, _, rfl, (reduced_code f _ _).trans ?_⟩
    simp [actives, List.foldl_map]

/-- `vdotx` with its operands in order answers the sum of its start value and its products (R142). -/
theorem vdotx_effect {c : VIn} {f : Fmt} {r : Rnd} {k : Keys} {d : SReg} {a b : Fin 32} (hroom : hasRoom c.t d = .ok ())
    (ha : SourceOk c (groupSize c.t k f f.bits) f.bits a (some f) (c.t.activeAt k))
    (hb : SourceOk c (groupSize c.t k f f.bits) f.bits b (some f) (c.t.activeAt k))
    (hstart : hasStart d = true → TagOk (some (dotFmt f)) c.d ∧ c.d.bad = false) :
    vectorEffect (.vdotx f r k d a b) c =
      let live := (List.range c.t.vl).filter (c.t.activeAt k)
      let x := (c.t.vsrc (groupSize c.t k f f.bits) f.bits a).get
      let y := (c.t.vsrc (groupSize c.t k f f.bits) f.bits b).get
      c.outReg d (Res.of (if f.isFloat then
          (sumExact ((if hasStart d then [fdecode .f32 (lowBits 32 c.d.val.toNat)] else [])
            ++ live.map fun j => (fdecode f (x j)).mul (fdecode f (y j)))).toCode .f32 (r.mode c.mode) false
        else wrapBits 64 ((if hasStart d then (c.d.val.toNat : Int) else 0) + (live.map fun j => f.intVal (x j) * f.intVal (y j)).sum))
        (dotFmt f)) := by
  obtain ⟨htagsA, hgroupA, hcleanA⟩ := ha
  obtain ⟨htagsB, hgroupB, hcleanB⟩ := hb
  change vdotxRun c f r k d a b = _
  unfold vdotxRun
  simp only [hroom, groupTags_ok (htagsA f rfl), groupTags_ok (htagsB f rfl), groupCheck_ok hgroupA, groupCheck_ok hgroupB,
    use_ok hcleanA, use_ok hcleanB, bind, Except.bind]
  by_cases hd : hasStart d = true
  · obtain ⟨htag, hbad⟩ := hstart hd
    simp only [hd, if_true, tagCheck_ok htag, poisonCheck_ok hbad]
    rfl
  · simp only [hd, Bool.false_eq_true, if_false]
    rfl

/-- The number of set bits is the number of places where a bit is set. -/
theorem countBits_eq_countP (x n : Nat) : countBits x n = (List.range n).countP x.testBit := by
  induction n generalizing x with
  | zero => rfl
  | succ n ih =>
    rw [countBits, ih, List.range_succ_eq_map, List.countP_cons, List.countP_map, Nat.add_comm]
    congr 1
    · congr 1
      funext j
      exact (Nat.testBit_succ x j).symm
    · rw [Nat.testBit_zero]
      rcases Nat.mod_two_eq_zero_or_one x with h | h <;> simp [h]

theorem countP_range_of_false {p : Nat → Bool} {m n : Nat} (hmn : m ≤ n) (h : ∀ j, m ≤ j → p j = false) :
    (List.range n).countP p = (List.range m).countP p := by
  obtain ⟨l, rfl⟩ := Nat.exists_eq_add_of_le hmn
  have hrest : (List.range l).countP (p ∘ (m + ·)) = 0 :=
    List.countP_eq_zero.mpr fun j _ => by simp [h (m + j) (Nat.le_add_right m j)]
  rw [List.range_add, List.countP_append, List.countP_map, hrest, Nat.add_zero]

/-- The count of the set bits below vl of a mask, whether vl is below the mask's width or not (R146). -/
theorem countBits_maskBelow (m : BitVec 512) (vl : Nat) :
    countBits (maskBelow m vl) 512 = (List.range vl).countP fun j => m.getLsbD j := by
  have hbit : (maskBelow m vl).testBit = fun j => decide (j < vl) && m.getLsbD j := by
    funext j; rw [maskBelow, lowBits_testBit, BitVec.testBit_toNat]
  have hbelow : ∀ n, n ≤ vl → (List.range n).countP (fun j => decide (j < vl) && m.getLsbD j) =
      (List.range n).countP fun j => m.getLsbD j := fun n hn =>
    List.countP_congr fun j hj => by simp [Nat.lt_of_lt_of_le (List.mem_range.mp hj) hn]
  rw [countBits_eq_countP, hbit]
  rcases Nat.le_total vl 512 with hvl | hvl
  · rw [countP_range_of_false hvl fun j hj => by simp [Nat.not_lt.mpr hj], hbelow vl le_rfl]
  · rw [hbelow 512 hvl, countP_range_of_false hvl fun j hj => BitVec.getLsbD_of_ge m j hj]

theorem mfirst_found {p : Nat → Bool} {n j : Nat} (hj : j < n) (hp : p j = true) (hbelow : ∀ h, h < j → p h = false) :
    (List.range n).find? p = some j := by
  rw [List.find?_range_eq_some]
  simp_all

theorem hasStart_eq (d : SReg) : (match d with
    | .g j => decide (j ≠ 0)
    | _ => false) = hasStart d := by
  cases d with
  | g j =>
    by_cases hj : j = 0
    · subst hj; rfl
    · have hval : j.val ≠ 0 := fun e => hj (Fin.ext e)
      exact (decide_eq_true hj).trans (bne_iff_ne.mpr hval).symm
  | q n => rfl
  | sp r => rfl

/-! ### vprune4 (O17) -/

/-- Group `g` of eight elements. -/
def pruneGroup (x : Nat → Nat) (g : Nat) : List Nat := (List.range 8).map fun j => x (8 * g + j)

theorem pruneGroup_getD (x : Nat → Nat) (g : Nat) {j : Nat} (hj : j < 8) : (pruneGroup x g).getD j 0 = x (8 * g + j) := by
  simp [pruneGroup, hj]

/-- The places that stay, in terms of the elements: fewer than four others beat them (R145). -/
theorem pruneKeep_group (f : Fmt) (x : Nat → Nat) (g : Nat) :
    pruneKeep f (pruneGroup x g) = (List.range 8).filter fun j => (List.range 8).countP (fun h =>
      magGreater f (x (8 * g + h)) (x (8 * g + j)) || (h < j && !magGreater f (x (8 * g + j)) (x (8 * g + h)))) < 4 := by
  unfold pruneKeep
  refine List.filter_congr fun j hj => ?_
  rw [List.countP_eq_length_filter]
  congr 3
  refine List.filter_congr fun h hh => ?_
  rw [pruneGroup_getD x g (List.mem_range.mp hj), pruneGroup_getD x g (List.mem_range.mp hh)]

/-- Up to four places as four 3-bit fields (R145). -/
def placesCode (l : List Nat) : Nat := l.getD 0 0 + l.getD 1 0 * 2 ^ 3 + l.getD 2 0 * 2 ^ 6 + l.getD 3 0 * 2 ^ 9

/-- A list laid into a group: its values in order, then what `tpol` says. -/
def fillFrom (k : Keys) (l : List Nat) (i : Nat) : Fill :=
  match l[i]? with
  | some y => .new y false
  | none => if k.tz then .zero else .keep

theorem fillFrom_eq (k : Keys) (l : List Nat) :
    fillFrom k l = fun j => if h : j < l.length then .new l[j] false else if k.tz then .zero else .keep := by
  funext j
  unfold fillFrom
  by_cases h : j < l.length <;> simp [h]

/-- The values that the groups keep, one after another. -/
theorem keptValues_eq (f : Fmt) (x : Nat → Nat) (n : Nat) :
    ((((List.range n).map (pruneGroup x)).map fun l => (pruneKeep f l).map fun j => l.getD j 0).flatten) =
      (List.range n).flatMap fun g => (pruneKeep f (pruneGroup x g)).map fun j => x (8 * g + j) := by
  rw [List.map_map, ← List.flatMap_def]
  congr 1
  funext g
  exact List.map_congr_left fun _ hj => pruneGroup_getD x g (List.mem_range.mp (List.mem_of_mem_filter hj))

theorem placesCodes_eq (f : Fmt) (x : Nat → Nat) (n : Nat) :
    (((List.range n).map (pruneGroup x)).map fun l => placesCode (pruneKeep f l)) =
      (List.range n).map fun g => placesCode (pruneKeep f (pruneGroup x g)) :=
  List.map_map

/-- `vprune4` with its operands in order and its destinations apart fills both (R145). -/
theorem vprune4_effect {c : VIn} {f : Fmt} {k : Keys} {d a b : Fin 32}
    (ha : SourceOk c (groupSize c.t k f f.bits) f.bits a (some f) (fun _ => true)) (hb : b.val % metaSize c.t.vl = 0)
    (hd : GroupOk c.t (groupSize c.t k f f.bits) f.bits d)
    (hapart : b.val + metaSize c.t.vl ≤ d.val ∨ d.val + groupSize c.t k f f.bits ≤ b.val) (x : Nat → Nat)
    (hx : x = fun j => if j < c.t.vl then (c.t.vsrc (groupSize c.t k f f.bits) f.bits a).get j else 0) :
    vectorEffect (.vprune4 f k d a b) c = c.out (if c.t.vl = 0 then c.t else
      (c.t.fillGroup (groupSize c.t k f f.bits) f.bits d f (fillFrom k ((List.range ((c.t.vl + 7) / 8)).flatMap fun g =>
        (pruneKeep f (pruneGroup x g)).map fun j => x (8 * g + j)))).fillGroup (metaSize c.t.vl) 16 b .n16
        (fillFrom k ((List.range ((c.t.vl + 7) / 8)).map fun g => placesCode (pruneKeep f (pruneGroup x g))))) := by
  obtain ⟨htags, hgroup, hclean⟩ := ha
  have hoverlap : ¬(d.val < b.val + metaSize c.t.vl ∧ b.val < d.val + groupSize c.t k f f.bits) := by omega
  rw [← keptValues_eq, ← placesCodes_eq, hx]
  change vprune4Run c f k d a b = _
  unfold vprune4Run
  simp only [groupTags_ok (htags f rfl), groupCheck_ok hgroup, hb, groupCheck_ok hd, hoverlap, use_ok hclean, if_false, ne_eq,
    not_true_eq_false, bind, Except.bind]
  rfl

/-- Settles O17: a reduction, `vdotx`, `mpop` and `mfirst` write a scalar result, and `vprune4` fills its two groups. -/
theorem vectorReductionsAndPruning : Obligations.VectorReductionsAndPruning := by
  unfold Obligations.VectorReductionsAndPruning
  refine ⟨fun s c f r k d a b o md => ?_, fun s c f k d a b => ?_⟩
  · intro n eg act m x y live start gives hroom
    refine ⟨fun i v hi hready ha htag hbad => ?_, ?_, fun hready => ?_, fun hready => ⟨?_, fun hnone => ?_⟩⟩
    · obtain ⟨-, hmode⟩ := vector_in hready
      obtain ⟨hexec, hdst, g, heffect, rfl⟩ := reduction_effect s c (c.t.vsrc eg n a) start (by rw [hmode]; exact hi)
      exact gives_of_effect hready hexec hdst hroom (heffect.trans (reduceRun_ok hroom ha htag hbad g))
    · intro tag reads hready ha hb hstart
      obtain ⟨-, hmode⟩ := vector_in hready
      have hreads : reads = hasStart d := hasStart_eq d
      rw [hreads] at hstart ⊢
      have heffect := vdotx_effect (r := r) (d := d) hroom ha hb hstart
      rw [hmode] at heffect
      exact gives_of_effect hready rfl rfl hroom heffect
    · refine gives_of_effect hready rfl rfl hroom ?_
      change mpopRun c d md = _
      simp only [mpopRun, hroom, countBits_maskBelow, bind, Except.bind]
    · intro j hj hset hbelow
      refine gives_of_effect hready rfl rfl hroom ?_
      change mfirstRun c d md = _
      have hfind : (List.range c.t.vl).find? (c.bit md) = some j := mfirst_found hj hset hbelow
      simp only [mfirstRun, hroom, hfind, bind, Except.bind]
    · refine gives_of_effect hready rfl rfl hroom ?_
      change mfirstRun c d md = _
      have hfind : (List.range c.t.vl).find? (c.bit md) = none := by
        rw [List.find?_range_eq_none]
        exact fun j hj => by simp [VIn.bit, hnone j hj]
      simp only [mfirstRun, hroom, hfind, bind, Except.bind]
  · intro w eg groups em x beats kept fill hready ha hb hd hapart
    have hkept : (fun g => pruneKeep f (pruneGroup x g)) = kept := funext (pruneKeep_group f x)
    have heffect := vprune4_effect ha hb hd hapart x rfl
    simp only [congrFun hkept, fillFrom_eq] at heffect
    exact becomes_of_effect hready rfl heffect

end Sys2Proof.Proofs
end

section
namespace Sys2Proof.Proofs
open Sys2Proof Sys2Proof.Machine Sys2Proof.Safety Sys2Proof.Laws

/-! ### A parked strand with the number of the strand in focus (O24) -/

/-- A strand at an `xrd` of the XA word at address 0, in a partition whose order log watches nothing, while a parked strand of
another partition has its number, and that partition's order log has a window on the word's line. -/
def sharedNumber : State :=
  { State.reset with
    cells := [(0, { (State.reset.cell 0) with tlb := [⟨0, 0, 16, 0, true, true, false, false⟩] })]
    parts := [(0, { Part.reset with desc := List.replicate 20 (BitVec.allOnes 64) }),
      (1, { Part.reset with log := { Part.reset.log with windows := [1] } })]
    parked := [{ Strand.empty with part := 1 }] }

/-- The read that the strand in focus makes. -/
def readsOut : Instr := .xrd .raw .rne (.g 0) (.reg (.g 0)) 0

theorem readsOut_ready :
    AccessReady readsOut sharedNumber (.reg (.g 0)) 0 32 3 true false Src.zero sharedNumber.st sharedNumber.st ⟨0, false⟩ where
  free := ⟨rfl, rfl, rfl⟩
  legal := rfl
  reads := ⟨rfl, rfl⟩
  inLine := rfl
  located := by decide +kernel
  turn := ⟨rfl, fun y hy => (List.not_mem_nil hy).elim, by decide +kernel⟩
  home := ⟨by decide +kernel, by decide +kernel⟩
  quiet := ⟨rfl, rfl, rfl⟩

/-- The home operations to windows that the parked strands have counted. -/
def parkedCounts (o : Out) : List Nat :=
  match o with
  | .next s => s.parked.map (·.wops)
  | _ => []

/-- The count of a home operation to a window is kept by strand number, and reaches the parked strand. -/
theorem readsOut_counts : parkedCounts (exec readsOut sharedNumber) = [1] := by decide +kernel

/-- Refutes O24: its clause for `xrd` fixes every strand but the one in focus. Where a parked strand has the number of the strand
in focus, and its own partition's order log has a window on the line of the XA word, the model counts the home operation for the
parked strand too (R346), which the statement leaves as it was. Strands that run have numbers of their own. -/
theorem not_exactReductions : ¬ Obligations.ExactReductions := by
  unfold Obligations.ExactReductions
  intro h
  obtain ⟨-, hxrd⟩ := h sharedNumber .raw .rne (.g 0) (.reg (.g 0)) (.lit 0) 0 Src.zero Src.zero sharedNumber.st sharedNumber.st
    sharedNumber.st ⟨0, false⟩
  have hdone := hxrd readsOut_ready rfl rfl rfl (by decide +kernel) rfl
  have hcounts := (congrArg parkedCounts hdone).symm.trans readsOut_counts
  revert hcounts
  decide +kernel

end Sys2Proof.Proofs
end

section
namespace Sys2Proof.Proofs
open Sys2Proof Sys2Proof.Machine Sys2Proof.Safety Sys2Proof.Laws

/-! ### A step applied to a tile (O31) -/

/-- A list of updates of elements at different places: each place takes its update of what it held, every other element stays. -/
theorem foldl_elements {α : Type} {step : Tile → α → Tile} {place : α → Nat} {val : α → Nat → Nat}
    (hstep : ∀ x a e, Tab.get (step x a).elems 0 e = if e = place a then val a (Tab.get x.elems 0 e) else Tab.get x.elems 0 e)
    {l : List α} (hplaces : l.Pairwise fun a b => place a ≠ place b) (x : Tile) :
    (∀ e, (∀ a ∈ l, e ≠ place a) → Tab.get (l.foldl step x).elems 0 e = Tab.get x.elems 0 e) ∧
    ∀ a ∈ l, Tab.get (l.foldl step x).elems 0 (place a) = val a (Tab.get x.elems 0 (place a)) := by
  induction l generalizing x with
  | nil => exact ⟨fun _ _ => rfl, fun a ha => (List.not_mem_nil ha).elim⟩
  | cons b l ih =>
    obtain ⟨hb, hl⟩ := List.pairwise_cons.mp hplaces
    obtain ⟨hother, hplace⟩ := ih hl (step x b)
    refine ⟨fun e he => ?_, fun a ha => ?_⟩
    · rw [List.foldl_cons, hother e fun a ha => he a (List.mem_cons_of_mem b ha), hstep, if_neg (he b List.mem_cons_self)]
    · rcases List.mem_cons.mp ha with rfl | ha
      · rw [List.foldl_cons, hother _ hb, hstep, if_pos rfl]
      · rw [List.foldl_cons, hplace a ha, hstep, if_neg (hb a ha).symm]

/-- A row and a column with their numbers in the window. -/
abbrev Cross := (List Nat × Nat) × ((List Nat × Nat) × Nat)

/-- The element where a row and a column of the window cross. -/
def crossPlace (p : Prod) (a : Cross) : Nat := 128 * (p.shape.row0 + a.1.2) + p.shape.col0 + a.2.2

/-- What a row and a column make of an element, and whether its range was lost (R63, R65). -/
def crossElem (p : Prod) (a : Cross) (old : Nat) : Nat × Bool := stepElem p a.1.1 a.2.1 ((p.shape.col0 + a.2.2) % 2 == 1) old

/-- A tile with the element of a row and a column taken a step on. -/
def crossStep (p : Prod) (x : Tile) (a : Cross) : Tile :=
  let v := crossElem p a (Tab.get x.elems 0 (crossPlace p a))
  { x with elems := setElem x.elems (crossPlace p a) v.1, rlost := x.rlost || v.2 }

/-- Every row with every column. -/
def crossings (rows : List (List Nat)) (cols : List (List Nat × Nat)) : List Cross :=
  rows.zipIdx.flatMap fun r => cols.zipIdx.map fun c => (r, c)

/-- A step goes from the tile with its tag taken through every row and column. -/
theorem apply_eq (p : Prod) (x : Tile) (rows : List (List Nat)) (cols : List (List Nat × Nat)) :
    ∃ nf, p.apply x rows cols = (crossings rows cols).foldl (crossStep p) { x.taken (accTag p.f) with nfseen := nf } := by
  have hflat : ∀ y : Tile, (crossings rows cols).foldl (crossStep p) y =
      rows.zipIdx.foldl (fun y r => cols.zipIdx.foldl (fun y c => crossStep p y (r, c)) y) y := fun y => by
    simp only [crossings, List.foldl_flatMap, List.foldl_map]
  exact ⟨_, (hflat _).symm⟩

theorem crossStep_get (p : Prod) (x : Tile) (a : Cross) (e : Nat) : Tab.get (crossStep p x a).elems 0 e =
    if e = crossPlace p a then (crossElem p a (Tab.get x.elems 0 e)).1 else Tab.get x.elems 0 e := by
  simp only [crossStep, tab_get_setElem]
  split
  · next he => rw [he]
  · rfl

theorem foldl_crossStep_tag (p : Prod) (l : List Cross) (x : Tile) : (l.foldl (crossStep p) x).tag = x.tag := by
  induction l generalizing x with
  | nil => rfl
  | cons a l ih => exact ih _

theorem mem_crossings {rows : List (List Nat)} {cols : List (List Nat × Nat)} {a : Cross} :
    a ∈ crossings rows cols ↔ rows[a.1.2]? = some a.1.1 ∧ cols[a.2.2]? = some a.2.1 := by
  obtain ⟨⟨r, i⟩, c, j⟩ := a
  simp [crossings, List.mem_zipIdx_iff_getElem?]

theorem zipIdx_pairwise {α : Type} (l : List α) : l.zipIdx.Pairwise fun a b => a.2 < b.2 := by
  rw [List.pairwise_iff_getElem]
  intro i j hi hj hij
  simpa using hij

/-- In a window that ends at column 128 or before, no two crossings are at one place. -/
theorem crossings_places (p : Prod) (rows : List (List Nat)) {cols : List (List Nat × Nat)} (h : p.shape.col0 + cols.length ≤ 128) :
    (crossings rows cols).Pairwise fun a b => crossPlace p a ≠ crossPlace p b := by
  have hcol : ∀ c ∈ cols.zipIdx, c.2 < cols.length := fun c hc => List.snd_lt_of_mem_zipIdx hc
  rw [crossings, List.pairwise_flatMap]
  refine ⟨fun r _ => ?_, (zipIdx_pairwise rows).imp fun hr a ha b hb => ?_⟩
  · rw [List.pairwise_map]
    refine (zipIdx_pairwise cols).imp fun hc => ?_
    simp only [crossPlace]
    omega
  · obtain ⟨c, hc, rfl⟩ := List.mem_map.mp ha
    obtain ⟨c', hc', rfl⟩ := List.mem_map.mp hb
    have := hcol c hc
    have := hcol c' hc'
    simp only [crossPlace]
    omega

theorem accTag_ne_raw (f : Fmt) : accTag f ≠ .raw := by
  unfold accTag
  split <;> decide

/-- What a step makes of a tile (R159, R225). -/
theorem apply_spec (p : Prod) (x : Tile) (rows : List (List Nat)) {cols : List (List Nat × Nat)}
    (h : p.shape.col0 + cols.length ≤ 128) :
    (p.apply x rows cols).tag = accTag p.f ∧
    (∀ e, (∀ a ∈ crossings rows cols, e ≠ crossPlace p a) → (p.apply x rows cols).get e = x.get e) ∧
    ∀ a ∈ crossings rows cols, (p.apply x rows cols).get (crossPlace p a) = (crossElem p a (x.get (crossPlace p a))).1 := by
  obtain ⟨nf, happly⟩ := apply_eq p x rows cols
  obtain ⟨hother, hplace⟩ := foldl_elements (val := fun a old => (crossElem p a old).1) (crossStep_get p)
    (crossings_places p rows h) { x.taken (accTag p.f) with nfseen := nf }
  have htag : (p.apply x rows cols).tag = accTag p.f := by
    rw [happly, foldl_crossStep_tag]
    unfold Tile.taken
    split <;> rfl
  have hget : ∀ e, (p.apply x rows cols).get e = Tab.get (p.apply x rows cols).elems 0 e := fun e => by
    rw [Tile.get, htag, if_neg (accTag_ne_raw p.f)]
  refine ⟨htag, fun e he => ?_, fun a ha => ?_⟩
  · rw [hget, happly, hother e he, taken_get]
  · rw [hget, happly, hplace a ha, taken_get]

/-! ### The reads of a step (O31) -/

theorem readAt_quiet {s : State} (h : Quiet s) (c : ErrCtx) (pa n : Nat) : s.readAt c pa n = (memRead s.mem pa n, false, s) := by
  obtain ⟨hflips, hpoison, -⟩ := h
  simp [State.readAt, hflips, hpoison]

theorem memRead_lt (m : List Host.Cell) (a n : Nat) : memRead m a n < 256 ^ n := by
  induction n generalizing a with
  | zero => simp [memRead]
  | succ n ih =>
    have hbyte := (memGet m a).isLt
    have hrest := ih (a + 1)
    rw [memRead, Nat.pow_succ']
    omega

theorem memRead_add (m : List Host.Cell) (a k n : Nat) : memRead m a (k + n) = memRead m a k + 256 ^ k * memRead m (a + k) n := by
  induction k generalizing a with
  | zero => simp [memRead]
  | succ k ih =>
    rw [Nat.succ_add, memRead, memRead, ih, Nat.pow_succ', show a + 1 + k = a + (k + 1) by omega]
    ring

/-- A span within a span read (R7). -/
theorem memRead_slice (m : List Host.Cell) (a : Nat) {o n k : Nat} (h : o + n ≤ k) :
    memRead m a k / 256 ^ o % 256 ^ n = memRead m (a + o) n := by
  obtain ⟨r, rfl⟩ := Nat.exists_eq_add_of_le h
  rw [Nat.add_assoc, memRead_add, Nat.add_mul_div_left _ _ (by positivity), Nat.div_eq_of_lt (memRead_lt m a o), Nat.zero_add,
    memRead_add, Nat.add_mul_mod_self_left, Nat.mod_eq_of_lt (memRead_lt m _ n)]

/-- Codes of whole bytes in a span read are the spans of their bytes (R53). -/
theorem codesOf_memRead (m : List Host.Cell) (a : Nat) {k c n : Nat} (hc : c < n)
    (h : c < (codesOf (8 * k) (memRead m a (n * k)) n).length) :
    (codesOf (8 * k) (memRead m a (n * k)) n)[c] = memRead m (a + c * k) k := by
  have hbits : ∀ j, 2 ^ (8 * j) = 256 ^ j := fun j => by rw [pow_mul]; norm_num
  have hroom : c * k + k ≤ n * k := by rw [← Nat.succ_mul]; exact Nat.mul_le_mul_right k hc
  simp only [codesOf, List.getElem_map, List.getElem_range, lowBits]
  rw [Nat.mul_assoc, hbits, hbits, Nat.mul_comm k c, memRead_slice m a hroom]

theorem bits_eq_bytes {f : Fmt} (h : 8 ≤ f.bits) : f.bits = 8 * (f.bits / 8) := by
  revert h; cases f <;> decide

/-- The read of a column of B that has no block scale (R158). -/
def columnRead (p : Prod) (s : State) (k n j : Nat) : EngRead :=
  let a := bstoreBase s.boot.device.toNat k + (p.shape.col0 + j) * 32768 + 256 * p.shape.slot + 64 * p.b.bits / 8 * n
  ⟨a, 64 * p.b.bits / 8, a, false⟩

theorem colReads_column {p : Prod} (hq4 : p.b ≠ .q4) {j : Nat} (hj : j < p.shape.cols) (s : State) (k n : Nat) :
    (p.colReads s k n)[j]? = some [columnRead p s k n j] := by
  simp only [Prod.colReads, List.getElem?_map, List.getElem?_range hj, Option.map_some, if_neg hq4]
  rfl

/-- A column's codes, byte by byte in its slice of the B-store (R158). -/
theorem columnRead_codes {p : Prod} {s : State} {k n j c : Nat} (hbits : 8 ≤ p.b.bits) (hc : c < 64) {codes : List Nat}
    (hcodes : codesOf p.b.bits (memRead s.mem (columnRead p s k n j).pa (columnRead p s k n j).n) 64 = codes)
    (hlen : c < codes.length) :
    codes[c] = memRead s.mem (bstoreBase s.boot.device.toNat k + (p.shape.col0 + j) * 32768 + 256 * p.shape.slot
      + (64 * n + c) * (p.b.bits / 8)) (p.b.bits / 8) := by
  have hw := bits_eq_bytes hbits
  generalize p.b.bits / 8 = w at hw ⊢
  have hbytes : 64 * (8 * w) / 8 = 64 * w := by omega
  subst hcodes
  simp only [columnRead, hw, hbytes] at hlen ⊢
  rw [codesOf_memRead s.mem _ hc hlen]
  exact congrArg (memRead s.mem · w) (by ring)

/-! ### The arithmetic of a step (O31) -/

theorem zipWith_eq_map_range {α : Type} (g : Nat → Nat → α) {x y : List Nat} {n : Nat} (hx : x.length = n) (hy : y.length = n) :
    List.zipWith g x y = (List.range n).map fun j => g (x.getD j 0) (y.getD j 0) := by
  refine List.ext_getElem (by simp [hx, hy]) fun j hj _ => ?_
  have hj' : j < n := by simpa [hx, hy] using hj
  simp [hx, hy, hj']

theorem products_eq (f b : Fmt) (odd : Bool) {x y : List Nat} {n : Nat} (hx : x.length = n) (hy : y.length = n) :
    products f b false odd x y = (List.range n).map fun j => (valueOf f (x.getD j 0)).mul (valueOf b (y.getD j 0)) := by
  rw [← zipWith_eq_map_range (fun c d => (valueOf f c).mul (valueOf b d)) hx hy]
  simp only [products, Bool.false_eq_true, if_false, List.zipWith_map]

theorem drop_take_map_range {α : Type} (g : Nat → α) {o k n : Nat} (h : o + k ≤ n) :
    (((List.range n).map g).drop o).take k = (List.range k).map fun j => g (o + j) := by
  refine List.ext_getElem (by simp; omega) fun j _ _ => ?_
  simp

/-- The four groups of sixteen products of a step (R63, R64). -/
theorem groupedAdd_eq (old : Nat) (g : Nat → FVal) : groupedAdd old ((List.range 64).map g) =
    (List.range 4).foldl (fun acc q => faddCode .f32 .rne false acc
      ((sumExact ((List.range 16).map fun j => g (16 * q + j))).toCode .f32 .rne false)) old := by
  refine List.foldl_ext _ _ _ fun acc q hq => ?_
  have hq := List.mem_range.mp hq
  rw [drop_take_map_range g (by omega)]

/-- The exact accumulator clamps the sum and says whether it did (R57, R65). -/
theorem exactAdd_eq (old : Nat) (sum : Int) : exactAdd old sum =
    (((max (-2 ^ 95) (min (2 ^ 95 - 1) (signedBits 96 old + sum))) % 2 ^ 96).toNat,
      decide (signedBits 96 old + sum < -2 ^ 95 ∨ 2 ^ 95 - 1 < signedBits 96 old + sum)) := by
  unfold exactAdd
  generalize signedBits 96 old + sum = v
  by_cases hlow : v < -2 ^ 95
  · have hclamp : max (-2 ^ 95) (min (2 ^ 95 - 1) v) = -2 ^ 95 := by omega
    simp only [hlow, if_true, hclamp, true_or, decide_true]
    rfl
  · by_cases hhigh : 2 ^ 95 ≤ v
    · have hclamp : max (-2 ^ 95) (min (2 ^ 95 - 1) v) = 2 ^ 95 - 1 := by omega
      have hlost : (2 : Int) ^ 95 - 1 < v := by omega
      simp only [hlow, hhigh, hclamp, hlost, if_true, if_false, or_true, decide_true]
      rfl
    · have hclamp : max (-2 ^ 95) (min (2 ^ 95 - 1) v) = v := by omega
      have hlost : ¬(2 : Int) ^ 95 - 1 < v := by omega
      simp only [hlow, hhigh, hclamp, hlost, if_false, or_self, decide_false]
      rfl

/-- The sum of a step's contributions to an exact element, in units of 2^-40 (R65, R66). -/
theorem exactSum_eq (f b : Fmt) (odd : Bool) {x y : List Nat} (u : Nat) (hx : x.length = 64) (hy : y.length = 64) :
    exactSum f b false odd x (y, u) = ((List.range 64).map fun j =>
      if b = .q4 then
        let l := q4Level (y.getD j 0) * (u : Int)
        unitsOf ((valueOf f (x.getD j 0)).mul (.fin (decide (l < 0)) l.natAbs (-16)))
      else unitsOf ((valueOf f (x.getD j 0)).mul (valueOf b (y.getD j 0)))).sum := by
  unfold exactSum
  by_cases hb : b = .q4
  · simp only [hb, if_true]
    rw [zipWith_eq_map_range _ hx hy]
  · simp only [hb, if_false]
    rw [products_eq f b odd hx hy, List.map_map]
    rfl

/-- Settles O31: a step goes through the crossings of its rows and columns, which are different elements of the window; a column's
codes are bytes of one read; and an element's arithmetic is that of its 64 products. -/
theorem productSteps : Obligations.ProductSteps := by
  unfold Obligations.ProductSteps
  refine ⟨fun p x rows cols s t k n => ⟨?_, ?_⟩, fun p x y u old odd => ?_⟩
  · intro hrows hcols hrow0 hcol0
    obtain ⟨htag, hother, hplace⟩ := apply_spec p x rows (cols := cols) (by omega)
    refine ⟨htag, fun i j hi hj => ?_, fun e he => hother e fun a ha hea => ?_⟩
    · have hmem : ((rows[i], i), (cols[j], j)) ∈ crossings rows cols := mem_crossings.mpr ⟨by simp [hi], by simp [hj]⟩
      have hget := hplace _ hmem
      simp only [crossPlace, crossElem, Nat.add_assoc] at hget
      exact hget
    · obtain ⟨hr, hc⟩ := mem_crossings.mp ha
      obtain ⟨hi, -⟩ := List.getElem?_eq_some_iff.mp hr
      obtain ⟨hj, -⟩ := List.getElem?_eq_some_iff.mp hc
      simp only [Prod.inWindow, decide_eq_false_iff_not] at he
      rw [hea, crossPlace] at he
      omega
  · intro hquiet hq4 hbits j hj
    have hmake : (columnRead p s k n j).make s t.ctx =
        ((memRead s.mem (columnRead p s k n j).pa (columnRead p s k n j).n, 0), s) := by
      simp only [EngRead.make, readAt_quiet hquiet]
      rfl
    exact ⟨_, _, _, colReads_column hq4 hj s k n, hmake, rfl, by simp [codesOf],
      fun c hc => columnRead_codes hbits (by simpa [codesOf] using hc) rfl hc⟩
  · intro a b hx hy hcomplex
    refine ⟨fun hf _ => ?_, fun hbf16 hf16 => ?_⟩
    · have hacc : accTag p.f = .f32 := if_pos hf
      simp only [stepElem, hacc, if_true, hcomplex, products_eq p.f p.b odd hx hy, groupedAdd_eq]
      rfl
    · have hacc : accTag p.f = .x96 := if_neg (by simp [hbf16, hf16])
      simp only [stepElem, hacc, reduceCtorEq, if_false, hcomplex, exactSum_eq p.f p.b odd u hx hy, exactAdd_eq]
      rfl

end Sys2Proof.Proofs
end

section
namespace Sys2Proof.Proofs
open Sys2Proof Sys2Proof.Machine Sys2Proof.Safety Sys2Proof.Laws

/-! ### Where branches, loops and jumps go (O6) -/

section
variable {s : State} {t t1 t' : Strand} {x y : Src} {off : Int} {v : BmVar} {m : Fin 8}

/-- A branch leaves a strand at its target or after its instruction. -/
theorem branch_eq (s : State) (t : Strand) (taken : Bool) (off : Int) :
    s.branch t taken off = { s with st := { t with pc := if taken then s.st.pc + BitVec.ofInt 40 (2 * off) else s.st.npc } } := by
  cases taken <;> rfl

theorem exec_bc {c : BCond} {a b : Opnd} (hfree : hazard (.bc c a b off) s = false) (ha : opMisuse a = none) (hb : opMisuse b = none)
    (hx : takeOp s s.st a = .ok (x, t1)) (hy : takeOp s t1 b = .ok (y, t)) (px : x.bad = false) (py : y.bad = false) :
    exec (.bc c a b off) s = .next (s.branch t (bcHolds c x.val y.val) off) := by
  simp [exec, execBc, noHazard_ok hfree, noMisuse_ok ha, noMisuse_ok hb, hx, hy, poisonCheck_ok px, poisonCheck_ok py, bind, Except.bind]

theorem exec_bm (hfree : hazard (.bm v m off) s = false) :
    exec (.bm v m off) s = .next (s.branch s.st (bmHolds v (s.st.m.get m) s.st.vl) off) := by
  simp [exec, execBm, noHazard_ok hfree, bind, Except.bind]

theorem exec_loop {n : Fin 32} (hfree : hazard (.loop (.g n) off) s = false) (hclean : s.st.gpois.getLsbD n.val = false) :
    exec (.loop (.g n) off) s = .next (s.branch (s.st.setG n (s.st.g.get n - 1) .raw) (s.st.g.get n - 1 != 0) off) := by
  have hclean' : poisonCheck ⟨s.st.g.get n, s.st.gtag.get n, n.val, s.st.gpois.getLsbD n.val⟩ = .ok () := poisonCheck_ok hclean
  simp only [exec, execLoop, noHazard_ok hfree, noMisuse_ok (m := counterMisuse (.g n)) rfl, takeReg, hclean', putReg, bind,
    Except.bind, settle_ok]

theorem exec_jal {d : SReg} (hfree : hazard (.jal d off) s = false) (hlegal : misuseWrite d = none)
    (hroom : hasRoom s.st d = .ok ()) (hput : putReg s.st d (s.st.npc.zeroExtend 64) .raw = .ok t') :
    exec (.jal d off) s = .next (s.branch t' true off) := by
  simp [exec, execJal, noHazard_ok hfree, noMisuse_ok hlegal, hroom, hput, bind, Except.bind]

/-- `jr` once its register is read: the check of the address comes before the poison check (R317). -/
theorem exec_jr {b : SReg} (hfree : hazard (.jr b) s = false) (hlegal : misuseRead b = none) (hread : takeReg s s.st b = .ok (x, t)) :
    exec (.jr b) s = .next (s.settle (if badCode x.val then .error (.trap 0x0304 x.val.toNat) else do
      poisonCheck x
      .ok (s.goTo t (x.val.truncate 40)))) := by
  simp [exec, execJr, noHazard_ok hfree, noMisuse_ok hlegal, hread, bind, Except.bind]

/-- No code address: odd, or 2^40 and above (R118). -/
theorem badCode_iff (x : Word) : badCode x = true ↔ x.getLsbD 0 = true ∨ 2 ^ 40 ≤ x.toNat := by
  simp [badCode, bitAt_eq_testBit, BitVec.getLsbD]

theorem maskBelow_testBit (m : BitVec 512) (vl i : Nat) : (maskBelow m vl).testBit i = (decide (i < vl) && m.getLsbD i) :=
  lowBits_testBit ..

theorem maskBelow_eq_zero_iff (m : BitVec 512) (vl : Nat) : maskBelow m vl = 0 ↔ ¬∃ i, i < vl ∧ m.getLsbD i = true := by
  constructor
  · rintro h ⟨i, hi, hm⟩
    have hbit := maskBelow_testBit m vl i
    simp [h, hi, hm] at hbit
  · intro h
    refine Nat.eq_of_testBit_eq fun i => ?_
    rw [maskBelow_testBit, Nat.zero_testBit, Bool.and_eq_false_iff, decide_eq_false_iff_not]
    by_cases hi : i < vl
    · exact .inr (Bool.eq_false_iff.mpr fun hm => h ⟨i, hi, hm⟩)
    · exact .inl hi

theorem maskBelow_eq_ones_iff (m : BitVec 512) (vl : Nat) : maskBelow m vl = 2 ^ vl - 1 ↔ ∀ i, i < vl → m.getLsbD i = true := by
  constructor
  · intro h i hi
    have hbit := maskBelow_testBit m vl i
    simpa [h, hi, Nat.testBit_two_pow_sub_one] using hbit.symm
  · intro h
    refine Nat.eq_of_testBit_eq fun i => ?_
    rw [maskBelow_testBit, Nat.testBit_two_pow_sub_one]
    by_cases hi : i < vl <;> simp [hi, h]

/-- `bm` goes to its target or past itself, as its condition on the mask holds or not. -/
theorem exec_bm_goes {p : Prop} (hfree : hazard (.bm v m off) s = false)
    (hholds : bmHolds v (s.st.m.get m) s.st.vl = true ↔ p) :
    (p → exec (.bm v m off) s = .next { s with st := { s.st with pc := s.st.pc + BitVec.ofInt 40 (2 * off) } }) ∧
    (¬p → exec (.bm v m off) s = .next { s with st := { s.st with pc := s.st.npc } }) := by
  rw [exec_bm hfree, branch_eq]
  exact ⟨fun h => by rw [if_pos (hholds.mpr h)], fun h => by rw [if_neg (mt hholds.mp h)]⟩

end

/-- Settles O6: each transfer is a `State.branch` or a `State.goTo` once its checks pass; `bm` by what its mask condition says
bit by bit. -/
theorem branchesAndJumps : Obligations.BranchesAndJumps := by
  unfold Obligations.BranchesAndJumps
  refine ⟨fun s t1 t c v m a b x y off => ⟨rfl, fun hfree ha hb hx hy px py => ?_, fun hfree => ?_⟩,
    fun s t t' n d b x off => ⟨fun hfree hclean => ?_, fun hfree hlegal hroom hput => ?_, fun hfree hlegal hread => ⟨?_, ?_⟩⟩⟩
  · rw [exec_bc hfree ha hb hx hy px py, branch_eq]
    cases c <;> simp [bcHolds, BitVec.slt, BitVec.sle, BitVec.ult, BitVec.ule]
  · have hnone := maskBelow_eq_zero_iff (s.st.m.get m) s.st.vl
    cases v with
    | any => exact exec_bm_goes hfree (by simp [bmHolds, hnone])
    | none => exact exec_bm_goes hfree (by simp [bmHolds, hnone])
    | all => exact exec_bm_goes hfree (by simp [bmHolds, maskBelow_eq_ones_iff])
  · rw [exec_loop hfree hclean, branch_eq]
    by_cases h : s.st.g.get n = 1
    · simp [h]
    · have hmore : s.st.g.get n - 1 ≠ 0 := by bv_omega
      rw [if_pos (bne_iff_ne.mpr hmore), if_neg h]
  · rw [exec_jal hfree hlegal hroom hput, branch_eq]; rfl
  · intro heven hlow hclean
    have hgood : ¬badCode x.val = true := by
      rw [badCode_iff, not_or]
      exact ⟨Bool.eq_false_iff.mp heven, by omega⟩
    rw [exec_jr hfree hlegal hread, if_neg hgood, poisonCheck_ok hclean]; rfl
  · intro hbad hturn
    rw [exec_jr hfree hlegal hread, if_pos ((badCode_iff _).mpr hbad)]
    simp [State.stop, hturn]

end Sys2Proof.Proofs
end

section
namespace Sys2Proof.Proofs
open Sys2Proof Sys2Proof.Machine Sys2Proof.Safety Sys2Proof.Laws

/-! ### Accesses at their homes (O45) -/

section
variable {s : State} {n : Nat} {x : Access} {t t' : Strand} {f : Fmt} {d : SReg} {base : Base} {e : Int}

theorem access_id {p : Access → Bool} (hfind : s.accs.find? (fun x => x.id == n && p x) = some x) : x.id = n := by
  have hp := List.find?_some hfind
  simp only [Bool.and_eq_true, beq_iff_eq] at hp
  exact hp.1

/-- A load or a store that the home performs or refuses, by what the operation at the home answers. -/
theorem accessPerform_performs (hfind : s.accs.find? (fun x => x.id == n) = some x) (hs : s.strand? x.uid = some t)
    (hcan : s.canPerform x t = true) (hins : x.ins = .ld f d base e ∨ x.ins = .st f d base e) :
    (∀ p, homeOp s (x.req s t) = .ok p → exec (.accessPerform n) s = .next (p.s.performed n p.res p.rstat p.poison none)) ∧
    (∀ cause addr, homeOp s (x.req s t) = .error (.trap cause addr) →
      exec (.accessPerform n) s = .next (s.performed n 0 none false (some (cause, addr)))) := by
  change (∀ p, _ → execAccessPerform n s = _) ∧ (∀ cause addr, _ → execAccessPerform n s = _)
  refine ⟨fun p hhome => ?_, fun cause addr hhome => ?_⟩
  · simp only [execAccessPerform, hfind, hs, hcan, if_true, hhome]
    rcases hins with hins | hins <;> rw [hins] <;> rfl
  · simp only [execAccessPerform, hfind, hs, hcan, if_true, hhome]

/-- An access that a reply or a fault waits for stays, marked as done. -/
theorem performed_waits {res : Word} {bad : Bool} {fault : Option (Nat × Nat)}
    (hwaits : ∀ y ∈ s.accs, y.id = n → fault.isSome = true ∨ hasReply y.ins = true) :
    s.performed n res none bad fault = { s with
      accs := s.accs.map fun y => if y.id = n then { y with
        done := true, doneAt := s.nextId, res := res, rstat := none, poison := bad, fault := fault } else y
      nextId := s.nextId + 1 } := by
  simp only [State.performed, Option.map_none]
  congr 1
  refine List.filter_eq_self.mpr fun z hz => ?_
  obtain ⟨y, hy, rfl⟩ := List.mem_map.mp hz
  by_cases hid : y.id = n
  · rcases hwaits y hy hid with hsome | hreply
    · cases fault with
      | none => cases hsome
      | some c => simp [hid]
    · simp [hid, hreply]
  · simp [hid]

/-- A store is gone once its home has performed it. -/
theorem performed_gone {res : Word} {bad : Bool} (hnone : ∀ y ∈ s.accs, y.id = n → hasReply y.ins = false) :
    s.performed n res none bad none = { s with accs := s.accs.filter fun y => y.id != n, nextId := s.nextId + 1 } := by
  simp only [State.performed, Option.map_none, List.filter_map]
  congr 1
  have hkeep : ∀ y ∈ s.accs, ((fun y : Access => !(y.id == n && y.fault.isNone && !hasReply y.ins)) ∘ fun y =>
      if y.id = n then { y with done := true, doneAt := s.nextId, res := res, rstat := none, poison := bad, fault := none } else y) y
      = (y.id != n) := fun y hy => by
    by_cases hid : y.id = n
    · simp [hid, hnone y hy hid]
    · simp [hid, beq_eq_false_iff_ne.mpr hid, bne]
  rw [List.filter_congr hkeep]
  refine (List.map_congr_left fun y hy => ?_).trans (List.map_id _)
  have hid := (List.mem_filter.mp hy).2
  simp only [bne_iff_ne] at hid
  simp [hid]

theorem homeOp_ld (hquiet : Quiet s) (hins : x.ins = .ld f d base e) :
    homeOp s (x.req s t) = .ok ⟨s, BitVec.ofNat 64 (f.extend (memRead s.mem x.pa f.size)), none, false⟩ := by
  simp only [homeOp, Access.req, hins, loadAt, readAt_quiet hquiet]

/-- What a store does at its home, by the evolving words that it would overload (R239). -/
theorem homeOp_st (hins : x.ins = .st f d base e) :
    (∀ a, s.overAt x.pa f.size (x.d.toNat % 2 ^ f.bits) x.va = some a →
      homeOp s (x.req s t) = .error (.trap 0x0605 (a % 2 ^ 64))) ∧
    (s.overAt x.pa f.size (x.d.toNat % 2 ^ f.bits) x.va = none → x.watched = false → (s.part t.part).watches x.pa f.size = false →
      Quiet s → homeOp s (x.req s t) = .ok ⟨{ s with mem := memWrite s.mem x.pa f.size (x.d.toNat % 2 ^ f.bits) }, 0, none, false⟩) := by
  refine ⟨fun a hover => ?_, fun hover hwatched hwatches hquiet => ?_⟩
  · simp only [homeOp, Access.req, hins, storeAt, lowBits, State.writeOk, hover]
    rfl
  · have hsize : accessSize (.st f d base e) = f.size := rfl
    simp [homeOp, Access.req, hins, storeAt, lowBits, State.writeOk, hover, hwatched, hsize, hwatches, State.write,
      writeAt_quiet hquiet, bind, Except.bind]

/-! ### Replies (O45) -/

/-- The reply of a load writes its destination. -/
theorem accessReply_ld (hfind : s.accs.find? (fun x => x.id == n && x.done) = some x) (hs : s.strand? x.uid = some t)
    (hfree : s.replyHeld x = false) (hfault : x.fault = none) (hclean : x.poison = false) (hstat : x.rstat = none)
    (hins : x.ins = .ld f d base e) (hput : putReg t d x.res f = .ok t') :
    exec (.accessReply n) s = .next { (s.modStrand x.uid fun _ => t').replyAfter x with
      accs := ((s.modStrand x.uid fun _ => t').replyAfter x).accs.filter fun y => y.id != n } := by
  have hreply : replyTo t x.ins x.res none false = .ok t' := by simp [replyTo, hins, accessDst, accessFmt, hput, bind, Except.bind]
  have hscalar : isVectorMem x.ins = false := by rw [hins]; rfl
  change execAccessReply n s = _
  simp only [execAccessReply, hfind, hs, hfree, hfault, hscalar, hclean, hstat, Option.map_none, hreply, Bool.false_eq_true, if_false]
  rw [hins]

/-- The reply of a fault that the home found: dropped for a strand that has stopped, taken at its boundary, or held (R318). -/
theorem accessReply_fault (hfind : s.accs.find? (fun x => x.id == n && x.done) = some x) (hs : s.strand? x.uid = some t)
    (hfree : s.replyHeld x = false) {cause addr : Nat} (hfault : x.fault = some (cause, addr)) :
    exec (.accessReply n) s = .next (if t.status = .stopped then { s with accs := s.accs.filter fun y => y.id != n }
      else if t.takesLate x then s.lateFault x cause addr else s) := by
  change execAccessReply n s = _
  simp only [execAccessReply, hfind, hs, hfree, hfault, Bool.false_eq_true, if_false]

theorem takesLate_runs (h : t.takesLate x = true) : t.status ≠ .stopped := by
  intro hstopped
  simp [Strand.takesLate, Strand.inSlot, hstopped] at h

end

/-! ### Walks and misses (O45) -/

section
variable {s s1 : State} {n : Nat} {w : Walk} {leaf : TlbEntry}

/-- A field that no step of a pass over a list changes is as before the pass. -/
theorem foldl_keeps {α β : Type} (field : State → β) {step : State → α → State} (h : ∀ s a, field (step s a) = field s)
    (l : List α) (s : State) : field (l.foldl step s) = field s :=
  List.foldlRecOn (motive := fun s1 => field s1 = field s) l step rfl fun s1 hs1 a _ => (h s1 a).trans hs1

/-- A cell of a list is changed once by a pass over the list that visits no cell twice. -/
theorem cell_foldl_modCell {l : List Nat} (hnodup : l.Nodup) (f : Cell → Cell) (s : State) (c : Nat) :
    (l.foldl (fun s c => s.modCell c f) s).cell c = if c ∈ l then f (s.cell c) else s.cell c := by
  induction l generalizing s with
  | nil => simp
  | cons k l ih =>
    obtain ⟨hk, hl⟩ := List.nodup_cons.mp hnodup
    rw [List.foldl_cons, ih hl]
    by_cases hc : c = k
    · subst hc; simp [hk]
    · simp [hc, cell_modCell_ne]

/-- What the cells and clusters of a fill do to the rest of the machine: nothing. -/
theorem fillTlbs_keeps {β : Type} (field : State → β) (hcluster : ∀ s k f, field (State.modCluster s k f) = field s)
    (hcell : ∀ s c f, field (State.modCell s c f) = field s) (s : State) (die : Nat) (cells : List Nat) (e : TlbEntry) :
    field (s.fillTlbs die cells e) = field (s.modDie die fun d => { d with tlb := (e :: d.tlb).take 16384 }) :=
  (foldl_keeps field (fun _ _ => hcell ..) ..).trans (foldl_keeps field (fun _ _ => hcluster ..) ..)

/-- A leaf is in the die's service and in the TLBs of the cells that it serves; memory and walks stay (R334). -/
theorem fillTlbs_fills (s : State) (die : Nat) (cells : List Nat) (e : TlbEntry) :
    (s.fillTlbs die cells e).mem = s.mem ∧ (s.fillTlbs die cells e).walks = s.walks ∧ e ∈ ((s.fillTlbs die cells e).die die).tlb ∧
    ∀ c ∈ cells, e ∈ ((s.fillTlbs die cells e).cell c).tlb := by
  refine ⟨fillTlbs_keeps State.mem modCluster_mem modCell_mem .., fillTlbs_keeps State.walks modCluster_walks modCell_walks .., ?_,
    fun c hc => ?_⟩
  · rw [fillTlbs_keeps (fun s => s.die die) (fun _ _ _ => rfl) (fun _ _ _ => rfl), die_modDie]
    simp
  · simp only [State.fillTlbs]
    rw [cell_foldl_modCell (List.nodup_dedup cells), if_pos (List.mem_dedup.mpr hc)]
    simp

theorem foldl_modStrand_frame (g : Strand → Strand) (l : List Strand) (s : State) :
    ∃ t ps, l.foldl (fun s u => s.modStrand u.uid g) s = { s with st := t, parked := ps } := by
  induction l generalizing s with
  | nil => exact ⟨_, _, rfl⟩
  | cons u l ih => exact ih (s.modStrand u.uid g)

/-- What a walk that ends frees: strands and commands go on, and the walk is gone. -/
theorem releaseWalk_frame (s : State) (id : Nat) :
    ∃ t ps cs, s.releaseWalk id = { s with st := t, parked := ps, cmds := cs, walks := s.walks.filter fun w => w.id != id } := by
  obtain ⟨t, ps, h⟩ := foldl_modStrand_frame Strand.readied (s.stalledOn id) s
  simp only [State.releaseWalk, h]
  exact ⟨_, _, _, rfl⟩

/-- A walk on one of the walkers of its die ends with a miss, or with a leaf that serves what stalls on it (R334). -/
theorem translationWalk_ends (hfind : s.walks.find? (fun w => w.id == n && !w.miss) = some w)
    (hon : (s.walking w.die).any (fun x => x.id == n) = true) :
    (s.walk w.asid w.va = (s1, none) → exec (.translationWalk n) s =
      .next { s1 with walks := s1.walks.map fun x => if x.id = n then { x with miss := true } else x }) ∧
    (s.walk w.asid w.va = (s1, some leaf) → ∃ cells, (w.eng = false → w.cell ∈ cells) ∧
      exec (.translationWalk n) s = .next ((s1.fillTlbs w.die cells leaf).releaseWalk n)) := by
  change (_ → execTranslationWalk n s = _) ∧ (_ → ∃ cells, _ ∧ execTranslationWalk n s = _)
  refine ⟨fun hwalk => ?_, fun hwalk => ?_⟩
  · simp only [execTranslationWalk, hfind, hon, if_true, hwalk]
  · simp only [execTranslationWalk, hfind, hon, if_true, hwalk]
    exact ⟨_, fun heng => by simp [heng], rfl⟩

/-- A miss that may be posted: its record's words, its sequence number, and vector 1 (R321). -/
theorem translationMiss_posts (hfind : s.walks.find? (fun w => w.id == n) = some w) (hcan : s.canPost w = true) (hquiet : Quiet s) :
    exec (.translationMiss n) s = .next ((State.modPart { s with
      mem := memPutWords s.mem (s.recordAddr w.part (s.part w.part).tfSeq) (w.words (s.part w.part).tfSeq)
      walks := s.walks.map fun x => if x.id = n then { x with record := some (s.part w.part).tfSeq, ans := none } else x } w.part
      fun x => { x with tfSeq := (s.part w.part).tfSeq + 1 }).raise w.part 1) := by
  change execTranslationMiss n s = _
  simp only [execTranslationMiss, hfind, hcan, if_true, writeWords_quiet hquiet]

end

/-! ### Answers to records (O45) -/

section
variable {s : State} {p rec : Nat} {w : Walk}

/-- The code that an answer writes to word 3 of its record (R322). -/
def answerCode : MissAnswer → Nat
  | .retry => 1
  | .deny => 3

/-- Memory with an answer written to word 3 of a record. -/
def putAnswer (s : State) (p rec : Nat) (ans : MissAnswer) : State :=
  { s with mem := memWrite s.mem (s.recordAddr p rec + 24) 8 (answerCode ans) }

/-- An answer to a pending record acts on its walk: the first answer that the record got counts (R322). -/
theorem faultAnswer_acts {put : State} {ans : MissAnswer} (hput : putAnswer s p rec ans = put) (hrec : s.recordWalk p rec = some w)
    (hquiet : Quiet s) :
    (w.ans.getD ans = .retry → exec (.translationFaultAnswer p rec ans) s = .next (put.retryWalk w)) ∧
    (w.ans.getD ans = .deny → exec (.translationFaultAnswer p rec ans) s =
      .next (if put.denyWaits w.id then put.latchAnswers else put.denyWalk w)) := by
  have hwrite : s.writeWords (s.recordAddr p rec + 24) [BitVec.ofNat 64 (answerCode ans)] = put := by
    rw [writeWords_quiet hquiet, ← hput]
    cases ans <;> rfl
  subst hwrite
  change (_ → execTranslationFaultAnswer p rec ans s = _) ∧ (_ → execTranslationFaultAnswer p rec ans s = _)
  refine ⟨fun hans => ?_, fun hans => ?_⟩ <;>
  · simp only [execTranslationFaultAnswer, hrec, hans]
    cases ans <;> rfl

/-- With no access stalled on a walk its denial answers none. -/
theorem denyAccesses_none {id : Nat} (h : ∀ x ∈ s.accs, x.walk.map (·.1) ≠ some id) : s.denyAccesses id = s := by
  refine List.foldlRecOn (motive := (· = s)) s.accs _ rfl fun s1 hs1 x hx => ?_
  subst hs1
  have hx := h x hx
  cases hw : x.walk with
  | none => rfl
  | some k =>
    rw [hw] at hx
    exact if_neg fun hid => hx (congrArg some hid)

/-- The strand in focus, stalled on a denied walk at its blocked instruction, takes 0x0302 (R322). -/
theorem deny_focus {id va : Nat} (hstall : s.st.stall id = some (none, va)) (hrisk : s.risky = false) :
    s.deny s.st.uid id = State.takeFault { s with st := { s.st with status := .ready } } 0x0302 s.st.pc (BitVec.ofNat 64 va) := by
  simp only [State.deny, focus_self, hstall, hrisk, Bool.false_eq_true, if_false]

theorem fatal_st (s : State) (p launch cell slot uid cause : Nat) (pc : BitVec 40) (addr : Word) :
    (s.fatal p launch cell slot uid cause pc addr).st = s.st := by
  obtain ⟨ps, hframe⟩ := fatal_frame s p launch cell slot uid cause pc addr
  rw [hframe]

/-- Nothing but the strand in focus matters to what a fault makes of it. -/
theorem takeFault_st_congr {s s' : State} (h : s'.st = s.st) (cause : Nat) (pc : BitVec 40) (addr : Word) :
    (s'.takeFault cause pc addr).st = (s.takeFault cause pc addr).st := by
  simp only [State.takeFault, h]
  split
  · simp only [fatal_st]
  · rfl

section
variable {va : Nat} (halone : s.strands.filter (fun t => (t.stall w.id).isSome) = [s.st]) (hstall : s.st.stall w.id = some (none, va))
  (haccs : ∀ x ∈ s.accs, x.walk.map (·.1) ≠ some w.id)
include halone hstall haccs

/-- The denial of a walk on which the strand in focus alone stalls, at its blocked instruction, and perhaps engine commands. -/
theorem denyWalk_focus (htasks : s.taskStalls w = []) (hrisk : s.risky = false) :
    (s.denyWalk w).mem = s.mem ∧ (s.denyWalk w).walks = s.walks.filter (fun x => x.id != w.id) ∧
    (s.denyWalk w).cmds = s.cmds.map (fun c => if c.walk.map (·.1) = some w.id then c.denied else c) ∧
    (s.denyWalk w).st = (State.takeFault { s with st := { s.st with status := .ready } } 0x0302 s.st.pc (BitVec.ofNat 64 va)).st := by
  simp only [State.denyWalk, halone, htasks, denyAccesses_none haccs, List.map_cons, List.map_nil, List.foldl_cons, List.foldl_nil,
    deny_focus hstall hrisk, State.answered, modPart_mem, modPart_walks, modPart_cmds, modPart_st]
  obtain ⟨t, ps, hframe⟩ := takeFault_frame { s with st := { s.st with status := .ready } } 0x0302 s.st.pc (BitVec.ofNat 64 va)
  rw [hframe]
  exact ⟨rfl, rfl, rfl, trivial⟩

/-- A denial that need not wait (R322). -/
theorem faultAnswer_denies {put : State} {ans : MissAnswer} (hput : putAnswer s p rec ans = put)
    (hrec : s.recordWalk p rec = some w) (hquiet : Quiet s) (hans : w.ans.getD ans = .deny) (hwaits : put.denyWaits w.id = false)
    (htasks : put.taskStalls w = []) (hrisk : put.risky = false) :
    ∃ s', exec (.translationFaultAnswer p rec ans) s = .next s' ∧ s'.mem = put.mem ∧
      s'.walks = s.walks.filter (fun x => x.id != w.id) ∧
      s'.cmds = s.cmds.map (fun c => if c.walk.map (·.1) = some w.id then c.denied else c) ∧
      s'.st = (State.takeFault { s with st := { s.st with status := .ready } } 0x0302 s.st.pc (BitVec.ofNat 64 va)).st := by
  refine ⟨put.denyWalk w, ((faultAnswer_acts hput hrec hquiet).2 hans).trans (congrArg _ (if_neg (by simp [hwaits]))), ?_⟩
  subst hput
  obtain ⟨hmem, hwalks, hcmds, hst⟩ := denyWalk_focus (s := putAnswer s p rec ans) halone hstall haccs htasks hrisk
  exact ⟨hmem, hwalks, hcmds, hst.trans (takeFault_st_congr (by rfl) ..)⟩

end

end

/-- A line that leaves a cell's caches takes its mark of a parity error with it. -/
theorem drop_dropFetch_line (c : Cell) (line : Nat) : (c.drop (· == line)).dropFetch (· == line) = { c with
    ldc := Tab.erase c.ldc line, filled := Tab.erase c.filled line, fetch := Tab.erase c.fetch line
    flawed := c.flawed.filter (· != line) } := by
  have hgone : Tab.has (c.ldc.filter fun l => !(l.1 == line)) line = false := by simp [Tab.has]
  have hflawed : ∀ l ∈ c.flawed, ((!(l == line) || Tab.has (c.ldc.filter fun l => !(l.1 == line)) l) &&
      (!(l == line) || Tab.has c.fetch l)) = (l != line) := fun l _ => by
    by_cases hl : l = line
    · subst hl; simp [hgone]
    · simp [beq_eq_false_iff_ne.mpr hl, bne]
  simp only [Cell.dropFetch, Cell.drop, List.filter_filter]
  rw [List.filter_congr hflawed]
  rfl

/-- A line leaves the ldc cache of a cluster, or the caches of a cell (R99, R179). -/
theorem ldcLineEviction_drops (s : State) (cell line : Nat) :
    exec (.ldcLineEviction cell true line) s =
        .next (s.modCluster (clusterOf cell) fun k => { k with
          ldc := Tab.erase k.ldc line, filled := Tab.erase k.filled line, flawed := k.flawed.filter (· != line) }) ∧
      exec (.ldcLineEviction cell false line) s = .next (s.modCell cell fun c => { c with
        ldc := Tab.erase c.ldc line, filled := Tab.erase c.filled line, fetch := Tab.erase c.fetch line
        flawed := c.flawed.filter (· != line) }) := by
  refine ⟨rfl, ?_⟩
  change Host.Outcome.next (s.modCell cell fun c => (c.drop (· == line)).dropFetch (· == line)) = _
  simp only [drop_dropFetch_line]

/-- Settles O45: each event by its lemma above; what is left is what a store or a load is at its home, and what a denial leaves
of memory, walks, commands and the strand. -/
theorem accessEvents : Obligations.AccessEvents := by
  unfold Obligations.AccessEvents
  intro s n x t t' f d base e w s1 leaf p rec
  refine ⟨fun hfind honly hs hcan hquiet => ⟨fun hins => ?_, fun hins hover hwatched hwatches => ?_, fun a hins hover => ?_⟩,
    fun hfind hs hfree => ⟨fun hfault hclean hstat hins hput => accessReply_ld hfind hs hfree hfault hclean hstat hins hput,
      fun cause addr hfault huid => ⟨fun hlate => ?_, fun hlate hruns => ?_, fun hstopped => ?_⟩⟩,
    fun hfind hon => ⟨(translationWalk_ends (leaf := leaf) hfind hon).1, fun hwalk => ?_⟩,
    fun hfind hcan hquiet => translationMiss_posts hfind hcan hquiet,
    fun ans hrec hquiet => ⟨fun hans => ?_, fun hans hwaits => ?_, fun va hans hwaits halone hstall htasks haccs hrisk => ?_⟩,
    ldcLineEviction_drops s⟩
  · rw [(accessPerform_performs hfind hs hcan (.inl hins)).1 _ (homeOp_ld hquiet hins)]
    exact congrArg _ (performed_waits fun y hy hid => .inr (by rw [honly y hy hid, hins]; rfl))
  · rw [(accessPerform_performs hfind hs hcan (.inr hins)).1 _ ((homeOp_st hins).2 hover hwatched hwatches hquiet)]
    exact congrArg _ (performed_gone fun y hy hid => by rw [honly y hy hid, hins]; rfl)
  · rw [(accessPerform_performs hfind hs hcan (.inr hins)).2 _ _ ((homeOp_st hins).1 a hover)]
    exact congrArg _ (performed_waits fun _ _ _ => .inl rfl)
  · rw [accessReply_fault hfind hs hfree hfault, if_neg (takesLate_runs hlate), if_pos hlate, State.lateFault, ← huid, focus_self,
      access_id hfind]
  · rw [accessReply_fault hfind hs hfree hfault, if_neg hruns, if_neg (by simp [hlate])]
  · rw [accessReply_fault hfind hs hfree hfault, if_pos hstopped]
  · obtain ⟨cells, hcell, hexec⟩ := (translationWalk_ends hfind hon).2 hwalk
    obtain ⟨hmem, hwalks, hdie, hcells⟩ := fillTlbs_fills s1 w.die cells leaf
    obtain ⟨_, _, _, hrelease⟩ := releaseWalk_frame (s1.fillTlbs w.die cells leaf) n
    refine ⟨_, hexec, ?_⟩
    rw [hrelease]
    exact ⟨hmem, congrArg _ hwalks, hdie, fun heng => hcells _ (hcell heng)⟩
  · exact (faultAnswer_acts (by cases ans <;> rfl) hrec hquiet).1 hans
  · exact ((faultAnswer_acts (by cases ans <;> rfl) hrec hquiet).2 hans).trans (congrArg _ (if_pos hwaits))
  · exact faultAnswer_denies halone hstall haccs (by cases ans <;> rfl) hrec hquiet hans hwaits htasks hrisk

end Sys2Proof.Proofs
end

section
namespace Sys2Proof.Proofs
open Sys2Proof Sys2Proof.Machine Sys2Proof.Safety Sys2Proof.Laws

/-! ### The sequencer's one instruction (O46) -/

section
variable {s s1 : State} {e : VEntry}

/-- The effect of an entry at the sequencer is the effect that it has when it runs at once. -/
theorem wholeEntry_eq {c : VIn} (hin : entryIn s e = .ok c) (hsettled : s.unsettledBefore s.st.uid e.num = false) :
    wholeEntry s e c = (do
      let s1 ← runEntry s e
      .ok (s1.endEntry s.st e (vectorDst e.ins))) := by
  simp [wholeEntry, runEntry, hin, hsettled, bind, Except.bind]

/-- Where the model does not delay accesses, an entry begins by executing whole. -/
theorem beginEntry_eq (hasync : s.async = false) (hsettled : s.unsettledBefore s.st.uid e.num = false) :
    beginEntry s e = (do
      let s1 ← runEntry s e
      .ok (s1.endEntry s.st e (vectorDst e.ins))) := by
  cases hin : entryIn s e with
  | error x => simp [beginEntry, runEntry, hin, bind, Except.bind]
  | ok c =>
    rw [← wholeEntry_eq hin hsettled]
    simp [beginEntry, hin, hasync, bind, Except.bind]

section
variable (hvq : s.st.vq = [e]) (hbody : e.body = false) (hstarted : e.started = false)
include hvq hbody hstarted

theorem sentEntry_single : s.sentEntry = none := by
  simp [State.sentEntry, hvq, hbody, hstarted]

theorem nextEntry_single : s.st.nextEntry = some e := by
  simp [Strand.nextEntry, hvq, hbody, hstarted]

/-- A strand's only entry, when nothing holds it: it executes, or its fault is taken at the boundary before it. -/
theorem execEntry_single (hasync : s.async = false) (hwalk : e.walk = none) (hsettled : s.unsettledBefore s.st.uid e.num = false) :
    (runEntry s e = .ok s1 → s.execEntry = some (s1.endEntry s.st e (vectorDst e.ins))) ∧
    (∀ cause addr, runEntry s e = .error (.trap cause addr) → s.execEntry = some (s.entryFault e cause addr)) := by
  have hturn : s.entryTurn e = true := by simp [State.entryTurn, Strand.vectorSent, hvq, hstarted, hsettled]
  refine ⟨fun hrun => ?_, fun cause addr hrun => ?_⟩ <;>
  · have hbegin := beginEntry_eq (e := e) hasync hsettled
    rw [hrun] at hbegin
    simp [State.execEntry, sentEntry_single hvq hbody hstarted, nextEntry_single hvq hbody hstarted, hwalk, hbegin, hturn, bind,
      Except.bind]

end

/-- The fault of a strand's only entry is taken at the boundary before it (R131). -/
theorem entryFault_single (hvq : s.st.vq = [e]) (hbody : e.body = false) (cause addr : Nat) :
    s.entryFault e cause addr = State.takeFault { s.undoFrom e with
      st := { (s.undoFrom e).st with vq := [], status := .ready } } cause e.pc (BitVec.ofNat 64 addr) := by
  simp [State.entryFault, State.pullBack, hvq, hbody]

/-- The end of a strand's only entry: nothing is left in the sequencer, and nothing before it to be taken back. -/
theorem endEntry_single (hvq : s1.st.vq = [e]) (hbody : e.body = false) (hstepping : s1.st.stepping = false) (hundo : s1.st.undo = none)
    (haccs : s1.accs = []) (old : Strand) (d : Option SReg) :
    s1.endEntry old e d = { s1 with st := { s1.st with vq := [], saves := [] } } := by
  have hretire : (s1.st.retire e).prune = { s1.st with vq := [], saves := [] } := by
    simp [Strand.retire, Strand.prune, hbody, hvq]
  simp only [State.endEntry, hretire, State.followFrom, State.stepDone, hstepping, haccs, hundo]
  obtain ⟨⟩ := s1
  simp_all

/-- With one strand in the machine the sequencer of its cell does what that strand's entries can do. -/
theorem sequencerExecute_alone {s' : State} (hparked : s.parked = []) (hready : s.st.vectorReady = true) (hentry : s.execEntry = some s') :
    exec (.sequencerExecute s.st.cell) s = .next s' := by
  change execSequencerExecute s.st.cell s = _
  simp [execSequencerExecute, State.strands, hparked, hready, focus_self, hentry, State.firstOf]

end

/-! ### The engine's commands (O46) -/

section
variable {s : State} {c : TileCmd} {rest : List TileCmd}

theorem runTileCmd_idle (hvq : s.st.vq = []) (hq : s.st.tileq = c :: rest) :
    s.runTileCmd = State.tileCmd { s with st := { s.st with tileq := rest } } c := by
  simp only [State.runTileCmd, hq, keepUndo_idle hvq]

theorem tileCommandExecute_focus (hlive : s.st.status ≠ .free) (hq : s.st.tileq ≠ []) :
    exec (.tileCommandExecute s.st.uid) s = .next s.runTileCmd := by
  change execTileCommandExecute s.st.uid s = _
  simp only [execTileCommandExecute, strand_self hlive, hq, if_false, focus_self]

end

/-! ### Products, encoding faults, watchdogs (O46) -/

section
variable {s s1 s2 : State} {i : Instr} {len p : Nat}

/-- A step of the product at a strand's PC; `s0` is the strand as it would issue it. -/
theorem macroOpStep_focus {s0 : State} (hready : s.st.status = .ready) (hmay : s.mayIssue s.st = true)
    (hfetch : s.fetchAt s.st s.st.pc.toNat = .ok (.ok i len, s1))
    (hs0 : { s1 with st := { s1.st with npc := s1.st.pc + BitVec.ofNat 40 (2 * len), status := .ready } } = s0)
    (hone : productOne i s0 = some (.ok s2)) : exec (.macroOpStep s.st.uid) s = .next (s2.keepUndo s0 s0.st.vnum) := by
  change execMacroOpStep s.st.uid s = _
  simp only [execMacroOpStep, strand_self (s := s) (by simp [hready]), hready, hmay, true_or, and_self, if_true, focus_self, hfetch, hs0,
    hone]
  rfl

theorem illegalEncoding_stops (s : State) (cause : BitVec 16) (addr : Word) : exec (.illegalEncoding cause addr) s =
    .next (if s.faultTurn then s.takeFault cause.toNat s.st.pc addr else { s with st := { s.st with status := .blocked .issue } }) := by
  change execIllegalEncoding cause addr s = _
  simp only [execIllegalEncoding, State.stop, BitVec.ofNat_toNat, BitVec.setWidth_eq, State.again]

/-- A strand at a boundary has only the tile instruction under way taken back when its watchdog's fault is taken (R303). -/
theorem strandWatchdogExpiry_focus (hdue : s.watchdogDue s.st = true) (hready : s.st.status = .ready) (hvq : s.st.vq = []) :
    exec (.strandWatchdogExpiry s.st.uid) s =
      .next (State.takeFault { s with st := { s.st with top := none, wdue := false } } 0x0901 s.st.pc 0) := by
  change execStrandWatchdogExpiry s.st.uid s = _
  simp only [execStrandWatchdogExpiry, strand_self (s := s) (by simp [hready]), hdue, if_true, focus_self, State.takeBack,
    State.withdraw, hready, State.pullBack, hvq]

/-- A live partition whose watchdog counts and has run out is reset (R304). -/
theorem partitionWatchdogExpiry_resets (hperiod : (s.part p).w 19 ≠ 0) (hleft : (s.part p).wdLeft = 0) (hlive : (s.part p).live = true)
    (hidle : (s.part p).resetting = none) : exec (.partitionWatchdogExpiry p) s =
      .next (s.modPart p fun x => { x with resetting := some 1, fn := { x.fn with pstate := 2 } }) := by
  change execPartitionWatchdogExpiry p s = _
  simp only [execPartitionWatchdogExpiry, State.requestReset, hperiod, hleft, hlive, hidle, ne_eq, not_false_eq_true, and_self, if_true]

end

/-- Settles O46: each event by its lemma above, and the engine's row by `tileCmd_read`. -/
theorem executionEvents : Obligations.ExecutionEvents := by
  unfold Obligations.ExecutionEvents
  intro s s1 s2 p
  refine ⟨fun e hparked hasync hvq hbody hstarted hwalk hready hsettled => ?_, fun c rest hready hvq hq => ?_,
    fun i len hready hmay hfetch hone => ?_, illegalEncoding_stops s, strandWatchdogExpiry_focus, partitionWatchdogExpiry_resets⟩
  · have hvector : s.st.vectorReady = true := by simp [Strand.vectorReady, hready, hvq]
    have hentry := execEntry_single (s1 := s1) hvq hbody hstarted hasync hwalk hsettled
    refine ⟨fun hrun hvq1 hstepping hundo haccs => ?_, fun cause addr hrun => ?_⟩
    · rw [sequencerExecute_alone hparked hvector (hentry.1 hrun), endEntry_single hvq1 hbody hstepping hundo haccs]
    · rw [sequencerExecute_alone hparked hvector (hentry.2 cause addr hrun), entryFault_single hvq hbody]
  · refine ⟨tileCommandExecute_focus (by simp [hready]) (by simp [hq]), fun hne hraw => ?_, fun htag hread hflips hclean => ?_⟩
    · rw [runTileCmd_idle hvq hq]
      exact tileCmd_mismatch hne hraw
    · rw [runTileCmd_idle hvq hq]
      exact congrArg State.st (tileCmd_read (s := { s with st := { s.st with tileq := rest } }) hflips hread htag hclean)
  · exact ⟨macroOpStep_focus hready hmay hfetch rfl hone, fun hvq => keepUndo_idle hvq _⟩

end Sys2Proof.Proofs
end

section
namespace Sys2Proof.Proofs
open Sys2Proof Sys2Proof.Machine Sys2Proof.Safety Sys2Proof.Laws

/-! ### The turns of a step (O55) -/

section
variable {s s' s1 : State} {r : List Turn} {cell slot len : Nat} {i : Instr}

theorem turnStrand_spec {t : Strand} (h : s.turnStrand cell slot = some t) :
    t.cell = cell ∧ t.slot = slot ∧ s.mayIssue t = true := by
  have hp := List.find?_some h
  simp only [Bool.and_eq_true, beq_iff_eq] at hp
  obtain ⟨⟨⟨⟨hcell, hslot⟩, -⟩, hmay⟩, -⟩ := hp
  exact ⟨hcell, hslot, hmay⟩

/-- A strand with no breakpoint to test and no loop to take up issues the instruction at its PC; `s0` is the strand running. -/
theorem runFocus_issues {s0 : State} (hhits : s.bpHits s.st = []) (hloop : s.st.loop.suspended = false ∨ s.st.handler = true)
    (hs0 : { s with st := { s.st with status := .running, bpDone := true } } = s0)
    (hfetch : s0.fetchAt s0.st s0.st.pc.toNat = .ok (.ok i len, s1))
    (hexec : exec i { s1 with st := { s1.st with npc := s1.st.pc + BitVec.ofNat 40 (2 * len) } } = .next s') :
    s.runFocus = .next ((s'.issued false).markIssue s.st.cell s.st.slot) := by
  have hgo : (s.st.loop.suspended && !s.st.handler) = false := by rcases hloop with h | h <;> simp [h]
  have hgo0 : (s0.st.loop.suspended && !s0.st.handler) = false := by rw [← hs0]; exact hgo
  have hissue : s0.issue = .next s' := by
    simp only [State.issue, hgo0, Bool.false_eq_true, if_false, hfetch, hexec]
  simp only [State.runFocus, hhits, if_true, hgo, hs0, hissue, afterIssue]

/-- An issue turn of a strand whose port is free in this clk. -/
theorem issueTurn_focus (hturn : s.turnStrand cell slot = some s.st) (hclk : s.sameClk (clusterOf cell) (s.cell cell).issuedAt = false) :
    s.issueTurn cell slot = s.runFocus := by
  obtain ⟨-, -, hmay⟩ := turnStrand_spec hturn
  simp only [State.issueTurn, hturn, State.freshClk, hclk, Bool.false_eq_true, if_false, focus_self, hmay, if_true]

theorem step_issue (hagenda : s.agenda = .issue cell slot :: r) :
    step s = afterTurn (State.issueTurn { s with agenda := r } cell slot) := by
  simp only [step, State.turn, hagenda]

theorem step_event (hagenda : s.agenda = .event i :: r) : step s = afterTurn (State.event { s with agenda := r } i) := by
  simp only [step, State.turn, hagenda]

theorem event_plain (h : isEvent i = true) (hseq : ∀ c, i ≠ .sequencerExecute c) : s.event i = exec i s := by
  unfold State.event
  split
  · next c => exact absurd rfl (hseq c)
  · rw [if_pos h]

/-- The event of a cell's sequencer, in the next clk where the sequencer has executed in this one (R130). -/
theorem event_sequencer (hclk : s.freshClk (clusterOf cell) (s.cell cell).seqAt = s1)
    (hexec : exec (.sequencerExecute cell) s1 = .next s') : s.event (.sequencerExecute cell) = .next (s'.markSequencer cell) := by
  simp only [State.event, hclk, hexec, afterSequencer]

/-- What the machine does by itself: the event that is due, else the next issue, else time. -/
theorem step_own (hagenda : s.agenda = []) (hrail : s.sampleRail = none) :
    (s.nextEvent = some i → step s = afterTurn (s.event i)) ∧
    (∀ t, s.nextEvent = none → s.nextIssue = some t → step s = afterTurn ((s.focus t.uid).runFocus)) ∧
    (s.nextEvent = none → s.nextIssue = none → step s = .next s.tick.react) := by
  refine ⟨fun hevent => ?_, fun t hevent hissue => ?_, fun hevent hissue => ?_⟩
  · simp only [step, State.turn, hagenda, State.ownTurn, hrail, hevent]
  · simp only [step, State.turn, hagenda, State.ownTurn, hrail, hevent, hissue]
  · simp only [step, State.turn, hagenda, State.ownTurn, hrail, hevent, hissue, afterTurn]

/-- With no waiter of a token and no walk nothing follows a turn (R192, R322). -/
theorem react_idle (hwaiters : ∀ e ∈ s.parts, e.2.tokenWaiters = []) (hwalks : s.walks = []) : s.react = s := by
  have hserve : s.serveAll = s := by
    refine List.foldlRecOn (motive := (· = s)) s.parts _ rfl fun s1 hs1 e he => ?_
    rw [hs1, hwaiters e he]
    rfl
  rw [State.react, hserve, State.latchAnswers, hwalks]
  rfl

end

/-! ### Fetched words (O55) -/

theorem memBytes_getD (m : List Host.Cell) (a n i : Nat) (h : i < n) : (memBytes m a n).getD i 0 = memGet m (a + i) := by
  induction n generalizing a i with
  | zero => omega
  | succ n ih =>
    cases i with
    | zero => rfl
    | succ i =>
      rw [memBytes, List.getD_cons_succ, ih _ _ (by omega)]
      congr 1
      omega

/-- A word of a line read from memory is the two bytes of memory at its address. -/
theorem lineWord_memBytes (m : List Host.Cell) {pa a : Nat} (hline : pa % 64 = a % 64) (heven : a % 2 = 0) :
    lineWord (memBytes m (pa / 64 * 64) 64) (a % 64) = (memGet m pa).toNat + 256 * (memGet m (pa + 1)).toNat := by
  rw [lineWord, memBytes_getD _ _ _ _ (by omega), memBytes_getD _ _ _ _ (by omega)]
  have hpa : pa / 64 * 64 + a % 64 = pa := by omega
  rw [← Nat.add_assoc, hpa]

/-- A word fetched from memory, whose line the fetch path then keeps. -/
theorem fetchWord_memory {s : State} {t : Strand} {a : Nat} {loc : Loc} (hloc : s.locate t a 2 false false true = .ok loc)
    (hhere : s.remote loc.pa = false) (hmiss : Tab.has (s.cell t.cell).fetch (fetchKey t.asid a) = false) (hquiet : Quiet s)
    (hline : loc.pa % 64 = a % 64) (heven : a % 2 = 0) :
    s.fetchWord t a = .ok ((memGet s.mem loc.pa).toNat + 256 * (memGet s.mem (loc.pa + 1)).toNat, s.modCell t.cell fun c => { c with
      fetch := Tab.set c.fetch (fetchKey t.asid a) (memBytes s.mem (loc.pa / 64 * 64) 64) }) := by
  have hdrop : s.dropFetchLine t.ctx t.cell (fetchKey t.asid a) (loc.pa / 64 * 64 % 2 ^ 48) = s := by
    simp [State.dropFetchLine, hmiss]
  simp only [State.fetchWord, hloc, bind, Except.bind, hdrop, hmiss, hhere, readAt_quiet hquiet, Bool.false_eq_true, if_false,
    lineWord_memBytes _ hline heven]

/-- Settles O55: the turn by what the agenda names, and the fetched word by the line that memory holds. -/
theorem stepRunsTheInstruction : Obligations.StepRunsTheInstruction := by
  unfold Obligations.StepRunsTheInstruction
  intro s r cell slot i
  refine ⟨fun hagenda hturn hhits hloop hclk len s1 s' hfetch hexec => ?_, fun hattach => ?_,
    fun resumed => ⟨fun hrun hstep => ?_, fun hrun hstep htop hvq => ?_, fun hwait => ?_⟩,
    fun hagenda hevent hseq => ?_, fun c hagenda s' hexec => ?_, step_own, react_idle,
    fun t a loc hloc hhere hmiss hquiet hline heven => ?_⟩
  · obtain ⟨hcell, hslot, -⟩ := turnStrand_spec hturn
    rw [step_issue hagenda, issueTurn_focus (s := { s with agenda := r }) hturn hclk,
      runFocus_issues (s := { s with agenda := r }) hhits hloop rfl hfetch hexec, hcell, hslot]
    rfl
  · simp [State.bpHits, Part.hits, hattach]
  · simp only [State.issued, hrun, hstep, decide_true, Bool.true_or, if_true]
  · simp [State.issued, hrun, hstep, htop, hvq, State.pullBack]
  · simp only [State.issued, hwait]
  · rw [step_event hagenda, event_plain hevent hseq]
  · rw [step_event hagenda, event_sequencer (s := { s with agenda := r }) rfl hexec]
    rfl
  · exact ⟨_, fetchWord_memory hloc hhere hmiss hquiet hline heven, rfl, rfl⟩

end Sys2Proof.Proofs
end

section
namespace Sys2Proof.Proofs
open Sys2Proof Sys2Proof.Machine Sys2Proof.Safety Sys2Proof.Laws

/-! ### Integer formats as bit vectors (O1) -/

/-- An exact integer wrapped to n bits is its bit vector. -/
theorem ofNat_wrapBits (n : Nat) (r : Int) : BitVec.ofNat n (wrapBits n r) = BitVec.ofInt n r := by
  refine BitVec.eq_of_toNat_eq ?_
  have hwrap : wrapBits n r = (BitVec.ofInt n r).toNat := by simp [wrapBits, BitVec.toNat_ofInt]
  rw [hwrap, BitVec.toNat_ofNat, Nat.mod_eq_of_lt (BitVec.isLt _)]

theorem lowBits_eq_toNat (n x : Nat) : lowBits n x = (BitVec.ofNat n x).toNat := (BitVec.toNat_ofNat x n).symm

/-- Extending a field by R100 is extending its bit vector: by its sign for an s format, by zeros for another. -/
theorem ofNat_extend (f : Fmt) (x : Nat) : BitVec.ofNat 64 (f.extend x) =
    if f.isS then (BitVec.ofNat f.bits x).signExtend 64 else (BitVec.ofNat f.bits x).zeroExtend 64 := by
  unfold Fmt.extend
  split
  · rw [ofNat_wrapBits, signedBits_eq_toInt]; rfl
  · rw [lowBits_eq_toNat, BitVec.ofNat_toNat]

theorem intVal_eq (f : Fmt) (v : Word) : f.intVal v.toNat =
    if f.isS then (v.truncate f.bits).toInt else ((v.truncate f.bits).toNat : Int) := by
  unfold Fmt.intVal
  rw [signedBits_eq_toInt, lowBits_eq_toNat, BitVec.ofNat_toNat]

/-! ### Integer arithmetic and division (O1) -/

section
variable {i : Instr} {s : State} {t : Strand} {f : Fmt} {d : SReg} {a b : Opnd} {x y z : Src} {fa fb fd : Option Fmt} {rd : Bool}

/-- A ready instruction that is an exact integer operation writes its result by R100. -/
theorem writes_of_scalarInt {g : Int → Int → Int} (hexec : exec i s = scalarInt i s f d a b g)
    (ready : ScalarReady i s d false a b (some f) (some f) none x y z t) :
    Writes i s t d (BitVec.ofNat 64 (f.put (g (f.intVal x.val.toNat) (f.intVal y.val.toNat)))) f :=
  writes_of_scalarRun ready hexec rfl

/-- The arithmetic instructions are `scalarInt` of their operations (R105). -/
theorem exec_arithmetic {g : Int → Int → Int} (s : State)
    (h : (i, g) ∈ [(Instr.add f d a b, fun p q => p + q), (.sub f d a b, fun p q => p - q), (.mul f d a b, fun p q => p * q),
      (.mulh f d a b, fun p q => p * q / 2 ^ f.bits), (.mulhn f d a b, fun p q => p * q / 2 ^ f.bits)]) :
    exec i s = scalarInt i s f d a b g := by
  simp only [List.mem_cons, Prod.mk.injEq, List.not_mem_nil, or_false] at h
  rcases h with ⟨rfl, rfl⟩ | ⟨rfl, rfl⟩ | ⟨rfl, rfl⟩ | ⟨rfl, rfl⟩ | ⟨rfl, rfl⟩ <;> rfl

/-- An instruction of the shape `scalarRun` that is ready, and whose result reports a status, writes both. -/
theorem writesStatus_of_scalarRun {g : Src → Src → Src → Res} {n : Nat} (ready : ScalarReady i s d rd a b fa fb fd x y z t)
    (hexec : exec i s = .next (s.settle (scalarRun i s d rd a b fa fb fd g))) (hstatus : (g x y z).status = some n) :
    WritesStatus i s t d (g x y z).val (g x y z).tag n := by
  obtain ⟨t', hput, hrun⟩ := scalarRun_ok ready g
  rw [hstatus] at hrun
  exact ⟨t', hput, by rw [hexec, hrun]; rfl⟩

/-- The division instructions are `scalarAB` of quotient or remainder, with the status that both report (R106). -/
theorem exec_division {rem : Bool} (s : State)
    (h : (i, rem) ∈ [(Instr.div f d a b, false), (.divn f d a b, false), (.rem f d a b, true), (.remn f d a b, true)]) :
    exec i s = scalarAB i s f d a b (divRes f rem) := by
  simp only [List.mem_cons, Prod.mk.injEq, List.not_mem_nil, or_false] at h
  rcases h with ⟨rfl, rfl⟩ | ⟨rfl, rfl⟩ | ⟨rfl, rfl⟩ | ⟨rfl, rfl⟩ <;> rfl

/-- The three cases of a division, the least value of a signed format written out (R106). -/
theorem divide_eq (f : Fmt) (p q : Int) : divide f p q =
    if q = 0 then (-1, p, 1)
    else if f.isS = true ∧ p = -2 ^ (f.bits - 1) ∧ q = -1 then (p, 0, 2)
    else (Int.tdiv p q, p - Int.tdiv p q * q, 0) := by
  unfold divide Fmt.minInt
  cases f.isS <;> simp

/-- A ready division writes what `divide` answers. -/
theorem writesStatus_of_divide {rem : Bool} {quo r : Int} {st : Nat} (hexec : exec i s = scalarAB i s f d a b (divRes f rem))
    (ready : ScalarReady i s d false a b (some f) (some f) none x y z t)
    (hdivide : divide f (f.intVal x.val.toNat) (f.intVal y.val.toNat) = (quo, r, st)) :
    WritesStatus i s t d (BitVec.ofNat 64 (f.put (if rem then r else quo))) f st := by
  have hres : divRes f rem x.val.toNat y.val.toNat = ⟨BitVec.ofNat 64 (f.put (if rem then r else quo)), f, some st⟩ := by
    simp only [divRes, hdivide]
  have hwrites := writesStatus_of_scalarRun ready hexec (n := st) (congrArg Res.status hres)
  rwa [hres] at hwrites

end

/-- Settles O1: the instructions are `scalarInt` and `divRes` of their operations, and R100 reads and writes bit vectors. -/
theorem integerArithmetic : Obligations.IntegerArithmetic := by
  unfold Obligations.IntegerArithmetic
  refine ⟨fun s t f d a b x y z i g hi ready => writes_of_scalarInt (exec_arithmetic s hi) ready,
    fun f _ v r => ⟨fun hs => ?_, fun hs => ?_⟩, fun s t f d a b x y z i rem hi ready => ?_⟩
  · rw [intVal_eq, Fmt.put, ofNat_extend, ofNat_wrapBits]
    simp [hs]
  · rw [intVal_eq, Fmt.put, ofNat_extend, ofNat_wrapBits]
    simp [hs]
  · intro p q out
    have hdivide := divide_eq f p q
    have hexec := exec_division s hi
    split_ifs at hdivide ⊢ with hzero hover <;> exact writesStatus_of_divide hexec ready hdivide

/-! ### Comparisons and selections (O3) -/

section
variable {i : Instr} {s : State} {t : Strand} {d : SReg} {a b : Opnd} {x y z : Src} {fa fb fd : Option Fmt} {rd : Bool}

/-- The word of a truth value (R109). -/
theorem ofNat_bitOf (p : Prop) [Decidable p] : BitVec.ofNat 64 (bitOf (decide p)) = if p then 1 else 0 := by
  by_cases h : p <;> simp [bitOf, h]

/-- A ready instruction whose result is a truth value writes 1 or 0 with tag raw. -/
theorem writes_bool {g : Src → Src → Src → Res} {p : Prop} [Decidable p] (ready : ScalarReady i s d rd a b fa fb fd x y z t)
    (hexec : exec i s = .next (s.settle (scalarRun i s d rd a b fa fb fd g))) (hg : g x y z = boolRes (decide p)) :
    Writes i s t d (if p then 1 else 0) .raw := by
  have hwrites := writes_of_scalarRun ready hexec (congrArg Res.status hg)
  rw [hg] at hwrites
  simpa only [boolRes, Res.of, ofNat_bitOf] using hwrites

end

/-- Settles O3: comparisons are truth values, `min` and `max` exact integer operations, and `sel` a copy of one source. -/
theorem comparisonsAndSelections : Obligations.ComparisonsAndSelections := by
  unfold Obligations.ComparisonsAndSelections
  intro s t f d a b x y z p q
  refine ⟨fun i hi ready => ?_, fun ready => writes_bool ready rfl ?_, fun i hi ready => ?_, fun i hi ready => ?_, fun ready => ?_⟩
  · simp only [List.mem_cons, List.not_mem_nil, or_false] at hi
    rcases hi with rfl | rfl <;> exact writes_bool ready rfl rfl
  · simp only [boolRes, lowBits, beq_eq_decide]
  · simp only [List.mem_cons, List.not_mem_nil, or_false] at hi
    rcases hi with rfl | rfl <;> exact writes_of_scalarInt (g := min) rfl ready
  · simp only [List.mem_cons, List.not_mem_nil, or_false] at hi
    rcases hi with rfl | rfl <;> exact writes_of_scalarInt (g := max) rfl ready
  · have hwrites := writes_of_scalarRun ready rfl rfl
    simpa only [ne_eq, ite_not] using hwrites

/-! ### `li` and `lea` (O4) -/

theorem exec_lea {s : State} {t t' : Strand} {d : SReg} {base : Base} {e : Int} {x : Src} (hfree : hazard (.lea d base e) s = false)
    (hbase : baseMisuse base = none) (hlegal : misuseWrite d = none) (hread : takeBase s s.st base = .ok (x, t))
    (hroom : hasRoom t d = .ok ()) (hclean : x.bad = false) (hput : putReg t d (x.val + BitVec.ofInt 64 e) .raw = .ok t') :
    exec (.lea d base e) s = .next (s.done t') := by
  simp [exec, execLea, noHazard_ok hfree, noMisuse_ok hbase, noMisuse_ok hlegal, hread, hroom, poisonCheck_ok hclean, hput, bind,
    Except.bind]

/-- An instruction whose operands are literals is ready when nothing holds it back: they carry tag raw and pop nothing (R26). -/
theorem literals_ready {i : Instr} {s : State} {d : SReg} (p q : Int) (hfree : hazard i s = false) (hlegal : misuseWrite d = none)
    (hroom : hasRoom s.st d = .ok ()) : ScalarReady i s d false (.lit p) (.lit q) none none none
      ⟨BitVec.ofInt 64 p, .raw, 0, false⟩ ⟨BitVec.ofInt 64 q, .raw, 0, false⟩ Src.zero s.st where
  free := hfree
  legal := ⟨rfl, rfl, rfl, hlegal⟩
  reads := ⟨s.st, s.st, rfl, rfl, rfl⟩
  room := hroom
  tags := ⟨trivial, trivial, trivial⟩
  clean := ⟨rfl, rfl, rfl⟩

/-- Settles O4: `li` is a scalar instruction whose operands are literals, `lea` runs its own checks, and the base `pc` is read by the
definition. -/
theorem liAndLea : Obligations.LiAndLea := by
  unfold Obligations.LiAndLea
  refine fun s t d base e x => ⟨fun hfree hlegal hroom => ?_, fun hfree hbase hlegal hread hroom hclean => ?_, rfl⟩
  · exact writes_of_scalarRun (literals_ready 0 e hfree hlegal hroom) (g := fun _ y _ => ⟨y.val, .raw, none⟩) rfl rfl
  · obtain ⟨t', hput⟩ := putReg_ok hlegal hroom (x.val + BitVec.ofInt 64 e) .raw
    exact ⟨t', hput, exec_lea hfree hbase hlegal hread hroom hclean hput⟩

/-! ### Scalar floating point (O5) -/

/-- The floating-point instructions of two operands are `scalarFp` of operations on codes (R112, R113). -/
theorem exec_scalarFp {i : Instr} {f : Fmt} {r : Rnd} {d : SReg} {a b : Opnd} {v : Nat} (s : State) (x y : Nat)
    (h : let m := r.mode s.st.rmode
      let p := fdecode f x
      let q := fdecode f y
      (i, v) ∈ [(Instr.fadd f r d a b, (p.add m q).toCode f m false), (.fsub f r d a b, (p.add m q.neg).toCode f m false),
        (.fmul f r d a b, (p.mul q).toCode f m false), (.fdiv f r d a b, fdivCode f m false p q),
        (.fmin f d a b, fminCode f x y), (.fmax f d a b, fmaxCode f x y)]) :
    ∃ g : Nat → Nat → Nat, exec i s = scalarFp i s f d a b g ∧ g x y = v := by
  simp only [List.mem_cons, Prod.mk.injEq, List.not_mem_nil, or_false] at h
  rcases h with ⟨rfl, rfl⟩ | ⟨rfl, rfl⟩ | ⟨rfl, rfl⟩ | ⟨rfl, rfl⟩ | ⟨rfl, rfl⟩ | ⟨rfl, rfl⟩
  · exact ⟨faddCode f (modeOf s r) false, rfl, rfl⟩
  · exact ⟨fsubCode f (modeOf s r) false, rfl, rfl⟩
  · exact ⟨fmulCode f (modeOf s r) false, rfl, rfl⟩
  · exact ⟨fun x y => fdivCode f (modeOf s r) false (fdecode f x) (fdecode f y), rfl, rfl⟩
  · exact ⟨fminCode f, rfl, rfl⟩
  · exact ⟨fmaxCode f, rfl, rfl⟩

/-- Settles O5: each instruction is a ready scalar instruction whose result is the code that the statement names. -/
theorem scalarFloat : Obligations.ScalarFloat := by
  unfold Obligations.ScalarFloat
  intro s t f r sat c d a b x y z m p q
  refine ⟨fun i v hi ready => ?_, fun ready => ?_, fun ready => ?_, fun ready => ?_, fun ready => ?_, fun ready => ?_⟩
  · obtain ⟨g, hexec, rfl⟩ := exec_scalarFp s x.val.toNat y.val.toNat hi
    exact writes_of_scalarRun ready hexec rfl
  · exact writes_of_scalarRun ready (g := fun x y z => Res.of (fmaCode f m false x.val.toNat y.val.toNat z.val.toNat) f) rfl rfl
  · exact writes_of_scalarRun ready (g := fun _ y _ => Res.of (fsqrtCode f m (fdecode f y.val.toNat)) f) rfl rfl
  · have hwrites := writes_bool ready rfl (p := fcmpHolds f c x.val.toNat y.val.toNat = true) (by rw [Bool.decide_eq_true])
    exact hwrites
  · exact writes_of_scalarRun ready (g := fun _ y _ => Res.of (fclassBits f y.val.toNat) .raw) rfl rfl
  · exact writes_of_scalarRun ready (g := fun _ y _ => Res.of (fcvtWord y.tag f m sat y.val.toNat) f) rfl rfl

end Sys2Proof.Proofs
end

section
namespace Sys2Proof.Proofs
open Sys2Proof Sys2Proof.Machine Sys2Proof.Safety Sys2Proof.Laws

/-! ### Shifts (O2) -/

/-- A field rotated left by k below its width, as its two parts: the high part below 2^k stands under the low one. -/
theorem rotlField_eq {n x c : Nat} (hn : 0 < n) : rotlField n x c =
    2 ^ (c % n) * (x % 2 ^ (n - c % n)) + x % 2 ^ n / 2 ^ (n - c % n) := by
  have hk : c % n < n := Nat.mod_lt c hn
  have hpow : 2 ^ n = 2 ^ (c % n) * 2 ^ (n - c % n) := by rw [← pow_add]; congr 1; omega
  have hlow : lowBits n (lowBits n x * 2 ^ (c % n)) = 2 ^ (c % n) * (x % 2 ^ (n - c % n)) := by
    unfold lowBits
    rw [Nat.mod_mul_mod, Nat.mul_comm, hpow, Nat.mul_mod_mul_left]
  have hhigh : x % 2 ^ n / 2 ^ (n - c % n) % 2 ^ n = x % 2 ^ n / 2 ^ (n - c % n) :=
    Nat.mod_eq_of_lt ((Nat.div_le_self ..).trans_lt (Nat.mod_lt x (by positivity)))
  simp only [rotlField, hlow]
  rw [lowBits, hhigh]

theorem rotlField_testBit {n x c h : Nat} (hh : h < n) :
    (rotlField n x c).testBit h = x.testBit ((h + (n - c % n)) % n) := by
  have hk : c % n < n := Nat.mod_lt c (by omega)
  have hhigh : x % 2 ^ n / 2 ^ (n - c % n) < 2 ^ (c % n) := by
    refine Nat.div_lt_of_lt_mul ((Nat.mod_lt x (by positivity)).trans_eq ?_)
    rw [← pow_add]; congr 1; omega
  rw [rotlField_eq (by omega), Nat.testBit_two_pow_mul_add _ hhigh]
  split
  · next hlt =>
    have hplace : h + (n - c % n) < n := by omega
    rw [Nat.testBit_div_two_pow, Nat.testBit_mod_two_pow, Nat.mod_eq_of_lt hplace]
    simp [hplace]
  · next hge =>
    have hplace : (h + (n - c % n)) % n = h - c % n := by
      have hsum : h + (n - c % n) = n + (h - c % n) := by omega
      have hsmall : h - c % n < n := by omega
      rw [hsum, Nat.add_mod_left, Nat.mod_eq_of_lt hsmall]
    have hlow : h - c % n < n - c % n := by omega
    rw [Nat.testBit_mod_two_pow, hplace]
    simp [hlow]

section
variable {i : Instr} {s : State} {t : Strand} {f : Fmt} {d : SReg} {a b : Opnd} {x y z : Src}

/-- The scalar shifts are `scalarShift` of the four field shifts, which move bits by a count (R107). -/
theorem exec_shift {g : Fin 4} (s : State)
    (h : (i, g) ∈ [(Instr.shl f d a b, (0 : Fin 4)), (.shr f d a b, 1), (.sra f d a b, 2), (.rotl f d a b, 3)]) :
    ∃ op : Nat → Nat → Nat → Nat, exec i s = scalarShift i s f d a b op ∧ ∀ n x c j, j < n → (op n x c).testBit j =
      if g = 0 then decide (c ≤ j) && x.testBit (j - c)
      else if g = 1 then decide (j + c < n) && x.testBit (j + c)
      else if g = 2 then (if j + c < n then x.testBit (j + c) else x.testBit (n - 1))
      else x.testBit ((j + (n - c % n)) % n) := by
  simp only [List.mem_cons, Prod.mk.injEq, List.not_mem_nil, or_false] at h
  rcases h with ⟨rfl, rfl⟩ | ⟨rfl, rfl⟩ | ⟨rfl, rfl⟩ | ⟨rfl, rfl⟩
  · exact ⟨_, rfl, fun _ _ _ _ => shlField_testBit⟩
  · exact ⟨_, rfl, fun _ _ _ _ _ => shrField_testBit⟩
  · exact ⟨_, rfl, fun _ _ _ _ => sraField_testBit⟩
  · exact ⟨_, rfl, fun _ _ _ _ => rotlField_testBit⟩

theorem extend_mod (f : Fmt) (x : Nat) : f.extend (x % 2 ^ f.bits) = f.extend x := by
  simp only [Fmt.extend, signedBits, lowBits, Nat.mod_mod]

/-- A ready shift writes its field extended, whose bits are those of the field shift. -/
theorem writes_of_scalarShift {op : Nat → Nat → Nat → Nat} (hexec : exec i s = scalarShift i s f d a b op)
    (ready : ScalarReady i s d false a b (some f) none none x y z t) : ∃ r : BitVec f.bits,
    Writes i s t d (BitVec.ofNat 64 (f.extend r.toNat)) f ∧
      ∀ j, j < f.bits → r.getLsbD j = (op f.bits x.val.toNat y.val.toNat).testBit j := by
  refine ⟨BitVec.ofNat f.bits (op f.bits x.val.toNat y.val.toNat), ?_, fun j hj => by rw [BitVec.getLsbD_ofNat]; simp [hj]⟩
  rw [BitVec.toNat_ofNat, extend_mod]
  exact writes_of_scalarRun ready hexec rfl

/-- The low bits of a word are the bits of its number. -/
theorem truncate_bit {n j : Nat} (v : Word) (hj : j < n) : (v.truncate n).getLsbD j = v.toNat.testBit j := by
  simp [hj, BitVec.getLsbD]

/-! ### Bitwise instructions, counts and fields (O2) -/

/-- A ready instruction on all 64 bits writes its operation on all 64 bits with tag raw (R108). -/
theorem writes_of_scalarBitwise {g : Word → Word → Word} (hexec : exec i s = scalarBitwise i s d a b g)
    (ready : ScalarReady i s d false a b none none none x y z t) : Writes i s t d (g x.val y.val) .raw :=
  writes_of_scalarRun ready hexec rfl

theorem exec_bitwise {g : Word → Word → Word} (s : State)
    (h : (i, g) ∈ [(Instr.and d a b, fun p q : Word => p &&& q), (.or d a b, fun p q => p ||| q),
      (.xor d a b, fun p q => p ^^^ q), (.andn d a b, fun p q => p &&& ~~~q)]) : exec i s = scalarBitwise i s d a b g := by
  simp only [List.mem_cons, Prod.mk.injEq, List.not_mem_nil, or_false] at h
  rcases h with ⟨rfl, rfl⟩ | ⟨rfl, rfl⟩ | ⟨rfl, rfl⟩ | ⟨rfl, rfl⟩ <;> rfl

end

theorem lt_two_pow_bitLength (x : Nat) : x < 2 ^ bitLength x := by
  unfold bitLength
  split
  · next h => simp [h]
  · exact Nat.lt_log2_self

theorem bitLength_le {x n : Nat} (h : x < 2 ^ n) : bitLength x ≤ n := by
  unfold bitLength
  split
  · exact Nat.zero_le n
  · next hx => exact (Nat.log2_lt hx).mpr h

theorem bitLength_top {x : Nat} (h : bitLength x ≠ 0) : x.testBit (bitLength x - 1) = true := by
  have hx : x ≠ 0 := by rintro rfl; exact h rfl
  simpa [bitLength, hx] using Nat.testBit_log2 hx

/-- The bits above the leading one are clear, and it is set. -/
theorem leadingZeros_spec (x : Word) : leadingZeros x ≤ 64 ∧ (∀ j, j < leadingZeros x → x.getLsbD (63 - j) = false) ∧
    (leadingZeros x < 64 → x.getLsbD (63 - leadingZeros x) = true) := by
  have hle := bitLength_le x.isLt
  unfold leadingZeros
  refine ⟨Nat.sub_le .., fun j hj => ?_, fun hlt => ?_⟩
  · refine Nat.testBit_lt_two_pow ((lt_two_pow_bitLength _).trans_le (Nat.pow_le_pow_right (by decide) ?_))
    omega
  · have hplace : 63 - (64 - bitLength x.toNat) = bitLength x.toNat - 1 := by omega
    rw [hplace]
    exact bitLength_top (by omega)

/-- The bits below the lowest one are clear, and it is set. -/
theorem trailingZeros_spec (x n : Nat) : trailingZeros x n ≤ n ∧ (∀ j, j < trailingZeros x n → x.testBit j = false) ∧
    (trailingZeros x n < n → x.testBit (trailingZeros x n) = true) := by
  induction n generalizing x with
  | zero => simp [trailingZeros]
  | succ n ih =>
    unfold trailingZeros
    split
    · next hodd => simp [hodd]
    · next heven =>
      obtain ⟨hle, hclear, hset⟩ := ih (x / 2)
      refine ⟨by omega, fun j hj => ?_, fun hlt => ?_⟩
      · cases j with
        | zero => simpa using heven
        | succ j => rw [Nat.testBit_succ]; exact hclear j (by omega)
      · rw [Nat.add_comm, Nat.testBit_succ]
        exact hset (by omega)

theorem fieldLo_eq (ctl : Word) : fieldLo ctl = ctl.toNat % 64 := by simp [fieldLo, bitsOf]

theorem fieldWidth_eq (ctl : Word) :
    fieldWidth ctl = min (ctl.toNat % 64 + (ctl.toNat / 64 % 64 + 1)) 64 - ctl.toNat % 64 := by
  simp [fieldWidth, fieldLo_eq, bitsOf, Nat.add_assoc]

theorem fieldExtract_bit (x ctl : Word) {j : Nat} (hj : j < 64) :
    (fieldExtract x ctl).getLsbD j = (decide (j < fieldWidth ctl) && x.getLsbD (fieldLo ctl + j)) := by
  rw [fieldExtract, BitVec.getLsbD_ofNat, lowBits_testBit, Nat.testBit_div_two_pow]
  simp [hj, BitVec.getLsbD, Nat.add_comm]

theorem fieldInsert_bit (old x ctl : Word) {j : Nat} (hj : j < 64) : (fieldInsert old x ctl).getLsbD j =
    if fieldLo ctl ≤ j ∧ j < fieldLo ctl + fieldWidth ctl then x.getLsbD (j - fieldLo ctl) else old.getLsbD j := by
  have hmask : (BitVec.ofNat 64 ((2 ^ fieldWidth ctl - 1) * 2 ^ fieldLo ctl)).getLsbD j =
      decide (fieldLo ctl ≤ j ∧ j < fieldLo ctl + fieldWidth ctl) := by
    rw [BitVec.getLsbD_ofNat, Nat.testBit_mul_two_pow, Nat.testBit_two_pow_sub_one]
    by_cases hlo : fieldLo ctl ≤ j
    · have hin : j - fieldLo ctl < fieldWidth ctl ↔ j < fieldLo ctl + fieldWidth ctl := by omega
      simp [hj, hlo, hin]
    · simp [hlo]
  simp only [fieldInsert, BitVec.getLsbD_or, BitVec.getLsbD_and, BitVec.getLsbD_not, BitVec.getLsbD_shiftLeft, hmask, hj]
  by_cases hin : fieldLo ctl ≤ j ∧ j < fieldLo ctl + fieldWidth ctl
  · simp [hin, Nat.not_lt.mpr hin.1]
  · simp [hin]

/-- Settles O2: a shift writes a field that is read bit by bit, and the other instructions are words whose bits the lemmas above
name. -/
theorem shiftsAndBits : Obligations.ShiftsAndBits := by
  unfold Obligations.ShiftsAndBits
  refine ⟨fun s t f d a b x y z i g _ hi ready => ?_, fun s t d a b x y z =>
    ⟨fun i g hi ready => writes_of_scalarBitwise (exec_bitwise s hi) ready,
      fun ready => writes_of_scalarBitwise (g := fun _ y => y) rfl ready,
      fun ready => ?_, fun ready => ?_, fun ready => ?_, fun ready => ?_, fun ready => ?_⟩⟩
  · obtain ⟨op, hexec, hop⟩ := exec_shift s hi
    obtain ⟨r, hwrites, hr⟩ := writes_of_scalarShift hexec ready
    refine ⟨r, hwrites, fun j hj => ?_⟩
    have hlow : j - y.val.toNat < f.bits := by omega
    have htop : f.bits - 1 < f.bits := by omega
    have hturn : (j + (f.bits - y.val.toNat % f.bits)) % f.bits < f.bits := Nat.mod_lt _ (by omega)
    rw [hr j hj, hop _ _ _ _ hj]
    dsimp only
    rw [truncate_bit x.val hlow, truncate_bit x.val htop, truncate_bit x.val hturn]
    by_cases hin : j + y.val.toNat < f.bits
    · rw [truncate_bit x.val hin]
    · simp only [hin, decide_false, Bool.false_and, if_false]
  · obtain ⟨hle, hclear, hset⟩ := leadingZeros_spec y.val
    exact ⟨_, hle, writes_of_scalarBitwise (g := fun _ y => BitVec.ofNat 64 (leadingZeros y)) rfl ready, hclear, hset⟩
  · obtain ⟨hle, hclear, hset⟩ := trailingZeros_spec y.val.toNat 64
    exact ⟨_, hle, writes_of_scalarBitwise (g := fun _ y => BitVec.ofNat 64 (trailingZeros y.toNat 64)) rfl ready, hclear, hset⟩
  · have hwrites := writes_of_scalarBitwise (g := fun _ y => BitVec.ofNat 64 (countBits y.toNat 64)) rfl ready
    rw [countBits_eq_countP] at hwrites
    exact hwrites
  · refine ⟨_, writes_of_scalarBitwise (g := fieldExtract) rfl ready, fun j hj => ?_⟩
    rw [fieldExtract_bit _ _ hj, fieldWidth_eq, fieldLo_eq]
  · refine ⟨_, writes_of_scalarRun ready (g := fun x y z => ⟨fieldInsert z.val x.val y.val, .raw, none⟩) rfl rfl, fun j hj => ?_⟩
    have htop : fieldLo y.val + fieldWidth y.val = min (y.val.toNat % 64 + (y.val.toNat / 64 % 64 + 1)) 64 := by
      rw [fieldWidth_eq, fieldLo_eq]; omega
    rw [fieldInsert_bit _ _ _ hj, htop, fieldLo_eq]

end Sys2Proof.Proofs
end

section
namespace Sys2Proof.Proofs
open Sys2Proof Sys2Proof.Machine Sys2Proof.Safety Sys2Proof.Laws

/-! ### The end of a strand (O29) -/

theorem serveEvent_parked (s : State) (p e n : Nat) : (serveEvent s p e n).parked.length = s.parked.length := by
  induction n generalizing s with
  | zero => rfl
  | succ n ih =>
    simp only [serveEvent]
    split
    · rfl
    · split
      · rw [ih]
        split
        · simp [State.modStrand]
        · rfl
      · rfl

theorem signal_parked (s : State) (p e n : Nat) : (s.signal p e n).parked.length = s.parked.length := serveEvent_parked ..

theorem leavePop_parked (s : State) (p : Nat) (popId : Word) (uid : Nat) : (s.leavePop p popId uid).parked = s.parked := by
  simp only [State.leavePop]
  split
  · rfl
  · split <;> rfl

theorem retireTask_parked (s : State) (p k : Nat) (skipped : Bool) : (s.retireTask p k skipped).parked.length = s.parked.length := by
  simp only [State.retireTask]
  split
  · rfl
  · next t _ =>
    have htrace : (s.traceTask p t 5 skipped).parked = s.parked := outline_parked (outline_traceOn ..)
    split
    · rw [signal_parked, modPart_parked, htrace]
    · rw [modPart_parked, htrace]

/-- The end of a strand may wake other strands; it adds none and takes none away. -/
theorem endStrand_parked (s : State) (t : Strand) (fatal : Bool) : (s.endStrand t fatal).parked.length = s.parked.length := by
  have hpop := congrArg List.length (leavePop_parked s t.part t.popId t.uid)
  have htrace : ∀ s1 : State, (if t.act then s1.traceStrand t 2 fatal (t.entry.toNat + t.tag.toNat * 2 ^ 40) (lowBits 48 t.clks)
      else s1).parked = s1.parked := fun s1 => by
    split
    · exact outline_parked (outline_traceStrand ..)
    · rfl
  simp only [State.endStrand]
  split
  · split
    · simp only [modPart_parked, htrace, hpop]
    · rw [retireTask_parked]; simp only [modPart_parked, htrace, hpop]
  · simp only [modPart_parked, htrace, hpop]

/-- A strand that is no activation, runs no task and is in no population leaves its slot of the budget and its accesses. -/
theorem endStrand_plain {s : State} {t : Strand} (hact : t.act = false) (htask : t.task = none) (hpop : 256 ≤ t.popId.toNat)
    (fatal : Bool) : s.endStrand t fatal =
      { s.modPart t.part (fun q => q.modLaunch t.launch fun l => { l with slotsUsed := l.slotsUsed - 1 }) with
        accs := s.accs.filter fun y => y.uid != t.uid } := by
  simp [State.endStrand, State.leavePop, hact, htask, hpop]

theorem exec_done {s : State} (hvq : s.st.vq = []) (htiles : s.st.tileCount = 0) (hstores : s.storesDue s.st.uid = 0) :
    exec .done s = .next (s.endStrand s.st false).clearFocus := by
  simp [exec, execDone, vectorIdle, hvq, htiles, noStores, hstores, bind, Except.bind]

/-! ### `migrate` and `sleep` (O29) -/

section
variable {i : Instr} {s : State} {t : Strand} {b : Opnd} {y : Src}

theorem home_turn (h : HomeReady i s) : homeTurn i s = .ok () := by
  obtain ⟨-, -, -, -, haccs⟩ := id h
  simp [homeTurn, vectorIdle, home_vq h, home_noHazard h, noRisk, not_risky_of_no_access haccs, bind, Except.bind]

theorem home_noStores (h : HomeReady i s) : noStores s = .ok () := by
  obtain ⟨-, -, -, hstores, -⟩ := h
  simp [noStores, hstores]

/-- One destination, checked (R209). -/
theorem destCheck_one (p n : Nat) : destCheck s p [n] = if s.hasCell p n then .ok () else .error (.trap 0x0502 n) := by
  cases h : s.hasCell p n <;> simp [destCheck, h]

/-- `migrate` once its operand is read: the activation check comes before the cell is looked at (log entry 63). -/
theorem exec_migrate (h : HomeReady (.migrate b) s) (htiles : s.st.tileCount = 0) (hmis : opMisuse b = none)
    (hread : takeOp s s.st b = .ok (y, t)) (hclean : y.bad = false) :
    exec (.migrate b) s = .next (s.settle (
      if t.act then .error (.trap 0x0503 0)
      else if s.hasCell t.part (y.val.toNat % 2 ^ 20) = false then .error (.trap 0x0502 (y.val.toNat % 2 ^ 20))
      else if y.val.toNat % 2 ^ 20 = t.cell then .ok (s.done t)
      else .ok { s with
        st := Strand.empty, nextId := s.nextId + 1, sidings := s.sidings ++ [(⟨s.nextId, t.uid, t.cell, []⟩ : Siding)]
        parked := s.parked ++ [{ t.oneDeadline with status := .moving, cell := y.val.toNat % 2 ^ 20, pc := s.st.npc }] })) := by
  simp only [exec, execMigrate, home_turn h, htiles, home_noStores h, noMisuse_ok hmis, hread, destCheck_one, poisonCheck_ok hclean,
    bind, Except.bind, ne_eq, not_true_eq_false, if_false]
  cases t.act <;> cases s.hasCell t.part (y.val.toNat % 2 ^ 20) <;> rfl

theorem keep_handler (h : t.handler = true) (w : Option Nat) : t.keep w = { t with sleepTrap := w } := if_pos h

theorem keep_level (h : ¬t.handler = true) (w : Option Nat) : t.keep w = { t with sleepUntil := w } := if_neg h

/-- A strand that keeps no deadline is unchanged by keeping none. -/
theorem keep_of_kept_none (h : t.kept = none) : t.keep none = t := by
  unfold Strand.kept at h
  split at h
  · next hhandler => rw [keep_handler hhandler, ← h]
  · next hlevel => rw [keep_level hlevel, ← h]

/-- `sleep` once its operand is read. -/
theorem exec_sleep (h : HomeReady (.sleep b) s) (hmis : opMisuse b = none) (hread : takeOp s s.st b = .ok (y, t))
    (hclean : y.bad = false) : exec (.sleep b) s = .next (
      if t.q15 ≠ [] then s.done ((t.status? 0).keep none)
      else { s with st := { t.keep none with
        status := .blocked (.sleep (t.kept.or (if y.val = 0 then none else some (s.now + y.val.toNat))))
        undo := some s.st.checkpoint } }) := by
  simp only [exec, execSleep, home_turn h, noMisuse_ok hmis, hread, poisonCheck_ok hclean, bind, Except.bind]
  by_cases hq : t.q15 ≠ []
  · rw [if_pos hq, if_pos hq]; rfl
  · rw [if_neg hq, if_neg hq]
    cases t.kept <;> rfl

theorem status_keep (n : Nat) : (t.status? n).keep none = { t.keep none with rstat := BitVec.ofNat 64 n } := by
  by_cases h : t.handler = true
  · rw [keep_handler h, keep_handler (t := t.status? n) h]; rfl
  · rw [keep_level h, keep_level (t := t.status? n) h]; rfl

end

/-- Settles O29: `done` is the end of the strand in focus, `migrate` and `sleep` what is left of them once their operand is read. -/
theorem strandEnds : Obligations.StrandEnds := by
  unfold Obligations.StrandEnds
  refine fun s b y t => ⟨fun hvq htiles hstores => ?_, fun h htiles hmis hread hclean => ?_, fun h hmis hread hclean => ?_⟩
  · refine ⟨_, exec_done hvq htiles hstores, rfl, endStrand_parked s s.st false, fun hact htask hpop => ?_⟩
    rw [endStrand_plain hact htask hpop]; rfl
  · intro cell
    rw [exec_migrate h htiles hmis hread hclean]
    refine ⟨fun hact => ?_, fun hact hcell => ?_, fun hact hcell hown => ?_, fun hact hcell hother => ?_⟩
    · rw [if_pos hact, settle_trap h]; rfl
    · rw [if_neg (ne_true_of_eq_false hact), if_pos hcell, settle_trap h]
    · rw [if_neg (ne_true_of_eq_false hact), if_neg (ne_false_of_eq_true hcell), if_pos hown, settle_ok]
    · rw [if_neg (ne_true_of_eq_false hact), if_neg (ne_false_of_eq_true hcell), if_neg hother, settle_ok]
  · rw [exec_sleep h hmis hread hclean]
    refine ⟨fun hq => ?_, fun hq hkept => ?_, fun w hq hkept => ?_⟩
    · rw [if_pos hq, status_keep]; rfl
    · rw [if_neg (not_not.mpr hq), hkept, keep_of_kept_none hkept, Option.none_or]
    · rw [if_neg (not_not.mpr hq), hkept, Option.some_or]

/-! ### Credits and completions (O42) -/

theorem barrier_credit (o : Barrier) (c : Nat) : (o.credit c).expect = o.expect - c ∧
    ((o.credit c).overrun = true ↔ o.overrun = true ∨ o.expect < c) ∧
    (o.credit c).tokens = o.tokens + (if 0 < c ∧ 0 < o.expect ∧ o.expect ≤ c then 1 else 0) := by
  refine ⟨?_, ?_, ?_⟩
  · simp only [Barrier.credit]; omega
  · simp [Barrier.credit]
  · have hlast : (0 < min c o.expect ∧ o.expect - min c o.expect = 0) ↔ (0 < c ∧ 0 < o.expect ∧ o.expect ≤ c) := by omega
    simp only [Barrier.credit, hlast]
    split <;> rfl

theorem flag_sets (c : EngCmd) (n : Nat) : bitAt (c.flag n).status n = true := by
  unfold EngCmd.flag
  split
  · next h => exact h
  · next h =>
    rw [bitAt_eq_testBit] at h ⊢
    rw [Nat.add_comm, Nat.testBit_two_pow_add_eq]
    simpa using h

/-- What holds of a changed command holds of every listed command with its number. -/
theorem modCmd_mem {s : State} {n : Nat} {g : EngCmd → EngCmd} {P : EngCmd → Prop} (hP : ∀ x, P (g x)) :
    ∀ y ∈ (s.modCmd n g).cmds, y.num = n → P y := by
  intro y hy hn
  obtain ⟨x, -, rfl⟩ := List.mem_map.mp hy
  by_cases hx : x.num = n
  · rw [if_pos hx]; exact hP x
  · rw [if_neg hx] at hn; exact absurd hn hx

section
variable {s : State} {n : Nat} {c : EngCmd} {loc : Loc}

/-- ENGINE_CREDIT at a well-formed object without errors: all the command's bytes in one credit, then the waiters that it serves
(R193, log entry 113). -/
theorem engineCredit_credits {o : Barrier} (hfind : s.cmds.find? (fun c => c.num == n && c.stage == 2 && c.walk.isNone) = some c)
    (hloc : s.engineLoc c.ctx c.bar false true = .ok loc) (hquiet : Quiet s)
    (hobject : barrierParts (memRead s.mem loc.pa 16) = some o) :
    exec (.engineCredit n) s = .next ((State.modCmd { s with mem := memWrite s.mem loc.pa 16 (o.credit c.credit).word } n
      fun x => { x with stage := 3 }).serveTokens c.part loc.pa) := by
  simp only [exec, execEngineCredit, hfind, hloc, readAt_quiet hquiet, hobject, writeAt_quiet hquiet, Bool.false_eq_true, if_false]
  rfl

/-- ENGINE_CREDIT at a malformed object ends the command with its cause (R193). -/
theorem engineCredit_malformed (hfind : s.cmds.find? (fun c => c.num == n && c.stage == 2 && c.walk.isNone) = some c)
    (hloc : s.engineLoc c.ctx c.bar false true = .ok loc) (hquiet : Quiet s)
    (hobject : barrierParts (memRead s.mem loc.pa 16) = none) :
    exec (.engineCredit n) s = .next (s.modCmd n fun x =>
      { x.flag 2 with stage := 3, w5 := BitVec.ofNat 64 c.bar, w6 := 0x0312 }) := by
  simp only [exec, execEngineCredit, hfind, hloc, readAt_quiet hquiet, hobject, Bool.false_eq_true, if_false]

/-- The machine without the command of a number, whose completion is delivered or discarded. -/
def withoutCmd (s : State) (n : Nat) : State := { s with cmds := s.cmds.filter fun x => x.num != n }

/-- COMPLETION_ENTRY_PUSH discards the entry of a command that asks for none or whose strand has ended (R121, R195). -/
theorem completionEntryPush_discards (hfind : s.cmds.find? (fun c => c.num == n && c.stage == 3) = some c) (htask : c.task = none)
    (hno : c.noEntry = true ∨ s.strand? c.uid = none) : exec (.completionEntryPush n) s = .next (withoutCmd s n) := by
  simp only [exec, execCompletionEntryPush, hfind, htask]
  cases hentry : c.noEntry with
  | true => rfl
  | false =>
    rw [hno.resolve_left (ne_true_of_eq_false hentry)]
    rfl

/-- The entry of a strand that has moved follows it, last in its siding (R212). -/
theorem completionEntryPush_follows {t : Strand} {d : Siding} (hfind : s.cmds.find? (fun c => c.num == n && c.stage == 3) = some c)
    (htask : c.task = none) (hentry : c.noEntry = false) (hstrand : s.strand? c.uid = some t)
    (hsiding : s.sidings.find? (fun d => d.uid == c.uid && d.cell == c.cell) = some d) :
    exec (.completionEntryPush n) s = .next { withoutCmd s n with sidings := s.sidings.map fun x =>
      if x.id = d.id then { x with items := x.items ++ [(none, c.entry)] } else x } := by
  simp only [exec, execCompletionEntryPush, hfind, htask, hentry, hstrand, hsiding, Bool.false_eq_true, if_false]
  rfl

/-- The entry of a strand that is in its place goes to its q15, or waits for room there (R195, R329). -/
theorem completionEntryPush_pushes {t : Strand} (hfind : s.cmds.find? (fun c => c.num == n && c.stage == 3) = some c)
    (htask : c.task = none) (hentry : c.noEntry = false) (hstrand : s.strand? c.uid = some t)
    (hsiding : s.sidings.find? (fun d => d.uid == c.uid && d.cell == c.cell) = none) : exec (.completionEntryPush n) s =
      .next (if s.q15Room t then (withoutCmd s n).modStrand c.uid fun t => t.pushQ15 c.entry else s) := by
  simp only [exec, execCompletionEntryPush, hfind, htask, hentry, hstrand, hsiding, Bool.false_eq_true, if_false]
  cases s.q15Room t <;> rfl

end

/-- Settles O42: the credit by what it does to a barrier object, the completion by where its entry goes. -/
theorem engineCompletions : Obligations.EngineCompletions := by
  unfold Obligations.EngineCompletions
  refine fun s n c t loc => ⟨fun hfind hloc hquiet => ⟨fun o hobject => ?_, fun hobject => ?_⟩, fun hfind htask =>
    ⟨completionEntryPush_discards hfind htask, fun hentry hstrand hsiding => ⟨fun hroom => ?_, fun hroom => ?_⟩,
      fun d hentry hstrand hsiding => completionEntryPush_follows hfind htask hentry hstrand hsiding⟩⟩
  · exact ⟨engineCredit_credits hfind hloc hquiet hobject, barrier_credit o c.credit⟩
  · exact ⟨_, engineCredit_malformed hfind hloc hquiet hobject, rfl, modCmd_mem fun x => ⟨rfl, rfl, flag_sets x 2⟩⟩
  · rw [completionEntryPush_pushes hfind htask hentry hstrand hsiding, if_pos hroom]
    rfl
  · rw [completionEntryPush_pushes hfind htask hentry hstrand hsiding, if_neg (ne_true_of_eq_false hroom)]

end Sys2Proof.Proofs
end

section
namespace Sys2Proof.Proofs
open Sys2Proof Sys2Proof.Machine Sys2Proof.Safety Sys2Proof.Laws

/-! ### Widths and conversions (O14) -/

section
variable {i : Instr} {s : State} {c : VIn} {f : Fmt} {k : Keys} {d a : Fin 32}

/-- A ready vector instruction whose effect is that of an element instruction on one source, with its operands in order. -/
theorem writesElements_of_unary {fs tag : Fmt} {ws : Nat} {g : Nat → Nat} (h : VectorReady i s c)
    (hsrc : SourceOk c (groupSize c.t k f ws) ws a (some fs) (c.t.activeAt k)) (hdst : GroupOk c.t (groupSize c.t k f f.bits) f.bits d)
    (hexec : exec i s = vector i s) (heffect : vectorEffect i c = unaryRun c f k d a ws fs tag g) :
    WritesElements i s c f k d tag fun j => .new (g ((c.t.vsrc (groupSize c.t k f ws) ws a).get j)) false :=
  becomes_of_effect h hexec (heffect.trans (unaryRun_ok hsrc hdst tag g))

/-- The special functions are `specRun` of their code functions (R137). -/
theorem special_effect {g : Nat → Nat} (s : State) (c : VIn)
    (h : (i, g) ∈ [(Instr.vexp2 k d a, exp2Code), (.vlog2 k d a, log2Code), (.vrcp k d a, rcpCode),
      (.vrsq k d a, rsqCode), (.vsigm k d a, sigmCode), (.vtanh k d a, tanhCode)]) :
    exec i s = vector i s ∧ vectorEffect i c = specRun c k d a g := by
  simp only [List.mem_cons, Prod.mk.injEq, List.not_mem_nil, or_false] at h
  rcases h with ⟨rfl, rfl⟩ | ⟨rfl, rfl⟩ | ⟨rfl, rfl⟩ | ⟨rfl, rfl⟩ | ⟨rfl, rfl⟩ | ⟨rfl, rfl⟩ <;> exact ⟨rfl, rfl⟩

/-- The source of `vwiden` has half the width of its result, and the same signedness (R135). -/
theorem half_of_widens {p : Fmt}
    (h : (f, p) ∈ [(Fmt.s16, Fmt.s8), (.s32, .s16), (.s64, .s32), (.n16, .n8), (.n32, .n16), (.raw, .n32)]) :
    Machine.Fmt.half f = p ∧ f.bits / 2 = p.bits := by
  simp only [List.mem_cons, Prod.mk.injEq, List.not_mem_nil, or_false] at h
  rcases h with ⟨rfl, rfl⟩ | ⟨rfl, rfl⟩ | ⟨rfl, rfl⟩ | ⟨rfl, rfl⟩ | ⟨rfl, rfl⟩ | ⟨rfl, rfl⟩ <;> exact ⟨rfl, rfl⟩

/-- The source of `vnarrow` has twice the width of its result, and the same signedness (R135). -/
theorem wide_of_narrows {p : Fmt}
    (h : (f, p) ∈ [(Fmt.s8, Fmt.s16), (.s16, .s32), (.s32, .s64), (.n8, .n16), (.n16, .n32), (.n32, .raw)]) :
    Machine.Fmt.wide f = p ∧ 2 * f.bits = p.bits := by
  simp only [List.mem_cons, Prod.mk.injEq, List.not_mem_nil, or_false] at h
  rcases h with ⟨rfl, rfl⟩ | ⟨rfl, rfl⟩ | ⟨rfl, rfl⟩ | ⟨rfl, rfl⟩ | ⟨rfl, rfl⟩ | ⟨rfl, rfl⟩ <;> exact ⟨rfl, rfl⟩

/-- `vnarrow` with its operands in order shifts, then wraps or clamps (R135). -/
theorem vnarrow_effect {b : Opnd} {p : Fmt} (hwide : Machine.Fmt.wide f = p) (hbits : 2 * f.bits = p.bits)
    (ha : SourceOk c (groupSize c.t k f p.bits) p.bits a (some p) (c.t.activeAt k))
    (hb : OperandOk c (groupSize c.t k f f.bits) f.bits b none (c.t.activeAt k))
    (hd : GroupOk c.t (groupSize c.t k f f.bits) f.bits d) :
    vectorEffect (.vnarrow f k d a b) c = c.out (c.t.vwrite k (groupSize c.t k f f.bits) f.bits d f (c.t.activeAt k) fun j =>
      .new (f.narrow k.sat (shiftFloor (p.intVal ((c.t.vsrc (groupSize c.t k f p.bits) p.bits a).get j))
        (min ((bRead c (groupSize c.t k f f.bits) f.bits b).get j) (2 * f.bits)))) false) := by
  subst hwide
  obtain ⟨htags, hgroup, hclean⟩ := ha
  obtain ⟨-, hgroupB, hcleanB⟩ := operand_ok hb
  change vnarrowRun c f k d a b = _
  unfold vnarrowRun
  simp only [hbits, groupTags_ok (htags _ rfl), groupCheck_ok hgroup, hgroupB, groupCheck_ok hd, use_ok hclean, hcleanB, bind,
    Except.bind]

/-- `vdeq` with raw codes and an f32 scale writes the scaled levels (R144). -/
theorem vdeq_effect {r : Rnd} {b : Opnd} (hraw : ∀ n ∈ liveRegs c.t (groupSize c.t k f 4) 4 a, c.t.vtag[n]?.getD .raw = .raw)
    (ha : SourceOk c (groupSize c.t k f 4) 4 a none (c.t.activeAt k)) (hd : GroupOk c.t (groupSize c.t k f f.bits) f.bits d)
    (htag : TagOk (some .f32) c.b) (hbad : c.b.bad = false) :
    vectorEffect (.vdeq f r k d a b) c = c.out (c.t.vwrite k (groupSize c.t k f f.bits) f.bits d f (c.t.activeAt k) fun j =>
      .new ((q4Value ((c.t.vsrc (groupSize c.t k f 4) 4 a).get j) (fdecode .f32 (c.b.val.toNat % 2 ^ 32))).toCode f
        (r.mode c.mode) false) false) := by
  obtain ⟨-, hgroup, hclean⟩ := ha
  have htags : ((liveRegs c.t (groupSize c.t k f 4) 4 a).find? fun i => c.t.vtag[i]?.getD .raw != .raw) = none :=
    List.find?_eq_none.mpr fun n hn => by simp [hraw n hn]
  change vdeqRun c f r k d a = _
  unfold vdeqRun
  simp only [htags, tagCheck_ok htag, groupCheck_ok hgroup, groupCheck_ok hd, use_ok hclean, poisonCheck_ok hbad, bind, Except.bind]
  rfl

end

/-- Settles O14: all but `vnarrow` and `vdeq` are element instructions on one source; those two by their effects above. -/
theorem vectorWidthsAndConversions : Obligations.VectorWidthsAndConversions := by
  unfold Obligations.VectorWidthsAndConversions
  refine ⟨fun s c f k d a b => ⟨fun hready ha hd => ?_, fun p hp hready ha hd => ?_, fun p hp hready ha hb hd => ?_⟩,
    fun s c f r k d a b => ⟨fun i g hi hready ha hd => ?_, ?_, ?_⟩⟩
  · have heffect : vectorEffect (.vabs f k d a) c =
        unaryRun c f k d a f.bits f f fun x => f.narrow k.sat (f.intVal x).natAbs := rfl
    have hwrites := writesElements_of_unary hready ha hd rfl heffect
    exact hwrites
  · obtain ⟨rfl, hbits⟩ := half_of_widens hp
    rw [← hbits] at ha ⊢
    have heffect : vectorEffect (.vwiden f k d a) c = unaryRun c f k d a (f.bits / 2) (Machine.Fmt.half f) f fun x =>
        wrapBits f.bits ((Machine.Fmt.half f).intVal x) := rfl
    have hwrites := writesElements_of_unary hready ha hd rfl heffect
    exact hwrites
  · obtain ⟨hwide, hbits⟩ := wide_of_narrows hp
    have hbecomes := becomes_of_effect hready rfl (vnarrow_effect hwide hbits ha hb hd)
    exact hbecomes
  · obtain ⟨hexec, heffect⟩ := special_effect s c hi
    exact writesElements_of_unary (f := .f32) hready ha hd hexec heffect
  · intro hready p es ha hd
    obtain ⟨-, hmode⟩ := vector_in hready
    have hp : (if c.t.vtag[a.val]?.getD .raw = .raw then c.t.fc else c.t.vtag[a.val]?.getD .raw) = p := by
      have hget : c.t.vtag[a.val]?.getD .raw = c.t.vtag.get a := by simp [Vector.get]
      rw [hget]
    have heffect : vectorEffect (.vcvt f r k d a) c = unaryRun c f k d a p.bits p f (convert p f (r.mode s.st.rmode) k.sat) := by
      rw [← hmode, ← hp]; rfl
    have hwrites := writesElements_of_unary hready ha hd rfl heffect
    exact hwrites
  · intro hready es hraw ha hd htag hbad
    obtain ⟨-, hmode⟩ := vector_in hready
    rw [← hmode]
    exact becomes_of_effect hready rfl (vdeq_effect hraw ha hd htag hbad)

/-! ### Moves and permutes (O16) -/

section
variable {c : VIn} {f : Fmt} {k : Keys} {d a : Fin 32} {b : Opnd}

/-- A compare with its operands in order writes a mask (R138). -/
theorem compareRun_ok {md : Fin 8} (ha : SourceOk c (groupSize c.t k f f.bits) f.bits a (some f) (c.t.activeAt k))
    (hb : OperandOk c (groupSize c.t k f f.bits) f.bits b (some f) (c.t.activeAt k)) (g : Nat → Nat → Bool) :
    compareRun c f k md a b g = c.out (c.t.mwrite k md (c.t.activeAt k) fun j =>
      g ((c.t.vsrc (groupSize c.t k f f.bits) f.bits a).get j) ((bRead c (groupSize c.t k f f.bits) f.bits b).get j)) := by
  obtain ⟨htags, hgroup, hclean⟩ := ha
  obtain ⟨htagsB, hgroupB, hcleanB⟩ := operand_ok hb
  unfold compareRun
  simp only [groupTags_ok (htags f rfl), groupCheck_ok hgroup, use_ok hclean, htagsB, hgroupB, hcleanB, bind, Except.bind]

/-- `vsel` with its operands in order writes every element below vl (R139). -/
theorem vsel_effect (ha : SourceOk c (groupSize c.t k f f.bits) f.bits a (some f) (c.t.activeAt k))
    (hb : OperandOk c (groupSize c.t k f f.bits) f.bits b (some f) fun j => !c.t.activeAt k j)
    (hd : GroupOk c.t (groupSize c.t k f f.bits) f.bits d) :
    vectorEffect (.vsel f k d a b) c = c.out (c.t.vwrite k (groupSize c.t k f f.bits) f.bits d f (fun _ => true) fun j =>
      .new (if c.t.activeAt k j then (c.t.vsrc (groupSize c.t k f f.bits) f.bits a).get j
        else (bRead c (groupSize c.t k f f.bits) f.bits b).get j) false) := by
  obtain ⟨htags, hgroup, hclean⟩ := ha
  obtain ⟨htagsB, hgroupB, hcleanB⟩ := operand_ok hb
  change vselRun c f k d a b = _
  unfold vselRun
  simp only [groupTags_ok (htags f rfl), groupCheck_ok hgroup, groupCheck_ok hd, use_ok hclean, htagsB, hgroupB, hcleanB, bind,
    Except.bind]

theorem vmv_effect (hb : OperandOk c (groupSize c.t k f f.bits) f.bits b none (c.t.activeAt k))
    (hd : GroupOk c.t (groupSize c.t k f f.bits) f.bits d) :
    vectorEffect (.vmv f k d b) c = c.out (c.t.vwrite k (groupSize c.t k f f.bits) f.bits d .raw (c.t.activeAt k) fun j =>
      .new ((bRead c (groupSize c.t k f f.bits) f.bits b).get j) false) := by
  obtain ⟨-, hgroup, hclean⟩ := operand_ok hb
  change vmvRun c f k d b = _
  unfold vmvRun
  simp only [hgroup, hclean, groupCheck_ok hd, bind, Except.bind]

section
variable (ha : GroupOk c.t (groupSize c.t k f f.bits) f.bits a) (hd : GroupOk c.t (groupSize c.t k f f.bits) f.bits d)
include ha hd

/-- `vslide.up` keeps an element that has no source (R140). -/
theorem vslideUp_effect (hbad : c.b.bad = false)
    (hclean : Clean (c.t.vsrc (groupSize c.t k f f.bits) f.bits a) c.t.vl fun j => c.t.activeAt k (j + c.b.val.toNat)) :
    vectorEffect (.vslide f false k d a b) c = c.out (c.t.vwrite k (groupSize c.t k f f.bits) f.bits d .raw (c.t.activeAt k)
      fun j => if c.b.val.toNat ≤ j then
        .new ((c.t.vsrc (groupSize c.t k f f.bits) f.bits a).get (j - c.b.val.toNat)) false else .keep) := by
  change vslideRun c f false k d a = _
  unfold vslideRun
  simp only [groupCheck_ok ha, groupCheck_ok hd, poisonCheck_ok hbad, Bool.false_eq_true, if_false, use_ok hclean, bind, Except.bind]

/-- `vslide.down` gives 0 beyond vl (R140). -/
theorem vslideDown_effect (hbad : c.b.bad = false) (hclean : Clean (c.t.vsrc (groupSize c.t k f f.bits) f.bits a) c.t.vl
      fun j => decide (c.b.val.toNat ≤ j) && c.t.activeAt k (j - c.b.val.toNat)) :
    vectorEffect (.vslide f true k d a b) c = c.out (c.t.vwrite k (groupSize c.t k f f.bits) f.bits d .raw (c.t.activeAt k)
      fun j => if j + c.b.val.toNat < c.t.vl then
        .new ((c.t.vsrc (groupSize c.t k f f.bits) f.bits a).get (j + c.b.val.toNat)) false else .zero) := by
  change vslideRun c f true k d a = _
  unfold vslideRun
  simp only [groupCheck_ok ha, groupCheck_ok hd, poisonCheck_ok hbad, if_true, use_ok hclean, bind, Except.bind]

/-- `vperm` gives 0 for an index beyond vl (R140). -/
theorem vperm_effect {b : Fin 32} (hb : SourceOk c (groupSize c.t k f f.bits) f.bits b none (c.t.activeAt k))
    (hclean : Clean (c.t.vsrc (groupSize c.t k f f.bits) f.bits a) c.t.vl fun j => (List.range c.t.vl).any fun h =>
      c.t.activeAt k h && (c.t.vsrc (groupSize c.t k f f.bits) f.bits b).get h == j) :
    vectorEffect (.vperm f k d a b) c = c.out (c.t.vwrite k (groupSize c.t k f f.bits) f.bits d .raw (c.t.activeAt k)
      fun j => if (c.t.vsrc (groupSize c.t k f f.bits) f.bits b).get j < c.t.vl then
        .new ((c.t.vsrc (groupSize c.t k f f.bits) f.bits a).get ((c.t.vsrc (groupSize c.t k f f.bits) f.bits b).get j)) false
        else .zero) := by
  obtain ⟨-, hgroupB, hcleanB⟩ := hb
  change vpermRun c f k d a b = _
  unfold vpermRun
  simp only [groupCheck_ok ha, groupCheck_ok hd, groupCheck_ok hgroupB, use_ok hcleanB, use_ok hclean, bind, Except.bind]

end

/-- `vcompress` lays the active elements into the group in order (R140). -/
theorem vcompress_effect (ha : SourceOk c (groupSize c.t k f f.bits) f.bits a none (c.t.activeAt k))
    (hd : GroupOk c.t (groupSize c.t k f f.bits) f.bits d) :
    vectorEffect (.vcompress f k d a) c = c.out (if c.t.vl = 0 then c.t else c.t.fillGroup (groupSize c.t k f f.bits) f.bits d .raw
      (fillFrom k (actives c k (c.t.vsrc (groupSize c.t k f f.bits) f.bits a)))) := by
  obtain ⟨-, hgroup, hclean⟩ := ha
  change vcompressRun c f k d a = _
  unfold vcompressRun
  simp only [groupCheck_ok hgroup, groupCheck_ok hd, use_ok hclean, bind, Except.bind]
  rfl

end

/-- The conditions of `vcmp` as propositions on exact integers (R138). -/
theorem vcmpHolds_eq (f : Fmt) (v : VCond) (x y : Nat) : vcmpHolds f v x y = match v with
    | .eq => decide (f.intVal x = f.intVal y)
    | .ne => decide (f.intVal x ≠ f.intVal y)
    | .lt => decide (f.intVal x < f.intVal y)
    | .ge => decide (f.intVal y ≤ f.intVal x) := by
  cases v with
  | eq => exact beq_eq_decide ..
  | ne => exact (congrArg (!·) (beq_eq_decide ..)).trans (decide_not ..).symm
  | lt => rfl
  | ge => rfl

/-- Settles O16: each instruction is the write of its effect, once its checks pass. -/
theorem vectorMovesAndPermutes : Obligations.VectorMovesAndPermutes := by
  unfold Obligations.VectorMovesAndPermutes
  refine ⟨fun s c f v u md k d a b => ⟨fun hready ha hb => ?_, fun hready ha hb => ?_, fun hready ha hb hd => ?_,
      fun hready hb hd => ?_⟩,
    fun s c f k d a b o => ⟨fun hready ha hd hbad hclean => ?_, fun hready ha hd hbad hclean => ?_,
      fun hready ha hb hd hclean => ?_, fun hready ha hd => ?_⟩⟩
  · have heffect : vectorEffect (.vcmp f v k md a b) c = compareRun c f k md a b (vcmpHolds f v) := rfl
    rw [compareRun_ok ha hb] at heffect
    simp only [vcmpHolds_eq] at heffect
    have hbecomes := becomes_of_effect hready rfl heffect
    cases v <;> exact hbecomes
  · exact becomes_of_effect hready rfl (compareRun_ok ha hb (fcmpHolds f u))
  · exact becomes_of_effect hready rfl (vsel_effect ha hb hd)
  · exact becomes_of_effect hready rfl (vmv_effect hb hd)
  · exact becomes_of_effect hready rfl (vslideUp_effect ha hd hbad hclean)
  · exact becomes_of_effect hready rfl (vslideDown_effect ha hd hbad hclean)
  · exact becomes_of_effect hready rfl (vperm_effect ha hd hb hclean)
  · have heffect := vcompress_effect ha hd
    rw [fillFrom_eq] at heffect
    exact becomes_of_effect hready rfl heffect

end Sys2Proof.Proofs
end

section
namespace Sys2Proof.Proofs
open Sys2Proof Sys2Proof.Machine Sys2Proof.Safety Sys2Proof.Laws

/-! ### Packed elements -/

theorem packElems_range (w : Nat) (g : Nat → Nat) (n : Nat) :
    packElems w ((List.range n).map g) = ((List.range n).map fun i => g i * (2 ^ w) ^ i).sum := by
  induction n generalizing g with
  | zero => rfl
  | succ n ih =>
    have hrest : packElems w ((List.range n).map fun i => g (i + 1)) = _ := ih fun i => g (i + 1)
    have hshift : ((List.range n).map fun i => g (i + 1) * (2 ^ w) ^ (i + 1)).sum =
        2 ^ w * ((List.range n).map fun i => g (i + 1) * (2 ^ w) ^ i).sum := by
      rw [← List.sum_map_mul_left]
      exact congrArg List.sum (List.map_congr_left fun i _ => by ring)
    rw [List.range_succ_eq_map, List.map_cons, List.map_map, List.map_cons, List.map_map, List.sum_cons]
    simp only [packElems, List.foldr_cons, Function.comp_def, Nat.succ_eq_add_one, pow_zero, Nat.mul_one] at hrest ⊢
    rw [hrest, hshift]

section
variable {w : Nat} {g : Nat → Nat} (hg : ∀ i, g i < 2 ^ w) {n : Nat}
include hg

/-- Packed elements fit the bits of their number and width. -/
theorem packElems_lt : packElems w ((List.range n).map g) < 2 ^ (w * n) := by
  rw [packElems_range, pow_mul]
  exact digits_lt hg n

/-- Packed elements read back one by one. -/
theorem packElems_digit {j : Nat} (hj : j < n) : packElems w ((List.range n).map g) / 2 ^ (w * j) % 2 ^ w = g j := by
  rw [packElems_range, pow_mul]
  exact digit_of_digits hg hj

end

/-! ### Configuration (O18) -/

section
variable {i : Instr} {s : State} {c : VIn} {d : SReg}

/-- An effect of a ready vector instruction that is a fault is the fault of the instruction (R318). -/
theorem vector_trap {cause addr : Nat} (h : VectorReady i s c) (hexec : exec i s = vector i s)
    (heffect : vectorEffect i c = .error (.trap cause addr)) :
    exec i s = .next (s.takeFault cause s.st.pc (BitVec.ofNat 64 addr)) := by
  obtain ⟨⟨hhazard, htiles, hvq, hasync⟩, hsettled, ⟨hroom, hseq⟩, hreads⟩ := h
  have hins : (newEntry s i s.st.pc s.st.npc false).ins = i := rfl
  have hchecks : vectorChecks i = .ok () := by
    obtain ⟨_, hok, -⟩ := bind_ok hreads
    exact hok
  have honce : s.atOnce = true := by simpa [State.atOnce, hvq, hasync, hroom, hseq] using hsettled
  have hrisky : s.risky = false := by
    simp only [State.risky, List.any_eq_false, Bool.and_eq_true, beq_iff_eq, not_and]
    intro y hy huid hmay
    have hunsettled := hsettled y hy huid
    simp [State.unsettled, hmay] at hunsettled
  have hissue : issueVector i s = .error (.trap cause addr) := by
    unfold issueVector
    simp only [noHazard_ok hhazard, hchecks, htiles, honce, if_true, runEntry, hreads, hins, heffect, bind, Except.bind]
  rw [hexec, vector, hissue]
  simp [State.stop, State.faultTurn, hvq, hrisky]

/-- A configuration that is granted sets Fc, Gc and vl and returns vl (R125). -/
theorem grants_of_effect {f : Fmt} {g : Nat} {len : Word} (h : VectorReady i s c) (hexec : exec i s = vector i s)
    (hd : vectorDst i = some d) (hroom : hasRoom c.t d = .ok ()) (heffect : vectorEffect i c = setConfig c d f g len) :
    let vl := min len.toNat (min 512 (g * 512 / f.bits))
    ∃ t', putReg { c.t with fc := f, gc := g, vl := vl } d (BitVec.ofNat 64 vl) .raw = .ok t' ∧ Becomes i s t' := by
  intro vl
  have hroom' : hasRoom { c.t with fc := f, gc := g, vl := vl } d = .ok () := by rw [← hroom]; cases d <;> rfl
  obtain ⟨t', hput⟩ := putReg_vector (vector_dst h hd) hroom' (BitVec.ofNat 64 vl) .raw
  refine ⟨t', hput, becomes_of_effect h hexec (heffect.trans ?_)⟩
  unfold setConfig
  simp only [bind, Except.bind]
  rw [hput]

end

/-- A configuration word is invalid when a bit of [63:10] or [7:4] is set or its format code is 14 or 15 (R125). -/
theorem config_invalid_iff (w : Word) : (w >>> 10 ≠ 0 ∨ w.extractLsb' 4 4 ≠ 0 ∨ 14 ≤ (w.extractLsb' 0 4).toNat) ↔
    (w.toNat / 2 ^ 10 ≠ 0 ∨ bitsOf w.toNat 7 4 ≠ 0 ∨ 14 ≤ w.toNat % 16) := by
  have hhigh : w >>> 10 = 0 ↔ w.toNat / 2 ^ 10 = 0 := by
    rw [← BitVec.toNat_inj, BitVec.toNat_ushiftRight, Nat.shiftRight_eq_div_pow]; rfl
  have hmid : w.extractLsb' 4 4 = 0 ↔ bitsOf w.toNat 7 4 = 0 := by
    rw [← BitVec.toNat_inj, BitVec.extractLsb'_toNat, Nat.shiftRight_eq_div_pow]; rfl
  have hlow : (w.extractLsb' 0 4).toNat = w.toNat % 16 := by
    rw [BitVec.extractLsb'_toNat, Nat.shiftRight_zero]
  rw [Ne, Ne, hhigh, hmid, hlow]

theorem vsetvl_effect {c : VIn} {d : SReg} {a b : Opnd} (hroom : hasRoom c.t d = .ok ()) (ha : c.a.bad = false) (hb : c.b.bad = false) :
    vectorEffect (.vsetvl d a b) c =
      if c.b.val >>> 10 ≠ 0 ∨ c.b.val.extractLsb' 4 4 ≠ 0 ∨ 14 ≤ (c.b.val.extractLsb' 0 4).toNat then
        .error (.trap 0x0213 c.b.val.toNat)
      else setConfig c d (Fmt.ofCode (c.b.val.extractLsb' 0 4).toNat) (2 ^ (c.b.val.extractLsb' 8 2).toNat) c.a.val := by
  have hcode : (c.b.val.extractLsb' 0 4).toNat = c.b.val.toNat % 16 := by
    rw [BitVec.extractLsb'_toNat, Nat.shiftRight_zero]
  have hgroup : (c.b.val.extractLsb' 8 2).toNat = bitsOf c.b.val.toNat 9 8 := by
    rw [BitVec.extractLsb'_toNat, Nat.shiftRight_eq_div_pow]; rfl
  simp only [config_invalid_iff]
  rw [hcode, hgroup]
  change vsetvlRun c d = _
  unfold vsetvlRun
  simp only [hroom, poisonCheck_ok ha, poisonCheck_ok hb, bind, Except.bind]

/-! ### Mask instructions (O18) -/

/-- A mask written as a destination, bit by bit; m0 discards, and vl = 0 changes nothing (R138, R146). -/
theorem mwrite_bits (t : Strand) (k : Keys) (d : Fin 8) (act res : Nat → Bool) :
    ∃ w : BitVec 512, t.mwrite k d act res = { t with m := t.m.set d w } ∧ (d = 0 → w = t.m.get 0) ∧
      (d ≠ 0 → ∀ h, h < 512 → w.getLsbD h =
        if h < t.vl then (if act h then res h else if k.mz then false else (t.m.get d).getLsbD h)
        else if k.tz && t.vl ≠ 0 then false else (t.m.get d).getLsbD h) := by
  unfold Strand.mwrite
  by_cases hnone : t.vl = 0 ∨ d.val = 0
  · refine ⟨t.m.get d, ?_, fun hd => by rw [hd], fun hd h _ => ?_⟩
    · rw [if_pos hnone]
      have hset : t.m.set d (t.m.get d) = t.m := Vector.set_getElem_self _
      rw [hset]
    · have hvl : t.vl = 0 := hnone.resolve_right fun hval => hd (Fin.ext hval)
      simp [hvl]
  · rw [if_neg hnone]
    obtain ⟨hvl, hval⟩ := not_or.mp hnone
    refine ⟨_, rfl, fun hd => absurd (congrArg Fin.val hd) hval, fun _ h hh => ?_⟩
    have hbit : ∀ p : Bool, bitOf p < 2 ^ 1 := by decide
    have hdigit := packElems_digit (w := 1) (g := fun i => bitOf <|
      if i < t.vl then (if act i then res i else if k.mz then false else bitAt (t.m.get d).toNat i)
      else if k.tz then false else bitAt (t.m.get d).toNat i) (fun i => hbit _) hh
    have hread : ∀ j, bitAt (t.m.get d).toNat j = (t.m.get d).getLsbD j := fun j => by rw [bitAt_eq_testBit, BitVec.testBit_toNat]
    simp only [hread, Nat.one_mul] at hdigit ⊢
    rw [BitVec.getLsbD_ofNat, Nat.testBit_eq_decide_div_mod_eq]
    simp only [hh, decide_true, Bool.true_and, pow_one] at hdigit ⊢
    rw [hdigit]
    have hone : ∀ p : Bool, decide (bitOf p = 1) = p := by decide
    rw [hone]
    simp [hvl]

section
variable {c : VIn} {k : Keys} {d a b : Fin 8}

/-- The bitwise mask instructions are `maskRun` of their operations (R146). -/
theorem mask_effect {i : Instr} {g : Nat → Bool} (s : State) (c : VIn)
    (h : (i, g) ∈ [(Instr.mand k d a b, fun h => (c.t.m.get a).getLsbD h && (c.t.m.get b).getLsbD h),
      (.mor k d a b, fun h => (c.t.m.get a).getLsbD h || (c.t.m.get b).getLsbD h),
      (.mxor k d a b, fun h => (c.t.m.get a).getLsbD h != (c.t.m.get b).getLsbD h),
      (.mnot k d b, fun h => !(c.t.m.get b).getLsbD h)]) :
    exec i s = vector i s ∧ vectorEffect i c = maskRun c k d g := by
  simp only [List.mem_cons, Prod.mk.injEq, List.not_mem_nil, or_false] at h
  rcases h with ⟨rfl, rfl⟩ | ⟨rfl, rfl⟩ | ⟨rfl, rfl⟩ | ⟨rfl, rfl⟩ <;> exact ⟨rfl, rfl⟩

/-- `mset` sets the bits below its operand in the whole mask, whatever vl is (R146). -/
theorem mset_bits {o : Opnd} (hbad : c.b.bad = false) :
    ∃ w : BitVec 512, vectorEffect (.mset d o) c = c.out { c.t with m := c.t.m.set d w } ∧ (d = 0 → w = c.t.m.get 0) ∧
      (d ≠ 0 → ∀ h, h < 512 → w.getLsbD h = decide (h < c.b.val.toNat)) := by
  have heffect : vectorEffect (.mset d o) c = c.out (if d.val = 0 then c.t else
      { c.t with m := c.t.m.set d.val (BitVec.ofNat 512 (2 ^ min 512 c.b.val.toNat - 1)) }) := by
    change msetRun c d = _
    simp only [msetRun, poisonCheck_ok hbad, bind, Except.bind]
  by_cases hval : d.val = 0
  · refine ⟨c.t.m.get d, heffect.trans ?_, fun hd => by rw [hd], fun hd => absurd (Fin.ext hval) hd⟩
    have hset : c.t.m.set d (c.t.m.get d) = c.t.m := Vector.set_getElem_self _
    rw [if_pos hval, hset]
  · refine ⟨_, heffect.trans (by rw [if_neg hval]), fun hd => absurd (congrArg Fin.val hd) hval, fun _ h hh => ?_⟩
    rw [BitVec.getLsbD_ofNat, Nat.testBit_two_pow_sub_one]
    simp [hh]

end

/-- Settles O18: the configuration by `setConfig`, the masks by their bits. -/
theorem vectorConfigurationAndMasks : Obligations.VectorConfigurationAndMasks := by
  unfold Obligations.VectorConfigurationAndMasks
  refine ⟨fun s c f grp d a b hroom ha hb => ⟨fun hready => ?_, fun hready => ?_⟩,
    fun s c k d a b o => ⟨fun i g hi hready => ?_, fun hready hbad => ?_⟩⟩
  · have heffect := vsetvl_effect (d := d) (a := a) (b := b) hroom ha hb
    intro w
    split
    · next hinvalid =>
      rw [if_pos hinvalid] at heffect
      have htrap := vector_trap hready rfl heffect
      rwa [BitVec.ofNat_toNat, BitVec.setWidth_eq] at htrap
    · next hvalid =>
      rw [if_neg hvalid] at heffect
      exact grants_of_effect hready rfl rfl hroom heffect
  · have heffect : vectorEffect (.vsetvli f grp d b) c = setConfig c d f (grpSize grp) c.b.val := by
      change vsetvliRun c f grp d = _
      simp only [vsetvliRun, hroom, poisonCheck_ok hb, bind, Except.bind]
    have hgrant := grants_of_effect hready rfl rfl hroom heffect
    cases grp <;> exact hgrant
  · obtain ⟨hexec, heffect⟩ := mask_effect s c hi
    obtain ⟨w, hwrite, hdiscard, hbits⟩ := mwrite_bits c.t k d (fun _ => true) g
    refine ⟨w, becomes_of_effect hready hexec (heffect.trans ?_), hdiscard, fun hd h hh => (hbits hd h hh).trans (by simp)⟩
    rw [maskRun, hwrite]
  · obtain ⟨w, heffect, hdiscard, hbits⟩ := mset_bits (d := d) (o := o) hbad
    exact ⟨w, becomes_of_effect hready rfl heffect, hdiscard, hbits⟩

end Sys2Proof.Proofs
end

section
namespace Sys2Proof.Proofs
open Sys2Proof Sys2Proof.Machine Sys2Proof.Safety Sys2Proof.Laws

/-! ### Groups of registers read and written (O12) -/

/-- Registers joined end to end are the digits of a number in base 2^512 (R126). -/
theorem joinRegs_digits (v : Vector (BitVec 512) 32) (reg n : Nat) :
    joinRegs v reg n = ((List.range n).map fun i => (v[reg + i]?.getD 0).toNat * (2 ^ 512) ^ i).sum := by
  induction n generalizing reg with
  | zero => rfl
  | succ n ih =>
    rw [joinRegs, ih]
    generalize 2 ^ 512 = b
    rw [List.range_succ_eq_map, List.map_cons, List.map_map, List.sum_cons, ← List.sum_map_mul_left, Nat.add_zero, pow_zero, Nat.mul_one]
    refine congrArg (_ + List.sum ·) (List.map_congr_left fun i _ => ?_)
    rw [Function.comp_apply, Nat.succ_eq_add_one, Nat.add_right_comm reg 1 i, ← Nat.add_assoc, pow_succ']
    ring

/-- One register written: its bits, its poison marks, its tag. -/
def oneReg (t : Strand) (tag : Fmt) (reg bits bad : Nat) : Strand :=
  { t with v := t.v.setIfInBounds reg (BitVec.ofNat 512 bits), vtag := t.vtag.setIfInBounds reg tag
           vpois := t.vpois.setIfInBounds reg (BitVec.ofNat 128 bad) }

section
variable (t : Strand) (tag : Fmt)

theorem putRegs_succ (reg bits bad n : Nat) : t.putRegs tag reg bits bad (n + 1) =
    (oneReg t tag reg bits bad).putRegs tag (reg + 1) (bits / 2 ^ 512) (bad / 2 ^ 128) n := rfl

/-- What `n` registers written from `reg` leave: the other registers, and everything of the strand but its registers. -/
theorem putRegs_others (reg bits bad n : Nat) :
    (∀ r : Fin 32, r.val < reg ∨ reg + n ≤ r.val → (t.putRegs tag reg bits bad n).v.get r = t.v.get r ∧
      (t.putRegs tag reg bits bad n).vtag.get r = t.vtag.get r ∧ (t.putRegs tag reg bits bad n).vpois.get r = t.vpois.get r) ∧
    { t.putRegs tag reg bits bad n with v := t.v, vtag := t.vtag, vpois := t.vpois } = t := by
  induction n generalizing t reg bits bad with
  | zero => exact ⟨fun _ _ => ⟨rfl, rfl, rfl⟩, rfl⟩
  | succ n ih =>
    obtain ⟨hothers, hframe⟩ := ih (oneReg t tag reg bits bad) (reg + 1) (bits / 2 ^ 512) (bad / 2 ^ 128)
    refine ⟨fun r hr => ?_, ?_⟩
    · obtain ⟨hv, htag, hpois⟩ := hothers r (by omega)
      have hne : reg ≠ r.val := by omega
      rw [putRegs_succ, hv, htag, hpois]
      simp [oneReg, Vector.get_eq_getElem, hne]
    · rw [putRegs_succ]
      exact congrArg (fun u : Strand => { u with v := t.v, vtag := t.vtag, vpois := t.vpois }) hframe

/-- Every register written takes its 512 bits and the tag (R127). -/
theorem putRegs_written {reg n : Nat} (bits bad : Nat) {r : Fin 32} (hlow : reg ≤ r.val) (hhigh : r.val < reg + n) :
    (t.putRegs tag reg bits bad n).v.get r = BitVec.ofNat 512 (bits / (2 ^ 512) ^ (r.val - reg)) ∧
    (t.putRegs tag reg bits bad n).vtag.get r = tag := by
  induction n generalizing t reg bits bad with
  | zero => omega
  | succ n ih =>
    rw [putRegs_succ]
    rcases Nat.eq_or_lt_of_le hlow with rfl | hlt
    · obtain ⟨hothers, -⟩ := putRegs_others (oneReg t tag r.val bits bad) tag (r.val + 1) (bits / 2 ^ 512) (bad / 2 ^ 128) n
      obtain ⟨hv, htag, -⟩ := hothers r (.inl (Nat.lt_succ_self _))
      rw [hv, htag]
      simp [oneReg, Vector.get_eq_getElem]
    · obtain ⟨hv, htag⟩ := ih (oneReg t tag reg bits bad) (bits / 2 ^ 512) (bad / 2 ^ 128) hlt (by omega)
      have hpow : (2 ^ 512) ^ (r.val - reg) = 2 ^ 512 * (2 ^ 512) ^ (r.val - (reg + 1)) := by
        rw [← pow_succ']; congr 1; omega
      rw [hv, htag, hpow, Nat.div_div_eq_div_mul]
      exact ⟨rfl, rfl⟩

/-- A group reads as the bits written to it. -/
theorem joinRegs_putRegs {reg n : Nat} (bits bad : Nat) (hregs : reg + n ≤ 32) :
    joinRegs (t.putRegs tag reg bits bad n).v reg n = bits % (2 ^ 512) ^ n := by
  rw [joinRegs_digits, ← digits_of_number]
  refine congrArg List.sum (List.map_congr_left fun i hi => ?_)
  have hin : i < n := List.mem_range.mp hi
  have hreg : reg + i < 32 := by omega
  have hread : (t.putRegs tag reg bits bad n).v[reg + i]?.getD 0 = (t.putRegs tag reg bits bad n).v.get ⟨reg + i, hreg⟩ := by
    simp [Vector.get_eq_getElem, hreg]
  obtain ⟨hv, -⟩ := putRegs_written t tag bits bad (r := ⟨reg + i, hreg⟩) (Nat.le_add_right reg i) (Nat.add_lt_add_left hin reg)
  rw [hread, hv, BitVec.toNat_ofNat, Nat.add_sub_cancel_left]

end

/-- The number that a write leaves in an element: a new value at its width, the old one, or 0. -/
def fillValue (w : Nat) (old : Nat → Nat) (i : Nat) : Fill → Nat
  | .new x _ => lowBits w x
  | .keep => old i
  | .zero => 0

theorem fillValue_lt {w : Nat} {old : Nat → Nat} {i : Nat} (hold : old i < 2 ^ w) (x : Fill) : fillValue w old i x < 2 ^ w := by
  cases x with
  | new x bad => exact Nat.mod_lt _ (Nat.two_pow_pos w)
  | keep => exact hold
  | zero => exact Nat.two_pow_pos w

theorem vsrc_get_lt (t : Strand) (eg w reg i : Nat) : (t.vsrc eg w reg).get i < 2 ^ w := Nat.mod_lt _ (Nat.two_pow_pos w)

section
variable (t : Strand) (tag : Fmt) (eg w reg : Nat) (f : Nat → Fill)

/-- A group that is filled is written with the packed values of its elements. -/
theorem fillGroup_putRegs : ∃ bad, t.fillGroup eg w reg tag f = t.putRegs tag reg
    (packElems w ((List.range (eg * 512 / w)).map fun i => fillValue w (t.vsrc eg w reg).get i (f i))) bad eg := by
  unfold Strand.fillGroup
  simp only
  refine ⟨_, congrArg (fun l => t.putRegs tag reg (packElems w l) _ eg) (List.ext_getElem (by simp) fun i hi _ => ?_)⟩
  simp only [List.getElem_map, List.getElem_zipIdx, List.getElem_range, Nat.zero_add]
  cases f i <;> rfl

/-- Every element of a group that is filled reads as what the fill gives it. -/
theorem fillGroup_get {j : Nat} (hregs : reg + eg ≤ 32) (hj : j < eg * 512 / w) :
    ((t.fillGroup eg w reg tag f).vsrc eg w reg).get j = fillValue w (t.vsrc eg w reg).get j (f j) := by
  obtain ⟨bad, hfill⟩ := fillGroup_putRegs t tag eg w reg f
  have hlt : ∀ i, fillValue w (t.vsrc eg w reg).get i (f i) < 2 ^ w := fun i => fillValue_lt (vsrc_get_lt ..) _
  have hfits : packElems w ((List.range (eg * 512 / w)).map fun i => fillValue w (t.vsrc eg w reg).get i (f i)) < (2 ^ 512) ^ eg := by
    refine (packElems_lt hlt).trans_le ?_
    rw [← pow_mul]
    refine Nat.pow_le_pow_right (by decide) ?_
    rw [Nat.mul_comm w, Nat.mul_comm 512]
    exact Nat.div_mul_le_self _ _
  rw [hfill]
  change joinRegs (t.putRegs tag reg _ bad eg).v reg eg / 2 ^ (w * j) % 2 ^ w = _
  rw [joinRegs_putRegs t tag _ bad hregs, Nat.mod_eq_of_lt hfits]
  exact packElems_digit hlt hj

/-- Every register of a group that is filled takes the tag. -/
theorem fillGroup_tag {r : Fin 32} (hlow : reg ≤ r.val) (hhigh : r.val < reg + eg) :
    (t.fillGroup eg w reg tag f).vtag.get r = tag := by
  obtain ⟨bad, hfill⟩ := fillGroup_putRegs t tag eg w reg f
  rw [hfill]
  exact (putRegs_written t tag _ bad hlow hhigh).2

/-- A group that is filled leaves the other registers and the rest of the strand. -/
theorem fillGroup_others :
    (∀ r : Fin 32, r.val < reg ∨ reg + eg ≤ r.val → (t.fillGroup eg w reg tag f).v.get r = t.v.get r ∧
      (t.fillGroup eg w reg tag f).vtag.get r = t.vtag.get r ∧ (t.fillGroup eg w reg tag f).vpois.get r = t.vpois.get r) ∧
    { t.fillGroup eg w reg tag f with v := t.v, vtag := t.vtag, vpois := t.vpois } = t := by
  obtain ⟨bad, hfill⟩ := fillGroup_putRegs t tag eg w reg f
  rw [hfill]
  exact putRegs_others t tag reg _ bad eg

end

/-- What R127 gives element `i` of a destination: its result, or what `mpol` or `tpol` says. -/
def policyFill (t : Strand) (k : Keys) (act : Nat → Bool) (res : Nat → Fill) (i : Nat) : Fill :=
  if i < t.vl then (if act i then res i else if k.mz then .zero else .keep) else if k.tz then .zero else .keep

theorem vwrite_fillGroup {t : Strand} (hvl : t.vl ≠ 0) (k : Keys) (eg w reg : Nat) (tag : Fmt) (act : Nat → Bool) (res : Nat → Fill) :
    t.vwrite k eg w reg tag act res = t.fillGroup eg w reg tag (policyFill t k act res) := if_neg hvl

/-- Settles O12: with vl = 0 nothing is written; otherwise the group is filled under the policies. -/
theorem vectorWrite : Obligations.VectorWrite := by
  unfold Obligations.VectorWrite
  intro t k eg reg f tag act g w t' hregs
  by_cases hvl : t.vl = 0
  · have ht : t' = t := if_pos hvl
    rw [ht]
    exact ⟨fun _ => rfl, fun hne => absurd hvl hne, fun _ _ => ⟨rfl, rfl, rfl⟩, rfl⟩
  · have ht : t' = t.fillGroup eg w reg tag (policyFill t k act fun j => .new (g j) false) := vwrite_fillGroup hvl ..
    rw [ht]
    obtain ⟨hothers, hframe⟩ := fillGroup_others t tag eg w reg (policyFill t k act fun j => .new (g j) false)
    refine ⟨fun hzero => absurd hzero hvl, fun _ => ⟨fun j hj => ?_, fun r => fillGroup_tag t tag eg w reg _⟩, hothers, hframe⟩
    rw [fillGroup_get t tag eg w reg _ hregs hj]
    simp only [policyFill, apply_ite (fillValue w (t.vsrc eg w reg).get j)]
    rfl

end Sys2Proof.Proofs
end

section
namespace Sys2Proof.Proofs
open Sys2Proof Sys2Proof.Machine Sys2Proof.Safety Sys2Proof.Laws

/-! ### `vrep` (O20) -/

/-- A body that is fetched has its `k` instructions, each of which may stand in a body (R150). -/
theorem fetchBody_entries {s s1 : State} {pc num k fin : Nat} {es : List VEntry} (h : fetchBody s pc num k = .ok (es, fin, s1)) :
    es.length = k ∧ ∀ e ∈ es, bodyAllowed e.ins = true ∧ e.body = true := by
  induction k generalizing s pc num es with
  | zero =>
    cases h
    exact ⟨rfl, fun e he => absurd he List.not_mem_nil⟩
  | succ k ih =>
    rw [fetchBody] at h
    obtain ⟨⟨d, s2⟩, -, h⟩ := bind_ok h
    cases d with
    | bad f w => cases h
    | short => cases h
    | ok i len =>
      simp only at h
      split at h
      · next hallowed =>
        obtain ⟨⟨rest, fin', s3⟩, hrest, h⟩ := bind_ok h
        cases h
        obtain ⟨hlen, hbody⟩ := ih hrest
        refine ⟨by rw [List.length_cons, hlen], fun e he => ?_⟩
        rcases List.mem_cons.mp he with rfl | he
        · exact ⟨hallowed, rfl⟩
        · exact hbody e he
      · cases h

theorem forM_ok {α : Type} {f : α → Run Unit} {l : List α} (h : ∀ x ∈ l, f x = .ok ()) : l.forM f = .ok () := by
  induction l with
  | nil => rfl
  | cons x l ih =>
    obtain ⟨hx, hl⟩ := List.forall_mem_cons.mp h
    change (f x >>= fun _ => l.forM f) = _
    rw [hx]
    exact ih hl

section
variable {s s1 : State} {k : Fin 15} {c : SReg}

theorem countQueue_castLE (n : Fin 4) : countQueue (.q (n.castLE (by decide))) = some n := by
  simp [countQueue]

/-- A count is not there while its queue holds nothing or an earlier entry pops it (R128). -/
theorem countReady_false {n : Fin 4} (hc : c = .q (n.castLE (by decide)))
    (h : (∃ e ∈ s.st.vq, e.pops c = true) ∨ s.st.q.get (n.castLE (by decide)) = []) : countReady s c = false := by
  have hqueue : countQueue c = some n := by rw [hc]; exact countQueue_castLE n
  simp only [countReady, hqueue]
  rcases h with ⟨e, he, hpops⟩ | hempty
  · have hany : (s.st.vq.any fun e => e.pops c) = true := List.any_eq_true.mpr ⟨e, he, hpops⟩
    rw [hany]; rfl
  · rw [hempty]; simp

/-- A count that can be read, and that no earlier entry pops, is there. -/
theorem countReady_true {x : Src} {t : Strand} (hlegal : vectorMisuse (some (.reg c)) = none)
    (hpops : ∀ e ∈ s.st.vq, e.pops c = false) (hread : takeReg s s.st c = .ok (x, t)) : countReady s c = true := by
  cases c with
  | g n => rfl
  | sp r => rfl
  | q n =>
    have hn : n.val < 4 := by
      by_contra hn
      simp [vectorMisuse, hn] at hlegal
    have hany : (s.st.vq.any fun e => e.pops (.q n)) = false := List.any_eq_false.mpr fun e he => by simp [hpops e he]
    have hfull : s.st.q[n.val] ≠ [] := fun hempty => by
      have h15 : n.val ≠ 15 := by omega
      have h8 : n.val < 8 := by omega
      simp [takeReg, h15, h8, hempty] at hread
    simp [countReady, countQueue, hn, hany, Vector.get_eq_getElem, hfull]

section
variable (hsuspended : s.st.loop.suspended = false) (hactive : s.st.loop.active = false) (hfree : hazard (.vrep k c) s = false)
  (hlegal : vectorMisuse (some (.reg c)) = none)
include hsuspended hactive hfree hlegal

/-- A `vrep` outside a loop fails as the fetch of its body fails. -/
theorem vrepRun_error {e : Stop} (hbody : fetchBody s s.st.npc.toNat s.st.vnum (k.val + 1) = .error e) :
    vrepRun k c s = .error e := by
  simp [vrepRun, hsuspended, hactive, noHazard_ok hfree, hlegal, noMisuse, hbody, bind, Except.bind]

section
variable {es : List VEntry} {fin : Nat} (hbody : fetchBody s s.st.npc.toNat s.st.vnum (k.val + 1) = .ok (es, fin, s1))
  (hclear : ∀ e ∈ es, hazard e.ins s = false ∧ tilesClear s.st e.ins = .ok ())
include hbody hclear

/-- A `vrep` outside a loop, its body fetched and clear: it reads its count, or enters to wait for it. -/
theorem vrepRun_eq : vrepRun k c s = if countReady s c then (do
      let (x, t) ← takeReg s s.st c
      poisonCheck x
      if x.val = 0 then .ok { s1 with st := { t with pc := BitVec.ofNat 40 fin } }
      else enterBody { s1 with st := t } ⟨true, false, s.st.pc, k.val + 1, x.val, 0, 0, none, none⟩ es (BitVec.ofNat 40 fin))
    else enterBody s1 ⟨true, false, s.st.pc, k.val + 1, 0, 0, 0, none, countQueue c⟩ es (BitVec.ofNat 40 fin) := by
  have hhazard : (es.any fun e => hazard e.ins s) = false := List.any_eq_false.mpr fun e he => by simp [(hclear e he).1]
  have htiles : es.forM (fun e => tilesClear s.st e.ins) = .ok () := forM_ok fun e he => (hclear e he).2
  simp only [vrepRun, hsuspended, hactive, noHazard_ok hfree, hlegal, noMisuse, hbody, hhazard, htiles, Bool.false_eq_true, if_false,
    bind, Except.bind]

end

end

/-- A body enters when its entries are free at once (R149). -/
theorem enterBody_ok {l : Loop} {es : List VEntry} {pc : BitVec 40} (h : s.seqCount s.st.cell + es.length ≤ 16) :
    enterBody s l es pc = .ok { s with st := { s.st with
      vq := s.st.vq ++ es, vnum := s.st.vnum + es.length, lbody := [], loop := l, pc := pc } } := if_pos h

theorem enterBody_waits {l : Loop} {es : List VEntry} {pc : BitVec 40} (h : 16 < s.seqCount s.st.cell + es.length) :
    enterBody s l es pc = .error (.wait .issue) := if_neg (Nat.not_le.mpr h)

end

theorem takeReg_cell {s : State} {t : Strand} {c : SReg} {x : Src} (h : takeReg s s.st c = .ok (x, t)) : t.cell = s.st.cell := by
  rcases takeReg_cases s h with rfl | ⟨_, rfl⟩ | ⟨_, _, rfl⟩ <;> rfl

/-! ### A body in the sequencer (O20) -/

/-- What following an entry changes: accesses and checkpoints. -/
theorem followFrom_frame (s : State) (old : Strand) (e : VEntry) (d : Option SReg) : ∃ accs vq undo,
    s.followFrom old e d = { s with accs := accs, st := { s.st with vq := vq, undo := undo } } ∧ vq.length = s.st.vq.length ∧
    ((∀ y ∈ s.st.vq, y.body = false) → ∀ y ∈ vq, y.body = false) := by
  refine ⟨_, _, _, rfl, List.length_map _, fun hbody y hy => ?_⟩
  obtain ⟨z, hz, rfl⟩ := List.mem_map.mp hy
  split
  · exact hbody z hz
  · exact hbody z hz

theorem stepDone_idle {s : State} (h : s.st.stepping = false) : s.stepDone = s := by simp [State.stepDone, h]

section
variable {s s1 : State} {h e : VEntry} {r : List VEntry} (hvq : s.st.vq = h :: r) (hbody : h.body = true)
  (hat : s.st.vq[s.st.loop.idx]? = some e) (hstarted : ∀ y ∈ s.st.vq, y.started = false)

section
include hat hstarted

theorem due_started : e.started = false := hstarted e (List.mem_of_getElem? hat)

include hvq hbody

theorem sentEntry_body : s.sentEntry = none := by
  rw [hvq] at hat
  simp [State.sentEntry, hvq, hbody, hat, due_started (hvq ▸ hat) hstarted]

theorem nextEntry_body (hdue : s.st.loop.due = none) : s.st.nextEntry = some e := by
  rw [hvq] at hat
  simp [Strand.nextEntry, hvq, hbody, hat, hdue, due_started (hvq ▸ hat) hstarted]

end

/-- The strand whose loop has taken its count `x` from a queue that is left with `q` (R128). -/
def countTaken (t : Strand) (n : Fin 4) (x : QVal) (q : List QVal) : Strand :=
  let t := { t with q := t.q.set n.val q (by omega) }
  if x.val = 0 then { t with vq := t.vq.filter fun y => !y.body, loop := Loop.idle }
  else { t with loop := { t.loop with count := x.val, due := none } }

include hvq hbody

/-- A body that waits for its count takes it (R128). -/
theorem execEntry_count {n : Fin 4} {x : QVal} {q : List QVal} (hat : s.st.vq[s.st.loop.idx]? = some e)
    (hstarted : ∀ y ∈ s.st.vq, y.started = false) (hdue : s.st.loop.due = some n)
    (hcount : s.st.q.get (n.castLE (by decide)) = x :: q) (hclean : x.bad = false) :
    s.execEntry = some (State.stepDone ({ s with st := (countTaken s.st n x q).prune }.followFrom s.st h none)) := by
  have hnext : s.st.nextEntry = none := by simp [Strand.nextEntry, hvq, hbody, hdue]
  have htake : s.takeCount n =
      some (.ok (State.stepDone ({ s with st := (countTaken s.st n x q).prune }.followFrom s.st h none))) := by
    simp only [State.takeCount]
    split
    · next y q' g r' hq hvq' =>
      obtain ⟨rfl, rfl⟩ := List.cons.inj (hcount.symm.trans hq)
      obtain ⟨rfl, rfl⟩ := List.cons.inj (hvq.symm.trans hvq')
      rw [if_neg (ne_true_of_eq_false hclean)]
      rfl
    · next hnone => exact absurd hvq (hnone x q h r hcount)
  simp only [State.execEntry, sentEntry_body hvq hbody hat hstarted, hnext, hdue, hvq, hbody, htake, if_true]

section
include hat hstarted

/-- The body instruction that is due executes whole where the model does not delay accesses, or its fault is taken. -/
theorem execEntry_body (hdue : s.st.loop.due = none) (hwalk : e.walk = none) (hasync : s.async = false)
    (haccs : ∀ y ∈ s.accs, y.uid ≠ s.st.uid) :
    (runEntry s e = .ok s1 → s.execEntry = some (s1.endEntry s.st e (vectorDst e.ins))) ∧
    (∀ cause addr, runEntry s e = .error (.trap cause addr) → s.execEntry = some (s.entryFault e cause addr)) := by
  have hsettled : s.unsettledBefore s.st.uid e.num = false := by
    simp only [State.unsettledBefore, List.any_eq_false, Bool.and_eq_true, beq_iff_eq, not_and]
    exact fun y hy huid => absurd huid.1 (haccs y hy)
  have hsent : s.st.vectorSent = false := List.any_eq_false.mpr fun y hy => by simp [hstarted y hy]
  have hturn : s.entryTurn e = true := by simp [State.entryTurn, hsent, hsettled]
  have hbegin := beginEntry_eq (e := e) hasync hsettled
  have hsentry := sentEntry_body hvq hbody hat hstarted
  have hnext := nextEntry_body hvq hbody hat hstarted hdue
  refine ⟨fun hrun => ?_, fun cause addr hrun => ?_⟩
  · rw [hrun] at hbegin
    simp [State.execEntry, hsentry, hnext, hwalk, hbegin, bind, Except.bind]
  · rw [hrun] at hbegin
    simp [State.execEntry, hsentry, hnext, hwalk, hbegin, hturn, bind, Except.bind]

end

/-- The fault of a body instruction leaves the loop suspended before its `vrep`, with the body kept (R151). -/
theorem entryFault_body (hall : ∀ y ∈ s.st.vq, y.body = true) (hdue : s.st.loop.due = none) (haccs : ∀ y ∈ s.accs, y.uid ≠ s.st.uid)
    (cause addr : Nat) :
    s.entryFault e cause addr = State.takeFault { s with st := { s.st with
      lbody := s.st.vq.map VEntry.fresh, vq := [], pc := s.st.loop.pc, status := .ready
      loop := { s.st.loop with active := false, suspended := true, srpc := some s.st.pc } } } cause e.pc (BitVec.ofNat 64 addr) := by
  have hbehind : (s.st.vq.find? fun x => !x.body) = none := List.find?_eq_none.mpr fun y hy => by simp [hall y hy]
  have hkept : s.st.vq.filter (·.body) = s.st.vq := List.filter_eq_self.mpr hall
  have haccess : (s.accs.filter fun x => !(x.uid == s.st.uid && isLoad x.ins
      && s.st.vq.any fun y => y.started && y.num + 1 == x.after && y.ins == x.ins)) = s.accs :=
    List.filter_eq_self.mpr fun y hy => by simp [haccs y hy]
  rw [hvq] at hbehind hkept haccess
  simp only [State.entryFault, State.pullBack, hvq, hbody, hdue, hbehind, hkept, haccess, Option.isSome_none, Bool.and_false, if_true,
    Bool.false_eq_true, if_false]

end

theorem retire_frame (t : Strand) (e : VEntry) : ∃ vq loop, t.retire e = { t with vq := vq, loop := loop } := by
  unfold Strand.retire
  split
  · simp only
    split
    · exact ⟨_, _, rfl⟩
    · split
      · exact ⟨_, _, rfl⟩
      · exact ⟨_, _, rfl⟩
  · exact ⟨_, _, rfl⟩

/-- The end of an entry of a strand that is not single-stepped: what retiring it leaves, and checkpoints. -/
theorem endEntry_frame {s : State} (hstepping : s.st.stepping = false) (old : Strand) (e : VEntry) (d : Option SReg) :
    ∃ accs vq undo saves, s.endEntry old e d = { s with
      accs := accs, st := { s.st.retire e with vq := vq, undo := undo, saves := saves } } ∧ vq.length = (s.st.retire e).vq.length := by
  obtain ⟨accs, vq, undo, hfollow, hlen, -⟩ := followFrom_frame { s with st := (s.st.retire e).prune } old e d
  refine ⟨accs, vq, undo, (s.st.retire e).prune.saves, ?_, hlen⟩
  change State.stepDone _ = _
  have hidle : (s.st.retire e).stepping = false := by
    obtain ⟨_, _, hretire⟩ := retire_frame s.st e
    rw [hretire]
    exact hstepping
  rw [hfollow]
  exact stepDone_idle hidle

/-- A body instruction retires: the next one is due, or the body leaves, or its first one is due again (R149). -/
theorem retire_body {t : Strand} {e : VEntry} (hbody : e.body = true) : t.retire e =
    if t.loop.idx + 1 < t.loop.k then { t with loop := { t.loop with idx := t.loop.idx + 1 } }
    else if t.loop.iter + 1 = t.loop.count then { t with vq := t.vq.drop t.loop.k, loop := Loop.idle }
    else { t with loop := { t.loop with idx := 0, iter := t.loop.iter + 1 } } := if_pos hbody

/-- The end of a body instruction: the next one is due, or the body leaves, or its first one is due again (R149). -/
theorem endEntry_body {s : State} {e : VEntry} (hbody : e.body = true) (hstepping : s.st.stepping = false) (old : Strand) (d : Option SReg) :
    let s' := s.endEntry old e d
    let l := s.st.loop
    s'.mem = s.mem ∧ s'.st.v = s.st.v ∧ s'.st.m = s.st.m ∧ s'.st.g = s.st.g ∧ s'.st.q = s.st.q ∧ s'.st.pc = s.st.pc ∧
    (if l.idx + 1 < l.k then s'.st.loop = { l with idx := l.idx + 1 } ∧ s'.st.vq.length = s.st.vq.length
      else if l.iter + 1 = l.count then s'.st.loop = Loop.idle ∧ s'.st.vq.length = s.st.vq.length - l.k
      else s'.st.loop = { l with idx := 0, iter := l.iter + 1 } ∧ s'.st.vq.length = s.st.vq.length) := by
  obtain ⟨accs, vq, undo, saves, hend, hlen⟩ := endEntry_frame hstepping old e d
  intro s' l
  have hs' : s' = _ := hend
  rw [hs']
  have hretire := retire_body (t := s.st) hbody
  by_cases hnext : l.idx + 1 < l.k
  · rw [if_pos hnext] at hretire
    rw [hretire] at hlen ⊢
    rw [if_pos hnext]
    exact ⟨rfl, rfl, rfl, rfl, rfl, rfl, rfl, hlen⟩
  · by_cases hlast : l.iter + 1 = l.count
    · rw [if_neg hnext, if_pos hlast] at hretire
      rw [hretire] at hlen ⊢
      rw [if_neg hnext, if_pos hlast]
      exact ⟨rfl, rfl, rfl, rfl, rfl, rfl, rfl, hlen.trans List.length_drop⟩
    · rw [if_neg hnext, if_neg hlast] at hretire
      rw [hretire] at hlen ⊢
      rw [if_neg hnext, if_neg hlast]
      exact ⟨rfl, rfl, rfl, rfl, rfl, rfl, rfl, hlen⟩

/-- A loop that has its count goes on with it, or leaves at 0; the queue is left with the other counts (R128, R149). -/
theorem countTaken_follows {s : State} (hstepping : s.st.stepping = false) (h : VEntry) (n : Fin 4) (x : QVal) (q : List QVal) :
    let s' := State.stepDone ({ s with st := (countTaken s.st n x q).prune }.followFrom s.st h none)
    s'.mem = s.mem ∧ s'.st.g = s.st.g ∧ s'.st.pc = s.st.pc ∧ s'.st.q = s.st.q.set (n.val) q (by omega) ∧
    (if x.val = 0 then s'.st.loop = Loop.idle ∧ ∀ y ∈ s'.st.vq, y.body = false
      else s'.st.loop = { s.st.loop with count := x.val, due := none } ∧ s'.st.vq.length = s.st.vq.length) := by
  obtain ⟨accs, vq, undo, hfollow, hlen, hout⟩ := followFrom_frame { s with st := (countTaken s.st n x q).prune } s.st h none
  intro s'
  by_cases hx : x.val = 0
  · have htaken : countTaken s.st n x q = { s.st with
        q := s.st.q.set n.val q (by omega), vq := s.st.vq.filter fun y => !y.body, loop := Loop.idle } := if_pos hx
    have hs' : s' = _ := (congrArg State.stepDone hfollow).trans (stepDone_idle (by rw [htaken]; exact hstepping))
    rw [hs', if_pos hx]
    rw [htaken] at hout ⊢
    refine ⟨rfl, rfl, rfl, rfl, rfl, hout fun y hy => ?_⟩
    simpa using List.of_mem_filter hy
  · have htaken : countTaken s.st n x q = { s.st with
        q := s.st.q.set n.val q (by omega), loop := { s.st.loop with count := x.val, due := none } } := if_neg hx
    have hs' : s' = _ := (congrArg State.stepDone hfollow).trans (stepDone_idle (by rw [htaken]; exact hstepping))
    rw [hs', if_neg hx]
    rw [htaken] at hlen ⊢
    exact ⟨rfl, rfl, rfl, rfl, rfl, hlen⟩

/-- Settles O20: `vrep` by its equation outside a loop, and the sequencer by what the entry that is due does. -/
theorem vectorLoops : Obligations.VectorLoops := by
  unfold Obligations.VectorLoops
  refine ⟨fun s s1 k c x t es fin => ?_, fun s s1 h e r => ?_⟩
  · intro i free
    have hexec : exec i s = .next (s.settle (vrepRun k c s)) := rfl
    refine ⟨fun hsuspended hturn => ?_, fun hsuspended hactive => ?_, fun cause addr hfree hturn hbody => ?_,
      fun hfree hbody hclear => ⟨fun n hc hempty => ⟨fun hroom => ?_, fun hroom => ?_⟩, fun hpops hread hclean => ?_⟩⟩
    · rw [hexec]
      simp [vrepRun, hsuspended, State.stop, hturn]
    · rw [hexec]
      simp [vrepRun, hsuspended, hactive, State.stop]
    · obtain ⟨hsuspended, hactive, hhazard, hlegal⟩ := hfree
      rw [hexec, vrepRun_error hsuspended hactive hhazard hlegal hbody]
      simp [State.stop, hturn]
    · obtain ⟨hsuspended, hactive, hhazard, hlegal⟩ := hfree
      have hqueue : countQueue c = some n := by rw [hc]; exact countQueue_castLE n
      rw [hexec, vrepRun_eq hsuspended hactive hhazard hlegal hbody hclear, countReady_false hc hempty, if_neg Bool.false_ne_true,
        enterBody_ok hroom, hqueue]
      rfl
    · obtain ⟨hsuspended, hactive, hhazard, hlegal⟩ := hfree
      rw [hexec, vrepRun_eq hsuspended hactive hhazard hlegal hbody hclear, countReady_false hc hempty, if_neg Bool.false_ne_true,
        enterBody_waits hroom]
      rfl
    · obtain ⟨hsuspended, hactive, hhazard, hlegal⟩ := hfree
      obtain ⟨hlen, hentries⟩ := fetchBody_entries hbody
      have hcell := takeReg_cell hread
      have hrun := vrepRun_eq hsuspended hactive hhazard hlegal hbody hclear
      rw [countReady_true hlegal hpops hread, if_pos rfl, hread] at hrun
      simp only [poisonCheck_ok hclean, bind, Except.bind] at hrun
      refine ⟨hlen, hentries, fun hzero => ?_, fun hcount hroom => ⟨hcell, ?_⟩, fun hcount hroom => ?_⟩
      · rw [hexec, hrun, if_pos hzero]
        rfl
      · rw [← hcell, ← hlen] at hroom
        rw [hexec, hrun, if_neg hcount, enterBody_ok hroom, hlen]
        rfl
      · rw [← hcell, ← hlen] at hroom
        rw [hexec, hrun, if_neg hcount, enterBody_waits hroom]
        rfl
  · intro l hvq hhead hat hbody hstarted hwalk hparked hstatus hstepping hasync haccs hsaves
    have hready : s.st.vectorReady = true := by simp [Strand.vectorReady, hstatus, hvq]
    refine ⟨fun n x q hdue hcount hclean => ?_, fun hdue hrun hloop hvq1 hstepping1 => ?_, fun cause addr hdue hall hrun => ?_⟩
    · have hentry := execEntry_count hvq hhead hat hstarted hdue hcount hclean
      exact ⟨_, sequencerExecute_alone hparked hready hentry, countTaken_follows hstepping h n x q⟩
    · have hentry := (execEntry_body hvq hhead hat hstarted hdue hwalk hasync haccs).1 hrun
      have hend := endEntry_body hbody hstepping1 s.st (vectorDst e.ins)
      rw [hloop, hvq1] at hend
      exact ⟨_, sequencerExecute_alone hparked hready hentry, hend⟩
    · have hentry := (execEntry_body hvq hhead hat hstarted hdue hwalk hasync haccs (s1 := s)).2 cause addr hrun
      rw [sequencerExecute_alone hparked hready hentry, entryFault_body hvq hhead hall hdue haccs]

end Sys2Proof.Proofs
end

section
namespace Sys2Proof.Proofs
open Sys2Proof Sys2Proof.Machine Sys2Proof.Safety

/-! ### A fence behind a store of the scalar stream in the sequencer (O25) -/

/-- A strand whose sequencer holds a store of the scalar stream, which no instruction enters there. -/
def scalarStoreQueued : State := { State.reset with st := { Strand.empty with
  vq := [newEntry State.reset (.st .s64 (.g 3) (.reg (.g 1)) 0) 0 0 false] } }

/-- The store in the sequencer counts as unacknowledged, so that a fence waits for it. -/
theorem scalarStoreQueued_waits : outStatus (exec (.fence .rel .strand) scalarStoreQueued) = some (.blocked .issue) := by
  decide +kernel

/-- Refutes O25: its clause for a `fence` that goes on asks only that the entries of the sequencer be no vector accesses. In a state
whose sequencer holds a scalar store, that store is counted in R181's unacknowledged stores, and the fence waits where the statement
says that it completes. The counterexample rests on an entry that is no vector instruction. -/
theorem not_fencesAndInvalidation : ¬ Obligations.FencesAndInvalidation := by
  unfold Obligations.FencesAndInvalidation
  intro h
  obtain ⟨-, hfence, -⟩ := h scalarStoreQueued .rel .strand (.g 0) Src.zero Strand.empty
  have hvector : ∀ e ∈ scalarStoreQueued.st.vq, isVectorMem e.ins = false := by
    intro e he
    obtain rfl := List.mem_singleton.mp he
    rfl
  obtain ⟨-, hdone⟩ := hfence rfl hvector fun t ht => absurd ht List.not_mem_nil
  have hstatus := (congrArg outStatus (hdone (.inr fun ⟨_, hy, _⟩ => List.not_mem_nil hy) (.inl rfl))).symm.trans scalarStoreQueued_waits
  revert hstatus
  decide +kernel

end Sys2Proof.Proofs
end

section
namespace Sys2Proof.Proofs
open Sys2Proof Sys2Proof.Machine Sys2Proof.Safety Sys2Proof.Laws

/-! ### Products: what a step leaves of the strand in focus (O32) -/

theorem tilePut_st (s : State) (k n : Nat) (x : Tile) (q : Nat → Bool) : (s.tilePut k n x q).st = s.st :=
  (List.cons.inj (tilePut_strands s k n x q)).1

theorem tileFind_st (s : State) (c : ErrCtx) (k n : Nat) (q : Nat → Bool) : (s.tileFind c k n q).st = s.st := by
  refine foldl_keeps State.st (fun s f => ?_) _ _
  dsimp only
  split
  · rfl
  · split
    · exact outline_st (outline_logError ..)
    · rw [modCluster_st]
      exact outline_st (outline_logError ..)

section
variable (p : Prod) (s : State) (t : Strand) (n : Nat)

theorem putAll_st (l : List (Nat × Tile)) (f : Tile → Tile) : (p.putAll s l f).st = s.st :=
  foldl_keeps State.st (fun _ _ => tilePut_st ..) _ _

theorem markAll_st (f : Tile → Tile) : (p.markAll s f).st = s.st :=
  foldl_keeps State.st (fun _ _ => modCluster_st ..) _ _

theorem record_st : (p.record s t n).st = s.st := by
  unfold Prod.record
  split
  · rfl
  · exact markAll_st ..

theorem stepTiles_st (rs : List (Nat × StepReads)) (l : List (Nat × Nat)) : (p.stepTiles s t n rs l).2.st = s.st := by
  induction rs generalizing s l with
  | nil => rfl
  | cons r rs ih =>
    unfold Prod.stepTiles
    split
    · rfl
    · extract_lets s1 x
      have hfind : s1.st = s.st := tileFind_st ..
      split
      · exact hfind
      · have hrest := (ih s1 (l.drop r.2.all.length)).trans hfind
        split
        · next heq => rwa [heq] at hrest
        · next heq => rwa [heq] at hrest

end

/-! ### Products: where a step stops (O32) -/

/-- A run does not stop at a state that a home has read. -/
structure FindsNothing {α : Type} (r : Run α) : Prop where
  none : ∀ s cause addr, r ≠ .error (.found s cause addr)

section
variable {α β : Type} {r : Run α}

theorem FindsNothing.ok (a : α) : FindsNothing (.ok a : Run α) := ⟨fun _ _ _ h => nomatch h⟩

theorem FindsNothing.trap (cause addr : Nat) : FindsNothing (.error (.trap cause addr) : Run α) :=
  ⟨fun _ _ _ h => nomatch h⟩

theorem FindsNothing.bind {f : α → Run β} (h : FindsNothing r) (hf : ∀ a, FindsNothing (f a)) : FindsNothing (r >>= f) := by
  cases r with
  | ok a => exact hf a
  | error e => exact ⟨fun s cause addr he => h.none s cause addr (by cases he; rfl)⟩

/-- A run that stops at a state read by a home does so in its first part or, after that, in its second. -/
theorem found_bind {f : α → Run β} {s : State} {cause addr : Nat} (h : (r >>= f) = .error (.found s cause addr)) :
    r = .error (.found s cause addr) ∨ ∃ a, r = .ok a ∧ f a = .error (.found s cause addr) := by
  cases r with
  | ok a => exact .inr ⟨a, rfl, h⟩
  | error e => exact .inl (by cases h; rfl)

theorem FindsNothing.found_bind {f : α → Run β} {s : State} {cause addr : Nat} (hr : FindsNothing r)
    (h : (r >>= f) = .error (.found s cause addr)) : ∃ a, r = .ok a ∧ f a = .error (.found s cause addr) :=
  (Proofs.found_bind h).resolve_left (hr.none s cause addr)

theorem FindsNothing.mapM {f : α → Run β} (hf : ∀ a, FindsNothing (f a)) (l : List α) : FindsNothing (l.mapM f) := by
  induction l with
  | nil => exact .ok _
  | cons a l ih =>
    rw [List.mapM_cons]
    exact (hf a).bind fun _ => ih.bind fun _ => .ok _

theorem FindsNothing.forM {f : α → Run PUnit} (hf : ∀ a, FindsNothing (f a)) (l : List α) : FindsNothing (l.forM f) := by
  induction l with
  | nil => exact .ok _
  | cons a l ih => exact (hf a).bind fun _ => ih

end

section
variable (p : Prod) (s : State) (t : Strand)

theorem locate_findsNothing (va acc : Nat) (r w x : Bool) : FindsNothing (s.locate t va acc r w x) := by
  unfold State.locate State.permit
  split
  · exact ⟨fun _ _ _ h => nomatch h⟩
  · extract_lets pa
    split
    · exact .trap ..
    · split
      · exact .trap ..
      · exact .ok _

theorem pieces_findsNothing (va : Nat) (store : Bool) (n fuel : Nat) : FindsNothing (s.pieces t va store n fuel) := by
  induction fuel generalizing va n with
  | zero => exact .ok _
  | succ fuel ih =>
    unfold State.pieces
    split
    · exact .ok _
    · exact (locate_findsNothing ..).bind fun _ => (ih ..).bind fun _ => .ok _

theorem turnAt_findsNothing (uid cell pa : Nat) : FindsNothing (s.turnAt uid cell pa) := by
  unfold State.turnAt
  split
  · exact ⟨fun _ _ _ h => nomatch h⟩
  · exact .ok _

theorem reads_findsNothing (k n : Nat) : FindsNothing (p.reads s t k n) := by
  have hmeta : FindsNothing (p.metaReads s t n) := by
    unfold Prod.metaReads
    split
    · exact .ok _
    · exact .mapM (fun _ => (pieces_findsNothing ..).bind fun _ => .ok _) _
  have hrows : FindsNothing (p.rowReads s t k n) := .mapM (fun _ => (pieces_findsNothing ..).bind fun _ => .ok _) _
  exact hmeta.bind fun _ => hrows.bind fun _ => .ok _

theorem joinGroups_findsNothing (gs : List (List EngRead)) (l : List (Nat × Nat)) : FindsNothing (joinGroups gs l) := by
  induction gs generalizing l with
  | nil => exact .ok _
  | cons g gs ih =>
    unfold joinGroups
    split
    · exact .trap ..
    · exact (ih _).bind fun _ => .ok _

theorem entries_findsNothing (gm n i : Nat) (gs : List (List EngRead)) (l : List (Nat × Nat)) :
    FindsNothing (p.entries gm n i gs l) := by
  induction gs generalizing i l with
  | nil => exact .ok _
  | cons g gs ih =>
    unfold Prod.entries
    split
    · exact .trap ..
    · extract_lets es
      split
      · exact .trap ..
      · exact (ih ..).bind fun _ => .ok _

theorem operands_findsNothing (n : Nat) (r : StepReads) (l : List (Nat × Nat)) : FindsNothing (p.operands n r l) :=
  (entries_findsNothing ..).bind fun _ => (joinGroups_findsNothing ..).bind fun _ => (joinGroups_findsNothing ..).bind fun _ => .ok _

theorem stepTiles_findsNothing (n : Nat) (rs : List (Nat × StepReads)) (l : List (Nat × Nat)) :
    FindsNothing (p.stepTiles s t n rs l).1 := by
  induction rs generalizing s l with
  | nil => exact .ok _
  | cons r rs ih =>
    have hop := operands_findsNothing p n r.2 l
    unfold Prod.stepTiles
    split
    · next heq => exact ⟨fun s cause addr h => hop.none s cause addr (heq.trans (by cases h; rfl))⟩
    · extract_lets s1 x
      split
      · exact .trap ..
      · have hrest := ih s1 (l.drop r.2.all.length)
        split
        · next heq =>
          rw [heq] at hrest
          exact ⟨fun s cause addr h => hrest.none s cause addr (by cases h; rfl)⟩
        · exact .ok _

/-- What a step makes of what it read: the strand in focus as it was, or a fault with the step recorded (R154). -/
theorem stepDone_cases (n : Nat) (rs : List (Nat × StepReads)) (l : List (Nat × Nat)) :
    (∀ s', p.stepDone s t n rs l = .ok s' → s'.st = s.st) ∧
    (∀ s' cause addr, p.stepDone s t n rs l = .error (.found s' cause addr) → ∃ s1, s' = p.record s1 t n ∧ s1.st = s.st) := by
  have hst := stepTiles_st p s t n rs l
  have hnone := stepTiles_findsNothing p s t n rs l
  unfold Prod.stepDone
  split
  · next heq =>
    rw [heq] at hst
    refine ⟨fun s' h => ?_, fun _ _ _ h => by cases h⟩
    cases h
    exact (putAll_st ..).trans hst
  · next heq =>
    rw [heq] at hst
    refine ⟨fun _ h => (by cases h), fun s' cause addr h => ?_⟩
    cases h
    exact ⟨_, rfl, hst⟩
  · next heq =>
    rw [heq] at hnone
    refine ⟨fun _ h => (by cases h), fun s' cause addr h => ?_⟩
    cases h
    exact absurd rfl (hnone.none s' cause addr)

/-- One step more: what it reads, each in its turn, and what it makes of that (R154, R276). -/
theorem steps_succ (n fuel : Nat) : p.steps s t n (fuel + 1) =
    if p.shape.blocks ≤ n then .ok (s, n)
    else (do
      let rs ← p.stepReads s t n
      (rs.map fun r => r.2.all).flatten.forM fun r => s.turnAt t.uid t.cell r.pa
      let got := makeReads s t.ctx (rs.map fun r => r.2.all).flatten
      let s1 ← p.stepDone got.2 t n rs got.1
      p.steps s1 t (n + 1) fuel) := rfl

/-- Steps that stop at a fault of theirs leave the step recorded that met it. -/
theorem steps_found {n fuel : Nat} {s2 : State} {cause addr : Nat} (h : p.steps s t n fuel = .error (.found s2 cause addr)) :
    (∃ s1 m, n ≤ m ∧ m < p.shape.blocks ∧ s2 = p.record s1 t m) ∧ s2.st = s.st := by
  induction fuel generalizing s n with
  | zero => cases h
  | succ fuel ih =>
    rw [steps_succ] at h
    split at h
    · cases h
    · next hn =>
      have hreads : FindsNothing (p.stepReads s t n) := .mapM (fun _ => (reads_findsNothing ..).bind fun _ => .ok _) _
      obtain ⟨rs, -, h⟩ := hreads.found_bind h
      obtain ⟨-, -, h⟩ := (FindsNothing.forM (fun _ => turnAt_findsNothing ..) _).found_bind h
      extract_lets got at h
      have hgot : got.2.st = s.st := outline_st (outline_makeReads ..)
      obtain ⟨hok, hfound⟩ := stepDone_cases p got.2 t n rs got.1
      rcases found_bind h with hdone | ⟨s1, hdone, hrest⟩
      · obtain ⟨s1, rfl, hs1⟩ := hfound _ _ _ hdone
        exact ⟨⟨s1, n, le_rfl, by omega, rfl⟩, (record_st ..).trans (hs1.trans hgot)⟩
      · obtain ⟨⟨s3, m, hm, hlast, hs2⟩, hst⟩ := ih s1 hrest
        exact ⟨⟨s3, m, by omega, hlast, hs2⟩, hst.trans ((hok _ hdone).trans hgot)⟩

/-- Steps that end have come to the last one, or have used up their number. -/
theorem steps_end {n fuel : Nat} {r : State × Nat} (h : p.steps s t n fuel = .ok r) : p.shape.blocks ≤ r.2 ∨ r.2 = n + fuel := by
  induction fuel generalizing s n with
  | zero => cases h; exact .inr rfl
  | succ fuel ih =>
    rw [steps_succ] at h
    split at h
    · next hn => cases h; exact .inl hn
    · obtain ⟨_, _, h⟩ := bind_ok h
      obtain ⟨_, _, h⟩ := bind_ok h
      obtain ⟨_, _, h⟩ := bind_ok h
      exact (ih _ h).imp_right fun hm => by omega

end

/-! ### A product that is ready (O32) -/

theorem resumeStep_eq (p : Prod) (s : State) (t : Strand) : p.resumeStep s t =
    if ∀ k ∈ p.clusters, let z := (s.cluster k).tile p.tile
      z.rvalid = true ∧ z.rpc = t.pc ∧ z.rcell = t.cell ∧ z.rstep = ((s.cluster p.home).tile p.tile).rstep
    then ((s.cluster p.home).tile p.tile).rstep else 0 := by
  simp only [Prod.resumeStep, List.all_eq_true, Bool.and_eq_true, beq_iff_eq, and_assoc]

/-- The product that an instruction makes of its operands and its shape word (R157, R158, R162). -/
def productOf (f : Fmt) (tb : TileB) (g4 sparse complex : Bool) (d : Fin 8) (x y : Src) (t : Strand) (w : Nat) : Prod :=
  ⟨f, bFmt f tb, complex, d, shapeOf w, t.dataVa x.val, if sparse then some (t.dataVa y.val) else none, prodClusters t g4,
    clusterOf t.cell⟩

/-- A product passes every check of R156: its turn, its operands, its tiles on every engine, its shape, and what it reads. -/
structure ProductReady (i : Instr) (s : State) (f : Fmt) (tb : TileB) (g4 sparse complex : Bool) (d : Fin 8) (a : SReg) (b : Opnd)
    (x y : Src) (t1 t : Strand) (w : Nat) (l : List (Loc × Nat × Nat)) : Prop where
  ready : TileReady i s
  legal : misuseRead a = none ∧ opMisuse b = none
  reads : takeReg s s.st a = .ok (x, t1) ∧ takeOp s t1 b = .ok (y, t)
  clean : x.bad = false ∧ y.bad = false
  tiles : ∀ k ∈ prodClusters t g4, s.holds s.st k d = true ∧
    (((s.cluster k).tile d).tag = accTag f ∨ ((s.cluster k).tile d).tag = .raw)
  gang : g4 = true → s.gangTwo s.st = true
  inLine : sparse = true → y.val.toNat % 8 = 0
  word : shapeWord s t sparse y = .ok (w, s)
  shape : shapeCheck w (bFmt f tb) complex = .ok ()
  rows : (productOf f tb g4 sparse complex d x y t w).aPieces s t (shapeOf w).rows = .ok l
  placed : aPlacement s.boot.device.toNat (clusterOf t.cell) l = .ok ()
  entries : (productOf f tb g4 sparse complex d x y t w).metaCheck s t = .ok ()

section
variable {i : Instr} {s : State} {f : Fmt} {tb : TileB} {g4 sparse complex : Bool} {d : Fin 8} {a : SReg} {b : Opnd}
  {x y : Src} {t1 t : Strand} {w : Nat} {l : List (Loc × Nat × Nat)}

/-- The two operands leave the strand in its cell, partition and launch. -/
theorem productReady_context (h : ProductReady i s f tb g4 sparse complex d a b x y t1 t w l) :
    t.cell = s.st.cell ∧ t.part = s.st.part ∧ t.launch = s.st.launch := by
  obtain ⟨ha, hb⟩ := h.reads
  obtain ⟨hcell, hpart, hlaunch, -⟩ := takeOp_context (b := .reg a) ha
  obtain ⟨hcell', hpart', hlaunch', -⟩ := takeOp_context hb
  exact ⟨hcell'.trans hcell, hpart'.trans hpart, hlaunch'.trans hlaunch⟩

theorem home_readTurn (h : HomeReady i s) : readTurn s = .ok () := by
  simp [readTurn, vectorAccessIdle, home_vq h, home_noStores h, bind, Except.bind]

/-- The shape word of a dense product is its operand, which is checked before it is used (R157). -/
theorem productReady_dense (h : ProductReady i s f tb g4 false complex d a b x y t1 t w l) :
    shapeCheck y.val.toNat (bFmt f tb) complex = .ok () := by
  have hword : (.ok (y.val.toNat, s) : Run (Nat × State)) = .ok (w, s) := h.word
  cases hword
  exact h.shape

/-- A product that is ready makes its steps from where it resumes (R154). -/
theorem productRun_ready (h : ProductReady i s f tb g4 sparse complex d a b x y t1 t w l) (limit : Nat) :
    let p := productOf f tb g4 sparse complex d x y t w
    productRun i s limit f tb g4 sparse complex d a b =
      p.steps s s.st (p.resumeStep s s.st) limit >>= fun r => .ok (p.leave r.1 s.st { t with top := none } r.2) := by
  intro p
  obtain ⟨hcell, hpart, hlaunch⟩ := productReady_context h
  have hgang : (g4 && s.gangTwo t) = g4 ∧ (g4 && !s.gangTwo t) = false := by
    have hsame : s.gangTwo t = s.gangTwo s.st := by simp only [State.gangTwo, State.launchOf, hpart, hlaunch]
    cases g4 with
    | false => exact ⟨rfl, rfl⟩
    | true => simp [hsame, h.gang rfl]
  have htags : (prodClusters t g4).forM (s.tagOn t d.val fun tag => tag == accTag f) = .ok () := forM_ok fun k hk => by
    rcases (h.tiles k hk).2 with htag | htag <;> simp [State.tagOn, htag]
  have hholds : (prodClusters t g4).forM (s.holdOn t d.val) = .ok () := forM_ok fun k hk => by
    simp [State.holdOn, holds_congr s hpart hlaunch, (h.tiles k hk).1]
  obtain ⟨hmisA, hmisB⟩ := h.legal
  obtain ⟨hreadA, hreadB⟩ := h.reads
  obtain ⟨hbadA, hbadB⟩ := h.clean
  obtain ⟨hhome, -, hasync, -⟩ := id h.ready
  have hrows := h.rows
  have hplaced := h.placed
  have hentries := h.entries
  simp only [productOf] at hrows hentries
  simp only [productRun, tile_turn h.ready, noMisuse_ok hmisA, noMisuse_ok hmisB, hreadA, hreadB, hgang.1, hgang.2, htags, hholds,
    home_readTurn hhome, h.word, hrows, hplaced, hentries, poisonCheck_ok hbadA, poisonCheck_ok hbadB, hasync,
    Bool.false_eq_true, false_and, if_false, bind, Except.bind]
  cases sparse with
  | false =>
    simp only [productReady_dense h, Bool.not_false, Bool.false_eq_true, if_true, if_false]
    rfl
  | true =>
    have haligned : aligned y.val.toNat 8 = .ok () := by simp [aligned, h.inLine rfl]
    simp only [haligned, h.shape, Bool.not_true, Bool.false_eq_true, if_true, if_false]
    rfl

/-- The three instructions of R159 to R161 make the same run. -/
theorem exec_product {r : SReg} (hi : (i, sparse, complex, b) ∈ [(Instr.mma f tb g4 d a b, false, false, b),
      (.mmas f tb g4 d a r, true, false, .reg r), (.mmac f tb g4 d a b, false, true, b)])
    (hstep : s.st.stepping = false) (h : ProductReady i s f tb g4 sparse complex d a b x y t1 t w l) {p : Prod} {n : Nat}
    (hp : productOf f tb g4 sparse complex d x y t w = p) (hn : p.resumeStep s s.st = n) :
    exec i s = .next (s.settle (p.steps s s.st n 128 >>= fun r => .ok (p.leave r.1 s.st { t with top := none } r.2))) := by
  subst hp hn
  rw [← productRun_ready h 128]
  obtain ⟨hhome, -⟩ := h.ready
  have hlimit : stepLimit s.st = 128 := by simp [stepLimit, hstep]
  simp only [List.mem_cons, List.not_mem_nil, or_false, Prod.mk.injEq] at hi
  rcases hi with ⟨rfl, rfl, rfl, -⟩ | ⟨rfl, rfl, rfl, rfl⟩ | ⟨rfl, rfl, rfl, -⟩
  · simp only [exec, execMma, tileDone_idle (home_vq hhome), hlimit]
  · simp only [exec, execMmas, tileDone_idle (home_vq hhome), hlimit]
  · simp only [exec, execMmac, tileDone_idle (home_vq hhome), hlimit]

theorem shapeOf_blocks (w : Nat) : (shapeOf w).blocks ≤ 128 := by
  simp only [shapeOf, bitsOf]
  omega

end

/-! ### A product of one step (O32) -/

theorem foldl_crossStep_poison (p : Prod) (l : List Cross) (x : Tile) : (l.foldl (crossStep p) x).poison = x.poison := by
  induction l generalizing x with
  | nil => rfl
  | cons a l ih => exact ih _

/-- A step gives a tile the accumulator's tag and poisons nothing (R159, R161). -/
theorem apply_tag_poison (p : Prod) (x : Tile) (rows : List (List Nat)) (cols : List (List Nat × Nat)) :
    (p.apply x rows cols).tag = accTag p.f ∧ (p.apply x rows cols).poison = x.poison := by
  obtain ⟨nf, happly⟩ := apply_eq p x rows cols
  rw [happly, foldl_crossStep_tag, foldl_crossStep_poison]
  unfold Tile.taken
  split <;> exact ⟨rfl, rfl⟩

section
variable {p : Prod} {s : State} {t : Strand} {k : Nat} {rd : StepReads} {got : List (Nat × Nat)} {rows : List (List Nat)}
  {cols : List (List Nat × Nat)}

theorem steps_past {n : Nat} (h : p.shape.blocks ≤ n) (fuel : Nat) : p.steps s t n fuel = .ok (s, n) := by
  cases fuel with
  | zero => rfl
  | succ fuel => rw [steps_succ, if_pos h]

/-- The state that a product of one step leaves before its completion. -/
def oneStep (p : Prod) (s : State) (k : Nat) (rows : List (List Nat)) (cols : List (List Nat × Nat)) : State :=
  s.modCluster k fun c => c.setTile p.tile { p.apply ((s.cluster k).tile p.tile) rows cols with rvalid := false }

/-- A step on the strand's own engine, with no word in error, is the step applied to its tile (R159). -/
theorem stepDone_one (hquiet : Quiet s) (hpoison : ((s.cluster k).tile p.tile).poison = []) (hop : p.operands 0 rd got = .ok (rows, cols)) :
    p.stepDone s t 0 [(k, rd)] got = .ok (oneStep p s k rows cols) := by
  have hflips := hquiet.1
  have hkeep : (p.apply ((s.cluster k).tile p.tile) rows cols).poison = [] := (apply_tag_poison ..).2.trans hpoison
  simp only [Prod.stepDone, Prod.stepTiles, hop, tileFind_quiet hflips, Tile.badAt, hpoison, List.any_nil, Bool.false_eq_true, if_false,
    Prod.putAll, List.foldl_cons, List.foldl_nil, tilePut_quiet hquiet, hkeep, List.filter_nil, oneStep]

theorem steps_one (hquiet : Quiet s) (hpoison : ((s.cluster k).tile p.tile).poison = []) (hblocks : p.shape.blocks = 1)
    (hclusters : p.clusters = [k]) (hreads : p.reads s t k 0 = .ok rd) (hturn : ∀ r ∈ rd.all, s.turnAt t.uid t.cell r.pa = .ok ())
    (hmake : makeReads s t.ctx rd.all = (got, s)) (hop : p.operands 0 rd got = .ok (rows, cols)) (fuel : Nat) :
    p.steps s t 0 (fuel + 1) = .ok (oneStep p s k rows cols, 1) := by
  have hall : p.stepReads s t 0 = .ok [(k, rd)] := by
    simp only [Prod.stepReads, hclusters, List.mapM_cons, List.mapM_nil, hreads]
    rfl
  have hlist : ([(k, rd)].map fun r => r.2.all).flatten = rd.all := by simp
  rw [steps_succ, if_neg (by omega), hall]
  simp only [bind, Except.bind, hlist, forM_ok hturn, hmake, stepDone_one hquiet hpoison hop]
  exact steps_past (by omega) fuel

/-- The completion of a product of one step changes nothing that the step has not changed. -/
theorem leave_one (hblocks : p.shape.blocks = 1) (hclusters : p.clusters = [k]) (old : Strand) :
    let s' := p.leave (oneStep p s k rows cols) old t 1
    s'.mem = s.mem ∧ s'.st = { t with pc := s.st.npc } ∧
      (s'.cluster k).tile p.tile = { p.apply ((s.cluster k).tile p.tile) rows cols with rvalid := false } ∧
      ∀ j m, j ≠ k ∨ m ≠ p.tile → (s'.cluster j).tile m = (s.cluster j).tile m := by
  have htag := (apply_tag_poison p ((s.cluster k).tile p.tile) rows cols).1
  have hleave : p.leave (oneStep p s k rows cols) old t 1 = ((oneStep p s k rows cols).modCluster k fun c =>
      c.setTile p.tile { (c.tile p.tile).taken (accTag p.f) with rvalid := false }).done t := by
    simp only [Prod.leave, hblocks, le_refl, if_true, Prod.markAll, hclusters, List.foldl_cons, List.foldl_nil]
  rw [hleave]
  refine ⟨rfl, rfl, ?_, fun j m hjm => ?_⟩
  · rw [done_cluster, cluster_modCluster, tile_setTile, oneStep, cluster_modCluster, tile_setTile]
    simp only [Tile.taken, htag, accTag_ne_raw, if_false]
  · rw [done_cluster]
    by_cases hj : j = k
    · subst hj
      have hm : m ≠ p.tile := hjm.resolve_left (absurd rfl)
      rw [cluster_modCluster, tile_setTile_ne _ _ hm, oneStep, cluster_modCluster, tile_setTile_ne _ _ hm]
    · rw [cluster_modCluster_ne _ _ hj, oneStep, cluster_modCluster_ne _ _ hj]

end

/-- Settles O32: a ready product makes its steps from where it resumes; only a step that meets a fault stops them at a state of its
own, with the step recorded; and 128 steps are enough for every shape. -/
theorem products : Obligations.Products := by
  unfold Obligations.Products
  intro s s2 i f tb g4 sparse complex d a b r x y t1 t w l hi hstep hready hok hmisA hmisB hreadA hreadB hbadA hbadB htiles hgang
    hline hword hshape p own n hrows hplaced hentries
  have h : ProductReady i s f tb g4 sparse complex d a b x y t1 t w l :=
    ⟨hready, ⟨hmisA, hmisB⟩, ⟨hreadA, hreadB⟩, ⟨hbadA, hbadB⟩, htiles, hgang, hline, hword, hshape, hrows, hplaced, hentries⟩
  obtain ⟨hhome, -, -, hquiet⟩ := hready
  obtain ⟨hcell, -⟩ := productReady_context h
  have hresume : p.resumeStep s s.st = n := by
    rw [resumeStep_eq]
    simp only [p, hcell]
    rfl
  have hexec := exec_product hi hstep h (p := p) rfl hresume
  refine ⟨fun m hsteps => ?_, fun cause addr hsteps => ?_, fun rd got rows cols hblocks hg4 hnone hreads hturn hmake hop => ?_⟩
  · have hlast : p.shape.blocks ≤ m := by
      have hfew : p.shape.blocks ≤ 128 := shapeOf_blocks w
      rcases steps_end _ _ _ hsteps with hend | hend
      · exact hend
      · simp only at hend
        omega
    rw [hsteps] at hexec
    exact ⟨hlast, hexec.trans (congrArg _ (if_pos hlast))⟩
  · obtain ⟨hrecord, hst⟩ := steps_found _ _ _ hsteps
    rw [hsteps] at hexec
    refine ⟨hrecord, hexec.trans ?_⟩
    rw [← hst]
    exact congrArg _ (if_pos (home_faultTurn hhome))
  · subst hg4
    have hclusters : p.clusters = [clusterOf s.st.cell] := congrArg (fun c => [clusterOf c]) hcell
    have hmem : clusterOf s.st.cell ∈ p.clusters := by
      rw [hclusters]
      exact List.mem_singleton_self _
    have hzero : n = 0 := if_neg fun hall => by
      obtain ⟨hvalid, -⟩ := hall _ hmem
      exact Bool.false_ne_true (hnone.symm.trans hvalid)
    obtain ⟨-, -, hpoison⟩ := hok
    rw [hzero, steps_one (p := p) hquiet hpoison hblocks hclusters hreads hturn hmake hop 127] at hexec
    exact ⟨_, hexec, leave_one hblocks hclusters s.st⟩

end Sys2Proof.Proofs
end

section
namespace Sys2Proof.Proofs
open Sys2Proof Sys2Proof.Machine Sys2Proof.Safety Sys2Proof.Laws

/-! ### tscan (O34) -/

/-- A tile without poison is written the same, whatever part of it a command writes. -/
theorem tilePut_clean {s : State} (h : Quiet s) {x : Tile} (hx : x.poison = []) (k n : Nat) (p : Nat → Bool) :
    s.tilePut k n x p = s.tilePut k n x allElems := by
  simp only [tilePut_quiet h, hx, List.filter_nil]

/-- A tile whose resume point may have been cleared is otherwise as it was. -/
theorem clearResume_tile (s : State) (k n m : Nat) :
    ∃ v, ((clearResume s k n).cluster k).tile m = { (s.cluster k).tile m with rvalid := v } := by
  rw [clearResume, cluster_modCluster]
  by_cases hm : m = n
  · subst hm
    exact ⟨false, tile_setTile ..⟩
  · exact ⟨_, tile_setTile_ne _ _ hm⟩

theorem filled_poison (x : Tile) (tag : Fmt) (f : Nat → Nat) : (x.filled tag f).poison = x.poison := by
  simp only [Tile.filled]

/-- A check that a run makes in one case only, and that passes there. -/
theorem guard_passes {α : Type} {c : Prop} [Decidable c] {r : Run Unit} (h : c → r = .ok ()) (f : Unit → Run α) :
    (if c then r >>= f else .ok () >>= f) = f () := by
  split
  · next hc => rw [h hc]; rfl
  · rfl

/-- A column of a scan (R170): of rows 0 to vl - 1 of the two tiles, under the continue mask and the carries of the group. -/
def scannedColumn (s : State) (pair : Bool) (m d a : Fin 8) (b : Fin 32) (c : Nat) : List Nat × Nat × Nat :=
  scanColumn pair ((List.range s.st.vl).map fun i => (s.tileOf s.st a).get (128 * i + c))
    ((List.range s.st.vl).map fun i => (s.tileOf s.st d).get (128 * i + c)) (fun i => (s.st.m.get m).getLsbD i)
    ((s.st.vsrc 8 32 b).get c) (if pair then (s.st.vsrc 8 32 (b + 8)).get c else 0)

/-- All columns of a scan. -/
def scannedColumns (s : State) (pair : Bool) (m d a : Fin 8) (b : Fin 32) : List (List Nat × Nat × Nat) :=
  (List.range 128).map (scannedColumn s pair m d a b)

/-- An element of a tile whose first `n` rows columns replace. -/
def scannedElem (n : Nat) (cols : List (List Nat × Nat × Nat)) (old : Tile) (e : Nat) : Nat :=
  if e / 128 < n then (cols.getD (e % 128) ([], 0, 0)).1.getD (e / 128) 0 else old.get e

/-- A strand with the carries of columns in its group, and their low parts in the group after it (R171). -/
def carryStrand (t : Strand) (pair : Bool) (b : Nat) (cols : List (List Nat × Nat × Nat)) : Strand :=
  let t := t.putRegs .f32 b (packElems 32 (cols.map (·.2.1))) 0 8
  if pair then t.putRegs .f32 (b + 8) (packElems 32 (cols.map (·.2.2))) 0 8 else t

/-- An f32 tile of an instruction that reads no operand before it passes its checks and is read as it is. -/
theorem tileOk_f32 {s : State} {n : Nat} (h : TileOk s n [.f32]) : s.tileTag s.st n (· == .f32) = .ok () ∧
    s.holdCheck s.st n = .ok () ∧ (s.flips = [] → ∀ p, s.readTile s.st n p = .ok (s.tileOf s.st n, s)) := by
  have hread : takeOp s s.st (.lit 0) = .ok (⟨BitVec.ofInt 64 0, .raw, 0, false⟩, s.st) := rfl
  exact ⟨tileOk_tag hread h (by simp), tileOk_hold hread h, fun hflips => tileOk_read hflips hread h⟩

section
variable {s : State} {pair : Bool} {m d a : Fin 8} {b : Fin 32}

/-- A scan whose tiles and tags are in order. -/
structure ScanReady (s : State) (pair : Bool) (m d a : Fin 8) (b : Fin 32) : Prop where
  ready : TileReady (.tscan pair m d a b) s
  src : TileOk s a [.f32]
  dst : TileOk s d [.f32]
  tags : tileGroupTags s.st (if pair then 16 else 8) b .f32 = .ok ()

/-- A scan of more rows than a tile has, or of none (R156). -/
theorem tscan_length (h : ScanReady s pair m d a b) (hn : s.st.vl = 0 ∨ 128 < s.st.vl) :
    exec (.tscan pair m d a b) s = .next (s.takeFault 0x0407 s.st.pc (BitVec.ofNat 64 s.st.vl)) := by
  obtain ⟨hready, ha, hd, htags⟩ := h
  have hturn := tile_turn hready
  obtain ⟨hhome, -⟩ := hready
  have hvq := home_vq hhome
  obtain ⟨htagA, hholdA, -⟩ := tileOk_f32 ha
  obtain ⟨htagD, hholdD, -⟩ := tileOk_f32 hd
  rw [← settle_trap hhome]
  simp only [exec, execTscan, tileDone_idle hvq, hturn, rowClear_idle hvq, htags, ite_self, bind, Except.bind, hn, if_true, htagA, htagD,
    hholdA, hholdD]

/-- A scan within its limits replaces rows of its tile and the carries of its group (R170, R171). -/
theorem tscan_writes (h : ScanReady s pair m d a b) (hlow : 0 < s.st.vl) (hhigh : s.st.vl ≤ 128) (hgroup : tileGroup 8 b = .ok ())
    (hpair : pair = true → b = 0 ∨ b = 8 ∨ b = 16) (hcarry : Clean (s.st.vsrc 8 32 b) 128 allElems)
    (hlows : pair = true → Clean (s.st.vsrc 8 32 (b + 8)) 128 allElems) :
    let k := clusterOf s.st.cell
    let cols := scannedColumns s pair m d a b
    ∃ s', exec (.tscan pair m d a b) s = .next s' ∧
      TileWritten s s' k d (carryStrand s.st pair b cols) .f32 (scannedElem s.st.vl cols (s.tileOf s.st d)) := by
  intro k cols
  obtain ⟨hready, ha, hd, htags⟩ := h
  have hturn := tile_turn hready
  obtain ⟨hhome, -, -, hquiet⟩ := hready
  have hvq := home_vq hhome
  obtain ⟨htagA, hholdA, hreadA⟩ := tileOk_f32 ha
  obtain ⟨htagD, hholdD, hreadD⟩ := tileOk_f32 hd
  have hrows : ¬(s.st.vl = 0 ∨ 128 < s.st.vl) := by omega
  have hplace : (pair && !(b.val == 0 || b.val == 8 || b.val == 16)) = false := by
    cases pair with
    | false => rfl
    | true => rcases hpair rfl with rfl | rfl | rfl <;> rfl
  have hclear := resumeOnly_clear (s := s) (k := k) ⟨hquiet, rfl, rfl, fun _ => rfl⟩ a
  obtain ⟨v, hold⟩ := clearResume_tile s k a d
  let old : Tile := (clearResume s k a).tileOf s.st d
  refine ⟨((clearResume s k a).tilePut k d (old.filled .f32 (scannedElem s.st.vl cols old)) fun e => decide (e / 128 < s.st.vl)).done
    (carryStrand s.st pair b cols), ?_, ?_⟩
  · simp only [exec, execTscan, tileDone_idle hvq, hturn, rowClear_idle hvq, htags, guard_passes fun _ => rfl, hrows, if_false,
      htagA, htagD, hholdA, hholdD, hplace, hgroup, use_ok hcarry, guard_passes fun hp => use_ok (hlows hp), Bool.false_eq_true]
    simp only [bind, Except.bind, hreadA hquiet.1, hreadD hquiet.1]
    rfl
  · have hget : ∀ e, old.get e = (s.tileOf s.st d).get e := fun e => (congrArg (Tile.get · e) hold).trans rfl
    have hpoison : old.poison = [] := (congrArg Tile.poison hold).trans hd.2.2
    have hsame : scannedElem s.st.vl cols (s.tileOf s.st d) = scannedElem s.st.vl cols old := by
      funext e
      simp only [scannedElem, hget]
    rw [tilePut_clean hclear.quiet ((filled_poison old .f32 _).trans hpoison), hsame]
    exact tileWritten_put (tag := .f32) hclear (fun e => by cases e) rfl rfl rfl _

/-- The columns of a scan, one by one. -/
theorem scannedElem_column {n j c : Nat} {old : Tile} (hj : j < n) (hc : c < 128) :
    scannedElem n (scannedColumns s pair m d a b) old (128 * j + c) = (scannedColumn s pair m d a b c).1.getD j 0 := by
  have hrow : (128 * j + c) / 128 = j := by omega
  have hcol : (128 * j + c) % 128 = c := by omega
  simp [scannedElem, hrow, hcol, hj, hc, scannedColumns]

theorem scannedElem_kept {n e : Nat} {cols : List (List Nat × Nat × Nat)} {old : Tile} (he : n * 128 ≤ e) :
    scannedElem n cols old e = old.get e := if_neg (by omega)

/-- The carries of a scan, from the columns themselves. -/
theorem carryStrand_scanned (t : Strand) : carryStrand t pair b (scannedColumns s pair m d a b) =
    let col := scannedColumn s pair m d a b
    let t := t.putRegs .f32 b (packElems 32 ((List.range 128).map fun c => (col c).2.1)) 0 8
    if pair then t.putRegs .f32 (b + 8) (packElems 32 ((List.range 128).map fun c => (col c).2.2)) 0 8 else t := by
  simp only [carryStrand, scannedColumns, List.map_map]
  rfl

end

/-! ### Bases of tile images (O34) -/

/-- A base is read as an operand is. -/
theorem takeBase_asOp {s : State} {t t' : Strand} {base : Base} {x : Src} (h : takeBase s t base = .ok (x, t')) :
    ∃ b y, takeOp s t b = .ok (y, t') := by
  cases base with
  | reg r => exact ⟨.reg r, x, h⟩
  | pc =>
    cases h
    exact ⟨.lit 0, _, rfl⟩

/-- The low 64 bits of the address of an access are its base plus its offset (R174). -/
theorem accessVa_low (t : Strand) (v : Word) (e : Int) : BitVec.ofNat 64 (accessVa t v e % 2 ^ 64) = v + BitVec.ofInt 64 e := by
  have hlt := (v + BitVec.ofInt 64 e).isLt
  refine BitVec.eq_of_toNat_eq ?_
  rw [BitVec.toNat_ofNat, accessVa, Strand.dataVa]
  omega

/-- An image whose base is read, whose tile is held, and whose pieces are on this device, with nothing on its way to them. -/
structure ImageReady (i : Instr) (s : State) (d : Fin 8) (base : Base) (e : Int) (x : Src) (t : Strand) (store : Bool)
    (l : List (Loc × Nat × Nat)) : Prop where
  ready : TileReady i s
  legal : baseMisuse base = none
  reads : takeBase s s.st base = .ok (x, t)
  clean : x.bad = false
  inLine : accessVa t x.val e % 64 = 0
  tile : TileOk s d [(s.tileOf s.st d).tag]
  fresh : s.st.top = none
  near : ∀ p ∈ imagePieces l, s.remote p.2.1.pa = false ∧ s.pairBusy s.st.cell p.2.1.pa = false
  located : s.pieces t (accessVa t x.val e) store imageBytes 5 = .ok l

/-- An access of a strand that has none under way takes its turn at once (R259, R270). -/
theorem home_turnAt {i : Instr} {s : State} (h : HomeReady i s) {pa : Nat} (hremote : s.remote pa = false)
    (hpair : s.pairBusy s.st.cell pa = false) : s.turnAt s.st.uid s.st.cell pa = .ok () := by
  obtain ⟨-, -, -, -, haccs⟩ := h
  have hhome : s.homeBusy s.st.uid (homeOf pa) = false := by
    simp only [State.homeBusy, List.any_eq_false, Bool.and_eq_true, beq_iff_eq, not_and, Bool.not_eq_true]
    exact fun y hy hu => absurd hu.1 (haccs y hy)
  simp [State.turnAt, hremote, hhome, hpair]

section
variable {i : Instr} {s : State} {d : Fin 8} {base : Base} {e : Int} {x : Src} {t : Strand} {store : Bool}
  {l : List (Loc × Nat × Nat)}

theorem image_context (h : ImageReady i s d base e x t store l) :
    t.uid = s.st.uid ∧ t.cell = s.st.cell ∧ t.top = none ∧ s.holdCheck t d = .ok () := by
  obtain ⟨b, y, hread⟩ := takeBase_asOp h.reads
  have hhold := tileOk_hold hread h.tile
  obtain ⟨_, _, _, rfl⟩ := takeOp_frame s hread
  exact ⟨rfl, rfl, h.fresh, hhold⟩

theorem image_aligned (h : ImageReady i s d base e x t store l) : aligned (accessVa t x.val e) 64 = .ok () := if_pos h.inLine

theorem image_turn (h : ImageReady i s d base e x t store l) : ∀ p ∈ imagePieces l, s.turnAt t.uid t.cell p.2.1.pa = .ok () := by
  intro p hp
  obtain ⟨hhome, -⟩ := h.ready
  obtain ⟨huid, hcell, -⟩ := image_context h
  obtain ⟨hremote, hpair⟩ := h.near p hp
  rw [huid, hcell]
  exact home_turnAt hhome hremote hpair

end

/-! ### tst (O34) -/

/-- A run whose first part answers goes on with its answer. Cited for one bind at a time, so that no bind is unfolded against
another whose first part computes addresses. -/
theorem bind_of_ok {α β : Type} {r : Run α} {a : α} (h : r = .ok a) (f : α → Run β) : (r >>= f) = f a := by
  subst h
  rfl

theorem overAt_unloaded {s : State} (h : ∀ a, s.sweepWeight a = 0) (pa n x va : Nat) : s.overAt pa n x va = none := by
  simp [State.overAt, State.overload, h]

/-- A machine with other memory. -/
def withMem (s : State) (m : List Host.Cell) : State := { s with mem := m }

/-- Memory with pieces of a tile's image stored. -/
def storedPieces (x : Tile) (l : List (Nat × Loc × Nat)) (m : List Host.Cell) : List Host.Cell :=
  l.foldl (fun m p => memWrite m p.2.1.pa 64 (x.piece p.1)) m

theorem storedPieces_cons (x : Tile) (p : Nat × Loc × Nat) (l : List (Nat × Loc × Nat)) (m : List Host.Cell) :
    storedPieces x (p :: l) m = storedPieces x l (memWrite m p.2.1.pa 64 (x.piece p.1)) := List.foldl_cons ..

/-- The pieces of a tile without poison, stored where nothing is watched and no law counts, are written one after another (R167). -/
theorem storePieces_quiet {s : State} (hquiet : Quiet s) (hweight : ∀ a, s.sweepWeight a = 0) (w : Writer) {x : Tile}
    (hpoison : x.poison = []) {l : List (Nat × Loc × Nat)} (hplain : ∀ p ∈ l, p.2.1.watched = false) :
    storePieces s w x l = .ok (withMem s (storedPieces x l s.mem)) := by
  induction l generalizing s with
  | nil => rfl
  | cons p l ih =>
    obtain ⟨n, loc, va⟩ := p
    obtain ⟨hloc, hrest⟩ := List.forall_mem_cons.mp hplain
    have hloc : loc.watched = false := hloc
    have hnone : (List.range 8).filter (x.pieceBad n) = [] := by
      simp [List.filter_eq_nil_iff, Tile.pieceBad, hpoison]
    have hwrite : s.write w loc.watched loc.pa 64 (x.piece n) = withMem s (memWrite s.mem loc.pa 64 (x.piece n)) := by
      simp only [State.write, hloc, Bool.false_eq_true, if_false, writeAt_quiet hquiet]
      rfl
    simp only [storePieces, overAt_unloaded hweight, hwrite, hnone, List.map_nil, List.nil_append]
    generalize hm : memWrite s.mem loc.pa 64 (x.piece n) = m
    rw [storedPieces_cons, hm]
    exact ih (s := withMem s m) hquiet hweight hrest

/-- The pieces of an image are watched where their pages are. -/
theorem imagePieces_watched {l : List (Loc × Nat × Nat)} (h : ∀ p ∈ l, p.1.watched = false) :
    ∀ p ∈ imagePieces l, p.2.1.watched = false := by
  intro p hp
  obtain ⟨⟨⟨loc, va⟩, n⟩, hmem, rfl⟩ := List.mem_map.mp hp
  obtain ⟨page, hpage, hin⟩ := List.mem_flatten.mp (List.fst_mem_of_mem_zipIdx hmem)
  obtain ⟨q, hq, rfl⟩ := List.mem_map.mp hpage
  obtain ⟨i, -, heq⟩ := List.mem_map.mp hin
  cases heq
  exact h q hq

section
variable {s : State} {d : Fin 8} {base : Base} {e : Int} {x : Src} {t : Strand} {l : List (Loc × Nat × Nat)}

theorem tst_stores (h : ImageReady (.tst d base e) s d base e x t true l) (hweight : ∀ a, s.sweepWeight a = 0)
    (hplain : ∀ p ∈ l, p.1.watched = false) :
    exec (.tst d base e) s = .next (withMem ((clearResume s (clusterOf s.st.cell) d).done { t with wcount := t.wcount + 1 })
      (storedPieces (s.tileOf s.st d) (imagePieces l) s.mem)) := by
  obtain ⟨hhome, hcount, hasync, hquiet⟩ := h.ready
  obtain ⟨huid, hcell, htop, hhold⟩ := image_context h
  have hwatched : (l.filter fun p => p.1.watched) = [] := by
    simpa [List.filter_eq_nil_iff] using hplain
  have hroom : s.rollFull t.part [] = false := by simp [State.rollFull]
  have hstored := storePieces_quiet hquiet hweight t.writer h.tile.2.2 (imagePieces_watched hplain)
  have hidle : tilesIdle s.st = .ok () := if_pos hcount
  have hstores : ∀ f, tileStores s t (s.tileOf s.st d) (imagePieces l) f =
      .ok (f (withMem s (storedPieces (s.tileOf s.st d) (imagePieces l) s.mem))) := fun f => by
    simp only [tileStores, h.fresh, Option.map_none, Option.getD_none, hasync, Bool.false_eq_true, false_and, or_self, ne_eq,
      not_true_eq_false, if_false, forM_ok (image_turn h), hstored, bind, Except.bind]
  simp only [exec, execTst, bind_of_ok (home_noLoop hhome), bind_of_ok (home_turn hhome), bind_of_ok hidle,
    bind_of_ok (noMisuse_ok h.legal), bind_of_ok h.reads, bind_of_ok hhold, bind_of_ok (image_aligned h), bind_of_ok h.located,
    bind_of_ok (poisonCheck_ok h.clean), hwatched, List.map_nil, hroom, Bool.false_eq_true, if_false, bind_of_ok rfl,
    tileFind_quiet hquiet.1, tileOf_congr hcell, hstores, hcell]
  rw [settle_ok, ← htop]
  rfl

end

/-! ### tld (O34) -/

section
variable {s : State} (hquiet : Quiet s) (c : ErrCtx)
include hquiet

theorem readMasked_quiet (pa n : Nat) : s.readMasked c pa n = (memRead s.mem pa (8 * n), 0, s) := by
  induction n generalizing pa with
  | zero => rfl
  | succ n ih =>
    have hsplit : memRead s.mem pa (8 * (n + 1)) = memRead s.mem pa 8 + 2 ^ 64 * memRead s.mem (pa + 8) (8 * n) := by
      rw [show 8 * (n + 1) = 8 + 8 * n by omega, memRead_add]
      norm_num
    simp only [State.readMasked, readAt_quiet hquiet, ih, hsplit, bitOf]
    rfl

theorem makeReads_image (l : List (Nat × Loc × Nat)) :
    makeReads s c (imageReads l) = (l.map fun p => (memRead s.mem p.2.1.pa 64, 0), s) := by
  induction l with
  | nil => rfl
  | cons p l ih =>
    have hmake : (⟨p.2.1.pa, 64, p.2.2, true⟩ : EngRead).make s c = ((memRead s.mem p.2.1.pa 64, 0), s) := by
      simp [EngRead.make, readMasked_quiet hquiet]
    simp only [imageReads] at ih
    simp only [imageReads, List.map_cons, makeReads, hmake, ih]

end

/-- The image that pieces of memory hold, lowest first (R167). -/
def imageOf (m : List Host.Cell) (l : List (Nat × Loc × Nat)) : Nat :=
  l.foldr (fun p z => memRead m p.2.1.pa 64 + 2 ^ 512 * z) 0

/-- Pieces without poison join to their image alone. -/
theorem joinImage_clean (m : List Host.Cell) (l : List (Nat × Loc × Nat)) (n : Nat) :
    joinImage n (l.map fun p => (memRead m p.2.1.pa 64, 0)) = (imageOf m l, []) := by
  have hnone : (List.range 8).filter (bitAt 0) = [] := by decide
  induction l generalizing n with
  | nil => rfl
  | cons p l ih => simp only [List.map_cons, joinImage, ih, hnone, List.map_nil, List.nil_append, imageOf, List.foldr_cons]

section
variable {s : State} {d : Fin 8} {base : Base} {e : Int} {x : Src} {t : Strand} {l : List (Loc × Nat × Nat)}

theorem tld_loads (h : ImageReady (.tld d base e) s d base e x t false l) :
    (tileFrom (imageOf s.mem (imagePieces l)) Tile.zero = none →
      exec (.tld d base e) s = .next (s.takeFault 0x0408 s.st.pc (x.val + BitVec.ofInt 64 e))) ∧
    (∀ z, tileFrom (imageOf s.mem (imagePieces l)) Tile.zero = some z →
      exec (.tld d base e) s = .next ((s.modCluster (clusterOf s.st.cell) fun c => c.setTile d { z with poison := [] }).done t)) := by
  obtain ⟨hhome, -, hasync, hquiet⟩ := id h.ready
  obtain ⟨huid, hcell, htop, hhold⟩ := image_context h
  have hturns : (imageReads (imagePieces l)).forM (fun r => s.turnAt t.uid t.cell r.pa) = .ok () := forM_ok fun r hr => by
    obtain ⟨p, hp, rfl⟩ := List.mem_map.mp hr
    exact image_turn h p hp
  have hreads : ∀ f, tileReads s t (imageReads (imagePieces l)) f =
      f ((imagePieces l).map fun p => (memRead s.mem p.2.1.pa 64, 0)) s := fun f => by
    simp only [tileReads, hasync, Bool.false_eq_true, if_false, bind_of_ok hturns, makeReads_image hquiet]
  simp only [exec, execTld, tileDone_idle (home_vq hhome), bind_of_ok (tile_turn h.ready), bind_of_ok (home_readTurn hhome),
    bind_of_ok (noMisuse_ok h.legal), bind_of_ok h.reads, bind_of_ok hhold, bind_of_ok (image_aligned h), bind_of_ok h.located,
    bind_of_ok (poisonCheck_ok h.clean), hreads, joinImage_clean, List.any_nil, Bool.false_eq_true, if_false, if_true]
  refine ⟨fun hnone => ?_, fun z hsome => ?_⟩
  · rw [hnone, ← accessVa_low]
    exact congrArg _ (if_pos (home_faultTurn hhome))
  · have hclean : z.poison.filter (fun w => !allElems (w / 2)) = [] := by simp [allElems]
    simp only [hsome, settle_ok, tilePut_quiet hquiet, hclean, ← hcell, ← htop]

end

/-- Settles O34: a scan writes the columns' values and carries into its tile and groups; an image is stored and read in 64-byte pieces,
which in a machine whose words hold no error are plain writes and reads of memory. -/
theorem tileScansAndImages : Obligations.TileScansAndImages := by
  unfold Obligations.TileScansAndImages
  refine ⟨fun s pair m d a b => ?_, fun s d base e x t l => ?_⟩
  · intro i k n x y hi lo col hready ha hd htags
    have h : ScanReady s pair m d a b := ⟨hready, ha, hd, htags⟩
    refine ⟨tscan_length h, fun hlow hhigh hgroup hpair hcarry hlows => ?_⟩
    obtain ⟨s', hexec, hmem, hst, htag, -, helems, -⟩ := tscan_writes h hlow hhigh hgroup hpair hcarry hlows
    rw [carryStrand_scanned] at hst
    refine ⟨s', hexec, hmem, htag, fun j c hj hc => ?_, fun e hlast he => ?_, hst⟩
    · exact (helems _ (by omega)).trans (scannedElem_column hj hc)
    · exact (helems e he).trans (scannedElem_kept hlast)
  · intro k y hmis hread hclean hline htile htop hnear
    refine ⟨fun hready hpieces hweight hplain => ?_, fun hready hpieces => ?_⟩
    · exact tst_stores ⟨hready, hmis, hread, hclean, hline, htile, htop, hnear, hpieces⟩ hweight hplain
    · exact tld_loads ⟨hready, hmis, hread, hclean, hline, htile, htop, hnear, hpieces⟩

end Sys2Proof.Proofs
end

section
namespace Sys2Proof.Proofs
open Sys2Proof Sys2Proof.Machine Sys2Proof.Safety Sys2Proof.Laws

/-! ### Home operations beside a parked strand with the number of the strand in focus (O23, O26) -/

/-- The addition of 0 to the word at address 0. -/
def addsNothing : Instr := .aadd .s64 (.g 0) (.reg (.g 0)) (.lit 0)

/-- The arming of the barrier object at address 0 with an operand of 0, which leaves it as it is (R191). -/
def armsNothing : Instr := .barm (.reg (.g 0)) (.lit 0)

theorem addsNothing_ready :
    AccessReady addsNothing sharedNumber (.reg (.g 0)) 0 8 3 true true Src.zero sharedNumber.st sharedNumber.st ⟨0, false⟩ where
  free := ⟨rfl, rfl, rfl⟩
  legal := rfl
  reads := ⟨rfl, rfl⟩
  inLine := rfl
  located := by decide +kernel
  turn := ⟨rfl, fun y hy => (List.not_mem_nil hy).elim, by decide +kernel⟩
  home := ⟨by decide +kernel, by decide +kernel⟩
  quiet := ⟨rfl, rfl, rfl⟩

theorem addsNothing_unwatched : Unwatched sharedNumber ⟨0, false⟩ := ⟨rfl, by decide +kernel, by decide +kernel⟩

theorem addsNothing_operands :
    OperandsReady sharedNumber (.g 0) (.lit 0) false (some .s64) none sharedNumber.st Src.zero Src.zero sharedNumber.st where
  legal := ⟨rfl, rfl, rfl⟩
  reads := ⟨_, rfl, rfl⟩
  room := rfl
  tags := ⟨.inr rfl, trivial⟩
  clean := ⟨rfl, rfl⟩

/-- The home operation on the watched line is counted for the parked strand as well (R346). -/
theorem addsNothing_counts : parkedCounts (exec addsNothing sharedNumber) = [1] := by decide +kernel

theorem armsNothing_record :
    RecordAt armsNothing sharedNumber (.reg (.g 0)) 16 3 false true Src.zero sharedNumber.st sharedNumber.st 0 where
  ready := ⟨rfl, rfl, rfl, by decide +kernel, fun y hy => (List.not_mem_nil hy).elim⟩
  legal := rfl
  reads := ⟨rfl, rfl⟩
  inLine := rfl
  located := ⟨false, by decide +kernel⟩
  turn := ⟨by decide +kernel, by decide +kernel⟩
  quiet := ⟨rfl, rfl, rfl⟩

/-- No law region holds the object, and no window of the order log of the strand's own partition. -/
theorem armsNothing_noWatch : NoWatch sharedNumber 0 16 := by
  refine ⟨fun a hlow hhigh => ?_, by decide +kernel⟩
  interval_cases a <;> decide +kernel

theorem armsNothing_counts : parkedCounts (exec armsNothing sharedNumber) = [1] := by decide +kernel

/-- Refutes O23: it fixes every strand but the one in focus. Where a parked strand has the number of the strand in focus, and its
own partition's order log has a window on the line of the word, the model counts the atomic for the parked strand too (R346),
which the statement leaves as it was: `Unwatched` looks at the order log of the strand's own partition alone. Strands that run
have numbers of their own. -/
theorem not_atomics : ¬ Obligations.Atomics := by
  unfold Obligations.Atomics
  intro h
  have hdone := h sharedNumber .s64 (.g 0) (.reg (.g 0)) (.lit 0) Src.zero Src.zero Src.zero sharedNumber.st sharedNumber.st
    { sharedNumber.st with wcount := 1 } ⟨0, false⟩ addsNothing true false false (some 0) none (by decide +kernel)
    addsNothing_ready addsNothing_unwatched addsNothing_operands rfl
  have hcounts := (congrArg parkedCounts hdone).symm.trans addsNothing_counts
  revert hcounts
  decide +kernel

/-- Refutes O26: its clauses for home operations that go ahead at once fix every strand but the one in focus. Where a parked strand
has the number of the strand in focus, and its own partition's order log has a window on the line of the object, the model counts
the `barm` for the parked strand too (R346), which the statement leaves as it was: `NoWatch` looks at the order log of the
strand's own partition alone. Strands that run have numbers of their own. -/
theorem not_ringsAndBarriers : ¬ Obligations.RingsAndBarriers := by
  unfold Obligations.RingsAndBarriers
  intro h
  obtain ⟨-, hbarriers, -⟩ := h
  obtain ⟨hbarm, -, -⟩ := hbarriers sharedNumber (.reg (.g 0)) (.lit 0) Src.zero Src.zero sharedNumber.st sharedNumber.st 0
    armsNothing_noWatch
  obtain ⟨-, hwellFormed⟩ := hbarm armsNothing rfl armsNothing_record rfl rfl rfl rfl rfl
  obtain ⟨hzero, -⟩ := hwellFormed (by decide +kernel)
  have hcounts := (congrArg parkedCounts (hzero rfl)).symm.trans armsNothing_counts
  revert hcounts
  decide +kernel

end Sys2Proof.Proofs
end

section
namespace Sys2Proof.Proofs
open Sys2Proof Sys2Proof.Machine Sys2Proof.Safety Sys2Proof.Laws

/-! ### Accesses that go ahead at once (O22) -/

/-- A strand that differs from `t` at most by what its queues have given up. -/
def PopsOnly (t t' : Strand) : Prop := ∃ qs qs' n, t' = { t with q := qs, q15 := qs', qpos := n }

theorem PopsOnly.trans {t t' t'' : Strand} (h : PopsOnly t t') (h' : PopsOnly t' t'') : PopsOnly t t'' := by
  obtain ⟨_, _, _, rfl⟩ := h
  obtain ⟨_, _, _, rfl⟩ := h'
  exact ⟨_, _, _, rfl⟩

theorem takeBase_popsOnly {s : State} {t t' : Strand} {base : Base} {x : Src} (h : takeBase s t base = .ok (x, t')) : PopsOnly t t' := by
  obtain ⟨b, y, hread⟩ := takeBase_asOp h
  exact takeOp_frame s hread

theorem takeReg_popsOnly {s : State} {t t' : Strand} {r : SReg} {x : Src} (h : takeReg s t r = .ok (x, t')) : PopsOnly t t' :=
  takeOp_frame s (b := .reg r) h

theorem aligned_ok {va n : Nat} (h : va % n = 0) : aligned va n = .ok () := if_pos h

section
variable {i : Instr} {s : State} {base : Base} {off : Int} {n acc : Nat} {r w : Bool} {x : Src} {t1 t : Strand} {loc : Loc}

theorem ready_turn (h : AccessReady i s base off n acc r w x t1 t loc) : accessTurn i s = .ok () := by
  obtain ⟨hhazard, hloop, -⟩ := h.free
  simp [accessTurn, noLoop_ok hloop, noHazard_ok hhazard, bind, Except.bind]

theorem ready_aligned (h : AccessReady i s base off n acc r w x t1 t loc) : aligned (accessVa t x.val off) n = .ok () :=
  aligned_ok h.inLine

/-- Nothing of the strand is under way, so its access does not queue for its home (R259, R270, R318). -/
theorem ready_access (h : AccessReady i s base off n acc r w x t1 t loc) (hpops : PopsOnly s.st t) (va : Nat) (b d : Word) :
    access s t i loc va b d = accessNow s t i loc va b d := by
  obtain ⟨-, -, hvq⟩ := h.free
  obtain ⟨hasync, haccs, hpair⟩ := h.turn
  obtain ⟨hremote, -⟩ := h.home
  obtain ⟨huid, hcell, hvq⟩ : t.uid = s.st.uid ∧ t.cell = s.st.cell ∧ t.vq = [] := by
    obtain ⟨_, _, _, rfl⟩ := hpops
    exact ⟨rfl, rfl, hvq⟩
  have hnone : ∀ p : Access → Bool, (s.accs.any fun y => y.uid == s.st.uid && p y) = false := fun p => by
    simp only [List.any_eq_false, Bool.and_eq_true, beq_iff_eq, not_and]
    exact fun y hy hu => absurd hu (haccs y hy)
  have hbusy : s.homeBusy s.st.uid (homeOf loc.pa) = false := by
    simp only [State.homeBusy, Bool.and_assoc]
    exact hnone _
  have hqueue : s.mustQueue t i loc.pa = false := by
    simp only [State.mustQueue, huid, hcell, hvq, hasync, hremote, hbusy, hpair, hnone, Bool.and_false, Bool.or_false]
    rfl
  rw [access, hqueue]
  rfl

end

section
variable {s : State} {f : Fmt} {d : SReg} {base : Base} {e : Int} {x z : Src} {t1 t t' : Strand} {loc : Loc}

/-- A load or an `ldc` that goes ahead at once is its access (R102, R177). -/
theorem loadRun_ready {i : Instr} (h : AccessReady i s base e f.size 0 true false x t t loc) (hmis : misuseWrite d = none)
    (hroom : hasRoom t d = .ok ()) : loadRun i s f d base e = accessNow s t i loc (accessVa t x.val e) 0 0 := by
  obtain ⟨hreads, hclean⟩ := h.reads
  rw [loadRun, bind_of_ok (ready_turn h), bind_of_ok (noMisuse_ok h.legal), bind_of_ok (noMisuse_ok hmis), bind_of_ok hreads]
  simp only [bind_of_ok hroom, bind_of_ok (ready_aligned h), bind_of_ok h.located, bind_of_ok (poisonCheck_ok hclean)]
  exact ready_access h (takeBase_popsOnly hreads) _ _ _

/-- R177. -/
theorem ld_now (hquiet : Quiet s) (va : Nat) (hput : putReg t d (BitVec.ofNat 64 (f.extend (memRead s.mem loc.pa f.size))) f = .ok t') :
    accessNow s t (.ld f d base e) loc va 0 0 = .ok (s.done t') := by
  have hhome : homeOp s ⟨t.writer, .ld f d base e, loc, va, 0, 0, t.rmode⟩ =
      .ok ⟨s, BitVec.ofNat 64 (f.extend (memRead s.mem loc.pa f.size)), none, false⟩ := by
    simp only [homeOp, loadAt, readAt_quiet hquiet]
  have hreply : replyTo t (.ld f d base e) (BitVec.ofNat 64 (f.extend (memRead s.mem loc.pa f.size))) none false = .ok t' := by
    simp [replyTo, accessDst, accessFmt, hput, bind, Except.bind]
  have hplain : isHomeOp (.ld f d base e) = false := rfl
  rw [accessNow, hplain, if_neg Bool.false_ne_true, bind_of_ok rfl, bind_of_ok hhome]
  exact bind_of_ok hreply _

/-- R177. -/
theorem ld_loads (h : AccessReady (.ld f d base e) s base e f.size 0 true false x t t loc) (hmis : misuseWrite d = none)
    (hroom : hasRoom t d = .ok ()) (hput : putReg t d (BitVec.ofNat 64 (f.extend (memRead s.mem loc.pa f.size))) f = .ok t') :
    exec (.ld f d base e) s = .next (s.done t') := by
  change execLd f d base e s = _
  rw [execLd, loadRun_ready h hmis hroom, ld_now h.quiet _ hput, settle_ok]


/-- A write where no law region counts is not held back by the sweep load (R312). -/
theorem overAt_of_weight_zero {pa : Nat} (hweight : s.sweepWeight (pa / 8 * 8) = 0) (n v va : Nat) : s.overAt pa n v va = none := by
  simp [State.overAt, State.overload, hweight]

theorem st_now (hquiet : Quiet s) (hwatch : Unwatched s loc) (va : Nat) : accessNow s t (.st f d base e) loc va 0 z.val =
    .ok ({ s with mem := memWrite s.mem loc.pa f.size (z.val.toNat % 2 ^ f.bits) }.done { t with wcount := t.wcount + 1 }) := by
  obtain ⟨hunwatched, hweight, -⟩ := hwatch
  have hhome : homeOp s ⟨t.writer, .st f d base e, loc, va, 0, z.val, t.rmode⟩ =
      .ok ⟨{ s with mem := memWrite s.mem loc.pa f.size (z.val.toNat % 2 ^ f.bits) }, 0, none, false⟩ := by
    simp only [homeOp, storeAt, lowBits, State.writeOk, overAt_of_weight_zero hweight, hunwatched, Bool.false_eq_true, false_and, if_false,
      State.write, writeAt_quiet hquiet]
    rfl
  have hplain : isHomeOp (.st f d base e) = false := rfl
  rw [accessNow, hplain, if_neg Bool.false_ne_true, bind_of_ok rfl, bind_of_ok hhome]
  rfl

/-- R178. -/
theorem st_stores (h : AccessReady (.st f d base e) s base e f.size 1 false true x t1 t loc) (hwatch : Unwatched s loc)
    (hmis : misuseRead d = none) (hread : takeReg s t1 d = .ok (z, t)) (htag : TagOk (some f) z) (hclean : z.bad = false) :
    exec (.st f d base e) s = .next ({ s with mem := memWrite s.mem loc.pa f.size (z.val.toNat % 2 ^ f.bits) }.done
      { t with wcount := t.wcount + 1 }) := by
  obtain ⟨hbase, hbaseClean⟩ := h.reads
  have hpops := (takeBase_popsOnly hbase).trans (takeReg_popsOnly hread)
  change execSt f d base e s = _
  rw [execSt, bind_of_ok (ready_turn h), bind_of_ok (noMisuse_ok h.legal), bind_of_ok (noMisuse_ok hmis), bind_of_ok hbase]
  simp only [bind_of_ok hread, bind_of_ok (tagCheck_ok htag), bind_of_ok (ready_aligned h), bind_of_ok h.located,
    bind_of_ok (poisonCheck_ok hbaseClean), bind_of_ok (poisonCheck_ok hclean), ready_access h hpops, st_now h.quiet hwatch, settle_ok]

/-! ### `ldc` (O22) -/

/-- A line that answers an `ldc` was not filled before the last fill that the strand has seen (R179). -/
theorem ldcLine_newer {cell line since : Nat} {bytes : List Byte} (h : s.ldcLine cell line since = some bytes) :
    since ≤ s.ldcStamp cell line since := by
  unfold State.ldcLine at h
  unfold State.ldcStamp
  by_cases hown : s.ownAnswers cell line since = true
  · rw [if_pos hown]
    simp only [State.ownAnswers, Bool.and_eq_true, decide_eq_true_eq] at hown
    exact hown.2
  · rw [if_neg hown] at h ⊢
    by_cases hshared : Tab.has (s.cluster (clusterOf cell)).ldc line = true ∧ since ≤ s.clusterFill cell line
    · exact hshared.2
    · rw [if_neg hshared] at h
      cases h

/-- A line without a parity error stays where it is (R313). -/
theorem dropFlawed_sound {cell line since : Nat} (h : s.ldcFlawed cell line since = false) (c : ErrCtx) :
    s.dropFlawed c cell line since = s := by
  unfold State.ldcFlawed at h
  cases hown : s.ownAnswers cell line since <;> rw [hown] at h
  · rw [if_neg Bool.false_ne_true] at h
    simp only [State.dropFlawed, hown, h, Bool.false_eq_true, false_and, and_false, if_false]
  · rw [if_pos rfl] at h
    simp only [State.dropFlawed, hown, h, Bool.false_eq_true, and_false, if_false, if_true]

/-- The `ldc` that its strand has just been answered for, at the line of `pa` (R179). -/
theorem ldc_now {p : Perf} (hstrand : s.strand? t.uid = some s.st) (hseen : s.st.ldcSeen = t.ldcSeen) (va : Nat)
    (hhome : ldcAt s t.ctx f loc.pa t.cell (Tab.get t.ldcSeen 0 (loc.pa / 64)) = p) (hstat : p.rstat = none) (hclean : p.poison = false)
    (hput : putReg (p.s.seenBy t t.cell loc.pa) d p.res f = .ok t') :
    accessNow s t (.ldc f d base e) loc va 0 0 = .ok (p.s.done t') := by
  have hop : homeOp s ⟨t.writer, .ldc f d base e, loc, va, 0, 0, t.rmode⟩ = .ok p := by
    have hsince : ((s.strand? t.writer.who).map fun u => u.ldcSince (loc.pa / 64)).getD 0 = Tab.get t.ldcSeen 0 (loc.pa / 64) := by
      rw [show t.writer.who = t.uid from rfl, hstrand, Option.map_some, Option.getD_some, Strand.ldcSince, hseen]
    rw [← hhome, ← hsince]
    rfl
  have hreply : replyTo ((p.s.seenBy t t.cell loc.pa).countWrite (.ldc f d base e)) (.ldc f d base e) p.res p.rstat p.poison =
      .ok t' := by
    rw [hstat, hclean, replyTo]
    simp only [accessDst, accessFmt, Strand.countWrite, writesMem, isStore, isAtomic, hput, Bool.or_self, Bool.false_eq_true, if_false,
      bind, Except.bind]
  have hplain : isHomeOp (.ldc f d base e) = false := rfl
  rw [accessNow, hplain, if_neg Bool.false_ne_true, bind_of_ok rfl, bind_of_ok hop]
  exact bind_of_ok hreply _

section
variable (h : AccessReady (.ldc f d base e) s base e f.size 0 true false x t t loc) (hmis : misuseWrite d = none)
  (hroom : hasRoom t d = .ok ()) (hlive : s.st.status ≠ .free)
include h hmis hroom hlive

/-- What an `ldc` does, by what the caches and the home make of it. -/
theorem ldc_answers {p : Perf} (hhome : ldcAt s t.ctx f loc.pa t.cell (Tab.get s.st.ldcSeen 0 (loc.pa / 64)) = p)
    (hstat : p.rstat = none) (hclean : p.poison = false) (hput : putReg (p.s.seenBy t t.cell loc.pa) d p.res f = .ok t') :
    exec (.ldc f d base e) s = .next (p.s.done t') := by
  obtain ⟨hbase, -⟩ := h.reads
  obtain ⟨huid, hseen⟩ : t.uid = s.st.uid ∧ s.st.ldcSeen = t.ldcSeen := by
    obtain ⟨_, _, _, rfl⟩ := takeBase_popsOnly hbase
    exact ⟨rfl, rfl⟩
  have hstrand : s.strand? t.uid = some s.st := huid ▸ strand_self hlive
  change execLdc f d base e s = _
  rw [execLdc, loadRun_ready h hmis hroom, ldc_now hstrand hseen _ (hseen ▸ hhome) hstat hclean hput, settle_ok]

/-- A hit changes nothing but the mark of the fill that the strand has seen (R179). -/
theorem ldc_hits {bytes : List Byte} (hline : s.ldcLine t.cell (loc.pa / 64) (Tab.get s.st.ldcSeen 0 (loc.pa / 64)) = some bytes)
    (hsound : s.ldcFlawed t.cell (loc.pa / 64) (Tab.get s.st.ldcSeen 0 (loc.pa / 64)) = false)
    (hput : putReg (t.sawLine (loc.pa / 64) (s.ldcStamp t.cell (loc.pa / 64) (Tab.get s.st.ldcSeen 0 (loc.pa / 64)))) d
      (BitVec.ofNat 64 (f.extend (lineValue bytes (loc.pa % 64) f.size))) f = .ok t') :
    exec (.ldc f d base e) s = .next (s.done t') := by
  obtain ⟨hbase, -⟩ := h.reads
  have hseen : s.st.ldcSeen = t.ldcSeen := by
    obtain ⟨_, _, _, rfl⟩ := takeBase_popsOnly hbase
    rfl
  have hhome : ldcAt s t.ctx f loc.pa t.cell (Tab.get s.st.ldcSeen 0 (loc.pa / 64)) =
      ⟨s, BitVec.ofNat 64 (f.extend (lineValue bytes (loc.pa % 64) f.size)), none, false⟩ := by
    simp only [ldcAt, dropFlawed_sound hsound, hline]
  rw [hseen] at hline hput
  refine ldc_answers h hmis hroom hlive hhome rfl rfl ?_
  simp only [State.seenBy, Strand.ldcSince, hline, Option.isSome_some, if_true]
  exact hput

/-- A miss fills the line by a read at its home, and is answered by it (R179). -/
theorem ldc_misses (hline : s.ldcLine t.cell (loc.pa / 64) (Tab.get s.st.ldcSeen 0 (loc.pa / 64)) = none)
    (hsound : s.ldcFlawed t.cell (loc.pa / 64) (Tab.get s.st.ldcSeen 0 (loc.pa / 64)) = false)
    (hput : putReg ((s.ldcFill t.cell (loc.pa / 64) (memBytes s.mem (loc.pa / 64 * 64) 64)).seenBy t t.cell loc.pa) d
      (BitVec.ofNat 64 (f.extend (lineValue (memBytes s.mem (loc.pa / 64 * 64) 64) (loc.pa % 64) f.size))) f = .ok t') :
    exec (.ldc f d base e) s = .next ((s.ldcFill t.cell (loc.pa / 64) (memBytes s.mem (loc.pa / 64 * 64) 64)).done t') := by
  have hhome : ldcAt s t.ctx f loc.pa t.cell (Tab.get s.st.ldcSeen 0 (loc.pa / 64)) =
      ⟨s.ldcFill t.cell (loc.pa / 64) (memBytes s.mem (loc.pa / 64 * 64) 64),
        BitVec.ofNat 64 (f.extend (lineValue (memBytes s.mem (loc.pa / 64 * 64) 64) (loc.pa % 64) f.size)), none, false⟩ := by
    simp only [ldcAt, dropFlawed_sound hsound, hline, readAt_quiet h.quiet, Bool.false_eq_true, if_false]
  exact ldc_answers h hmis hroom hlive hhome rfl rfl hput

end

/-! ### Loads that stop or queue (O22) -/

section
variable (hhazard : hazard (.ld f d base e) s = false) (hloop : s.st.loop.active = false) (hlegal : baseMisuse base = none)
  (hmis : misuseWrite d = none) (hbase : takeBase s s.st base = .ok (x, t)) (hroom : hasRoom t d = .ok ())
include hhazard hloop hlegal hmis hbase hroom

/-- A load that nothing holds back, once its base is read. -/
theorem ld_checked : exec (.ld f d base e) s = .next (s.settle (aligned (accessVa t x.val e) f.size >>= fun _ =>
    s.locate t (accessVa t x.val e) 0 true false false >>= fun loc => poisonCheck x >>= fun _ =>
      access s t (.ld f d base e) loc (accessVa t x.val e) 0 0)) := by
  have hturn : accessTurn (.ld f d base e) s = .ok () := by
    simp [accessTurn, noLoop_ok hloop, noHazard_ok hhazard, bind, Except.bind]
  change execLd f d base e s = _
  rw [execLd, loadRun, bind_of_ok hturn, bind_of_ok (noMisuse_ok hlegal), bind_of_ok (noMisuse_ok hmis), bind_of_ok hbase]
  simp only [bind_of_ok hroom]

theorem ld_misaligned (hturn : s.faultTurn = true) (hoff : accessVa t x.val e % f.size ≠ 0) :
    exec (.ld f d base e) s = .next (s.takeFault 0x0301 s.st.pc (x.val + BitVec.ofInt 64 e)) := by
  rw [ld_checked hhazard hloop hlegal hmis hbase hroom, aligned, if_neg hoff, ← accessVa_low t]
  exact congrArg Host.Outcome.next (if_pos hturn)

/-- Without a translation the strand blocks on the walk of the page (R321, R334). -/
theorem ld_untranslated (hin : accessVa t x.val e % f.size = 0) (hnone : s.tlbFind t.cell t.asid (accessVa t x.val e) = none) :
    exec (.ld f d base e) s = .next (s.stop (.miss (accessVa t x.val e) 0)) := by
  have hloc : s.locate t (accessVa t x.val e) 0 true false false = .error (.miss (accessVa t x.val e) 0) := by
    rw [State.locate, hnone]
  rw [ld_checked hhazard hloop hlegal hmis hbase hroom, bind_of_ok (aligned_ok hin), hloc]
  rfl

theorem ld_denied (hturn : s.faultTurn = true) {g : TlbEntry} (hin : accessVa t x.val e % f.size = 0)
    (hfind : s.tlbFind t.cell t.asid (accessVa t x.val e) = some g)
    (hdenied : g.r = false ∨ s.mayName t.part (g.pa + accessVa t x.val e % 2 ^ g.log) = false) :
    exec (.ld f d base e) s = .next (s.takeFault 0x0303 s.st.pc (x.val + BitVec.ofInt 64 e)) := by
  have hloc : s.locate t (accessVa t x.val e) 0 true false false = .error (.trap 0x0303 (accessVa t x.val e % 2 ^ 64)) := by
    rw [State.locate, hfind]
    refine if_pos ?_
    rcases hdenied with hr | hname
    · simp [hr]
    · simp [hname]
  rw [ld_checked hhazard hloop hlegal hmis hbase hroom, bind_of_ok (aligned_ok hin), hloc, ← accessVa_low t]
  exact congrArg Host.Outcome.next (if_pos hturn)

/-- A load whose turn at its home has not come is sent on its way (R259, R261). -/
theorem ld_queues (hin : accessVa t x.val e % f.size = 0) (hloc : s.locate t (accessVa t x.val e) 0 true false false = .ok loc)
    (hclean : x.bad = false) (hqueue : s.mustQueue t (.ld f d base e) loc.pa = true) :
    exec (.ld f d base e) s = .next (s.sendAccess t (.ld f d base e) loc (accessVa t x.val e) 0 0) := by
  have hsent : access s t (.ld f d base e) loc (accessVa t x.val e) 0 0 =
      .ok (s.sendAccess t (.ld f d base e) loc (accessVa t x.val e) 0 0) := by
    rw [access, hqueue]
    rfl
  rw [ld_checked hhazard hloop hlegal hmis hbase hroom, bind_of_ok (aligned_ok hin), bind_of_ok hloc, bind_of_ok (poisonCheck_ok hclean),
    hsent, settle_ok]

end

/-- The strand in focus blocked. -/
def blockedOn (s : State) (w : Wait) : State := { s with st := { s.st with status := .blocked w } }

/-- A strand that misses a translation blocks, and the walk of its page is among the walks. -/
theorem stop_miss (va acc : Nat) : ∃ id ws n, s.stop (.miss va acc) = blockedOn { s with walks := ws, nextId := n } (.walk id va) ∧
    ∃ w ∈ ws, w.id = id ∧ w.page = va / 65536 := by
  obtain ⟨ws, n, hframe⟩ := startWalk_frame s (dieOf s.st.cell) s.st.part s.st.asid va acc false s.st.cell s.st.slot
  obtain ⟨w, hw, hid, hpage, -⟩ := startWalk_listed s (dieOf s.st.cell) s.st.part s.st.asid va acc false s.st.cell s.st.slot
  rw [hframe] at hw
  refine ⟨_, ws, n, ?_, w, hw, hid, hpage⟩
  rw [← hframe]
  rfl

/-- Settles O22: accesses that go ahead at once are performed at their homes, an `ldc` by the line that answers it or by a fill; a
load stops at its alignment or translation, or queues. -/
theorem loadsAndStores : Obligations.LoadsAndStores := by
  unfold Obligations.LoadsAndStores
  refine ⟨fun s f d base e x z t1 t t' loc => ⟨ld_loads, fun h hmis hroom hlive => ⟨fun bytes hline hsound hput =>
      ⟨ldcLine_newer hline, ldc_hits h hmis hroom hlive hline hsound hput⟩, ldc_misses h hmis hroom hlive⟩, st_stores⟩,
    fun s f d base e x t hhazard hloop hlegal hmis hturn hbase hroom => ⟨?_, fun hin hnone => ?_, ?_, ?_⟩⟩
  · exact ld_misaligned hhazard hloop hlegal hmis hbase hroom hturn
  · obtain ⟨id, ws, n, hstop, hlisted⟩ := stop_miss (s := s) (accessVa t x.val e) 0
    rw [ld_untranslated hhazard hloop hlegal hmis hbase hroom hin hnone, hstop]
    exact ⟨_, rfl, rfl, rfl, rfl, id, rfl, hlisted⟩
  · exact fun g => ld_denied hhazard hloop hlegal hmis hbase hroom hturn
  · exact fun loc => ld_queues hhazard hloop hlegal hmis hbase hroom

end
end Sys2Proof.Proofs
end

section
namespace Sys2Proof.Proofs
open Sys2Proof Sys2Proof.Machine Sys2Proof.Safety Sys2Proof.Laws

/-! ### Issuing an engine command (O40) -/

section
variable {i : Instr} {s : State} {base : Base} {x : Src} {t : Strand} {pa kind : Nat} {bad : List Word → Bool} {var : CpyVar}

/-- A descriptor is read from its record (R194). -/
theorem readRecord_at (h : RecordAt i s base 64 0 true false x t t pa) : readRecord s t x 64 = .ok (memWords s.mem pa 8, s) := by
  obtain ⟨hbase, hclean⟩ := h.reads
  obtain ⟨o, hloc⟩ := h.located
  obtain ⟨hpair, hremote⟩ := h.turn
  obtain ⟨huid, hcell⟩ : t.uid = s.st.uid ∧ t.cell = s.st.cell := by
    obtain ⟨b, y, hread⟩ := takeBase_asOp hbase
    obtain ⟨_, _, _, rfl⟩ := takeOp_frame s hread
    exact ⟨rfl, rfl⟩
  have hturn : s.turnAt t.uid t.cell pa = .ok () := huid ▸ hcell ▸ home_turnAt h.ready hremote hpair
  have haligned : aligned (accessVa t x.val 0) 64 = .ok () := if_pos h.inLine
  rw [readRecord, bind_of_ok haligned, bind_of_ok hloc, bind_of_ok (poisonCheck_ok hclean), bind_of_ok hturn, readAt_quiet h.quiet]
  rfl

/-- The four instructions that issue an engine command differ in its kind, its variant and what makes its descriptor malformed. -/
theorem exec_issue {v : CpyVar} (hmem : (i, kind, var, bad) ∈ [(Instr.cpy v base, 1, v, copyBad false v),
    (.cpyb v base, 2, v, copyBad true v), (.gath base, 3, .plain, gatherBad), (.route base, 4, .plain, routeBad)]) :
    exec i s = .next (s.settle (engineRun i s kind var base bad)) := by
  simp only [List.mem_cons, Prod.mk.injEq, List.not_mem_nil, or_false] at hmem
  rcases hmem with ⟨rfl, rfl, rfl, rfl⟩ | ⟨rfl, rfl, rfl, rfl⟩ | ⟨rfl, rfl, rfl, rfl⟩ | ⟨rfl, rfl, rfl, rfl⟩ <;> rfl

section
variable (h : RecordAt i s base 64 0 true false x t t pa)
include h

theorem engineRun_malformed (hbad : bad (memWords s.mem pa 8) = true) :
    engineRun i s kind var base bad = .error (.trap 0x0313 x.val.toNat) := by
  rw [engineRun, bind_of_ok (home_turn h.ready), bind_of_ok (home_noStores h.ready), bind_of_ok (noMisuse_ok h.legal),
    bind_of_ok h.reads.1]
  simp only [bind_of_ok (readRecord_at h), if_pos hbad]
  rfl

variable (hgood : bad (memWords s.mem pa 8) = false)
include hgood

/-- A gather's table outside HBM (R201). -/
theorem engineRun_homeless (hstack : tableStack s t kind (memWords s.mem pa 8) = .ok none) :
    engineRun i s kind var base bad = .error (.trap 0x0313 x.val.toNat) := by
  rw [engineRun, bind_of_ok (home_turn h.ready), bind_of_ok (home_noStores h.ready), bind_of_ok (noMisuse_ok h.legal),
    bind_of_ok h.reads.1]
  simp only [bind_of_ok (readRecord_at h), hgood, Bool.false_eq_true, if_false, bind_of_ok rfl, bind_of_ok hstack]

theorem engineRun_issues {k : Nat} (hstack : tableStack s t kind (memWords s.mem pa 8) = .ok (some k)) :
    engineRun i s kind var base bad = if (if kind ≤ 2 then 8 else 4) ≤ s.queued t.uid (decide (kind ≤ 2)) then .error (.wait .issue)
      else .ok ({ s with cmds := s.cmds ++ [newCmd s.nextId kind var t (memWords s.mem pa 8) x.val k], nextId := s.nextId + 1 }.done t) := by
  rw [engineRun, bind_of_ok (home_turn h.ready), bind_of_ok (home_noStores h.ready), bind_of_ok (noMisuse_ok h.legal),
    bind_of_ok h.reads.1]
  simp only [bind_of_ok (readRecord_at h), hgood, Bool.false_eq_true, if_false, bind_of_ok rfl, bind_of_ok hstack]

end

/-- The stack that homes a gather's table, met at issue (R201). -/
theorem tableStack_gather {ws : List Word} {g : TlbEntry} (hfind : s.tlbFind t.cell t.asid (t.dataVa (ws.getD 1 0)) = some g) :
    tableStack s t 3 ws = .ok (g.stackOf (t.dataVa (ws.getD 1 0))) := by
  rw [tableStack, if_pos rfl]
  simp only [hfind]

theorem tableStack_other {ws : List Word} (hkind : kind ≠ 3) : tableStack s t kind ws = .ok (some 0) := if_neg hkind

theorem stackOf_hbm {g : TlbEntry} {va k : Nat} (h : placeOf (g.pa + va % 2 ^ g.log) = .hbm k) : g.stackOf va = some k := by
  rw [TlbEntry.stackOf, h]

theorem stackOf_other {g : TlbEntry} {va : Nat} (h : ∀ k, placeOf (g.pa + va % 2 ^ g.log) ≠ .hbm k) : g.stackOf va = none := by
  unfold TlbEntry.stackOf
  split
  · next k hk => exact absurd hk (h k)
  · rfl

end

/-! ### The head of an engine's queue (O40) -/

section
variable {s : State} {c : EngCmd} {rest : List EngCmd} {cls k : Nat} {ev : Instr} {mine : Bool} {plan : EngCmd → EngCmd}

theorem engineQueue_head (h : s.engineQueue cls k = c :: rest) : c.stage = 1 ∧ c.engine.1 = cls := by
  have hmem : c ∈ s.engineQueue cls k := h ▸ List.mem_cons_self
  have hkeys := (List.mem_filter.mp hmem).2
  simp only [Bool.and_eq_true, beq_iff_eq] at hkeys
  exact ⟨hkeys.1.1, hkeys.1.2⟩

/-- A command of a copy engine's queue is a copy. -/
theorem kind_of_copyQueue (h : s.engineQueue 0 k = c :: rest) : c.kind ≤ 2 := by
  obtain ⟨-, hclass⟩ := engineQueue_head h
  unfold EngCmd.engine at hclass
  split at hclass
  · assumption
  · split at hclass <;> cases hclass

theorem plan_copy {c : EngCmd} (h : c.kind ≤ 2) (dev free : Nat) :
    (c.var = .plain → c.plan dev free = planPlain dev free c) ∧ (c.var = .enc → c.plan dev free = planEncode dev c) ∧
    (c.var = .dec → c.plan dev free = planDecode dev c) ∧ (c.var = .q4g → c.plan dev free = planQ4 dev c) := by
  unfold EngCmd.plan
  split
  · omega
  · omega
  · refine ⟨fun hvar => ?_, fun hvar => ?_, fun hvar => ?_, fun hvar => ?_⟩ <;> rw [hvar]

theorem plan_gather {c : EngCmd} (h : c.kind = 3) (dev free : Nat) : c.plan dev free = planGather c := by
  simp only [EngCmd.plan, h]

theorem plan_route {c : EngCmd} (h : c.kind = 4) (dev free : Nat) : c.plan dev free = planRoute c := by
  simp only [EngCmd.plan, h]

/-- The six events that carry commands out, by the queue, the commands that are theirs, and their plans. -/
def unitEvents (s : State) (c : EngCmd) (k : Nat) : List (Instr × Nat × Bool × (EngCmd → EngCmd)) :=
  let dev := s.boot.device.toNat
  [(.copyPlain k, 0, c.var == .plain, planPlain dev s.free), (.copyEncode k, 0, c.var == .enc, planEncode dev),
    (.copyDecode k, 0, c.var == .dec, planDecode dev), (.q4gUnpack k, 0, c.var == .q4g, planQ4 dev),
    (.gather k, 1, c.kind == 3, planGather), (.routeAssign k, 2, c.kind == 4, planRoute)]

theorem exec_unit (hmem : (ev, cls, mine, plan) ∈ unitEvents s c k) :
    ∃ pick, exec ev s = .next (s.runHead cls k pick) ∧ pick c = mine := by
  simp only [unitEvents, List.mem_cons, Prod.mk.injEq, List.not_mem_nil, or_false] at hmem
  rcases hmem with ⟨rfl, rfl, rfl, rfl⟩ | ⟨rfl, rfl, rfl, rfl⟩ | ⟨rfl, rfl, rfl, rfl⟩ | ⟨rfl, rfl, rfl, rfl⟩ | ⟨rfl, rfl, rfl, rfl⟩ |
    ⟨rfl, rfl, rfl, rfl⟩ <;> exact ⟨_, rfl, rfl⟩

theorem unit_plan (hmem : (ev, cls, mine, plan) ∈ unitEvents s c k) (hqueue : s.engineQueue cls k = c :: rest) (hmine : mine = true) :
    EngCmd.plan { c with begun := true } s.boot.device.toNat s.free = plan { c with begun := true } := by
  simp only [unitEvents, List.mem_cons, Prod.mk.injEq, List.not_mem_nil, or_false] at hmem
  have hcopy : cls = 0 → c.kind ≤ 2 := fun hcls => kind_of_copyQueue (hcls ▸ hqueue)
  have hplans (hcls : cls = 0) := plan_copy (c := { c with begun := true }) (hcopy hcls) s.boot.device.toNat s.free
  rcases hmem with ⟨-, hcls, rfl, rfl⟩ | ⟨-, hcls, rfl, rfl⟩ | ⟨-, hcls, rfl, rfl⟩ | ⟨-, hcls, rfl, rfl⟩ | ⟨-, -, rfl, rfl⟩ | ⟨-, -, rfl, rfl⟩
  · obtain ⟨hplan, -, -, -⟩ := hplans hcls
    exact hplan (eq_of_beq hmine)
  · obtain ⟨-, hplan, -, -⟩ := hplans hcls
    exact hplan (eq_of_beq hmine)
  · obtain ⟨-, -, hplan, -⟩ := hplans hcls
    exact hplan (eq_of_beq hmine)
  · obtain ⟨-, -, -, hplan⟩ := hplans hcls
    exact hplan (eq_of_beq hmine)
  · exact plan_gather (c := { c with begun := true }) (eq_of_beq hmine) _ _
  · exact plan_route (c := { c with begun := true }) (eq_of_beq hmine) _ _

theorem runHead_stalled {pick : EngCmd → Bool} (hqueue : s.engineQueue cls k = c :: rest) (hwalk : c.walk ≠ none) :
    s.runHead cls k pick = s := by
  have hsome : c.walk.isSome = true := Option.isSome_iff_ne_none.mpr hwalk
  simp only [State.runHead, hqueue, hsome, Bool.or_true, if_true]

/-- The head of a queue begins, and goes on as far as one event takes it (log entry 96). -/
theorem runHead_runs {pick : EngCmd → Bool} (hqueue : s.engineQueue cls k = c :: rest) (hpick : pick c = true) (hwalk : c.walk = none) :
    s.runHead cls k pick = ((EngAt.mk s { c with begun := true } true).run s.engFuel).s.modCmd c.num fun _ =>
      ((EngAt.mk s { c with begun := true } true).run s.engFuel).c := by
  simp only [State.runHead, hqueue, hpick, hwalk, Option.isSome_none, Bool.not_true, Bool.or_self, Bool.false_eq_true, if_false]

/-- A run is steps one after another, until the command is off or the fuel is used. -/
theorem run_iterate (fuel : Nat) (x : EngAt) : ∃ n, x.run fuel = (EngAt.act^[n]) x ∧
    (((EngAt.act^[n]) x).on = false ∨ n = fuel) ∧ ∀ m, m < n → ((EngAt.act^[m]) x).on = true := by
  induction fuel generalizing x with
  | zero => exact ⟨0, rfl, .inr rfl, fun m hm => absurd hm (Nat.not_lt_zero m)⟩
  | succ fuel ih =>
    cases hon : x.on with
    | false => exact ⟨0, if_neg (ne_true_of_eq_false hon), .inl hon, fun m hm => absurd hm (Nat.not_lt_zero m)⟩
    | true =>
      obtain ⟨n, hrun, hend, hbefore⟩ := ih x.act
      refine ⟨n + 1, (if_pos hon).trans hrun, hend.imp_right (congrArg (· + 1)), fun m hm => ?_⟩
      cases m with
      | zero => exact hon
      | succ m => exact hbefore m (Nat.lt_of_succ_lt_succ hm)

/-- Where nothing is due to be written or read, the plan goes on. -/
theorem act_plan {x : EngAt} (hout : x.c.out = []) (hread : x.c.rdLeft = 0) :
    x.act.c = x.c.plan x.s.boot.device.toNat x.s.free ∧ x.act.s.mem = x.s.mem ∧ x.act.on = decide (x.act.c.stage = 1) := by
  simp only [EngAt.act, hout, hread, ne_eq, not_true_eq_false, if_false, and_self]

end

/-! ### One step of a command (O40) -/

section
variable {x : EngAt} {p : EngPiece} {r : List EngPiece}

theorem act_put (hout : x.c.out = p :: r) : x.act = x.put p := by simp only [EngAt.act, hout]

theorem act_get (hout : x.c.out = []) (hread : x.c.rdLeft ≠ 0) : x.act = x.get := by
  simp only [EngAt.act, hout, ne_eq, hread, not_false_eq_true, if_true]

/-- Where a piece goes: to a B-store by its fabric address, or to memory by translation (R197). -/
def pieceLoc (x : EngAt) (p : EngPiece) : Run Loc :=
  if p.store then x.s.storeLoc x.c.part p.addr p.bytes.length else x.s.engineLoc x.c.ctx p.addr false true

theorem put_placed {loc : Loc} (hloc : pieceLoc x p = .ok loc)
    (hok : x.s.writeOk x.c.ctx.w loc.watched loc.pa p.bytes.length (takeBytes p.bytes p.bytes.length).1 p.addr = .ok ()) :
    x.put p = { x with
      s := x.s.write x.c.ctx.w loc.watched loc.pa p.bytes.length (takeBytes p.bytes p.bytes.length).1
      c := { x.c with w2 := x.c.w2 + p.bytes.length, out := x.c.out.tail } } := by
  simp only [pieceLoc] at hloc
  simp only [EngAt.put, hloc, hok]

theorem put_held {loc : Loc} {e : Stop} (hloc : pieceLoc x p = .ok loc)
    (hheld : x.s.writeOk x.c.ctx.w loc.watched loc.pa p.bytes.length (takeBytes p.bytes p.bytes.length).1 p.addr = .error e) :
    x.put p = x.stop p.addr e := by
  simp only [pieceLoc] at hloc
  simp only [EngAt.put, hloc, hheld]

theorem put_stopped {e : Stop} (hloc : pieceLoc x p = .error e) : x.put p = x.stop p.addr e := by
  simp only [pieceLoc] at hloc
  simp only [EngAt.put, hloc]

theorem storeLoc_open {s : State} {part pa n : Nat} (hdead : (s.part part).dead.contains (homeOf pa) = false) (hremote : s.remote pa = false) :
    s.storeLoc part pa n = .ok ⟨pa, (s.part part).watches pa n⟩ := by
  simp only [State.storeLoc, hdead, hremote, Bool.false_eq_true, if_false]

theorem storeLoc_dead {s : State} {part pa n : Nat} (hdead : (s.part part).dead.contains (homeOf pa) = true) :
    s.storeLoc part pa n = .error (.trap 0x0305 (pa % 2 ^ 64)) := by
  simp only [State.storeLoc, hdead, if_true]

theorem get_reads {loc : Loc} (hloc : x.s.engineLoc x.c.ctx x.c.rdAt true false = .ok loc) (hquiet : Quiet x.s) :
    x.get = { x with c := { x.c with
      rdAt := x.c.rdAt + min (8 - x.c.rdAt % 8) x.c.rdLeft, rdLeft := x.c.rdLeft - min (8 - x.c.rdAt % 8) x.c.rdLeft
      got := bytesOf (memRead x.s.mem loc.pa (min (8 - x.c.rdAt % 8) x.c.rdLeft)) (min (8 - x.c.rdAt % 8) x.c.rdLeft) :: x.c.got } } := by
  simp only [EngAt.get, hloc, readAt_quiet hquiet, Bool.false_eq_true, if_false]

theorem get_stopped {e : Stop} (hloc : x.s.engineLoc x.c.ctx x.c.rdAt true false = .error e) : x.get = x.stop x.c.rdAt e := by
  simp only [EngAt.get, hloc]

/-- A fault ends a command with status bit 2, its cause and its address (R200). -/
theorem failed_fields (c : EngCmd) (cause addr : Nat) : (c.failed cause addr).stage = (if c.bar = 0 then 3 else 2) ∧
    (c.failed cause addr).w6 = cause ∧ (c.failed cause addr).w5 = BitVec.ofNat 64 addr ∧ bitAt (c.failed cause addr).status 2 = true ∧
    (c.failed cause addr).w2 = c.w2 ∧ (c.failed cause addr).credit = c.w2 := by
  have hflag : (c.flag 2).bar = c.bar ∧ (c.flag 2).w2 = c.w2 := by
    unfold EngCmd.flag
    split <;> exact ⟨rfl, rfl⟩
  obtain ⟨hbar, hw2⟩ := hflag
  refine ⟨?_, rfl, rfl, flag_sets c 2, hw2, hw2⟩
  rw [← hbar]
  rfl

/-- A miss is the only stop of a translation that is no fault of it and no wait, and it names the kind of access (R334). -/
theorem engineLoc_miss {s : State} {c : EngCtx} {a va acc : Nat} {rd wr : Bool} (h : s.engineLoc c a rd wr = .error (.miss va acc)) :
    acc = if wr then 1 else 0 := by
  unfold State.engineLoc at h
  split at h
  · cases h
    rfl
  · simp only [State.permit, bind, Except.bind] at h
    split at h
    · next hperm =>
      cases h
      split at hperm
      · cases hperm
      · split at hperm <;> cases hperm
    · split at h <;> cases h

/-- A command that misses a translation is off until its walk is done (R321). -/
theorem stall_fields (x : EngAt) (va acc : Nat) : (x.stall va acc).on = false ∧ (x.stall va acc).s.mem = x.s.mem ∧
    ∃ id, (x.stall va acc).c = { x.c with walk := some (id, va) } ∧ ∃ y ∈ (x.stall va acc).s.walks, y.id = id := by
  obtain ⟨ws, n, hframe⟩ := startWalk_frame x.s x.c.die x.c.part x.c.asid va acc true (x.c.cell / 16 * 16) x.c.kind
  obtain ⟨y, hy, hid, -⟩ := startWalk_listed x.s x.c.die x.c.part x.c.asid va acc true (x.c.cell / 16 * 16) x.c.kind
  have hmem : (x.stall va acc).s.mem = x.s.mem := by
    change State.mem (x.s.startWalk x.c.die x.c.part x.c.asid va acc true (x.c.cell / 16 * 16) x.c.kind).2 = _
    rw [hframe]
  exact ⟨rfl, hmem, _, rfl, y, hy, hid⟩

end

/-- Settles O40: a command is issued by what its descriptor and table say; a unit's event runs the head of its queue step by step; and
each step writes, reads or plans, or stops as its access stops. -/
theorem engineCommands : Obligations.EngineCommands := by
  unfold Obligations.EngineCommands
  refine ⟨fun s v base x t pa i kind bad var k uid c => ⟨fun hmem h => ⟨fun hbad => ?_, fun hgood => ⟨fun g hkind hfind hhome => ?_,
    fun hwhere => ?_⟩⟩, fun haccept => ?_⟩, fun s c rest k ev cls mine plan hmem hqueue hmine => ?_, fun x => ⟨fun p r loc hout hloc => ?_,
    fun p r hout hstore hdead => ?_, fun loc hout hread hloc hquiet => ?_, fun a w hdue => ?_⟩⟩
  · rw [exec_issue hmem, engineRun_malformed h hbad, settle_trap h.ready, BitVec.ofNat_toNat, BitVec.setWidth_eq]
  · subst hkind
    have hstack := (tableStack_gather hfind).trans (congrArg Except.ok (stackOf_other hhome))
    rw [exec_issue hmem, engineRun_homeless h hgood hstack, settle_trap h.ready, BitVec.ofNat_toNat, BitVec.setWidth_eq]
  · have hstack : tableStack s t kind (memWords s.mem pa 8) = .ok (some k) := by
      rcases hwhere with ⟨rfl, g, hfind, hhome⟩ | ⟨hkind, rfl⟩
      · exact (tableStack_gather hfind).trans (congrArg Except.ok (stackOf_hbm hhome))
      · exact tableStack_other hkind
    rw [exec_issue hmem, engineRun_issues h hgood hstack]
    exact ⟨fun hroom => by rw [if_neg (Nat.not_le.mpr hroom), settle_ok], fun hfull => by rw [if_pos hfull]; rfl⟩
  · change execEngineAcceptCommand uid s = _
    simp only [execEngineAcceptCommand, haccept]
  · obtain ⟨pick, hexec, hpick⟩ := exec_unit hmem
    refine ⟨fun hwalk => ?_, fun hwalk => ?_⟩
    · rw [hexec, runHead_stalled hqueue hwalk]
    · rw [hexec, runHead_runs hqueue (hpick.trans hmine) hwalk]
      refine ⟨fun hasync => ?_, fun hasync => ?_, fun hout hread => ?_⟩
      · rw [State.engFuel, if_pos hasync]
        rfl
      · rw [State.engFuel, if_neg (ne_true_of_eq_false hasync)]
        obtain ⟨n, hrun, hend, hbefore⟩ := run_iterate (2 ^ 48) ⟨s, { c with begun := true }, true⟩
        exact ⟨n, by rw [hrun], hend, hbefore⟩
      · obtain ⟨hplan, hsame, hon⟩ := act_plan (x := ⟨s, { c with begun := true }, true⟩) hout hread
        exact ⟨hplan.trans (unit_plan hmem hqueue hmine), hsame, hon⟩
  · have hplace : pieceLoc x p = .ok loc := by
      unfold pieceLoc
      split at hloc
      · next hstore =>
        obtain ⟨hdead, hremote, rfl⟩ := hloc
        rw [if_pos hstore, storeLoc_open hdead hremote]
      · next hstore => rw [if_neg hstore, hloc]
    rw [act_put hout]
    exact ⟨fun hok => by rw [put_placed hplace hok, hout]; rfl, fun hheld => put_held hplace hheld⟩
  · have hplace : pieceLoc x p = .error (.trap 0x0305 (p.addr % 2 ^ 64)) := by rw [pieceLoc, if_pos hstore, storeLoc_dead hdead]
    obtain ⟨hstage, hcause, haddr, -⟩ := failed_fields x.c 0x0305 (p.addr % 2 ^ 64)
    rw [act_put hout, put_stopped hplace]
    exact ⟨rfl, rfl, hstage, hcause, haddr⟩
  · rw [act_get hout hread, get_reads hloc hquiet]
  · have hstop : ∀ e, x.s.engineLoc x.c.ctx a (!w) w = .error e → x.act = x.stop a e := fun e he => by
      rcases hdue with ⟨p, r, hout, hmemory, rfl, rfl⟩ | ⟨hout, hread, rfl, rfl⟩
      · rw [act_put hout, put_stopped]
        rw [pieceLoc, hmemory]
        exact he
      · rw [act_get hout hread, get_stopped he]
    refine ⟨fun va acc hmiss => ?_, fun cause addr htrap => ?_⟩
    · obtain ⟨hoff, hsame, hwalk⟩ := stall_fields x va acc
      rw [hstop _ hmiss]
      exact ⟨engineLoc_miss hmiss, hoff, hsame, hwalk⟩
    · obtain ⟨hstage, hcause, haddr, hstatus, hcount, hcredit⟩ := failed_fields x.c cause addr
      rw [hstop _ htrap]
      exact ⟨rfl, rfl, hstage, hcause, haddr, hstatus, hcount, hcredit⟩

end Sys2Proof.Proofs
end

section
namespace Sys2Proof.Proofs
open Sys2Proof Sys2Proof.Machine Sys2Proof.Safety Sys2Proof.Laws

/-! ### Route slots (O41) -/

/-- The indexes at which a list's entries, with their places, pass a test (R202). -/
def indexesWhere (ids : List Nat) (q : Nat × Nat → Bool) : List Nat := (ids.zipIdx.filter q).map (·.2)

theorem mem_indexesWhere {ids : List Nat} {q : Nat × Nat → Bool} {i : Nat} :
    i ∈ indexesWhere ids q ↔ ∃ e, ids[i]? = some e ∧ q (e, i) = true := by
  simp [indexesWhere, List.mem_zipIdx_iff_getElem?]

theorem indexesWhere_rising (ids : List Nat) (q : Nat × Nat → Bool) : (indexesWhere ids q).Pairwise (· < ·) := by
  have hsub : (indexesWhere ids q).Sublist (ids.zipIdx.map Prod.snd) := List.filter_sublist.map _
  rw [List.zipIdx_map_snd] at hsub
  exact List.Pairwise.sublist hsub List.pairwise_lt_range'

theorem indexesWhere_length (ids : List Nat) (e : Nat) : (indexesWhere ids fun x => x.1 == e).length = ids.count e := by
  have hfst : ids.count e = (ids.zipIdx.map Prod.fst).countP (· == e) := by rw [List.zipIdx_map_fst, List.count]
  rw [hfst, List.countP_map, List.countP_eq_length_filter, indexesWhere, List.length_map]
  rfl

theorem accepted_eq (ids : List Nat) (e cap : Nat) : accepted ids e cap = (indexesWhere ids fun x => x.1 == e).take cap := rfl

/-- What stands before a member of the front of a rising list is in the front too. -/
theorem mem_take_of_lt {l : List Nat} (h : l.Pairwise (· < ·)) {n i j : Nat} (hi : i ∈ l.take n) (hj : j ∈ l) (hlt : j < i) :
    j ∈ l.take n := by
  rw [← List.take_append_drop n l] at h hj
  obtain ⟨-, -, hcross⟩ := List.pairwise_append.mp h
  rcases List.mem_append.mp hj with hfront | hback
  · exact hfront
  · exact absurd (hcross i hi j hback) (Nat.lt_asymm hlt)

/-- R202: the accepted indexes of an expert are the first that name it. -/
theorem accepted_first (ids : List Nat) (e cap : Nat) : (accepted ids e cap).length = min cap (ids.count e) ∧
    (accepted ids e cap).Pairwise (· < ·) ∧
    ∀ i ∈ accepted ids e cap, ids[i]? = some e ∧ ∀ j, j < i → ids[j]? = some e → j ∈ accepted ids e cap := by
  have hmem : ∀ i, i ∈ indexesWhere ids (fun x => x.1 == e) ↔ ids[i]? = some e := fun i => by
    rw [mem_indexesWhere]
    exact ⟨fun ⟨k, hk, heq⟩ => hk.trans (congrArg some (eq_of_beq heq)), fun h => ⟨e, h, beq_self_eq_true e⟩⟩
  have hrising := indexesWhere_rising ids fun x => x.1 == e
  rw [accepted_eq]
  refine ⟨by rw [List.length_take, indexesWhere_length], hrising.sublist (List.take_sublist _ _), fun i hi => ?_⟩
  exact ⟨(hmem i).mp (List.mem_of_mem_take hi), fun j hlt hj => mem_take_of_lt hrising hi ((hmem j).mpr hj) hlt⟩

/-- R202: every other index is dropped, in rising order. -/
theorem dropped_rest (ids : List Nat) (experts cap : Nat) : (dropped ids experts cap).Pairwise (· < ·) ∧
    ∀ i, i ∈ dropped ids experts cap ↔ ∃ e, ids[i]? = some e ∧ (experts ≤ e ∨ i ∉ accepted ids e cap) := by
  refine ⟨indexesWhere_rising ids _, fun i => ?_⟩
  rw [show dropped ids experts cap = indexesWhere ids _ from rfl, mem_indexesWhere]
  simp only [Bool.or_eq_true, decide_eq_true_eq, Bool.not_eq_true', List.contains_eq_mem, decide_eq_false_iff_not]

/-! ### The entropy code (O41) -/

theorem unpackBits_cons (b : Byte) (bs : List Byte) : unpackBits (b :: bs) = unpackBits [b] ++ unpackBits bs := by
  simp [unpackBits]

/-- A byte of eight bits gives them back, bit 7 first. -/
theorem unpackBits_eight : ∀ a b c d e f g h : Bool,
    unpackBits [BitVec.ofNat 8 (bitOf a * 128 + bitOf b * 64 + bitOf c * 32 + bitOf d * 16 + bitOf e * 8 + bitOf f * 4 + bitOf g * 2
      + bitOf h)] = [a, b, c, d, e, f, g, h] := by decide

/-- Fewer than eight bits are packed as eight with zeros behind them. -/
theorem packBits_short {l : List Bool} (hne : l ≠ []) (hlt : l.length < 8) :
    unpackBits (packBits l) = l ++ List.replicate (8 - l.length) false := by
  match l, hne, hlt with
  | [a], _, _ => revert a; decide
  | [a, b], _, _ => revert a b; decide
  | [a, b, c], _, _ => revert a b c; decide
  | [a, b, c, d], _, _ => revert a b c d; decide
  | [a, b, c, d, e], _, _ => revert a b c d e; decide
  | [a, b, c, d, e, f], _, _ => revert a b c d e f; decide
  | [a, b, c, d, e, f, g], _, _ => revert a b c d e f g; decide

/-- R309: bits packed into bytes unpack to themselves and padding. -/
theorem unpackBits_packBits (bits : List Bool) : ∃ pad, unpackBits (packBits bits) = bits ++ pad ∧ pad.length < 8 ∧ ∀ b ∈ pad, b = false := by
  induction bits using packBits.induct with
  | case1 => exact ⟨[], rfl, by decide, by simp⟩
  | case2 a b c d e f g h r ih =>
    obtain ⟨pad, hunpack, hlen, hzero⟩ := ih
    refine ⟨pad, ?_, hlen, hzero⟩
    rw [packBits, unpackBits_cons, unpackBits_eight, hunpack]
    rfl
  | case3 l hne hshort =>
    have hlt : l.length < 8 := by
      by_contra hge
      match l, hge with
      | a :: b :: c :: d :: e :: f :: g :: h :: r, _ => exact hshort a b c d e f g h r rfl
      | [], hge | [_], hge | [_, _], hge | [_, _, _], hge | [_, _, _, _], hge | [_, _, _, _, _], hge | [_, _, _, _, _, _], hge
      | [_, _, _, _, _, _, _], hge => exact hge (by simp)
    refine ⟨_, packBits_short hne hlt, ?_, fun b hb => List.eq_of_mem_replicate hb⟩
    have hpos := List.length_pos_iff.mpr hne
    rw [List.length_replicate]
    omega

/-- Neither of two codes begins the other (R310). -/
def CodesApart (a b : HCode) : Prop := (codeBits a).isPrefixOf (codeBits b) = false ∧ (codeBits b).isPrefixOf (codeBits a) = false

/-- Where no code begins another, only one of them begins a string that it begins. -/
theorem code_unique {cs : List HCode} (hfree : cs.Pairwise CodesApart) {a b : HCode} (ha : a ∈ cs) (hb : b ∈ cs) {bits : List Bool}
    (hpa : codeBits a <+: bits) (hpb : codeBits b <+: bits) : a = b := by
  by_contra hne
  have hsymm : Std.Symm CodesApart := ⟨fun _ _ h => ⟨h.2, h.1⟩⟩
  obtain ⟨hab, hba⟩ := hfree.forall ha hb hne
  rcases List.prefix_or_prefix_of_prefix hpa hpb with h | h
  · exact Bool.false_ne_true (hab.symm.trans (List.isPrefixOf_iff_prefix.mpr h))
  · exact Bool.false_ne_true (hba.symm.trans (List.isPrefixOf_iff_prefix.mpr h))

theorem codeBits_length (c : HCode) : (codeBits c).length = c.len := by simp [codeBits]

/-- The code of a symbol, whatever follows, reads as the symbol. -/
theorem readCode_code {cs : List HCode} (hfree : cs.Pairwise CodesApart) {b : Byte} {c : HCode} (hfind : cs.find? (fun c => c.sym == b) = some c)
    (rest : List Bool) : readCode cs (codeBits c ++ rest) = some (b, rest) := by
  have hc := List.mem_of_find?_eq_some hfind
  have hsym : c.sym = b := eq_of_beq (List.find?_some (p := fun c : HCode => c.sym == b) hfind)
  have hbegins : (codeBits c).isPrefixOf (codeBits c ++ rest) = true := List.isPrefixOf_iff_prefix.mpr (List.prefix_append _ _)
  have hread : cs.find? (fun k => (codeBits k).isPrefixOf (codeBits c ++ rest)) = some c := by
    have hsome : (cs.find? fun k => (codeBits k).isPrefixOf (codeBits c ++ rest)).isSome = true := List.find?_isSome.mpr ⟨c, hc, hbegins⟩
    obtain ⟨k, hk⟩ := Option.isSome_iff_exists.mp hsome
    have hprefix := List.find?_some (p := fun k : HCode => (codeBits k).isPrefixOf (codeBits c ++ rest)) hk
    rw [hk, code_unique hfree (List.mem_of_find?_eq_some hk) hc (List.isPrefixOf_iff_prefix.mp hprefix) (List.prefix_append _ _)]
  rw [readCode, hread]
  simp only [hsym, ← codeBits_length c, List.drop_left]

/-- R310: the codes of a block's bytes decode to the block. -/
theorem decodeBlock_encodeBlock {cs : List HCode} (hfree : cs.Pairwise CodesApart) (tail : List Bool) (bs : List Byte) {bits : List Bool}
    (h : encodeBlock cs bs = some bits) : decodeBlock cs (bits ++ tail) bs.length = some (bs, tail) := by
  induction bs generalizing bits with
  | nil =>
    cases h
    rfl
  | cons b bs ih =>
    unfold encodeBlock at h
    split at h
    · next c r hfind hrest =>
      cases h
      rw [List.append_assoc, List.length_cons, decodeBlock, readCode_code hfree hfind]
      simp only [ih hrest]
    · cases h

end Sys2Proof.Proofs
end

section
namespace Sys2Proof.Proofs
open Sys2Proof Sys2Proof.Machine Sys2Proof.Safety Sys2Proof.Laws

/-! ### Runs of bytes in memory (O41) -/

theorem memBytes_length (m : List Host.Cell) (a n : Nat) : (memBytes m a n).length = n := by
  induction n generalizing a with
  | zero => rfl
  | succ n ih => rw [memBytes, List.length_cons, ih]

theorem memBytes_add (m : List Host.Cell) (a k n : Nat) : memBytes m a (k + n) = memBytes m a k ++ memBytes m (a + k) n := by
  induction k generalizing a with
  | zero => simp [memBytes]
  | succ k ih => rw [Nat.succ_add, memBytes, memBytes, ih, List.cons_append, show a + 1 + k = a + (k + 1) by omega]

theorem memBytes_congr {m m' : List Host.Cell} {a n : Nat} (h : ∀ b, a ≤ b → b < a + n → memGet m b = memGet m' b) :
    memBytes m a n = memBytes m' a n := by
  induction n generalizing a with
  | zero => rfl
  | succ n ih => rw [memBytes, memBytes, h a le_rfl (by omega), ih fun b hb hlt => h b (by omega) (by omega)]

theorem memPut_append (m : List Host.Cell) (a : Nat) (bs cs : List Byte) :
    memPut m a (bs ++ cs) = memPut (memPut m a bs) (a + bs.length) cs := by
  induction bs generalizing m a with
  | nil => rfl
  | cons b bs ih => rw [List.cons_append, memPut, memPut, ih, List.length_cons, show a + 1 + bs.length = a + (bs.length + 1) by omega]

theorem memGet_memPut_outside {m : List Host.Cell} (h : memWf m = true) {a b : Nat} {bs : List Byte} (hb : b < a ∨ a + bs.length ≤ b) :
    memGet (memPut m a bs) b = memGet m b := by
  induction bs generalizing m a with
  | nil => rfl
  | cons x bs ih =>
    rw [List.length_cons] at hb
    rw [memPut, ih (memSet_wf h _ _) (by omega), memGet_memSet h, if_neg (by omega)]

theorem memGet_memPut_inside {m : List Host.Cell} (h : memWf m = true) (a : Nat) {j : Nat} {bs : List Byte} (hj : j < bs.length) :
    memGet (memPut m a bs) (a + j) = bs.getD j 0 := by
  induction bs generalizing m a j with
  | nil => cases hj
  | cons x bs ih =>
    cases j with
    | zero =>
      change memGet (memPut m a (x :: bs)) a = x
      rw [memPut, memGet_memPut_outside (memSet_wf h _ _) (by omega), memGet_memSet h, if_pos rfl]
    | succ j =>
      rw [memPut, show a + (j + 1) = a + 1 + j by omega, ih (memSet_wf h _ _) _ (Nat.lt_of_succ_lt_succ hj), List.getD_cons_succ]

/-- Bytes that a run of bytes does not reach are read as before. -/
theorem memBytes_memPut {m : List Host.Cell} (h : memWf m = true) {a n b : Nat} {bs : List Byte} (hapart : a + n ≤ b ∨ b + bs.length ≤ a) :
    memBytes (memPut m b bs) a n = memBytes m a n :=
  memBytes_congr fun x hx hlt => memGet_memPut_outside h (by omega)

/-- The bytes of a number that was read are those of the memory. -/
theorem bytesOf_memRead (m : List Host.Cell) (a n : Nat) : bytesOf (memRead m a n) n = memBytes m a n := by
  induction n generalizing a with
  | zero => rfl
  | succ n ih =>
    have hbyte := (memGet m a).isLt
    have hlow : BitVec.ofNat 8 (memRead m a (n + 1)) = memGet m a := by
      refine BitVec.eq_of_toNat_eq ?_
      rw [BitVec.toNat_ofNat, memRead]
      omega
    have hhigh : memRead m a (n + 1) / 256 = memRead m (a + 1) n := by
      rw [memRead]
      omega
    rw [bytesOf, hlow, hhigh, ih, memBytes]

/-- A number taken from the bytes of the memory is the number read there. -/
theorem takeBytes_memBytes (m : List Host.Cell) (a n : Nat) : (takeBytes (memBytes m a n) n).1 = memRead m a n := by
  induction n generalizing a with
  | zero => rfl
  | succ n ih =>
    rw [memBytes, takeBytes, memRead, ← ih]

/-- A run of bytes is written as the number that they make. -/
theorem memWrite_takeBytes (m : List Host.Cell) (a : Nat) (bs : List Byte) :
    memWrite m a bs.length (takeBytes bs bs.length).1 = memPut m a bs := by
  induction bs generalizing m a with
  | nil => rfl
  | cons b bs ih =>
    have hb := b.isLt
    have hlow : BitVec.ofNat 8 ((b.toNat + 256 * (takeBytes bs bs.length).1) % 256) = b := by
      refine BitVec.eq_of_toNat_eq ?_
      rw [BitVec.toNat_ofNat]
      omega
    have hhigh : (b.toNat + 256 * (takeBytes bs bs.length).1) / 256 = (takeBytes bs bs.length).1 := by omega
    rw [List.length_cons, takeBytes, memWrite, hlow, hhigh, ih, memPut]

/-! ### Steps of a command, one after another (O41) -/

/-- From `x` a command comes to `y` in `n` steps of its unit, and is on all the way. -/
def Reaches (x : EngAt) (n : Nat) (y : EngAt) : Prop := ∀ fuel, x.run (n + fuel) = y.run fuel

theorem Reaches.refl (x : EngAt) : Reaches x 0 x := fun fuel => by rw [Nat.zero_add]

theorem Reaches.trans {x y z : EngAt} {n k : Nat} (h : Reaches x n y) (h' : Reaches y k z) : Reaches x (n + k) z := fun fuel => by
  rw [Nat.add_assoc, h, h']

theorem Reaches.step {x : EngAt} (h : x.on = true) : Reaches x 1 x.act := fun fuel => by
  rw [Nat.add_comm, EngAt.run, if_pos h]

/-- A command that ends before the fuel is used is as its last step left it. -/
theorem Reaches.run_ends {x y : EngAt} {n fuel : Nat} (h : Reaches x n y) (hoff : y.on = false) (hfuel : n ≤ fuel) : x.run fuel = y := by
  obtain ⟨rest, rfl⟩ := Nat.exists_eq_add_of_le hfuel
  rw [h]
  cases rest with
  | zero => rfl
  | succ rest => exact if_neg (ne_true_of_eq_false hoff)

/-- Where nothing is due and no ranges overlap, a step is the plan's and leaves the machine as it is. -/
theorem act_plan_only {x : EngAt} (hout : x.c.out = []) (hread : x.c.rdLeft = 0) (hover : x.c.overlaps = none) :
    x.act = ⟨x.s, x.c.plan x.s.boot.device.toNat x.s.free, decide ((x.c.plan x.s.boot.device.toNat x.s.free).stage = 1)⟩ := by
  simp only [EngAt.act, hout, hread, hover, Option.isSome_none, Bool.false_eq_true, false_and, ne_eq, not_true_eq_false, if_false,
    Nat.add_zero]

/-- A command with `n` bytes to be read from `a`, behind those that it has read. -/
def reading (c : EngCmd) (a n : Nat) (got : List (List Byte)) : EngCmd := { c with rdAt := a, rdLeft := n, got := got }

/-- A command with writes to be performed, behind those counted. -/
def writing (c : EngCmd) (out : List EngPiece) (count : Nat) : EngCmd := { c with out := out, w2 := count }

/-- `n` bytes from `a` on stand from `pa` on in the memory of this device, and no object watches them. -/
def MapsTo (s : State) (x : EngCtx) (a pa n : Nat) (r w : Bool) : Prop := ∀ j, j < n → s.engineLoc x (a + j) r w = .ok ⟨pa + j, false⟩

theorem MapsTo.part {s : State} {x : EngCtx} {a pa n : Nat} {r w : Bool} (h : MapsTo s x a pa n r w) {o k : Nat} (hin : o + k ≤ n) :
    MapsTo s x (a + o) (pa + o) k r w := fun j hj => by
  rw [Nat.add_assoc, Nat.add_assoc]
  exact h (o + j) (by omega)

theorem MapsTo.head {s : State} {x : EngCtx} {a pa n : Nat} {r w : Bool} (h : MapsTo s x a pa n r w) (hpos : 0 < n) :
    s.engineLoc x a r w = .ok ⟨pa, false⟩ := h 0 hpos

/-- No law region counts at the words of `n` bytes (R312). -/
def Light (s : State) (pa n : Nat) : Prop := ∀ j, j < n → s.sweepWeight ((pa + j) / 8 * 8) = 0

theorem Light.part {s : State} {pa n : Nat} (h : Light s pa n) {o k : Nat} (hin : o + k ≤ n) : Light s (pa + o) k := fun j hj => by
  rw [Nat.add_assoc]
  exact h (o + j) (by omega)

theorem Light.of_unloaded {s : State} {pa n : Nat} (h : Unloaded s pa n) : Light s pa n := fun j hj => h _ (by omega) (by omega)

theorem piecesOf_succ {store : Bool} {a : Nat} {bs : List Byte} {fuel : Nat} (h : bs ≠ []) : piecesOf store a bs (fuel + 1) =
    ⟨store, a, bs.take (8 - a % 8)⟩ :: piecesOf store (a + (8 - a % 8)) (bs.drop (8 - a % 8)) fuel := by
  rw [piecesOf, if_neg h]

section
variable (s : State) (m : List Host.Cell)

theorem sweepWeight_withMem (pa : Nat) : (withMem s m).sweepWeight pa = s.sweepWeight pa := by
  simp only [State.sweepWeight, State.liveParts, withMem]

theorem part_withMem (p : Nat) : (withMem s m).part p = s.part p := rfl

theorem die_withMem (d : Nat) : (withMem s m).die d = s.die d := rfl

theorem share_withMem (p dev : Nat) : (withMem s m).share p dev = s.share p dev := rfl

theorem mayName_withMem (p pa : Nat) : (withMem s m).mayName p pa = s.mayName p pa := by
  simp only [State.mayName, share_withMem]

theorem permit_withMem (p : Nat) (e : TlbEntry) (va : Nat) (r w x : Bool) : (withMem s m).permit p e va r w x = s.permit p e va r w x := by
  rw [State.permit, State.permit, mayName_withMem, part_withMem]

/-- What memory holds has no part in the translation of an engine's access. -/
theorem engineLoc_withMem (x : EngCtx) (a : Nat) (r w : Bool) : (withMem s m).engineLoc x a r w = s.engineLoc x a r w := by
  rw [State.engineLoc, State.engineLoc, die_withMem]
  cases (s.die x.die).tlb.find? fun e => e.hits x.asid (x.va a) with
  | none => rfl
  | some e =>
    dsimp only
    rw [permit_withMem]
    cases s.permit x.part e (x.va a) r w false <;> rfl

end

section
variable {s : State} {c : EngCmd} (hquiet : Quiet s)
include hquiet

/-- A mapped read brings the bytes of the memory up to the end of their aligned word. -/
theorem act_reads (hout : c.out = []) (m : List Host.Cell) {a pa n k : Nat} {got : List (List Byte)} (hpos : 0 < n)
    (hk : min (8 - a % 8) n = k) (hloc : s.engineLoc c.ctx a true false = .ok ⟨pa, false⟩) :
    EngAt.act ⟨withMem s m, reading c a n got, true⟩ =
      ⟨withMem s m, reading c (a + k) (n - k) (memBytes m pa k :: got), true⟩ := by
  let x : EngAt := ⟨withMem s m, reading c a n got, true⟩
  have hget : x.act = x.get := act_get hout (Nat.pos_iff_ne_zero.mp hpos)
  have hplace : x.s.engineLoc x.c.ctx x.c.rdAt true false = .ok ⟨pa, false⟩ := (engineLoc_withMem ..).trans hloc
  have hread := get_reads (x := x) hplace hquiet
  rw [← bytesOf_memRead m pa k]
  subst hk
  exact hget.trans hread

/-- Reading a mapped range takes a step for each aligned word of 8 bytes that it touches (R276). -/
theorem reads_range (hout : c.out = []) (m : List Host.Cell) (n : Nat) : ∀ {a pa : Nat} (got : List (List Byte)),
    MapsTo s c.ctx a pa n true false →
    ∃ k got', 8 * k ≤ a % 8 + n + 7 ∧ (n = 0 → k = 0) ∧ got'.reverse.flatten = got.reverse.flatten ++ memBytes m pa n ∧
      Reaches ⟨withMem s m, reading c a n got, true⟩ k ⟨withMem s m, reading c (a + n) 0 got', true⟩ := by
  induction n using Nat.strong_induction_on with
  | _ n ih =>
    intro a pa got hmap
    rcases Nat.eq_zero_or_pos n with rfl | hpos
    · exact ⟨0, got, by omega, fun _ => rfl, by simp [memBytes], .refl _⟩
    · obtain ⟨k, hk⟩ : ∃ k, min (8 - a % 8) n = k := ⟨_, rfl⟩
      obtain ⟨k', got', hsteps, hnone, hgot, hreach⟩ := ih (n - k) (by omega) (memBytes m pa k :: got) (hmap.part (o := k) (k := n - k) (by omega))
      have hfirst := Reaches.step (x := ⟨withMem s m, reading c a n got, true⟩) rfl
      rw [act_reads hquiet hout m hpos hk (hmap.head hpos)] at hfirst
      refine ⟨1 + k', got', by omega, by omega, ?_, ?_⟩
      · rw [hgot, List.reverse_cons, List.flatten_append, List.flatten_singleton, List.append_assoc, ← memBytes_add,
          Nat.add_sub_cancel' (by omega)]
      · rw [show a + n = a + k + (n - k) by omega]
        exact hfirst.trans hreach

/-- A mapped write of a piece puts its bytes into memory, and counts them. -/
theorem act_writes (m : List Host.Cell) {a pa count : Nat} {bs : List Byte} {rest : List EngPiece}
    (hloc : s.engineLoc c.ctx a false true = .ok ⟨pa, false⟩) (hlight : s.sweepWeight (pa / 8 * 8) = 0) :
    EngAt.act ⟨withMem s m, writing c (⟨false, a, bs⟩ :: rest) count, true⟩ =
      ⟨withMem s (memPut m pa bs), writing c rest (count + bs.length), true⟩ := by
  have hquiet' : Quiet (withMem s m) := hquiet
  have hweight : (withMem s m).sweepWeight (pa / 8 * 8) = 0 := (sweepWeight_withMem ..).trans hlight
  have hplace : pieceLoc ⟨withMem s m, writing c (⟨false, a, bs⟩ :: rest) count, true⟩ ⟨false, a, bs⟩ = .ok ⟨pa, false⟩ := by
    rw [pieceLoc, if_neg Bool.false_ne_true]
    exact (engineLoc_withMem ..).trans hloc
  have hok : (withMem s m).writeOk c.ctx.w false pa bs.length (takeBytes bs bs.length).1 a = .ok () := by
    rw [State.writeOk, overAt_of_weight_zero hweight]
    rfl
  have hwrite : (withMem s m).write c.ctx.w false pa bs.length (takeBytes bs bs.length).1 = withMem s (memPut m pa bs) := by
    rw [State.write, if_neg Bool.false_ne_true, writeAt_quiet hquiet', ← memWrite_takeBytes]
    rfl
  rw [act_put rfl, put_placed hplace hok, ← hwrite]
  rfl

/-- Writing a mapped range that no law region holds takes a step for each aligned word of 8 bytes that it touches (R276). -/
theorem writes_range (fuel : Nat) : ∀ {bs : List Byte} {a pa : Nat} (count : Nat) (m : List Host.Cell), bs.length ≤ fuel →
    MapsTo s c.ctx a pa bs.length false true → Light s pa bs.length →
    ∃ k, 8 * k ≤ a % 8 + bs.length + 7 ∧ (bs.length = 0 → k = 0) ∧
      Reaches ⟨withMem s m, writing c (piecesOf false a bs fuel) count, true⟩ k
        ⟨withMem s (memPut m pa bs), writing c [] (count + bs.length), true⟩ := by
  induction fuel with
  | zero =>
    intro bs a pa count m hlen _ _
    obtain rfl := List.length_eq_zero_iff.mp (Nat.le_zero.mp hlen)
    exact ⟨0, by omega, fun _ => rfl, .refl _⟩
  | succ fuel ih =>
    intro bs a pa count m hlen hmap hlight
    by_cases hne : bs = []
    · subst hne
      exact ⟨0, by omega, fun _ => rfl, .refl _⟩
    · have hpos := List.length_pos_iff.mpr hne
      obtain ⟨k, hk⟩ : ∃ k, 8 - a % 8 = k := ⟨_, rfl⟩
      have htake : (bs.take k).length = min k bs.length := List.length_take
      have hdrop : (bs.drop k).length = bs.length - k := List.length_drop
      have hpieces := piecesOf_succ (store := false) (a := a) (fuel := fuel) hne
      rw [hk] at hpieces
      have hfirst := Reaches.step (x := ⟨withMem s m, writing c (piecesOf false a bs (fuel + 1)) count, true⟩) rfl
      rw [hpieces, act_writes hquiet m (hmap.head hpos) (hlight 0 hpos)] at hfirst
      rcases Nat.lt_or_ge k bs.length with hlong | hshort
      · obtain ⟨k', hsteps, hnone, hreach⟩ := ih (bs := bs.drop k) (a := a + k) (pa := pa + k) (count + (bs.take k).length)
          (memPut m pa (bs.take k)) (by omega) (hdrop ▸ hmap.part (by omega)) (hdrop ▸ hlight.part (by omega))
        refine ⟨1 + k', by omega, by omega, ?_⟩
        rw [hpieces]
        have hput := memPut_append m pa (bs.take k) (bs.drop k)
        rw [List.take_append_drop, htake, Nat.min_eq_left (by omega)] at hput
        rw [hput, show count + bs.length = count + (bs.take k).length + (bs.drop k).length by omega]
        exact hfirst.trans hreach
      · rw [List.take_of_length_le hshort, List.drop_of_length_le hshort] at hfirst
        refine ⟨1, by omega, by omega, ?_⟩
        rw [hpieces, List.take_of_length_le hshort, List.drop_of_length_le hshort]
        have hnil : piecesOf false (a + k) [] fuel = [] := by cases fuel <;> rfl
        rw [hnil] at hfirst ⊢
        exact hfirst

end
end Sys2Proof.Proofs
end

section
namespace Sys2Proof.Proofs
open Sys2Proof Sys2Proof.Machine Sys2Proof.Safety Sys2Proof.Laws

/-- A step of a plan that leaves the command with its unit. -/
theorem Reaches.plan {x : EngAt} {c : EngCmd} (hon : x.on = true) (hout : x.c.out = []) (hread : x.c.rdLeft = 0)
    (hover : x.c.overlaps = none) (hplan : x.c.plan x.s.boot.device.toNat x.s.free = c) :
    Reaches x 1 ⟨x.s, c, decide (c.stage = 1)⟩ := by
  subst hplan
  exact act_plan_only hout hread hover ▸ Reaches.step hon

/-- A command that has come to its end is no longer with its unit. -/
theorem over_stage_ne_one (c : EngCmd) : c.over.stage ≠ 1 := by
  change (if c.bar = 0 then 3 else 2) ≠ 1
  split <;> decide

/-- An event of a unit whose command comes to its end. -/
theorem exec_ends {s : State} {c : EngCmd} {rest : List EngCmd} {cls k n : Nat} {ev : Instr} {mine : Bool} {plan : EngCmd → EngCmd}
    {y : EngAt} (hmem : (ev, cls, mine, plan) ∈ unitEvents s c k) (hqueue : s.engineQueue cls k = c :: rest) (hmine : mine = true)
    (hwalk : c.walk = none) (hasync : s.async = false) (hreach : Reaches ⟨s, { c with begun := true }, true⟩ n y) (hoff : y.on = false)
    (hfuel : n ≤ 2 ^ 48) : exec ev s = .next (y.s.modCmd c.num fun _ => y.c) := by
  obtain ⟨pick, hexec, hpick⟩ := exec_unit hmem
  have hall : s.engFuel = 2 ^ 48 := if_neg (ne_true_of_eq_false hasync)
  rw [hexec, runHead_runs hqueue (hpick.trans hmine) hwalk, hall, hreach.run_ends hoff hfuel]

/-! ### COPY_PLAIN without overlap (O41) -/

section
variable {c : EngCmd} (hover : c.overlaps = none) (dev free : Nat)
include hover

theorem planPlain_over (hphase : c.phase = 0) (hpos : c.len ≤ c.pos) : planPlain dev free c = c.over := by
  simp only [planPlain, hover, hphase, if_pos hpos]

/-- The next piece of a copy to memory ends at a multiple of 8 of the destination, or with the copy (R276). -/
theorem planPlain_read (hkind : c.kind = 1) (hphase : c.phase = 0) (hpos : c.pos < c.len) : planPlain dev free c =
    c.read 1 (c.src + c.pos) (min (8 - (wordAt c.desc 1 + c.pos) % 8) (c.len - c.pos)) := by
  have htarget : c.target dev = .memory (wordAt c.desc 1) := if_pos hkind
  simp only [planPlain, hover, hphase, if_neg (Nat.not_le.mpr hpos), htarget, Target.pieceAt]

theorem planPlain_write (hkind : c.kind = 1) (hphase : c.phase = 1) : planPlain dev free c =
    { c with pos := c.pos + c.bytes.length }.write 0 (memPieces (wordAt c.desc 1 + c.pos) c.bytes) := by
  have htarget : c.target dev = .memory (wordAt c.desc 1) := if_pos hkind
  simp only [planPlain, hover, hphase, htarget, Target.pieces]

end

/-- A plain copy from memory to memory, at the head of its engine's queue: both ranges are mapped and apart. -/
structure Copying (s : State) (c : EngCmd) (ps pd : Nat) : Prop where
  kind : c.kind = 1
  plain : c.var = .plain
  stage : c.stage = 1
  quiet : Quiet s
  canonical : memWf s.mem = true
  source : MapsTo s c.ctx c.src ps c.len true false
  target : MapsTo s c.ctx (wordAt c.desc 1) pd c.len false true
  apartVirtual : c.src + c.len ≤ wordAt c.desc 1 ∨ wordAt c.desc 1 + c.len ≤ c.src
  apart : ps + c.len ≤ pd ∨ pd + c.len ≤ ps
  light : Light s pd c.len

/-- A copy between two pieces, `pos` bytes of it made. -/
def copyCmd (c : EngCmd) (pos at' : Nat) (got : List (List Byte)) : EngCmd :=
  { c with begun := true, phase := 0, pos := pos, w2 := pos, rdAt := at', rdLeft := 0, got := got, out := [] }

/-- The machine then, with the command. -/
def copied (s : State) (c : EngCmd) (ps pd pos at' : Nat) (got : List (List Byte)) : EngAt :=
  ⟨withMem s (memPut s.mem pd (memBytes s.mem ps pos)), copyCmd c pos at' got, true⟩

section
variable {s : State} {c : EngCmd} {ps pd : Nat} (h : Copying s c ps pd)
include h

theorem copying_overlaps : c.overlaps = none := by
  have hapart := h.apartVirtual
  exact if_neg fun ⟨_, hlow, hhigh⟩ => by omega

theorem copying_plan {c' : EngCmd} (hkind : c'.kind = c.kind) (hvar : c'.var = c.var) (dev free : Nat) :
    c'.plan dev free = planPlain dev free c' := by
  have hle : c'.kind ≤ 2 := by rw [hkind, h.kind]; decide
  obtain ⟨hplain, -⟩ := plan_copy hle dev free
  exact hplain (hvar.trans h.plain)

/-- A piece of at most 8 bytes is copied in at most five steps. -/
theorem copy_piece {pos : Nat} (hpos : pos < c.len) (at' : Nat) (got : List (List Byte)) {n : Nat}
    (hn : min (8 - (wordAt c.desc 1 + pos) % 8) (c.len - pos) = n) :
    ∃ k, k ≤ 5 ∧ Reaches (copied s c ps pd pos at' got) k (copied s c ps pd (pos + n) (c.src + pos + n) []) := by
  have hover := copying_overlaps h
  have hapart := h.apart
  -- the read is planned
  have hplan : (copyCmd c pos at' got).plan s.boot.device.toNat s.free =
      reading { copyCmd c pos at' got with phase := 1 } (c.src + pos) n [] := by
    rw [copying_plan h (c' := copyCmd c pos at' got) rfl rfl, planPlain_read (c := copyCmd c pos at' got) hover _ _ h.kind rfl hpos, ← hn]
    rfl
  have hfirst := Reaches.plan (x := copied s c ps pd pos at' got) rfl rfl rfl hover hplan
  rw [decide_eq_true (show (reading { copyCmd c pos at' got with phase := 1 } (c.src + pos) n []).stage = 1 from h.stage)] at hfirst
  -- the read is made
  obtain ⟨k, got', hk, -, hgot, hread⟩ := reads_range (c := { copyCmd c pos at' got with phase := 1 }) h.quiet rfl
    (memPut s.mem pd (memBytes s.mem ps pos)) n [] (h.source.part (o := pos) (k := n) (by omega))
  have hbytes : got'.reverse.flatten = memBytes s.mem (ps + pos) n := by
    rw [hgot, memBytes_memPut h.canonical (by rw [memBytes_length]; omega)]
    rfl
  have hlength := memBytes_length s.mem (ps + pos) n
  -- the write is planned
  have hplan' : (reading { copyCmd c pos at' got with phase := 1 } (c.src + pos + n) 0 got').plan s.boot.device.toNat s.free =
      writing (copyCmd c (pos + n) (c.src + pos + n) []) (piecesOf false (wordAt c.desc 1 + pos) (memBytes s.mem (ps + pos) n) n) pos := by
    rw [copying_plan h (c' := reading { copyCmd c pos at' got with phase := 1 } (c.src + pos + n) 0 got') rfl rfl,
      planPlain_write (c := reading { copyCmd c pos at' got with phase := 1 } (c.src + pos + n) 0 got') hover _ _
      h.kind rfl, show EngCmd.bytes (reading { copyCmd c pos at' got with phase := 1 } (c.src + pos + n) 0 got') = _ from hbytes,
      memPieces, hlength]
    rfl
  have hthird := Reaches.plan (x := ⟨withMem s (memPut s.mem pd (memBytes s.mem ps pos)),
    reading { copyCmd c pos at' got with phase := 1 } (c.src + pos + n) 0 got', true⟩) rfl rfl rfl hover hplan'
  rw [decide_eq_true (show (writing (copyCmd c (pos + n) (c.src + pos + n) []) (piecesOf false (wordAt c.desc 1 + pos)
    (memBytes s.mem (ps + pos) n) n) pos).stage = 1 from h.stage)] at hthird
  -- the write is made
  obtain ⟨k', hk', -, hwrite⟩ := writes_range (c := copyCmd c (pos + n) (c.src + pos + n) []) h.quiet n pos
    (memPut s.mem pd (memBytes s.mem ps pos)) hlength.le (hlength.symm ▸ h.target.part (o := pos) (k := n) (by omega))
    (hlength.symm ▸ h.light.part (o := pos) (k := n) (by omega))
  have hput := memPut_append s.mem pd (memBytes s.mem ps pos) (memBytes s.mem (ps + pos) n)
  rw [← memBytes_add, memBytes_length] at hput
  rw [← hput, hlength] at hwrite
  exact ⟨1 + (k + (1 + k')), by omega, hfirst.trans (hread.trans (hthird.trans hwrite))⟩

/-- The rest of a copy takes at most five steps for each aligned word of 8 bytes of the destination that it touches. -/
theorem copy_rest (left : Nat) : ∀ (pos at' : Nat) (got : List (List Byte)), pos + left = c.len →
    ∃ k at'' got', 8 * k ≤ 5 * ((wordAt c.desc 1 + pos) % 8 + left + 7) ∧ (left = 0 → k = 0) ∧
      Reaches (copied s c ps pd pos at' got) k (copied s c ps pd c.len at'' got') := by
  induction left using Nat.strong_induction_on with
  | _ left ih =>
    intro pos at' got hlen
    rcases Nat.eq_zero_or_pos left with rfl | hleft
    · rw [Nat.add_zero] at hlen
      subst hlen
      exact ⟨0, at', got, by omega, fun _ => rfl, .refl _⟩
    · obtain ⟨n, hn⟩ : ∃ n, min (8 - (wordAt c.desc 1 + pos) % 8) (c.len - pos) = n := ⟨_, rfl⟩
      obtain ⟨k, hk, hpiece⟩ := copy_piece h (by omega) at' got hn
      obtain ⟨k', at'', got', hk', hnone, hrest⟩ := ih (left - n) (by omega) (pos + n) (c.src + pos + n) [] (by omega)
      exact ⟨k + k', at'', got', by omega, by omega, hpiece.trans hrest⟩

/-- R197: the end of the copy. -/
theorem copy_ends (hphase : c.phase = 0) (hpos : c.pos = 0) (hread : c.rdLeft = 0) (hout : c.out = []) (hcount : c.w2 = 0) :
    ∃ n at' got, n ≤ 2 ^ 48 ∧ Reaches ⟨s, { c with begun := true }, true⟩ n
      ⟨withMem s (memPut s.mem pd (memBytes s.mem ps c.len)), (copyCmd c c.len at' got).over, false⟩ := by
  have hover := copying_overlaps h
  obtain ⟨k, at', got, hk, -, hrest⟩ := copy_rest h c.len 0 c.rdAt c.got (Nat.zero_add _)
  have hstart : copied s c ps pd 0 c.rdAt c.got = ⟨s, { c with begun := true }, true⟩ := by
    have hcmd : copyCmd c 0 c.rdAt c.got = { c with begun := true } := by simp only [copyCmd, hphase, hpos, hread, hout, hcount]
    rw [copied, hcmd]
    rfl
  have hplan : (copyCmd c c.len at' got).plan s.boot.device.toNat s.free = (copyCmd c c.len at' got).over := by
    rw [copying_plan h (c' := copyCmd c c.len at' got) rfl rfl, planPlain_over (c := copyCmd c c.len at' got) hover _ _ rfl le_rfl]
  have hlast := Reaches.plan (x := copied s c ps pd c.len at' got) rfl rfl rfl hover hplan
  rw [decide_eq_false (over_stage_ne_one _)] at hlast
  have hlen : c.len < 2 ^ 48 := Nat.mod_lt _ (by decide)
  rw [hstart] at hrest
  exact ⟨k + 1, at', got, by omega, hrest.trans hlast⟩

end
end Sys2Proof.Proofs
end

section
namespace Sys2Proof.Proofs
open Sys2Proof Sys2Proof.Machine Sys2Proof.Safety Sys2Proof.Laws

/-! ### GATHER (O41) -/

/-- The bytes of a gather's rows. -/
def rowSize (c : EngCmd) : Nat := 64 * (bitsOf (wordAt c.desc 2) 31 24 + 1)

/-- The number of a gather's indexes. -/
def rowCount (c : EngCmd) : Nat := bitsOf (wordAt c.desc 2) 23 0

/-- The number of the rows of a gather's table. -/
def tableRows (c : EngCmd) : Nat := bitsOf (wordAt c.desc 2) 63 32

/-- The index that stands at a place of the source. -/
def indexAt (s : State) (ps i : Nat) : Nat := memRead s.mem (ps + 4 * i) 4

theorem rowSize_le (c : EngCmd) : rowSize c ≤ 16384 := by
  have hlow : bitsOf (wordAt c.desc 2) 31 24 < 2 ^ 8 := Nat.mod_lt _ (by decide)
  rw [rowSize]
  omega

theorem rowCount_lt (c : EngCmd) : rowCount c < 2 ^ 24 := Nat.mod_lt _ (by decide)

section
variable (c : EngCmd)

theorem planGather_over (hphase : c.phase = 0) (hpos : rowCount c ≤ c.pos) : planGather c = c.over := by
  rw [rowCount] at hpos
  simp only [planGather, hphase, if_pos hpos]

theorem planGather_index (hphase : c.phase = 0) (hpos : c.pos < rowCount c) : planGather c = c.read 1 (c.src + 4 * c.pos) 4 := by
  rw [rowCount] at hpos
  simp only [planGather, hphase, if_neg (Nat.not_le.mpr hpos)]

theorem planGather_zeros (hphase : c.phase = 1) (hmiss : tableRows c ≤ (takeBytes c.bytes 4).1) : planGather c =
    { c.flag 3 with w3 := c.w3 + 1, pos := c.pos + 1 }.write 0
      (memPieces (wordAt c.desc 3 + c.pos * rowSize c) (List.replicate (rowSize c) 0)) := by
  rw [tableRows] at hmiss
  simp only [planGather, hphase, if_pos hmiss, rowSize]

theorem planGather_row (hphase : c.phase = 1) (hhit : (takeBytes c.bytes 4).1 < tableRows c) : planGather c =
    c.read 2 (wordAt c.desc 1 + (takeBytes c.bytes 4).1 * rowSize c) (rowSize c) := by
  rw [tableRows] at hhit
  simp only [planGather, hphase, if_neg (Nat.not_le.mpr hhit), rowSize]

theorem planGather_copy (hphase : c.phase = 2) : planGather c =
    { c with pos := c.pos + 1 }.write 0 (memPieces (wordAt c.desc 3 + c.pos * rowSize c) c.bytes) := by
  simp only [planGather, hphase, rowSize]

end

/-- A gather at the head of its unit's queue: its source, the rows that it names and its destination are mapped and apart. -/
structure Gathering (s : State) (c : EngCmd) (ps pd pt : Nat) : Prop where
  kind : c.kind = 3
  stage : c.stage = 1
  quiet : Quiet s
  canonical : memWf s.mem = true
  source : MapsTo s c.ctx c.src ps (4 * rowCount c) true false
  table : ∀ i, i < rowCount c → indexAt s ps i < tableRows c →
    MapsTo s c.ctx (wordAt c.desc 1 + indexAt s ps i * rowSize c) (pt + indexAt s ps i * rowSize c) (rowSize c) true false
  target : MapsTo s c.ctx (wordAt c.desc 3) pd (rowCount c * rowSize c) false true
  apartSource : ps + 4 * rowCount c ≤ pd ∨ pd + rowCount c * rowSize c ≤ ps
  apartTable : pt + tableRows c * rowSize c ≤ pd ∨ pd + rowCount c * rowSize c ≤ pt
  light : Light s pd (rowCount c * rowSize c)

/-- The row that an index leaves: the table's, or zeros when it is out of range. -/
def gatherRow (s : State) (c : EngCmd) (ps pt i : Nat) : List Byte :=
  if tableRows c ≤ indexAt s ps i then List.replicate (rowSize c) 0 else memBytes s.mem (pt + indexAt s ps i * rowSize c) (rowSize c)

/-- The rows of the first indexes, one after another. -/
def gatherRows (s : State) (c : EngCmd) (ps pt : Nat) : Nat → List Byte
  | 0 => []
  | n + 1 => gatherRows s c ps pt n ++ gatherRow s c ps pt n

/-- How many of the first indexes are out of range. -/
def misses (s : State) (c : EngCmd) (ps n : Nat) : Nat := ((List.range n).filter fun i => decide (tableRows c ≤ indexAt s ps i)).length

section
variable (s : State) (c : EngCmd) (ps : Nat)

theorem misses_succ_hit {i : Nat} (h : indexAt s ps i < tableRows c) : misses s c ps (i + 1) = misses s c ps i := by
  rw [misses, List.range_succ, List.filter_append, List.length_append, List.filter_singleton,
    decide_eq_false (Nat.not_le.mpr h)]
  rfl

theorem misses_succ_miss {i : Nat} (h : tableRows c ≤ indexAt s ps i) : misses s c ps (i + 1) = misses s c ps i + 1 := by
  rw [misses, List.range_succ, List.filter_append, List.length_append, List.filter_singleton, decide_eq_true h]
  rfl

end

/-- A gather between two indexes, `i` of them done. -/
def gatherCmd (s : State) (c : EngCmd) (ps i at' : Nat) (got : List (List Byte)) : EngCmd :=
  { c with
    begun := true, phase := 0, pos := i, w2 := i * rowSize c, w3 := misses s c ps i
    status := if misses s c ps i = 0 then 0 else 8
    rdAt := at', rdLeft := 0, got := got, out := [] }

/-- What an index in range changes in a gather's command. -/
theorem gatherCmd_succ_hit {s : State} {c : EngCmd} {ps i : Nat} (h : indexAt s ps i < tableRows c) (a : Nat) (at' : Nat)
    (got got' : List (List Byte)) : gatherCmd s c ps (i + 1) a got' =
      { gatherCmd s c ps i at' got with pos := i + 1, w2 := (i + 1) * rowSize c, rdAt := a, got := got' } := by
  rw [gatherCmd, misses_succ_hit s c ps h]
  rfl

/-- What an index out of range changes in a gather's command. -/
theorem gatherCmd_succ_miss {s : State} {c : EngCmd} {ps i : Nat} (h : tableRows c ≤ indexAt s ps i) (a : Nat) (at' : Nat)
    (got got' : List (List Byte)) : gatherCmd s c ps (i + 1) a got' =
      { gatherCmd s c ps i at' got with
        pos := i + 1, w2 := (i + 1) * rowSize c, w3 := misses s c ps i + 1, status := 8, rdAt := a, got := got' } := by
  rw [gatherCmd, misses_succ_miss s c ps h, if_neg (Nat.succ_ne_zero _)]
  rfl

/-- A gather that has read the index at its place. -/
def indexCmd (s : State) (c : EngCmd) (ps i at' : Nat) (got got' : List (List Byte)) : EngCmd :=
  reading { gatherCmd s c ps i at' got with phase := 1 } (c.src + 4 * i + 4) 0 got'

/-- The memory between two indexes. -/
def gatherMem (s : State) (c : EngCmd) (ps pd pt i : Nat) : List Host.Cell := memPut s.mem pd (gatherRows s c ps pt i)

/-- The machine then, with the gather. -/
def gathered (s : State) (c : EngCmd) (ps pd pt i at' : Nat) (got : List (List Byte)) : EngAt :=
  ⟨withMem s (gatherMem s c ps pd pt i), gatherCmd s c ps i at' got, true⟩

section
variable (s : State) (c : EngCmd) (ps pd pt : Nat)

theorem gatherRow_length (i : Nat) : (gatherRow s c ps pt i).length = rowSize c := by
  rw [gatherRow]
  split
  · exact List.length_replicate
  · exact memBytes_length ..

theorem gatherRows_length (n : Nat) : (gatherRows s c ps pt n).length = n * rowSize c := by
  induction n with
  | zero => rw [Nat.zero_mul]; rfl
  | succ n ih => rw [gatherRows, List.length_append, ih, gatherRow_length, Nat.succ_mul]

/-- The byte of a row stands at its place among all of them. -/
theorem gatherRows_getD {n i j : Nat} (hi : i < n) (hj : j < rowSize c) :
    (gatherRows s c ps pt n).getD (i * rowSize c + j) 0 = (gatherRow s c ps pt i).getD j 0 := by
  induction n with
  | zero => cases hi
  | succ n ih =>
    rw [gatherRows]
    rcases Nat.lt_succ_iff_lt_or_eq.mp hi with hlt | rfl
    · have hmul : (i + 1) * rowSize c ≤ n * rowSize c := Nat.mul_le_mul_right _ hlt
      rw [Nat.succ_mul] at hmul
      rw [List.getD_append _ _ _ _ (by rw [gatherRows_length]; omega), ih hlt]
    · rw [List.getD_append_right _ _ _ _ (by rw [gatherRows_length]; omega), gatherRows_length, Nat.add_sub_cancel_left]

theorem gatherMem_succ (i : Nat) :
    gatherMem s c ps pd pt (i + 1) = memPut (gatherMem s c ps pd pt i) (pd + i * rowSize c) (gatherRow s c ps pt i) := by
  rw [gatherMem, gatherRows, memPut_append, gatherRows_length, gatherMem]

end

/-- Bit 3 of a status that holds it alone, or nothing. -/
theorem flag_miss (c : EngCmd) (n : Nat) (h : c.status = if n = 0 then 0 else 8) : c.flag 3 = { c with status := 8 } := by
  rw [EngCmd.flag]
  by_cases hn : n = 0
  · rw [if_pos hn] at h
    rw [h]
    rfl
  · rw [if_neg hn] at h
    rw [h]
    cases c
    cases h
    rfl

section
variable {s : State} {c : EngCmd} {ps pd pt : Nat} (h : Gathering s c ps pd pt)
include h

theorem gathering_overlaps {c' : EngCmd} (hkind : c'.kind = c.kind) : c'.overlaps = none :=
  if_neg fun ⟨hone, _⟩ => by rw [hkind, h.kind] at hone; cases hone

/-- A step of a gather's plan that leaves it with its unit. -/
theorem gathering_step {m : List Host.Cell} {c' c'' : EngCmd} (hkind : c'.kind = c.kind) (hout : c'.out = []) (hread : c'.rdLeft = 0)
    (hplan : planGather c' = c'') (hstage : c''.stage = c.stage) : Reaches ⟨withMem s m, c', true⟩ 1 ⟨withMem s m, c'', true⟩ := by
  have hstep := Reaches.plan (x := ⟨withMem s m, c', true⟩) rfl hout hread (gathering_overlaps h hkind)
    ((plan_gather (hkind.trans h.kind) _ _).trans hplan)
  rwa [decide_eq_true (hstage.trans h.stage)] at hstep

/-- What the destination does not hold is read as at the start. -/
theorem gatherMem_apart {a n : Nat} (i : Nat) (hi : i ≤ rowCount c) (hapart : a + n ≤ pd ∨ pd + rowCount c * rowSize c ≤ a) :
    memBytes (gatherMem s c ps pd pt i) a n = memBytes s.mem a n := by
  have hmul : i * rowSize c ≤ rowCount c * rowSize c := Nat.mul_le_mul_right _ hi
  exact memBytes_memPut h.canonical (by rw [gatherRows_length]; omega)

/-- The index is read in at most three steps. -/
theorem gather_index {i : Nat} (hi : i < rowCount c) (at' : Nat) (got : List (List Byte)) :
    ∃ k got', k ≤ 3 ∧ got'.reverse.flatten = memBytes s.mem (ps + 4 * i) 4 ∧
      Reaches (gathered s c ps pd pt i at' got) k ⟨withMem s (gatherMem s c ps pd pt i),
        indexCmd s c ps i at' got got', true⟩ := by
  have hfirst := gathering_step h (m := gatherMem s c ps pd pt i) (c' := gatherCmd s c ps i at' got) rfl rfl rfl
    (planGather_index (gatherCmd s c ps i at' got) rfl hi) rfl
  obtain ⟨k, got', hk, -, hgot, hread⟩ := reads_range (c := { gatherCmd s c ps i at' got with phase := 1 }) h.quiet rfl
    (gatherMem s c ps pd pt i) 4 [] (h.source.part (o := 4 * i) (k := 4) (by omega))
  have hapart := h.apartSource
  rw [gatherMem_apart h i hi.le (by omega)] at hgot
  exact ⟨1 + k, got', by omega, hgot, hfirst.trans hread⟩

/-- A row is written in at most as many steps as it has bytes, and one. -/
theorem gather_write {i : Nat} (hi : i < rowCount c) {c' : EngCmd} (hctx : c'.ctx = c.ctx) :
    ∃ k, k ≤ 2050 ∧ Reaches ⟨withMem s (gatherMem s c ps pd pt i), writing c' (memPieces (wordAt c.desc 3 + i * rowSize c)
        (gatherRow s c ps pt i)) (i * rowSize c), true⟩ k
      ⟨withMem s (gatherMem s c ps pd pt (i + 1)), writing c' [] ((i + 1) * rowSize c), true⟩ := by
  have hlength := gatherRow_length s c ps pt i
  have hsize := rowSize_le c
  have hmul : (i + 1) * rowSize c ≤ rowCount c * rowSize c := Nat.mul_le_mul_right _ hi
  rw [Nat.succ_mul] at hmul
  obtain ⟨k, hk, -, hwrite⟩ := writes_range (c := c') h.quiet (rowSize c) (i * rowSize c) (gatherMem s c ps pd pt i) hlength.le
    (by rw [hlength, hctx]; exact h.target.part (by omega)) (by rw [hlength]; exact h.light.part (by omega))
  rw [← gatherMem_succ, hlength, ← Nat.succ_mul] at hwrite
  rw [memPieces, hlength]
  exact ⟨k, by omega, hwrite⟩

/-- An index out of range leaves zeros, and counts. -/
theorem gather_miss {i : Nat} (hi : i < rowCount c) (hmiss : tableRows c ≤ indexAt s ps i) (at' : Nat) (got : List (List Byte)) :
    ∃ k at'' got', k ≤ 8192 ∧ Reaches (gathered s c ps pd pt i at' got) k (gathered s c ps pd pt (i + 1) at'' got') := by
  obtain ⟨k, got', hk, hgot, hindex⟩ := gather_index h hi at' got
  obtain ⟨k', hk', hwrite⟩ := gather_write h hi (c' := gatherCmd s c ps (i + 1) (c.src + 4 * i + 4) []) rfl
  have hread : (takeBytes (EngCmd.bytes (indexCmd s c ps i at' got got')) 4).1 =
      indexAt s ps i := by
    rw [show EngCmd.bytes (indexCmd s c ps i at' got got') = _ from hgot,
      takeBytes_memBytes, indexAt]
  have hplan : planGather (indexCmd s c ps i at' got got') =
      writing (gatherCmd s c ps (i + 1) (c.src + 4 * i + 4) []) (memPieces (wordAt c.desc 3 + i * rowSize c)
        (gatherRow s c ps pt i)) (i * rowSize c) := by
    rw [planGather_zeros (indexCmd s c ps i at' got got') rfl (le_of_le_of_eq hmiss hread.symm),
      flag_miss (indexCmd s c ps i at' got got') (misses s c ps i) rfl, gatherRow, if_pos hmiss]
    rw [gatherCmd_succ_miss hmiss _ at' got]
    rfl
  have hstep := gathering_step h (m := gatherMem s c ps pd pt i) (c' := indexCmd s c ps i at' got got') rfl rfl rfl hplan rfl
  exact ⟨k + (1 + k'), _, _, by omega, hindex.trans (hstep.trans hwrite)⟩

/-- An index in range leaves its row of the table. -/
theorem gather_hit {i : Nat} (hi : i < rowCount c) (hhit : indexAt s ps i < tableRows c) (at' : Nat) (got : List (List Byte)) :
    ∃ k at'' got', k ≤ 8192 ∧ Reaches (gathered s c ps pd pt i at' got) k (gathered s c ps pd pt (i + 1) at'' got') := by
  obtain ⟨k, got', hk, hgot, hindex⟩ := gather_index h hi at' got
  have hbytes : (takeBytes (EngCmd.bytes (indexCmd s c ps i at' got got')) 4).1 =
      indexAt s ps i := by
    rw [show EngCmd.bytes (indexCmd s c ps i at' got got') = _ from hgot,
      takeBytes_memBytes, indexAt]
  -- the row is read
  obtain ⟨a, ha⟩ : ∃ a, wordAt c.desc 1 + indexAt s ps i * rowSize c = a := ⟨_, rfl⟩
  have hplan : planGather (indexCmd s c ps i at' got got') =
      reading { gatherCmd s c ps i at' got with phase := 2 } a (rowSize c) [] := by
    rw [planGather_row (indexCmd s c ps i at' got got') rfl (lt_of_eq_of_lt hbytes hhit), hbytes, ← ha]
    rfl
  have hsecond := gathering_step h (m := gatherMem s c ps pd pt i) (c' := indexCmd s c ps i at' got got') rfl rfl rfl hplan rfl
  obtain ⟨k₂, row, hk₂, -, hrow, hread⟩ := reads_range (c := { gatherCmd s c ps i at' got with phase := 2 }) h.quiet rfl
    (gatherMem s c ps pd pt i) (rowSize c) [] (ha ▸ h.table i hi hhit)
  have hmul : (indexAt s ps i + 1) * rowSize c ≤ tableRows c * rowSize c := Nat.mul_le_mul_right _ hhit
  rw [Nat.succ_mul] at hmul
  have hapart := h.apartTable
  rw [gatherMem_apart h i hi.le (by omega)] at hrow
  -- the row is written
  have hplan' : planGather (reading { gatherCmd s c ps i at' got with phase := 2 } (a + rowSize c) 0 row) =
      writing (gatherCmd s c ps (i + 1) (a + rowSize c) []) (memPieces (wordAt c.desc 3 + i * rowSize c)
        (gatherRow s c ps pt i)) (i * rowSize c) := by
    rw [planGather_copy (reading { gatherCmd s c ps i at' got with phase := 2 } (a + rowSize c) 0 row) rfl,
      show EngCmd.bytes (reading { gatherCmd s c ps i at' got with phase := 2 } (a + rowSize c) 0 row) = _
      from hrow, gatherRow, if_neg (Nat.not_le.mpr hhit)]
    rw [gatherCmd_succ_hit hhit _ at' got]
    rfl
  have hfourth := gathering_step h (m := gatherMem s c ps pd pt i)
    (c' := reading { gatherCmd s c ps i at' got with phase := 2 } (a + rowSize c) 0 row) rfl rfl rfl hplan' rfl
  obtain ⟨k', hk', hwrite⟩ := gather_write h hi (c' := gatherCmd s c ps (i + 1) (a + rowSize c) []) rfl
  have hsize := rowSize_le c
  exact ⟨k + (1 + (k₂ + (1 + k'))), _, _, by omega, hindex.trans (hsecond.trans (hread.trans (hfourth.trans hwrite)))⟩

/-- The first indexes take at most 8,192 steps each. -/
theorem gather_rows (n : Nat) (hn : n ≤ rowCount c) (at' : Nat) (got : List (List Byte)) : ∃ k at'' got', k ≤ 8192 * n ∧
    Reaches (gathered s c ps pd pt 0 at' got) k (gathered s c ps pd pt n at'' got') := by
  induction n with
  | zero => exact ⟨0, at', got, le_rfl, .refl _⟩
  | succ n ih =>
    obtain ⟨k, at₁, got₁, hk, hfirst⟩ := ih (by omega)
    obtain ⟨k', at₂, got₂, hk', hlast⟩ : ∃ k at'' got', k ≤ 8192 ∧
        Reaches (gathered s c ps pd pt n at₁ got₁) k (gathered s c ps pd pt (n + 1) at'' got') := by
      rcases Nat.lt_or_ge (indexAt s ps n) (tableRows c) with hhit | hmiss
      · exact gather_hit h hn hhit at₁ got₁
      · exact gather_miss h hn hmiss at₁ got₁
    exact ⟨k + k', at₂, got₂, by omega, hfirst.trans hlast⟩

/-- R201: the end of the gather. -/
theorem gather_ends (hphase : c.phase = 0) (hpos : c.pos = 0) (hread : c.rdLeft = 0) (hout : c.out = []) (hw2 : c.w2 = 0)
    (hw3 : c.w3 = 0) (hstatus : c.status = 0) :
    ∃ n at' got, n ≤ 2 ^ 48 ∧ Reaches ⟨s, { c with begun := true }, true⟩ n
      ⟨withMem s (gatherMem s c ps pd pt (rowCount c)), (gatherCmd s c ps (rowCount c) at' got).over, false⟩ := by
  obtain ⟨k, at', got, hk, hrest⟩ := gather_rows h (rowCount c) le_rfl c.rdAt c.got
  have hstart : gathered s c ps pd pt 0 c.rdAt c.got = ⟨s, { c with begun := true }, true⟩ := by
    have hcmd : gatherCmd s c ps 0 c.rdAt c.got = { c with begun := true } := by
      simp only [gatherCmd, Nat.zero_mul, misses, List.range_zero, List.filter_nil, List.length_nil, if_true, hphase, hpos, hread,
        hout, hw2, hw3, hstatus]
    rw [gathered, hcmd]
    rfl
  have hlast := Reaches.plan (x := gathered s c ps pd pt (rowCount c) at' got) rfl rfl rfl (gathering_overlaps h rfl)
    ((plan_gather (c := gatherCmd s c ps (rowCount c) at' got) h.kind _ _).trans (planGather_over _ rfl le_rfl))
  rw [decide_eq_false (over_stage_ne_one _)] at hlast
  rw [hstart] at hrest
  have hcount := rowCount_lt c
  exact ⟨k + 1, at', got, by omega, hrest.trans hlast⟩

end
end Sys2Proof.Proofs
end

section
namespace Sys2Proof.Proofs
open Sys2Proof Sys2Proof.Machine Sys2Proof.Safety Sys2Proof.Laws

/-! ### What copies and gathers leave (O41) -/

/-- R197: what a copy leaves in memory. -/
theorem copied_mem {m : List Host.Cell} (h : memWf m = true) (ps pd len : Nat) :
    (∀ j, j < len → memGet (memPut m pd (memBytes m ps len)) (pd + j) = memGet m (ps + j)) ∧
    ∀ a, a < pd ∨ pd + len ≤ a → memGet (memPut m pd (memBytes m ps len)) a = memGet m a := by
  have hlength := memBytes_length m ps len
  refine ⟨fun j hj => ?_, fun a ha => memGet_memPut_outside h (hlength.symm ▸ ha)⟩
  rw [memGet_memPut_inside h pd (hlength.symm ▸ hj), memBytes_getD _ _ _ _ hj]

/-- R201: the byte of a row that a gather leaves. -/
theorem gatherRow_getD (s : State) (c : EngCmd) (ps pt i : Nat) {j : Nat} (hj : j < rowSize c) : (gatherRow s c ps pt i).getD j 0 =
    if indexAt s ps i < tableRows c then memGet s.mem (pt + indexAt s ps i * rowSize c + j) else 0 := by
  rw [gatherRow]
  rcases Nat.lt_or_ge (indexAt s ps i) (tableRows c) with hhit | hmiss
  · rw [if_neg (Nat.not_le.mpr hhit), if_pos hhit, memBytes_getD _ _ _ _ hj]
  · rw [if_pos hmiss, if_neg (Nat.not_lt.mpr hmiss), List.getD_replicate _ hj]

/-- R201: what a gather leaves in memory. -/
theorem gatherMem_get {s : State} (h : memWf s.mem = true) (c : EngCmd) (ps pd pt : Nat) :
    (∀ i j, i < rowCount c → j < rowSize c → memGet (gatherMem s c ps pd pt (rowCount c)) (pd + i * rowSize c + j) =
      if indexAt s ps i < tableRows c then memGet s.mem (pt + indexAt s ps i * rowSize c + j) else 0) ∧
    ∀ a, a < pd ∨ pd + rowCount c * rowSize c ≤ a → memGet (gatherMem s c ps pd pt (rowCount c)) a = memGet s.mem a := by
  have hlength := gatherRows_length s c ps pt (rowCount c)
  refine ⟨fun i j hi hj => ?_, fun a ha => memGet_memPut_outside h (hlength.symm ▸ ha)⟩
  have hmul : (i + 1) * rowSize c ≤ rowCount c * rowSize c := Nat.mul_le_mul_right _ hi
  rw [Nat.succ_mul] at hmul
  rw [gatherMem, Nat.add_assoc, memGet_memPut_inside h pd (by omega), gatherRows_getD s c ps pt hi hj, gatherRow_getD _ _ _ _ _ hj]

/-- Settles O41: a copy and a gather come to their ends within the steps of one event, an entropy code is decoded code by code. -/
theorem copiesAndCodes : Obligations.CopiesAndCodes := by
  unfold Obligations.CopiesAndCodes
  refine ⟨?_, fun ids e experts cap => ?_, fun cs bs bits tail =>
    ⟨unpackBits_packBits bits, fun hfree => decodeBlock_encodeBlock hfree tail bs⟩⟩
  · rintro s c rest k ps pd pt fresh maps apart ends ⟨hwalk, hphase, hpos, hread, hout, hw2, hw3, hstatus⟩ hquiet hwf hasync
    constructor
    · intro dst len hkind hvar hqueue hsource htarget hvirtual hapart hloaded
      have h : Copying s c ps pd := ⟨hkind, hvar, (engineQueue_head hqueue).1, hquiet, hwf, hsource, htarget, hvirtual, hapart,
        .of_unloaded hloaded⟩
      obtain ⟨n, at', got, hn, hreach⟩ := copy_ends h hphase hpos hread hout hw2
      have hexec := exec_ends (ev := .copyPlain k) List.mem_cons_self hqueue (beq_iff_eq.mpr hvar) hwalk hasync hreach rfl hn
      obtain ⟨hinside, houtside⟩ := copied_mem hwf ps pd len
      exact ⟨_, hexec, modCmd_mem fun _ => ⟨rfl, rfl, rfl, hw3, hstatus⟩, hinside, houtside⟩
    · intro count size rows index out hkind _ hqueue hsource htable htarget hapart hapart' hloaded
      have h : Gathering s c ps pd pt := ⟨hkind, (engineQueue_head hqueue).1, hquiet, hwf, hsource, htable, htarget, hapart, hapart',
        .of_unloaded hloaded⟩
      obtain ⟨n, at', got, hn, hreach⟩ := gather_ends h hphase hpos hread hout hw2 hw3 hstatus
      have hexec := exec_ends (ev := .gather k) (cls := 1) (mine := c.kind == 3) (plan := planGather) (by simp [unitEvents])
        hqueue (beq_iff_eq.mpr hkind) hwalk hasync hreach rfl hn
      obtain ⟨hinside, houtside⟩ := gatherMem_get hwf c ps pd pt
      exact ⟨_, hexec, modCmd_mem fun _ => ⟨rfl, rfl, rfl, rfl, rfl⟩, hinside, houtside⟩
  · obtain ⟨hlength, hrising, hfirst⟩ := accepted_first ids e cap
    obtain ⟨hrising', hrest⟩ := dropped_rest ids experts cap
    exact ⟨hlength, hrising, hfirst, hrising', hrest⟩

end Sys2Proof.Proofs
end
